-- ==== Sys2Proof/Word.lean ====
section
/-! DEFINITION. The word types of the LK-9416 and their plainest arithmetic (spec/10 R225, R242; spec/00 R7). -/

namespace Sys2Proof

/-- A 64-bit register value (R225). -/
abbrev Word := BitVec 64

/-- One byte of a home (R7). -/
abbrev Byte := BitVec 8

/-- A register number 0-31 of the x, v, c or m file (R218). -/
abbrev Reg := Fin 32

/-- A handler level 0-3 (R195). -/
abbrev Level := Fin 4

/-- `sext(f)`: a field extended to 64 bits with its top bit (R242). -/
def sext {n : Nat} (f : BitVec n) : Word := f.signExtend 64

/-- `zext(f)`: a field extended to 64 bits with zeros (R242). -/
def zext {n : Nat} (f : BitVec n) : Word := f.zeroExtend 64

/-- A natural number as a word, low 64 bits kept (R14). -/
def word (n : Nat) : Word := BitVec.ofNat 64 n

/-- `trunc(v, 32)` of a register. -/
def lo32 (x : Word) : BitVec 32 := x.setWidth 32

/-- 1 for true and 0 for false. -/
def boolWord (b : Bool) : Word := if b then 1 else 0

end Sys2Proof
end

