-- ==== Sys2Proof/Machine/Float.lean ====
section
/-! DEFINITION. Number formats and rounding: descriptors, element values, exact arithmetic, the rounding function and the stochastic
draw (R269-R281, R297-R302). -/

namespace Sys2Proof.Machine

open Sys2Proof

/-! ### Descriptors (R269, R270) -/

/-- The fields of a format descriptor (R269). -/
structure Descr where
  e : Nat
  m : Nat
  s : Nat
  bias : Nat
  specials : Nat
  scale : Nat
  block : Nat
  container : Nat
  cls : Nat
  layout : Nat
  rsv : Nat
deriving DecidableEq, Repr

/-- The fields of 32 bits (R269). -/
def Descr.ofBits (b : BitVec 32) : Descr :=
  let n := b.toNat
  { e := n % 8, m := n / 2 ^ 3 % 8, s := n / 2 ^ 6 % 2, bias := n / 2 ^ 7 % 128, specials := n / 2 ^ 14 % 4, scale := n / 2 ^ 16 % 4,
    block := n / 2 ^ 18 % 8, container := n / 2 ^ 21 % 8, cls := n / 2 ^ 24 % 16, layout := n / 2 ^ 28 % 4, rsv := n / 2 ^ 30 % 4 }

/-- Container width in bits (R269). -/
def Descr.width (f : Descr) : Nat :=
  if f.container = 0 then 4 else if f.container = 1 then 6 else if f.container = 2 then 8
  else if f.container = 3 then 16 else if f.container = 4 then 32 else 64

/-- The class rule (R270). -/
def Descr.classOk (f : Descr) : Bool :=
  let none' := f.e = 0 && f.m = 0 && f.s = 0
  let plain := none' && f.bias = 0 && f.specials = 0 && f.scale = 0
  if f.cls = 0 then
    f.e ≥ 1 && f.s + f.e + f.m = f.width && f.width ≤ 8 && f.specials ≤ 2 && (f.specials ≠ 1 || f.m ≥ 1)
  else if f.cls = 1 || f.cls = 2 then plain && f.width = 16
  else if f.cls = 3 then plain && f.width = 32
  else if f.cls = 4 then plain && f.width = 64
  else if f.cls = 5 || f.cls = 6 then none' && f.specials = 0 && f.width ≠ 6
  else if f.cls = 7 then plain
  else false

/-- Validity of a descriptor (R270). -/
def Descr.valid (f : Descr) : Bool :=
  f.rsv = 0 && f.specials ≤ 2 && f.scale ≤ 1 && f.block ≤ 4 && f.container ≤ 5 && f.cls ≤ 7 && f.layout ≤ 2 &&
    (decide (f.scale = 1) == decide (f.block ≠ 0)) && f.classOk

/-- The elements of a format: an integer with a binary point, or a float (R271-R273). -/
inductive Elem where
  | int (signed : Bool) (width bias : Nat)
  | float (signed : Bool) (e m bias specials : Nat)
deriving DecidableEq, Repr

/-- BF16, FP16, FP32 and FP64 (R272). -/
def bf16 : Elem := .float true 8 7 127 1
/-- FP16 (R272). -/
def fp16 : Elem := .float true 5 10 15 1
/-- FP32 (R272). -/
def fp32 : Elem := .float true 8 23 127 1
/-- FP64 (R272). -/
def fp64 : Elem := .float true 11 52 1023 1

/-- The element format of a descriptor that is valid and not raw (R270-R273). -/
def Descr.elem (f : Descr) : Elem :=
  if f.cls = 0 then .float (f.s = 1) f.e f.m f.bias f.specials
  else if f.cls = 1 then bf16
  else if f.cls = 2 then fp16
  else if f.cls = 3 then fp32
  else if f.cls = 4 then fp64
  else .int (f.cls = 5) f.width f.bias

/-! ### Values -/

/-- A value: a NaN, an infinity, or (-1)^neg × mant × 2^exp. -/
inductive Num where
  | nan
  | inf (neg : Bool)
  | fin (neg : Bool) (mant : Nat) (exp : Int)
deriving DecidableEq, Repr

/-- The value of element bits (R271-R273). -/
def Elem.value : Elem → Nat → Num
  | .int signed w bias, n =>
    let n := n % 2 ^ w
    if signed && n ≥ 2 ^ (w - 1) then .fin true (2 ^ w - n) (-(bias : Int)) else .fin false n (-(bias : Int))
  | .float signed e m bias specials, n =>
    let neg := signed && n / 2 ^ (e + m) % 2 = 1
    let ex := n / 2 ^ m % 2 ^ e
    let ma := n % 2 ^ m
    if specials = 1 && ex = 2 ^ e - 1 then (if ma = 0 then .inf neg else .nan)
    else if specials = 2 && ex = 2 ^ e - 1 && ma = 2 ^ m - 1 then .nan
    else if ex = 0 then .fin neg ma (1 - (bias : Int) - m)
    else .fin neg (2 ^ m + ma) ((ex : Int) - bias - m)

/-- The sign of a value (R242). -/
def Num.sign : Num → Bool
  | .nan => false
  | .inf n => n
  | .fin n _ _ => n

/-- Negation. -/
def Num.neg : Num → Num
  | .nan => .nan
  | .inf n => .inf (!n)
  | .fin n m e => .fin (!n) m e

/-- The signed integer of a mantissa. -/
def signedMant (neg : Bool) (m : Nat) : Int := if neg then -(m : Int) else m

/-- The exact sum (R297): an exact zero is -0 only when both addends are -0. -/
def Num.add : Num → Num → Num
  | .nan, _ => .nan
  | _, .nan => .nan
  | .inf a, .inf b => if a = b then .inf a else .nan
  | .inf a, .fin _ _ _ => .inf a
  | .fin _ _ _, .inf b => .inf b
  | .fin n m e, .fin n' m' e' =>
    let low := min e e'
    let s := signedMant n (m <<< (e - low).toNat) + signedMant n' (m' <<< (e' - low).toNat)
    if s = 0 then .fin (n && n') 0 low else .fin (decide (s < 0)) s.natAbs low

/-- The exact product, its sign from both operands even when it is zero (R298). -/
def Num.mul : Num → Num → Num
  | .nan, _ => .nan
  | _, .nan => .nan
  | .inf a, .inf b => .inf (a != b)
  | .inf a, .fin n m _ => if m = 0 then .nan else .inf (a != n)
  | .fin n m _, .inf b => if m = 0 then .nan else .inf (n != b)
  | .fin n m e, .fin n' m' e' => .fin (n != n') (m * m') (e + e')

/-- IEEE order of two values that are no NaN: equal, below. -/
def Num.cmp : Num → Num → Option Ordering
  | .nan, _ => none
  | _, .nan => none
  | .inf a, .inf b => some (if a = b then .eq else if a then .lt else .gt)
  | .inf a, .fin _ _ _ => some (if a then .lt else .gt)
  | .fin _ _ _, .inf b => some (if b then .gt else .lt)
  | .fin n m e, .fin n' m' e' =>
    let low := min e e'
    some (compare (signedMant n (m <<< (e - low).toNat)) (signedMant n' (m' <<< (e' - low).toNat)))

/-! ### Rounding (R278, R279) -/

/-- The canonical NaN (R272), or +0 for a format without NaNs (R279). -/
def Elem.canonicalNan : Elem → Nat
  | .int _ _ _ => 0
  | .float _ e m _ specials =>
    if specials = 1 then (2 ^ e - 1) * 2 ^ m + 2 ^ (m - 1) else if specials = 2 then 2 ^ (e + m) - 1 else 0

/-- The largest grid index of the finite magnitudes for a sign (R279). -/
def Elem.maxIndex : Elem → Bool → Nat
  | .int signed w _, neg => if signed then (if neg then 2 ^ (w - 1) else 2 ^ (w - 1) - 1) else (if neg then 0 else 2 ^ w - 1)
  | .float _ e m _ specials, _ =>
    if specials = 1 then (2 ^ e - 1) * 2 ^ m - 1 else if specials = 2 then 2 ^ (e + m) - 2 else 2 ^ (e + m) - 1

/-- The encoding of a grid index with a sign. -/
def Elem.encode : Elem → Bool → Nat → Nat
  | .int _ w _, neg, i => if neg then (2 ^ w - i) % 2 ^ w else i
  | .float signed e m _ _, neg, i => i + (if signed && neg then 2 ^ (e + m) else 0)

/-- `ovf` of R279. -/
def Elem.overflow (f : Elem) (neg tz sat : Bool) : Nat :=
  match f with
  | .int _ _ _ => f.encode neg (f.maxIndex neg)
  | .float _ e m _ specials =>
    if tz || sat || specials = 0 then f.encode neg (f.maxIndex neg)
    else if specials = 2 then f.encode neg (2 ^ (e + m) - 1)
    else f.encode neg ((2 ^ e - 1) * 2 ^ m)

/-- The exponent of the grid step around a magnitude, and the index of the first step there less its count (R279): the index of
`n` steps is `first + n`. -/
def Elem.step (f : Elem) (mant : Nat) (exp : Int) : Int × Nat :=
  match f with
  | .int _ _ bias => (-(bias : Int), 0)
  | .float _ _ m bias _ =>
    let k := max ((mant.log2 : Int) + exp) (1 - (bias : Int))
    (k - m, (k + bias - 1).toNat * 2 ^ m)

/-- Whether the magnitude `lo` steps plus `rem`/2^`sh` of a step goes up (R279). `index`: the grid index of `lo`. -/
def roundsUp (mode : Nat) (neg : Bool) (index rem sh draw : Nat) : Bool :=
  if rem = 0 then false
  else if mode = 0 then 2 * rem > 2 ^ sh || (2 * rem = 2 ^ sh && index % 2 = 1)
  else if mode = 4 then 2 * rem ≥ 2 ^ sh
  else if mode = 1 then false
  else if mode = 2 then neg
  else if mode = 3 then !neg
  else rem * 65536 / 2 ^ sh + draw ≥ 65536

/-- `round(x, f, m)` (R279): mode, saturate flag, and the draw of SR. -/
def Elem.round (f : Elem) (mode : Nat) (sat : Bool) (draw : Nat) (x : Num) : Nat :=
  let unsigned' := match f with
    | .int signed _ _ => !signed
    | .float signed _ _ _ _ => !signed
  match x with
  | .nan => f.canonicalNan
  | .inf neg => if unsigned' && neg then 0 else f.overflow neg false sat
  | .fin neg mant exp =>
    if unsigned' && neg then 0
    else if mant = 0 then f.encode neg 0
    else
      let q := f.step mant exp
      let sh := (q.1 - exp).toNat
      let n := if exp ≥ q.1 then mant <<< (exp - q.1).toNat else mant >>> sh
      let rem := if exp ≥ q.1 then 0 else mant % 2 ^ sh
      let index := q.2 + n
      let y := if roundsUp mode neg index rem sh draw then index + 1 else index
      let tz := mode = 1 || (mode = 2 && !neg) || (mode = 3 && neg)
      if y > f.maxIndex neg then f.overflow neg tz sat else f.encode neg y

/-- Rounding under RNE with the saturate flag 0 (R297). -/
def Elem.nearest (f : Elem) (x : Num) : Nat := f.round 0 false 0 x

/-- The FP32 encoding of a value that FP32 holds exactly (R286). -/
def toFp32 (x : Num) : Nat := fp32.nearest x

/-! ### The stochastic draw (R280) -/

/-- One step of the generator (R280). -/
def drawBit (s : BitVec 64) : BitVec 64 :=
  (s <<< 1) ||| (BitVec.ofBool (s.getLsbD 63 ^^ s.getLsbD 62 ^^ s.getLsbD 60 ^^ s.getLsbD 59)).zeroExtend 64

/-- `n` steps of the generator. -/
def drawSteps : Nat → BitVec 64 → BitVec 64
  | 0, s => s
  | n + 1, s => drawSteps n (drawBit s)

/-- `draw()` (R280): the 16-bit draw and the new state. -/
def draw (s : BitVec 64) : Nat × BitVec 64 :=
  let t := drawSteps 16 s
  (t.toNat % 65536, t)

/-! ### Division, square root, reciprocal and power (R300-R302) -/

/-- The quotient of two mantissas with 120 bits and a last bit that tells a remainder: exact enough for one RNE rounding. -/
def divMant (a b : Nat) : Nat :=
  let n := a <<< 120
  2 * (n / b) + (if n % b = 0 then 0 else 1)

/-- The exact quotient, or a value that rounds as it does under RNE (R300). -/
def Num.div : Num → Num → Num
  | .nan, _ => .nan
  | _, .nan => .nan
  | .inf _, .inf _ => .nan
  | .inf a, .fin n _ _ => .inf (a != n)
  | .fin n _ _, .inf b => .fin (n != b) 0 0
  | .fin n m e, .fin n' m' e' =>
    if m' = 0 then (if m = 0 then .nan else .inf (n != n'))
    else if m = 0 then .fin (n != n') 0 0
    else .fin (n != n') (divMant m m') (e - e' - 121)

/-- The integer square root, bit by bit from bit `k - 1` down. -/
def isqrt (n : Nat) : Nat → Nat → Nat
  | 0, r => r
  | k + 1, r => isqrt n k (if (r + 2 ^ k) * (r + 2 ^ k) ≤ n then r + 2 ^ k else r)

/-- The square root, or a value that rounds as it does under RNE (R300). -/
def Num.sqrt : Num → Num
  | .nan => .nan
  | .inf neg => if neg then .nan else .inf false
  | .fin neg m e =>
    if m = 0 then .fin neg 0 0
    else if neg then .nan
    else
      let odd := e % 2 ≠ 0
      let n := (if odd then 2 * m else m) <<< 140
      let r := isqrt n 110 0
      .fin false (2 * r + (if r * r = n then 0 else 1)) ((if odd then e - 1 else e) / 2 - 71)

/-- 1 ÷ a on the set G of at most 12 significant bits (R301). -/
def rcpFp32 (a : Num) : Nat :=
  match Num.div (.fin false 1 0) a with
  | .nan => fp32.canonicalNan
  | .inf neg => fp32.nearest (.inf neg)
  | .fin neg m e =>
    if m = 0 then fp32.nearest (.fin neg 0 0)
    else
      let q := max ((m.log2 : Int) + e - 11) (-149)
      let sh := (q - e).toNat
      if e ≥ q then fp32.nearest (.fin neg m e)
      else
        let n := m >>> sh
        let rem := m % 2 ^ sh
        fp32.nearest (.fin neg (if roundsUp 0 neg n rem sh 0 then n + 1 else n) q)

/-- ln 2 in units of 2^-160. -/
def ln2Fixed : Nat := 1013035739299659071135698605846798551586536899366

/-- The sum of t^i / i! in units of 2^-160, from term `i` on with that term's value. -/
def expSeries (t : Nat) : Nat → Nat → Nat → Nat
  | 0, _, _ => 0
  | fuel + 1, i, term => term + expSeries t fuel (i + 1) (term * t / 2 ^ 160 / (i + 1))

/-- 2^f for a fraction f in units of 2^-160, in those units. -/
def exp2Fixed (f : Nat) : Nat := expSeries (f * ln2Fixed / 2 ^ 160) 48 0 (2 ^ 160)

/-- 2^a (R302). -/
def exp2Fp32 (a : Num) : Nat :=
  match a with
  | .nan => fp32.canonicalNan
  | .inf neg => if neg then 0 else fp32.nearest (.inf false)
  | .fin neg m e =>
    let x := signedMant neg m
    let whole : Int := if e ≥ 0 then x <<< e.toNat else x / 2 ^ (-e).toNat
    let frac : Nat := if e ≥ 0 then 0 else (x % 2 ^ (-e).toNat).toNat
    if whole ≥ 128 then fp32.nearest (.inf false)
    else if whole < -150 then 0
    else if frac = 0 then fp32.nearest (.fin false 1 whole)
    else
      let f := frac * 2 ^ 160 / 2 ^ (-e).toNat
      fp32.nearest (.fin false (2 * exp2Fixed f + 1) (whole - 161))

end Sys2Proof.Machine
end

