-- ==== Sys2Proof/Syntax.lean ====
section
/-! DEFINITION. The instructions: one constructor per row of the opcode table. The first 244 have an encoding (R215-R222);
the rest are the steps of the part's other agents (spec/95), whose operands say which of the pending things moves. -/

namespace Sys2Proof

/-- A field of a tile's sections 0 to 4 that is no register (R420). -/
inductive ScanField where
  | gang
  | loopPending
  | hold
  | lichen
  | wait
  | halted
  | phase
  | queue (q : Fin 4)
  | exchangeQueue
  | pointers
  | siding
  | releasePath
  | sending
  | asks
  | batches
  | jobs
  | regions (level : Level)
  | barriers
  | grants
  | l1
  | icache
  | remotes
  | writeBacks
  | directory
  | tags
  | levels
  | copies
deriving DecidableEq, Repr

/-- A piece of section 0-4 state that the debug port's scan paths reach (R434, R420). -/
inductive ScanItem where
  /-- Word `i` of a field. -/
  | field (f : ScanField) (i : Nat)
  | pc
  | x (level : Level) (r : Reg)
  | lane (r : Reg) (i : Fin 16)
  | cap (level : Level) (r : Reg) (i : Fin 4)
  | csr (n : BitVec 12)
  | tmem (offset : Nat)
  | latch
  | lanePoison (r : Reg)
  | origin (r : Reg)
  | dispatch (type : BitVec 8)
  | retPc (level : Level)
  | retLevel (level : Level)
  | loopLevel
deriving DecidableEq, Repr

/-- The rows of the opcode table. Register fields are `Reg`, other fields the bits of the word as they stand. -/
inductive Instr where
  /-- R252: Writes the sign-extended 20-bit immediate shifted left by 12 to rd. -/
  | lui (d : Reg) (imm : BitVec 20)
  /-- R251: Writes pc plus the shifted immediate to rd; pc is an offset within the code buffer. -/
  | auipc (d : Reg) (imm : BitVec 20)
  /-- R251: Jumps to pc plus the immediate and writes pc + 4 to rd. -/
  | jal (d : Reg) (imm : BitVec 20)
  /-- R251: Jumps to x[rs1] plus the immediate with bit 0 cleared and writes pc + 4 to rd. -/
  | jalr (d : Reg) (a : Reg) (imm : BitVec 12)
  /-- R252: Branches when the two registers are equal. -/
  | beq (a : Reg) (b : Reg) (imm : BitVec 12)
  /-- R252: Branches when the two registers differ. -/
  | bne (a : Reg) (b : Reg) (imm : BitVec 12)
  /-- R252: Branches when rs1 is less than rs2, signed. -/
  | blt (a : Reg) (b : Reg) (imm : BitVec 12)
  /-- R252: Branches when rs1 is at least rs2, signed. -/
  | bge (a : Reg) (b : Reg) (imm : BitVec 12)
  /-- R252: Branches when rs1 is less than rs2, unsigned. -/
  | bltu (a : Reg) (b : Reg) (imm : BitVec 12)
  /-- R252: Branches when rs1 is at least rs2, unsigned. -/
  | bgeu (a : Reg) (b : Reg) (imm : BitVec 12)
  /-- R257: Loads one sign-extended byte from the private area. -/
  | lb (d : Reg) (a : Reg) (imm : BitVec 12)
  /-- R257: Loads two sign-extended bytes from the private area. -/
  | lh (d : Reg) (a : Reg) (imm : BitVec 12)
  /-- R257: Loads four sign-extended bytes from the private area. -/
  | lw (d : Reg) (a : Reg) (imm : BitVec 12)
  /-- R257: Loads eight bytes from the private area. -/
  | ld (d : Reg) (a : Reg) (imm : BitVec 12)
  /-- R257: Loads one zero-extended byte from the private area. -/
  | lbu (d : Reg) (a : Reg) (imm : BitVec 12)
  /-- R257: Loads two zero-extended bytes from the private area. -/
  | lhu (d : Reg) (a : Reg) (imm : BitVec 12)
  /-- R257: Loads four zero-extended bytes from the private area. -/
  | lwu (d : Reg) (a : Reg) (imm : BitVec 12)
  /-- R257: Stores the low byte of rs2 into the private area. -/
  | sb (a : Reg) (b : Reg) (imm : BitVec 12)
  /-- R257: Stores the low two bytes of rs2 into the private area. -/
  | sh (a : Reg) (b : Reg) (imm : BitVec 12)
  /-- R257: Stores the low four bytes of rs2 into the private area. -/
  | sw (a : Reg) (b : Reg) (imm : BitVec 12)
  /-- R257: Stores eight bytes of rs2 into the private area. -/
  | sd (a : Reg) (b : Reg) (imm : BitVec 12)
  /-- R254: Adds a sign-extended immediate. -/
  | addi (d : Reg) (a : Reg) (imm : BitVec 12)
  /-- R254: Sets rd to 1 when rs1 is below the immediate, signed. -/
  | slti (d : Reg) (a : Reg) (imm : BitVec 12)
  /-- R254: Sets rd to 1 when rs1 is below the immediate, unsigned. -/
  | sltiu (d : Reg) (a : Reg) (imm : BitVec 12)
  /-- R254: Bitwise XOR with an immediate. -/
  | xori (d : Reg) (a : Reg) (imm : BitVec 12)
  /-- R254: Bitwise OR with an immediate. -/
  | ori (d : Reg) (a : Reg) (imm : BitVec 12)
  /-- R254: Bitwise AND with an immediate. -/
  | andi (d : Reg) (a : Reg) (imm : BitVec 12)
  /-- R254: Shifts left by an immediate amount. -/
  | slli (d : Reg) (a : Reg) (h : BitVec 6)
  /-- R254: Shifts right logically by an immediate amount. -/
  | srli (d : Reg) (a : Reg) (h : BitVec 6)
  /-- R254: Shifts right arithmetically by an immediate amount. -/
  | srai (d : Reg) (a : Reg) (h : BitVec 6)
  /-- R254: Adds an immediate on 32 bits and sign-extends. -/
  | addiw (d : Reg) (a : Reg) (imm : BitVec 12)
  /-- R254: 32-bit left shift by an immediate. -/
  | slliw (d : Reg) (a : Reg) (sh : BitVec 5)
  /-- R254: 32-bit logical right shift by an immediate. -/
  | srliw (d : Reg) (a : Reg) (sh : BitVec 5)
  /-- R254: 32-bit arithmetic right shift by an immediate. -/
  | sraiw (d : Reg) (a : Reg) (sh : BitVec 5)
  /-- R254: Adds two registers modulo 2^64. -/
  | add (d : Reg) (a : Reg) (b : Reg)
  /-- R254: Shifts left by x[rs2][5:0]. -/
  | sll (d : Reg) (a : Reg) (b : Reg)
  /-- R254: Signed set-less-than. -/
  | slt (d : Reg) (a : Reg) (b : Reg)
  /-- R254: Unsigned set-less-than. -/
  | sltu (d : Reg) (a : Reg) (b : Reg)
  /-- R254: Bitwise XOR. -/
  | xor (d : Reg) (a : Reg) (b : Reg)
  /-- R254: Logical right shift by x[rs2][5:0]. -/
  | srl (d : Reg) (a : Reg) (b : Reg)
  /-- R254: Bitwise OR. -/
  | or (d : Reg) (a : Reg) (b : Reg)
  /-- R254: Bitwise AND. -/
  | and (d : Reg) (a : Reg) (b : Reg)
  /-- R254: Subtracts modulo 2^64. -/
  | sub (d : Reg) (a : Reg) (b : Reg)
  /-- R254: Arithmetic right shift by x[rs2][5:0]. -/
  | sra (d : Reg) (a : Reg) (b : Reg)
  /-- R254: Low 64 bits of the product. -/
  | mul (d : Reg) (a : Reg) (b : Reg)
  /-- R254: High 64 bits of the signed by signed product. -/
  | mulh (d : Reg) (a : Reg) (b : Reg)
  /-- R254: High 64 bits of the signed by unsigned product. -/
  | mulhsu (d : Reg) (a : Reg) (b : Reg)
  /-- R254: High 64 bits of the unsigned product. -/
  | mulhu (d : Reg) (a : Reg) (b : Reg)
  /-- R254: Signed division, defined for every operand. -/
  | div (d : Reg) (a : Reg) (b : Reg)
  /-- R254: Unsigned division, defined for every operand. -/
  | divu (d : Reg) (a : Reg) (b : Reg)
  /-- R254: Signed remainder, defined for every operand. -/
  | rem (d : Reg) (a : Reg) (b : Reg)
  /-- R254: Unsigned remainder, defined for every operand. -/
  | remu (d : Reg) (a : Reg) (b : Reg)
  /-- R255: Low 64 bits of the carry-less product. -/
  | clmul (d : Reg) (a : Reg) (b : Reg)
  /-- R255: Bits 126:63 of the carry-less product. -/
  | clmulr (d : Reg) (a : Reg) (b : Reg)
  /-- R255: High 64 bits of the carry-less product. -/
  | clmulh (d : Reg) (a : Reg) (b : Reg)
  /-- R254: 32-bit add, sign-extended. -/
  | addw (d : Reg) (a : Reg) (b : Reg)
  /-- R254: 32-bit left shift by x[rs2][4:0]. -/
  | sllw (d : Reg) (a : Reg) (b : Reg)
  /-- R254: 32-bit logical right shift. -/
  | srlw (d : Reg) (a : Reg) (b : Reg)
  /-- R254: 32-bit subtract, sign-extended. -/
  | subw (d : Reg) (a : Reg) (b : Reg)
  /-- R254: 32-bit arithmetic right shift. -/
  | sraw (d : Reg) (a : Reg) (b : Reg)
  /-- R254: 32-bit multiply, sign-extended. -/
  | mulw (d : Reg) (a : Reg) (b : Reg)
  /-- R254: 32-bit signed division. -/
  | divw (d : Reg) (a : Reg) (b : Reg)
  /-- R254: 32-bit unsigned division. -/
  | divuw (d : Reg) (a : Reg) (b : Reg)
  /-- R254: 32-bit signed remainder. -/
  | remw (d : Reg) (a : Reg) (b : Reg)
  /-- R254: 32-bit unsigned remainder. -/
  | remuw (d : Reg) (a : Reg) (b : Reg)
  /-- R259: Swaps a CSR with x[rs1]. -/
  | csrrw (d : Reg) (a : Reg) (csr : BitVec 12)
  /-- R259: Reads a CSR and sets the bits given by x[rs1]. -/
  | csrrs (d : Reg) (a : Reg) (csr : BitVec 12)
  /-- R259: Reads a CSR and clears the bits given by x[rs1]. -/
  | csrrc (d : Reg) (a : Reg) (csr : BitVec 12)
  /-- R259: Swaps a CSR with a 5-bit immediate. -/
  | csrrwi (d : Reg) (u : BitVec 5) (csr : BitVec 12)
  /-- R259: Reads a CSR and sets the immediate's bits. -/
  | csrrsi (d : Reg) (u : BitVec 5) (csr : BitVec 12)
  /-- R259: Reads a CSR and clears the immediate's bits. -/
  | csrrci (d : Reg) (u : BitVec 5) (csr : BitVec 12)
  /-- R260: Raises cause 8 from U-mode or 11 from M-mode, requesting a Lichen service. -/
  | ecall
  /-- R260: Raises cause 3 with mtval = pc. -/
  | ebreak
  /-- R264: Stalls until any receive or exchange queue is non-empty, then retires. -/
  | wfi
  /-- R263: Returns from M-mode to mstatus.mpp at mepc. -/
  | mret
  /-- R265: Sets up a hardware loop over the following L instructions with count x[rs1]. -/
  | lpSet (a : Reg) (l : BitVec 8)
  /-- R230: Makes the next instruction read constant-window word N in place of its rs2 operand. -/
  | kpre (n : BitVec 8)
  /-- R296: Element-wise integer add, vector-vector. -/
  | vaddVv (d : Reg) (a : Reg) (b : Reg) (t : BitVec 2)
  /-- R296: Element-wise integer subtract, vector-vector. -/
  | vsubVv (d : Reg) (a : Reg) (b : Reg) (t : BitVec 2)
  /-- R296: Element-wise integer multiply low, vector-vector. -/
  | vmulVv (d : Reg) (a : Reg) (b : Reg) (t : BitVec 2)
  /-- R296: Element-wise signed multiply high, vector-vector. -/
  | vmulhVv (d : Reg) (a : Reg) (b : Reg) (t : BitVec 2)
  /-- R296: Element-wise unsigned multiply high, vector-vector. -/
  | vmulhuVv (d : Reg) (a : Reg) (b : Reg) (t : BitVec 2)
  /-- R296: Element-wise AND, vector-vector. -/
  | vandVv (d : Reg) (a : Reg) (b : Reg) (t : BitVec 2)
  /-- R296: Element-wise OR, vector-vector. -/
  | vorVv (d : Reg) (a : Reg) (b : Reg) (t : BitVec 2)
  /-- R296: Element-wise XOR, vector-vector. -/
  | vxorVv (d : Reg) (a : Reg) (b : Reg) (t : BitVec 2)
  /-- R296: Element-wise left shift, vector-vector. -/
  | vsllVv (d : Reg) (a : Reg) (b : Reg) (t : BitVec 2)
  /-- R296: Element-wise logical right shift, vector-vector. -/
  | vsrlVv (d : Reg) (a : Reg) (b : Reg) (t : BitVec 2)
  /-- R296: Element-wise arithmetic right shift, vector-vector. -/
  | vsraVv (d : Reg) (a : Reg) (b : Reg) (t : BitVec 2)
  /-- R296: Element-wise signed minimum, vector-vector. -/
  | vminVv (d : Reg) (a : Reg) (b : Reg) (t : BitVec 2)
  /-- R296: Element-wise signed maximum, vector-vector. -/
  | vmaxVv (d : Reg) (a : Reg) (b : Reg) (t : BitVec 2)
  /-- R296: Element-wise unsigned minimum, vector-vector. -/
  | vminuVv (d : Reg) (a : Reg) (b : Reg) (t : BitVec 2)
  /-- R296: Element-wise unsigned maximum, vector-vector. -/
  | vmaxuVv (d : Reg) (a : Reg) (b : Reg) (t : BitVec 2)
  /-- R296: Sets destination mask bits where elements are equal, vector-vector. -/
  | vseqVv (d : Reg) (a : Reg) (b : Reg) (t : BitVec 2)
  /-- R296: Sets destination mask bits where a < b signed, vector-vector. -/
  | vsltVv (d : Reg) (a : Reg) (b : Reg) (t : BitVec 2)
  /-- R296: Sets destination mask bits where a < b unsigned, vector-vector. -/
  | vsltuVv (d : Reg) (a : Reg) (b : Reg) (t : BitVec 2)
  /-- R296: Selects a or b per element by the mask in v0 for every element below len. -/
  | vsel (d : Reg) (a : Reg) (b : Reg) (t : BitVec 2)
  /-- R296: Element-wise integer add with a scalar. -/
  | vaddVx (d : Reg) (a : Reg) (b : Reg) (t : BitVec 2)
  /-- R296: Element-wise integer subtract of a scalar. -/
  | vsubVx (d : Reg) (a : Reg) (b : Reg) (t : BitVec 2)
  /-- R296: Element-wise multiply low by a scalar. -/
  | vmulVx (d : Reg) (a : Reg) (b : Reg) (t : BitVec 2)
  /-- R296: Element-wise signed multiply high by a scalar. -/
  | vmulhVx (d : Reg) (a : Reg) (b : Reg) (t : BitVec 2)
  /-- R296: Element-wise unsigned multiply high by a scalar. -/
  | vmulhuVx (d : Reg) (a : Reg) (b : Reg) (t : BitVec 2)
  /-- R296: Element-wise AND with a scalar. -/
  | vandVx (d : Reg) (a : Reg) (b : Reg) (t : BitVec 2)
  /-- R296: Element-wise OR with a scalar. -/
  | vorVx (d : Reg) (a : Reg) (b : Reg) (t : BitVec 2)
  /-- R296: Element-wise XOR with a scalar. -/
  | vxorVx (d : Reg) (a : Reg) (b : Reg) (t : BitVec 2)
  /-- R296: Element-wise left shift by a scalar. -/
  | vsllVx (d : Reg) (a : Reg) (b : Reg) (t : BitVec 2)
  /-- R296: Element-wise logical right shift by a scalar. -/
  | vsrlVx (d : Reg) (a : Reg) (b : Reg) (t : BitVec 2)
  /-- R296: Element-wise arithmetic right shift by a scalar. -/
  | vsraVx (d : Reg) (a : Reg) (b : Reg) (t : BitVec 2)
  /-- R296: Element-wise signed minimum with a scalar. -/
  | vminVx (d : Reg) (a : Reg) (b : Reg) (t : BitVec 2)
  /-- R296: Element-wise signed maximum with a scalar. -/
  | vmaxVx (d : Reg) (a : Reg) (b : Reg) (t : BitVec 2)
  /-- R296: Element-wise unsigned minimum with a scalar. -/
  | vminuVx (d : Reg) (a : Reg) (b : Reg) (t : BitVec 2)
  /-- R296: Element-wise unsigned maximum with a scalar. -/
  | vmaxuVx (d : Reg) (a : Reg) (b : Reg) (t : BitVec 2)
  /-- R296: Mask compare for equality with a scalar. -/
  | vseqVx (d : Reg) (a : Reg) (b : Reg) (t : BitVec 2)
  /-- R296: Mask compare signed less-than a scalar. -/
  | vsltVx (d : Reg) (a : Reg) (b : Reg) (t : BitVec 2)
  /-- R296: Mask compare unsigned less-than a scalar. -/
  | vsltuVx (d : Reg) (a : Reg) (b : Reg) (t : BitVec 2)
  /-- R298: Element-wise float add rounded under RNE, vector-vector. -/
  | vfaddVv (d : Reg) (a : Reg) (b : Reg) (t : BitVec 2)
  /-- R298: Element-wise float subtract, vector-vector. -/
  | vfsubVv (d : Reg) (a : Reg) (b : Reg) (t : BitVec 2)
  /-- R298: Element-wise float multiply, vector-vector. -/
  | vfmulVv (d : Reg) (a : Reg) (b : Reg) (t : BitVec 2)
  /-- R298: Fused a × b + c, vector-vector. -/
  | vfmaVv (d : Reg) (a : Reg) (b : Reg) (t : BitVec 2)
  /-- R298: Fused a × b − c, vector-vector. -/
  | vfmsVv (d : Reg) (a : Reg) (b : Reg) (t : BitVec 2)
  /-- R298: Fused −(a × b) + c, vector-vector. -/
  | vfnmaVv (d : Reg) (a : Reg) (b : Reg) (t : BitVec 2)
  /-- R299: Float minimum with −0 below +0, vector-vector. -/
  | vfminVv (d : Reg) (a : Reg) (b : Reg) (t : BitVec 2)
  /-- R299: Float maximum with −0 below +0, vector-vector. -/
  | vfmaxVv (d : Reg) (a : Reg) (b : Reg) (t : BitVec 2)
  /-- R299: Mask float equality compare, vector-vector. -/
  | vfeqVv (d : Reg) (a : Reg) (b : Reg) (t : BitVec 2)
  /-- R299: Mask float less-than compare, vector-vector. -/
  | vfltVv (d : Reg) (a : Reg) (b : Reg) (t : BitVec 2)
  /-- R299: Mask float less-or-equal compare, vector-vector. -/
  | vfleVv (d : Reg) (a : Reg) (b : Reg) (t : BitVec 2)
  /-- R299: Replaces the sign of a with the sign of b, vector-vector. -/
  | vfsgnjVv (d : Reg) (a : Reg) (b : Reg) (t : BitVec 2)
  /-- R299: Writes a one-hot class of each float element. -/
  | vfclass (d : Reg) (a : Reg) (t : BitVec 2)
  /-- R304: Converts signed integers to floats of the same width under rmode. -/
  | vfcvtIf (d : Reg) (a : Reg) (t : BitVec 2)
  /-- R304: Converts floats to clamped signed integers under rmode. -/
  | vfcvtFi (d : Reg) (a : Reg) (t : BitVec 2)
  /-- R305: Packs FP32 elements into part p of narrow elements of the vfmt format. -/
  | vncvt (d : Reg) (a : Reg) (p : BitVec 5)
  /-- R305: Unpacks part p of narrow elements of the vfmt format to FP32 exactly. -/
  | vwcvt (d : Reg) (a : Reg) (p : BitVec 5)
  /-- R298: Float add of a scalar. -/
  | vfaddVx (d : Reg) (a : Reg) (b : Reg) (t : BitVec 2)
  /-- R298: Float subtract of a scalar. -/
  | vfsubVx (d : Reg) (a : Reg) (b : Reg) (t : BitVec 2)
  /-- R298: Float multiply by a scalar. -/
  | vfmulVx (d : Reg) (a : Reg) (b : Reg) (t : BitVec 2)
  /-- R298: Fused a × scalar + c. -/
  | vfmaVx (d : Reg) (a : Reg) (b : Reg) (t : BitVec 2)
  /-- R298: Fused a × scalar − c. -/
  | vfmsVx (d : Reg) (a : Reg) (b : Reg) (t : BitVec 2)
  /-- R298: Fused −(a × scalar) + c. -/
  | vfnmaVx (d : Reg) (a : Reg) (b : Reg) (t : BitVec 2)
  /-- R299: Float minimum with a scalar. -/
  | vfminVx (d : Reg) (a : Reg) (b : Reg) (t : BitVec 2)
  /-- R299: Float maximum with a scalar. -/
  | vfmaxVx (d : Reg) (a : Reg) (b : Reg) (t : BitVec 2)
  /-- R299: Mask float equality compare with a scalar. -/
  | vfeqVx (d : Reg) (a : Reg) (b : Reg) (t : BitVec 2)
  /-- R299: Mask float less-than compare with a scalar. -/
  | vfltVx (d : Reg) (a : Reg) (b : Reg) (t : BitVec 2)
  /-- R299: Mask float less-or-equal compare with a scalar. -/
  | vfleVx (d : Reg) (a : Reg) (b : Reg) (t : BitVec 2)
  /-- R299: Takes the sign of a scalar. -/
  | vfsgnjVx (d : Reg) (a : Reg) (b : Reg) (t : BitVec 2)
  /-- R307: Integer sum of start value and active elements into element 0. -/
  | vredsum (d : Reg) (a : Reg) (b : Reg) (t : BitVec 2)
  /-- R307: Signed maximum reduction into element 0. -/
  | vredmax (d : Reg) (a : Reg) (b : Reg) (t : BitVec 2)
  /-- R307: Signed minimum reduction into element 0. -/
  | vredmin (d : Reg) (a : Reg) (b : Reg) (t : BitVec 2)
  /-- R308: Float sum reduction in a fixed tree into element 0. -/
  | vfredsum (d : Reg) (a : Reg) (b : Reg) (t : BitVec 2)
  /-- R308: Float maximum reduction in a fixed tree. -/
  | vfredmax (d : Reg) (a : Reg) (b : Reg) (t : BitVec 2)
  /-- R308: Float minimum reduction in a fixed tree. -/
  | vfredmin (d : Reg) (a : Reg) (b : Reg) (t : BitVec 2)
  /-- R309: Moves elements up by a scalar amount. -/
  | vslideup (d : Reg) (a : Reg) (b : Reg) (t : BitVec 2)
  /-- R309: Moves elements down by a scalar amount, filling with zero. -/
  | vslidedn (d : Reg) (a : Reg) (b : Reg) (t : BitVec 2)
  /-- R309: Gathers elements by per-element indices. -/
  | vgather (d : Reg) (a : Reg) (b : Reg) (t : BitVec 2)
  /-- R310: Counts set mask bits into an x register. -/
  | vpopc (d : Reg) (a : Reg)
  /-- R310: Writes the index of the first set mask bit, or all ones. -/
  | vfirst (d : Reg) (a : Reg)
  /-- R300: Correctly rounded element-wise division. -/
  | vfdiv (d : Reg) (a : Reg) (b : Reg) (t : BitVec 1)
  /-- R300: Correctly rounded element-wise square root. -/
  | vfsqrt (d : Reg) (a : Reg) (t : BitVec 1)
  /-- R301: Reciprocal rounded onto 12-bit significands. -/
  | vfrcp (d : Reg) (a : Reg)
  /-- R302: Correctly rounded 2^a. -/
  | vfexp2 (d : Reg) (a : Reg)
  /-- R303: Low 64 bits of the per-element carry-less product. -/
  | vclmul (d : Reg) (a : Reg) (b : Reg)
  /-- R303: High 64 bits of the per-element carry-less product. -/
  | vclmulh (d : Reg) (a : Reg) (b : Reg)
  /-- R311: Sets vl.len and vl.mk and returns the length. -/
  | vcfg (d : Reg) (a : Reg) (m : BitVec 1) (t : BitVec 2)
  /-- R312: Broadcasts an x register into active elements. -/
  | vmvVx (d : Reg) (b : Reg) (t : BitVec 2)
  /-- R312: Reads one sign-extended element into an x register. -/
  | vmvXv (d : Reg) (a : Reg) (b : Reg) (t : BitVec 2)
  /-- R312: Copies active elements between v registers. -/
  | vmvVv (d : Reg) (a : Reg) (t : BitVec 2)
  /-- R312: Writes each active element's index. -/
  | vid (d : Reg) (t : BitVec 2)
  /-- R312: Broadcasts constant-window word N into active elements. -/
  | vmvVk (d : Reg) (n : BitVec 8) (w : BitVec 2)
  /-- R319: Allocates a zeroed TMEM or CMEM buffer and writes its exclusive cap, or null. -/
  | capAlloc (d : Reg) (a : Reg) (k : BitVec 5)
  /-- R320: Returns a buffer or share to its home and nulls the register. -/
  | capFree (a : Reg)
  /-- R321: Carves an exclusive DMEM cap into two children at an offset. -/
  | capCarve (d : Reg) (a : Reg) (b : Reg)
  /-- R79: Merges two adjacent carved children back into their parent. -/
  | capMerge (d : Reg) (a : Reg) (b : Reg)
  /-- R322: Reduces a cap's length and rights locally. -/
  | capNarrow (d : Reg) (a : Reg) (b : Reg)
  /-- R74: Splits a read share of weight w from a cap. -/
  | capSplitR (d : Reg) (a : Reg) (b : Reg)
  /-- R74: Splits a fold share of weight w, with a fold op from an exclusive cap. -/
  | capSplitF (d : Reg) (a : Reg) (b : Reg)
  /-- R75: Joins two shares of one buffer, becoming exclusive at weight 65,536. -/
  | capJoin (d : Reg) (a : Reg) (b : Reg)
  /-- R76: cap.join with c0: asks the home to convert a share to exclusive, waiting for the count. -/
  | capReclaim (d : Reg) (a : Reg)
  /-- R324: Drains and turns an exclusive cap into an exec share. -/
  | capSealX (d : Reg) (a : Reg)
  /-- R325: Moves a cap between registers and nulls the source. -/
  | capMov (d : Reg) (a : Reg)
  /-- R325: Reads one 64-bit word of a cap into an x register. -/
  | capGet (d : Reg) (a : Reg) (b : Reg)
  /-- R326: Replaces the format descriptor of a cap. -/
  | capFmt (d : Reg) (a : Reg) (b : Reg)
  /-- R327: Cap-relative load of one sign-extended byte. -/
  | cldB (d : Reg) (s : Reg) (cs : Reg) (imm : BitVec 4)
  /-- R327: Cap-relative load of two sign-extended bytes. -/
  | cldH (d : Reg) (s : Reg) (cs : Reg) (imm : BitVec 4)
  /-- R327: Cap-relative load of four sign-extended bytes. -/
  | cldW (d : Reg) (s : Reg) (cs : Reg) (imm : BitVec 4)
  /-- R327: Cap-relative load of eight bytes. -/
  | cldD (d : Reg) (s : Reg) (cs : Reg) (imm : BitVec 4)
  /-- R327: Cap-relative load of one zero-extended byte. -/
  | cldBu (d : Reg) (s : Reg) (cs : Reg) (imm : BitVec 4)
  /-- R327: Cap-relative load of two zero-extended bytes. -/
  | cldHu (d : Reg) (s : Reg) (cs : Reg) (imm : BitVec 4)
  /-- R327: Cap-relative load of four zero-extended bytes. -/
  | cldWu (d : Reg) (s : Reg) (cs : Reg) (imm : BitVec 4)
  /-- R327: Cap-relative store of one byte. -/
  | cstB (d : Reg) (s : Reg) (cs : Reg) (imm : BitVec 4)
  /-- R327: Cap-relative store of two bytes. -/
  | cstH (d : Reg) (s : Reg) (cs : Reg) (imm : BitVec 4)
  /-- R327: Cap-relative store of four bytes. -/
  | cstW (d : Reg) (s : Reg) (cs : Reg) (imm : BitVec 4)
  /-- R327: Cap-relative store of eight bytes. -/
  | cstD (d : Reg) (s : Reg) (cs : Reg) (imm : BitVec 4)
  /-- R327: Folds a 32-bit value into an update line under a fold share. -/
  | cfoldW (d : Reg) (s : Reg) (cs : Reg) (imm : BitVec 4)
  /-- R327: Folds a 64-bit value into an update line under a fold share. -/
  | cfoldD (d : Reg) (s : Reg) (cs : Reg) (imm : BitVec 4)
  /-- R329: Unit-stride vector load through a cap. -/
  | vcld (d : Reg) (s : Reg) (cs : Reg) (e : BitVec 5)
  /-- R329: Strided vector load through a cap. -/
  | vclds (d : Reg) (s : Reg) (cs : Reg) (e : BitVec 5)
  /-- R329: Indexed vector load through a cap. -/
  | vcldx (d : Reg) (s : Reg) (cs : Reg) (e : BitVec 5)
  /-- R329: Unit-stride vector store through a cap. -/
  | vcst (d : Reg) (s : Reg) (cs : Reg) (e : BitVec 5)
  /-- R329: Strided vector store through a cap. -/
  | vcsts (d : Reg) (s : Reg) (cs : Reg) (e : BitVec 5)
  /-- R329: Indexed vector store through a cap. -/
  | vcstx (d : Reg) (s : Reg) (cs : Reg) (e : BitVec 5)
  /-- R332: Sends a message of up to 7 payload words without caps. -/
  | msgSend (a : Reg) (b : Reg)
  /-- R332: Sends a message with one or two caps under drain-on-send and a placement hint. -/
  | msgSendc (d : Reg) (a : Reg) (b : Reg) (h : BitVec 2)
  /-- R335: Takes the head message of the current level's queue into a0-a7 and c28-c29. -/
  | msgRecv
  /-- R336: Writes the header of the next message, or 0, without consuming. -/
  | msgPeek (d : Reg)
  /-- R196: Ends a handler activation, delivering the next message of the level or resuming. -/
  | hret
  /-- R332: Transfers one cap to a rank with a placement hint. -/
  | xfer (a : Reg) (b : Reg) (h : BitVec 2)
  /-- R338: Waits for the remote stores of a tag and returns its refusal summary. -/
  | batchClose (d : Reg) (t : BitVec 2)
  /-- R337: Submits a Shunter copy job between two lent caps. -/
  | xferCp (d : Reg) (a : Reg) (b : Reg)
  /-- R351: Submits a matrix job of s steps over two rings into an accumulator. -/
  | mxMma (d : Reg) (s : Reg) (cs : Reg) (cb : Reg) (m : BitVec 2)
  /-- R352: Submits a job that zeroes an accumulator tile and its masks. -/
  | mxZero (d : Reg) (n : BitVec 5)
  /-- R352: Submits a job that loads an accumulator from memory. -/
  | mxLoad (d : Reg) (a : Reg) (b : Reg) (n : BitVec 5)
  /-- R352: Submits a job that rounds an accumulator out to memory in the cap's format. -/
  | mxOut (d : Reg) (a : Reg) (b : Reg) (n : BitVec 5)
  /-- R356: Returns a job's status word and clears its pending error. -/
  | mxPoll (d : Reg) (a : Reg)
  /-- R356: Stops a queued or running job with status 4. -/
  | mxCancel (d : Reg) (a : Reg)
  /-- R346: Turns an exclusive CMEM buffer into a ring and returns its two handles. -/
  | ringInit (d : Reg) (a : Reg) (b : Reg)
  /-- R346: Reserves the next Free slot and returns its producer slot cap, or null. -/
  | ringRsv (d : Reg) (a : Reg)
  /-- R346: Drains and publishes a reserved slot, advancing the visible tail. -/
  | ringPub (a : Reg)
  /-- R346: Takes the head Visible slot as a consumer slot cap, or null. -/
  | ringTake (d : Reg) (a : Reg)
  /-- R346: Frees a taken slot. -/
  | ringDoneSlot (a : Reg)
  /-- R346: Dismantles a ring with all slots Free back into an exclusive buffer. -/
  | ringDoneDismantle (d : Reg) (a : Reg) (b : Reg)
  /-- R285: Rounds one FP32 value to a narrow element under rmode. -/
  | fcvtN (d : Reg) (a : Reg) (b : Reg)
  /-- R286: Widens one element exactly to FP32. -/
  | fcvtW (d : Reg) (a : Reg) (b : Reg)
  /-- R367: Opens a recovery region at the current level. -/
  | rgnOpen (d : Reg)
  /-- R372: Pushes a region level over a range of an exclusive buffer. -/
  | rgnKeep (d : Reg) (a : Reg) (b : Reg)
  /-- R377: Closes the innermost region, passing or releasing its effects. -/
  | rgnClose
  /-- R376: Rolls back the innermost region with cause 256 + code. -/
  | rgnAbort (c : BitVec 8)
  /-- R155: Pushes a snapshot level on an exclusive buffer. -/
  | snapTake (a : Reg)
  /-- R156: Keeps everything written since the top snapshot level. -/
  | snapAccept (a : Reg)
  /-- R157: Restores the lines copied under the top snapshot level. -/
  | snapReject (a : Reg)
  /-- R378: Returns a buffer's depth, top level and pool state. -/
  | snapInfo (d : Reg) (a : Reg)
  /-- R379: Binds a barrier level to a barrier domain. -/
  | barJoin (a : Reg) (l : BitVec 2)
  /-- R205: Adds one arrival to the domain's current round. -/
  | barArrive (l : BitVec 2)
  /-- R205: Waits until the round of the last arrival completes. -/
  | barWait (l : BitVec 2)
  /-- R380: Starts an exchange phase of a Timetable and lends the landing cap. -/
  | xchBegin (a : Reg) (t : BitVec 4) (l : BitVec 2)
  /-- R381: Sends the next Timetable entry's payload within its slack. -/
  | xchSend (a : Reg)
  /-- R383: Waits for the closing cycle, ends the phase and returns unused entries. -/
  | xchEnd (d : Reg)
  /-- R199: Rendezvouses the tiles of a mask into a lockstep gang. -/
  | gangForm (m : BitVec 8)
  /-- R202: Removes the tile from its gang, dissolving it at the leader. -/
  | gangSplit
  /-- R202: Rendezvouses every tile of the formed mask to resume lockstep. -/
  | gangJoin
  /-- R385: Waits until a queue is non-empty and returns its message count. -/
  | waitQ (d : Reg) (q : BitVec 3)
  /-- R386: Waits until a job ends and returns its poll word. -/
  | waitJob (d : Reg) (a : Reg)
  /-- R387: Posts a launch record and code share to the die's launch controller. -/
  | lnchPost (d : Reg) (a : Reg) (b : Reg)
  /-- R388: Ends the issuing launch at once. -/
  | lnchDone (a : Reg)
  /-- R417: Parks a tile, gang set or cluster into the mspore save area. -/
  | sysPark (d : Reg) (a : Reg) (k : BitVec 1)
  /-- R426: Checks and revives the spore in the save area onto a target. -/
  | sysRevive (d : Reg) (a : Reg)
  /-- R433: Fires the selected halt groups of the die. -/
  | sysHalt (a : Reg)
  /-- R221: A word of an illegal opcode, fence, AMO or unassigned code raises cause 2. -/
  | illegalInstruction (w : BitVec 32)
  /-- R195: At an instruction boundary the tile activates the highest pending handler level above the current one. -/
  | handlerActivation
  /-- R194: A message enters the destination queue of its dispatch level, or waits in the network when full. -/
  | messageArrival (n : Nat)
  /-- R91: The receiving Shunter takes a cap-bearing message and decides copy, rights only or return. -/
  | shunterPlacement (cluster : Nat)
  /-- R94: The Shunter finishes copying a transferred buffer, frees the source and sends the new buffer to the receiver. -/
  | transferCopy (cluster : Nat) (n : Nat)
  /-- R337: A submitted copy job copies 256-byte units and ends with a status. -/
  | shunterCopyJob (tile : Nat) (job : Nat)
  /-- R66: A home checks a load, store, fill or write-back request against the directory entry and serves or refuses it. -/
  | homeAccessRequest (n : Nat)
  /-- R71: A home applies a directory transition: send, delivery, split notice, join, reclaim, free, carve or merge. -/
  | homeControlRequest (n : Nat)
  /-- R82: The home combines each valid word of an arriving update line with the stored word. -/
  | foldLineMerge (n : Nat)
  /-- R110: A fill reply or acknowledgement reaches the tile and updates the L1 sector state. -/
  | homeReplyArrival (n : Nat)
  /-- R152: The home answers a tile's grant request for a line of a snapshotted buffer. -/
  | snapshotGrantRequest (tile : Nat) (r : Reg) (line : Nat)
  /-- R118: An L2 slice checks a DMEM request, hits under a matching stamp or serves it as a miss. -/
  | l2Request (n : Nat)
  /-- R171: A walker reads a table entry and descends, translates, holds or sends a fault message. -/
  | pageWalk (n : Nat)
  /-- R178: The first-touch unit installs a pre-zeroed frame by a conditional write and the walk restarts. -/
  | firstTouchService (die : Nat) (va : Nat)
  /-- R180: The translation-fault service receives a fault message from a slice. -/
  | faultMessage (n : Nat)
  /-- R181: A Retry answer makes the slice rewalk every request waiting on the page. -/
  | faultAnswerRetry (n : Nat)
  /-- R181: A Deny answer gives every request waiting on the page an error response. -/
  | faultAnswerDeny (n : Nat)
  /-- R182: An instruction stalled on translation past F raises cause 48. -/
  | faultWaitExpired
  /-- R185: Every slice drops TLB, walk-cache and optionally L2 entries of a range and completes. -/
  | translationInvalidate (va : Nat) (span : Nat) (dropL2 : Bool)
  /-- R186: The service copies a page to a new frame under mig = 1. -/
  | pageMigration (va : Nat) (frame : Nat)
  /-- R189: The service moves a page to host memory with per-sector MACs. -/
  | pageOutToHost (va : Nat) (host : Nat)
  /-- R190: The service copies a host-resident page back, checking MACs. -/
  | pageInFromHost (va : Nat) (frame : Nat)
  /-- R124: An HBM4 controller accepts a read or write and serves it in queue order. -/
  | hbm4Request (pa : Nat) (store : Bool) (value : Word)
  /-- R436: Each HBM4 controller scrubs every sector once every 24 hours. -/
  | scrubHbm4 (stk : Nat)
  /-- R436: Each TMEM and CMEM bank scrubs every row once every hour. -/
  | scrubSram (cmem : Bool) (index : Nat)
  /-- R359: When the array is free the engine grants the next step by slot table, debt or round robin. -/
  | stepGrant (cluster : Nat)
  /-- R358: While idle the engine's slot counter advances every 32 cycles. -/
  | slotCounterAdvance (cluster : Nat)
  /-- R361: A step's result reaches the accumulator and its slots become Free or Held. -/
  | stepRetire (cluster : Nat)
  /-- R352: An mx.zero, mx.load or mx.out job runs at the head of its tile's queue. -/
  | accumulatorJobRun (tile : Nat)
  /-- R354: A job enters a final status, returns its lent caps and clears L. -/
  | jobEnd (tile : Nat) (job : Nat)
  /-- R362: At a segment end the engine signs the accumulator and hands the segment to the replay scheduler. -/
  | auditSegmentSign (tile : Nat)
  /-- R363: A replay cluster replays an audit segment in its audit slots and signs it. -/
  | auditReplay (n : Nat)
  /-- R364: Comparing signatures passes the segment or declares a mismatch. -/
  | auditVerdict (n : Nat)
  /-- R448: Domain-0 firmware releases a quarantined cluster after self-test. -/
  | quarantineRelease (cluster : Nat)
  /-- R206: A barrier round completes and releases every member's bar.wait. -/
  | barrierRelease (launch : Nat) (domain : Nat)
  /-- R382: An exchange message lands at its index in the landing cap and enters the exchange queue. -/
  | exchangeArrival (n : Nat)
  /-- R214: Every 4,096 cycles the controller sweeps idle states and message counts of a launch. -/
  | terminationSweep (launch : Nat)
  /-- R374: A region and its nested regions are rolled back and resumed empty after rgn.open. -/
  | rollback
  /-- R333: The release path drains and injects each held message in issue order after the outermost close. -/
  | sidingRelease (tile : Nat)
  /-- R484: A peer's ACK completes a remote store; a refusal sets bits in the tag's summary. -/
  | remoteAckArrival (tile : Nat) (n : Nat)
  /-- R486: A peer home answers a batch summary request with its refusal bitmap. -/
  | summaryRequest (source : Nat) (tag : Nat)
  /-- R486: A summary reply is ORed into the tag's summary at the tile. -/
  | sumreplyArrival (tile : Nat) (peer : Nat) (tag : Nat) (mask : BitVec 64)
  /-- R485: After 50 µs without reply the Junction resends, marking the peer unreachable after the eighth wait. -/
  | replyTimeout (tile : Nat) (n : Nat)
  /-- R483: A Junction receives, checks, opens or forwards a fabric packet. -/
  | junctionPacket (n : Nat)
  /-- R477: The destination Junction's SYS acknowledgement releases kept packets and path counts. -/
  | arrivalAck (device : Nat) (count : Nat)
  /-- R476: Every millisecond the Junction redraws its random intermediates. -/
  | intermediateRedraw
  /-- R479: After 16 failed retries a port goes down and unacknowledged packets are resent on new paths. -/
  | portDown (port : Nat)
  /-- R489: A port trains in native mode or falls back to UALink and authenticates. -/
  | portTraining (port : Nat) (peerNative : Bool) (peerUalink : Bool)
  /-- R475: Station firmware loads a Junction's fabric table. -/
  | fabricTableLoad (entries : List (Nat × Nat × Nat × BitVec 72))
  /-- R445: After 16 failed resends of a flit the die is failed and its launches end. -/
  | dieFailure (die : Nat)
  /-- R493: The host port endpoint applies or refuses a host CXL.mem read or write. -/
  | cxlMemRequest (store : Bool) (addr : Nat) (value : BitVec 512)
  /-- R493: A CXL.mem request waiting on translation past 1,000 µs completes with poison or is dropped. -/
  | cxlMemWaitExpired (n : Nat)
  /-- R495: The host port endpoint reads a submission entry and sends, frees handles or refuses. -/
  | submissionEntry
  /-- R495: A message to the host port endpoint is written to the receive ring with its caps in handles. -/
  | hostEndpointDelivery (n : Nat)
  /-- R494: A host write to a BAR0 ring register, ignored while enabled except hctl. -/
  | bar0RegisterWrite (addr : Nat) (value : Word)
  /-- R471: Answers SPDM GET_VERSION on the DOE mailbox. -/
  | spdmGetVersion
  /-- R471: Answers SPDM GET_CAPABILITIES. -/
  | spdmGetCapabilities
  /-- R471: Answers SPDM NEGOTIATE_ALGORITHMS. -/
  | spdmNegotiateAlgorithms (supported : Bool)
  /-- R471: Answers SPDM GET_DIGESTS. -/
  | spdmGetDigests
  /-- R471: Answers SPDM GET_CERTIFICATE with the attestation chain. -/
  | spdmGetCertificate (slot : Nat) (offset : Nat) (length : Nat)
  /-- R471: Answers SPDM CHALLENGE. -/
  | spdmChallenge (nonce : Nat)
  /-- R471: Answers SPDM GET_MEASUREMENTS. -/
  | spdmGetMeasurements (index : Nat)
  /-- R471: Answers SPDM KEY_EXCHANGE. -/
  | spdmKeyExchange (share : Nat)
  /-- R471: Answers SPDM FINISH, establishing a secure session. -/
  | spdmFinish (domain : BitVec 16) (verify : Nat)
  /-- R471: Answers SPDM HEARTBEAT. -/
  | spdmHeartbeat
  /-- R471: Answers SPDM END_SESSION. -/
  | spdmEndSession
  /-- R471: Vendor-defined request installing a domain's 256-bit secret. -/
  | installDomainSecret (domain : BitVec 16) (secret : BitVec 256)
  /-- R471: Vendor-defined request setting a domain's roster and debug, inject and hostclear bits. -/
  | setRosterAndPermissions (domain : BitVec 16) (roster : List Nat) (debug : Bool) (inject : Bool) (hostclear : Bool)
  /-- R471: Vendor-defined request reading a domain's session log. -/
  | readSessionLog (domain : BitVec 16)
  /-- R466: Vendor-defined request advancing the log's read pointer. -/
  | advanceLogReadPointer (domain : BitVec 16) (units : Nat)
  /-- R468: Vendor-defined request reading a launch's error summary. -/
  | readErrorSummary (launch : Nat)
  /-- R452: Domain-0 firmware creates a domain descriptor and opens its log. -/
  | descriptorCreate (bits : BitVec 256)
  /-- R453: Domain-0 firmware deletes a descriptor once the domain holds nothing, clearing its key slot. -/
  | descriptorDelete (domain : BitVec 16)
  /-- R463: The root of trust appends an item to a session log, or drops and counts it. -/
  | logItemWrite
  /-- R465: Every 10 ms the root of trust appends a signed heartbeat item. -/
  | heartbeat (domain : BitVec 16)
  /-- R467: Within 1 ms of a launch's end the root of trust appends its signed receipt. -/
  | receiptWrite (launch : Nat)
  /-- R394: The launch controller checks a posted record and accepts it or refuses it with a code. -/
  | launchRecordCheck (n : Nat)
  /-- R405: A share controller checks its share of a launch across devices and answers the lead. -/
  | shareCheck (launch : Nat) (device : Nat) (answer : Nat)
  /-- R398: The controller places or revives the head launch on eligible clusters, choosing victims if needed. -/
  | placement (die : Nat)
  /-- R399: When every cluster or share is loaded the controller starts every tile. -/
  | launchStart (launch : Nat)
  /-- R400: After exchange phases close the controller parks every cluster of a victim launch. -/
  | victimPark (launch : Nat)
  /-- R396: A parked launch heading its queue is revived, with its rank map updated. -/
  | launchRevival (launch : Nat)
  /-- R402: The controller writes back, frees caps, cleans parked groups and delivers the completion message. -/
  | launchEnding (launch : Nat)
  /-- R455: A cluster is zeroed and moved from one domain to another. -/
  | domainSwitch (cluster : Nat) (domain : BitVec 16)
  /-- R417: A launch controller parks a tile or cluster through the management port. -/
  | managementPark (endpoint : Nat) (k : BitVec 1) (area : BitVec 48)
  /-- R420: The spore header is accepted, completing a park and setting the context Parked. -/
  | sporeOut (n : Nat)
  /-- R431: A firing halt group halts every member tile within its skew. -/
  | haltGroupFire (die : Nat) (group : Nat)
  /-- R434: Debug port halt stops the core. -/
  | debugHalt (tile : Nat)
  /-- R434: Debug port resume restarts the core. -/
  | debugResume (tile : Nat)
  /-- R434: Runs the core until one instruction retires or a trap entry. -/
  | debugStepInstruction (tile : Nat)
  /-- R434: Runs the core for exactly one cycle. -/
  | debugStepCycle (tile : Nat)
  /-- R434: Reads section 0-4 state through the scan paths. -/
  | debugRead (tile : Nat) (item : ScanItem)
  /-- R434: Writes section 0-4 state through the scan paths. -/
  | debugWrite (tile : Nat) (item : ScanItem) (value : Word)
  /-- R412: Every 4,096 cycles the tile resends unacknowledged replayable records. -/
  | faultLogResend (tile : Nat)
  /-- R412: The controller acknowledges a record, adding it to the error summary and freeing the entry. -/
  | faultLogAck (tile : Nat) (entry : Nat)
  /-- R415: A fatal event stops the tile and writes entry 15, or parks it when entry 15 is occupied. -/
  | fatalFault (tile : Nat) (code : Nat)
  /-- R415: The controller reads and releases entry 15 and sends a disposition-11 record. -/
  | fatalRecordCollect (tile : Nat)
  /-- R236: A bounded wait exceeds wlimit and raises cause 26. -/
  | waitLimitExpired
  /-- R262: Lichen service 0 returns the interface version. -/
  | svcInterfaceVersion
  /-- R262: Lichen service 1 returns mcycle. -/
  | svcCycleCount
  /-- R262: Lichen service 2 returns a random word from the root of trust. -/
  | svcFreshRandom
  /-- R262: Lichen service 3 appends a user record to the domain's session log. -/
  | svcUserRecord
  /-- R451: Lichen service 4 performs an error injection for a U-mode caller. -/
  | svcErrorInjection
  /-- R267: A write to lpstart, lpend or lpcount takes effect at once or becomes pending in an active loop. -/
  | loopCsrWrite (which : Fin 3) (value : Word)
  /-- R454: A write to mdomain takes effect only when the tile's caps, queues and heap are empty. -/
  | mdomainWrite (value : Word)
  /-- R450: Writing an injection descriptor arms an error in the named item. -/
  | minjectWrite (value : Word)
  /-- R414: A write to mfaultlog selects an entry and word for reading. -/
  | mfaultlogSelect (value : Word)
  /-- R414: A write with release set frees entry 15 or releases a replayable entry. -/
  | mfaultlogRelease (value : Word)
  /-- R233: A write to a CSR that has no behaviour of its own. -/
  | csrRegisterWrite (csr : BitVec 12) (value : Word)
  /-- R512: Power-on or fundamental reset runs the boot sequence and ends every launch. -/
  | coldReset
  /-- R515: Every 1 ms window power management moves the throttle level by one. -/
  | throttleWindow
  /-- R517: The system reports the package's input power to the IO die 0 sideband every 1 ms. -/
  | powerReport (watts : Nat)
  /-- R518: Sensor readings every 1 ms raise or lower throttling or hold boot. -/
  | thermalSample (dieTemps : List Int) (stackTemps : List Int)
  /-- R485: Station firmware clears a Junction's mark that a peer device is unreachable after the link is restored. -/
  | unreachableMarkClear (device : Nat)
  /-- R437: Station firmware tests a withheld frame or heap unit and returns it to use. -/
  | withheldFrameRelease (sector : Nat)
  /-- R179: The translation-fault service refills a first-touch unit's pool of pre-zeroed frames. -/
  | firstTouchPoolRefill (die : Nat) (size : Nat) (frame : Nat)
  /-- R469: The mirror root of trust on IO die 1 takes over the same state when die 0's root fails. -/
  | rootOfTrustFailover
  /-- R416: Domain-0 firmware releases a double-fatal spore held in a reserve-area slot. -/
  | doubleFatalSporeRelease (tile : Nat)
  /-- R468: Domain-0 firmware releases a launch's error summary held by the launch controller. -/
  | errorSummaryRelease (launch : Nat)
  /-- R496: Station firmware loads the host port endpoint's 64-entry host window table. -/
  | hostWindowTableLoad (entries : List (BitVec 16 × Nat × Nat))
  /-- R493: Station firmware programs the CXL.mem decoder with host base B, size Z and device window base W. -/
  | hdmDecoderProgram (base : Nat) (size : Nat) (window : Nat)
  /-- R491: An IDE_KM request in an SPDM session programs the IDE keys of the host link. -/
  | ideKmRequest (key : Nat)
  /-- R101: A tile is reset or power-gated, so that messages to it return with reason 0 and returns to it free their buffers. -/
  | tileResetOrPowerGate (tile : Nat)
  /-- R518: The module input power is removed, by the module after a thermal trip or by the system builder on the package. -/
  | powerRemoval
deriving DecidableEq, Repr

end Sys2Proof
end

