-- ==== Sys2Proof/WellFormed.lean ====
section
/-! DEFINITION. Well-formed instructions: the operands that the encoding tables admit without a reserved or illegal value
(R13, R223, R230, R265, R317, R346, R366). -/

namespace Sys2Proof

/-- `c30` is no destination and no source that the instruction nulls or changes (R223). -/
def notC30 (r : Reg) : Bool := r ≠ 30

/-- The operand checks of each row. Every field is as wide as its type, so most rows have none. -/
def wellFormed : Instr → Bool
  | .lui _ _ => true
  | .auipc _ _ => true
  | .jal _ _ => true
  | .jalr _ _ _ => true
  | .beq _ _ _ => true
  | .bne _ _ _ => true
  | .blt _ _ _ => true
  | .bge _ _ _ => true
  | .bltu _ _ _ => true
  | .bgeu _ _ _ => true
  | .lb _ _ _ => true
  | .lh _ _ _ => true
  | .lw _ _ _ => true
  | .ld _ _ _ => true
  | .lbu _ _ _ => true
  | .lhu _ _ _ => true
  | .lwu _ _ _ => true
  | .sb _ _ _ => true
  | .sh _ _ _ => true
  | .sw _ _ _ => true
  | .sd _ _ _ => true
  | .addi _ _ _ => true
  | .slti _ _ _ => true
  | .sltiu _ _ _ => true
  | .xori _ _ _ => true
  | .ori _ _ _ => true
  | .andi _ _ _ => true
  | .slli _ _ _ => true
  | .srli _ _ _ => true
  | .srai _ _ _ => true
  | .addiw _ _ _ => true
  | .slliw _ _ _ => true
  | .srliw _ _ _ => true
  | .sraiw _ _ _ => true
  | .add _ _ _ => true
  | .sll _ _ _ => true
  | .slt _ _ _ => true
  | .sltu _ _ _ => true
  | .xor _ _ _ => true
  | .srl _ _ _ => true
  | .or _ _ _ => true
  | .and _ _ _ => true
  | .sub _ _ _ => true
  | .sra _ _ _ => true
  | .mul _ _ _ => true
  | .mulh _ _ _ => true
  | .mulhsu _ _ _ => true
  | .mulhu _ _ _ => true
  | .div _ _ _ => true
  | .divu _ _ _ => true
  | .rem _ _ _ => true
  | .remu _ _ _ => true
  | .clmul _ _ _ => true
  | .clmulr _ _ _ => true
  | .clmulh _ _ _ => true
  | .addw _ _ _ => true
  | .sllw _ _ _ => true
  | .srlw _ _ _ => true
  | .subw _ _ _ => true
  | .sraw _ _ _ => true
  | .mulw _ _ _ => true
  | .divw _ _ _ => true
  | .divuw _ _ _ => true
  | .remw _ _ _ => true
  | .remuw _ _ _ => true
  | .csrrw _ _ _ => true
  | .csrrs _ _ _ => true
  | .csrrc _ _ _ => true
  | .csrrwi _ _ _ => true
  | .csrrsi _ _ _ => true
  | .csrrci _ _ _ => true
  | .ecall => true
  | .ebreak => true
  | .wfi => true
  | .mret => true
  | .lpSet _ l => (l ≠ 0)
  | .kpre _ => true
  | .vaddVv _ _ _ _ => true
  | .vsubVv _ _ _ _ => true
  | .vmulVv _ _ _ _ => true
  | .vmulhVv _ _ _ _ => true
  | .vmulhuVv _ _ _ _ => true
  | .vandVv _ _ _ _ => true
  | .vorVv _ _ _ _ => true
  | .vxorVv _ _ _ _ => true
  | .vsllVv _ _ _ _ => true
  | .vsrlVv _ _ _ _ => true
  | .vsraVv _ _ _ _ => true
  | .vminVv _ _ _ _ => true
  | .vmaxVv _ _ _ _ => true
  | .vminuVv _ _ _ _ => true
  | .vmaxuVv _ _ _ _ => true
  | .vseqVv _ _ _ _ => true
  | .vsltVv _ _ _ _ => true
  | .vsltuVv _ _ _ _ => true
  | .vsel _ _ _ _ => true
  | .vaddVx _ _ _ _ => true
  | .vsubVx _ _ _ _ => true
  | .vmulVx _ _ _ _ => true
  | .vmulhVx _ _ _ _ => true
  | .vmulhuVx _ _ _ _ => true
  | .vandVx _ _ _ _ => true
  | .vorVx _ _ _ _ => true
  | .vxorVx _ _ _ _ => true
  | .vsllVx _ _ _ _ => true
  | .vsrlVx _ _ _ _ => true
  | .vsraVx _ _ _ _ => true
  | .vminVx _ _ _ _ => true
  | .vmaxVx _ _ _ _ => true
  | .vminuVx _ _ _ _ => true
  | .vmaxuVx _ _ _ _ => true
  | .vseqVx _ _ _ _ => true
  | .vsltVx _ _ _ _ => true
  | .vsltuVx _ _ _ _ => true
  | .vfaddVv _ _ _ _ => true
  | .vfsubVv _ _ _ _ => true
  | .vfmulVv _ _ _ _ => true
  | .vfmaVv _ _ _ _ => true
  | .vfmsVv _ _ _ _ => true
  | .vfnmaVv _ _ _ _ => true
  | .vfminVv _ _ _ _ => true
  | .vfmaxVv _ _ _ _ => true
  | .vfeqVv _ _ _ _ => true
  | .vfltVv _ _ _ _ => true
  | .vfleVv _ _ _ _ => true
  | .vfsgnjVv _ _ _ _ => true
  | .vfclass _ _ _ => true
  | .vfcvtIf _ _ _ => true
  | .vfcvtFi _ _ _ => true
  | .vncvt _ _ _ => true
  | .vwcvt _ _ _ => true
  | .vfaddVx _ _ _ _ => true
  | .vfsubVx _ _ _ _ => true
  | .vfmulVx _ _ _ _ => true
  | .vfmaVx _ _ _ _ => true
  | .vfmsVx _ _ _ _ => true
  | .vfnmaVx _ _ _ _ => true
  | .vfminVx _ _ _ _ => true
  | .vfmaxVx _ _ _ _ => true
  | .vfeqVx _ _ _ _ => true
  | .vfltVx _ _ _ _ => true
  | .vfleVx _ _ _ _ => true
  | .vfsgnjVx _ _ _ _ => true
  | .vredsum _ _ _ _ => true
  | .vredmax _ _ _ _ => true
  | .vredmin _ _ _ _ => true
  | .vfredsum _ _ _ _ => true
  | .vfredmax _ _ _ _ => true
  | .vfredmin _ _ _ _ => true
  | .vslideup _ _ _ _ => true
  | .vslidedn _ _ _ _ => true
  | .vgather _ _ _ _ => true
  | .vpopc _ _ => true
  | .vfirst _ _ => true
  | .vfdiv _ _ _ _ => true
  | .vfsqrt _ _ _ => true
  | .vfrcp _ _ => true
  | .vfexp2 _ _ => true
  | .vclmul _ _ _ => true
  | .vclmulh _ _ _ => true
  | .vcfg _ _ _ _ => true
  | .vmvVx _ _ _ => true
  | .vmvXv _ _ _ _ => true
  | .vmvVv _ _ _ => true
  | .vid _ _ => true
  | .vmvVk _ _ _ => true
  | .capAlloc d _ k => (k = 1 || k = 2) && notC30 d
  | .capFree a => notC30 a
  | .capCarve d a _ => notC30 d && notC30 a
  | .capMerge d a b => notC30 d && notC30 a && notC30 b
  | .capNarrow d a _ => notC30 d && notC30 a
  | .capSplitR d a _ => notC30 d && notC30 a
  | .capSplitF d a _ => notC30 d && notC30 a
  | .capJoin d a b => (b ≠ 0) && notC30 d && notC30 a && notC30 b
  | .capReclaim d a => notC30 d && notC30 a
  | .capSealX d a => notC30 d && notC30 a
  | .capMov d a => notC30 d && notC30 a
  | .capGet _ _ _ => true
  | .capFmt d a _ => notC30 d && notC30 a
  | .cldB _ _ _ _ => true
  | .cldH _ _ _ _ => true
  | .cldW _ _ _ _ => true
  | .cldD _ _ _ _ => true
  | .cldBu _ _ _ _ => true
  | .cldHu _ _ _ _ => true
  | .cldWu _ _ _ _ => true
  | .cstB _ _ _ _ => true
  | .cstH _ _ _ _ => true
  | .cstW _ _ _ _ => true
  | .cstD _ _ _ _ => true
  | .cfoldW _ _ _ _ => true
  | .cfoldD _ _ _ _ => true
  | .vcld _ _ _ _ => true
  | .vclds _ _ _ _ => true
  | .vcldx _ _ _ _ => true
  | .vcst _ _ _ _ => true
  | .vcsts _ _ _ _ => true
  | .vcstx _ _ _ _ => true
  | .msgSend _ _ => true
  | .msgSendc d _ _ _ => notC30 d
  | .msgRecv => true
  | .msgPeek _ => true
  | .hret => true
  | .xfer _ b _ => notC30 b
  | .batchClose _ _ => true
  | .xferCp _ a b => notC30 a && notC30 b
  | .mxMma _ _ cs cb _ => notC30 cs && notC30 cb
  | .mxZero _ _ => true
  | .mxLoad _ a _ _ => notC30 a
  | .mxOut _ a _ _ => notC30 a
  | .mxPoll _ _ => true
  | .mxCancel _ _ => true
  | .ringInit d a _ => notC30 d && notC30 a
  | .ringRsv d _ => notC30 d
  | .ringPub a => notC30 a
  | .ringTake d _ => notC30 d
  | .ringDoneSlot a => notC30 a
  | .ringDoneDismantle d a b => (d ≠ 0 || b ≠ 0) && notC30 d && notC30 a && notC30 b
  | .fcvtN _ _ _ => true
  | .fcvtW _ _ _ => true
  | .rgnOpen _ => true
  | .rgnKeep d _ _ => notC30 d
  | .rgnClose => true
  | .rgnAbort _ => true
  | .snapTake a => notC30 a
  | .snapAccept a => notC30 a
  | .snapReject a => notC30 a
  | .snapInfo _ _ => true
  | .barJoin _ _ => true
  | .barArrive _ => true
  | .barWait _ => true
  | .xchBegin a _ _ => notC30 a
  | .xchSend _ => true
  | .xchEnd _ => true
  | .gangForm _ => true
  | .gangSplit => true
  | .gangJoin => true
  | .waitQ _ q => (q.toNat ≤ 4)
  | .waitJob _ _ => true
  | .lnchPost _ a b => notC30 a && notC30 b
  | .lnchDone _ => true
  | .sysPark _ _ _ => true
  | .sysRevive _ _ => true
  | .sysHalt _ => true
  | .illegalInstruction _ => true
  | .handlerActivation => true
  | .messageArrival _ => true
  | .shunterPlacement _ => true
  | .transferCopy _ _ => true
  | .shunterCopyJob _ _ => true
  | .homeAccessRequest _ => true
  | .homeControlRequest _ => true
  | .foldLineMerge _ => true
  | .homeReplyArrival _ => true
  | .snapshotGrantRequest _ _ _ => true
  | .l2Request _ => true
  | .pageWalk _ => true
  | .firstTouchService _ _ => true
  | .faultMessage _ => true
  | .faultAnswerRetry _ => true
  | .faultAnswerDeny _ => true
  | .faultWaitExpired => true
  | .translationInvalidate _ _ _ => true
  | .pageMigration _ _ => true
  | .pageOutToHost _ _ => true
  | .pageInFromHost _ _ => true
  | .hbm4Request _ _ _ => true
  | .scrubHbm4 _ => true
  | .scrubSram _ _ => true
  | .stepGrant _ => true
  | .slotCounterAdvance _ => true
  | .stepRetire _ => true
  | .accumulatorJobRun _ => true
  | .jobEnd _ _ => true
  | .auditSegmentSign _ => true
  | .auditReplay _ => true
  | .auditVerdict _ => true
  | .quarantineRelease _ => true
  | .barrierRelease _ _ => true
  | .exchangeArrival _ => true
  | .terminationSweep _ => true
  | .rollback => true
  | .sidingRelease _ => true
  | .remoteAckArrival _ _ => true
  | .summaryRequest _ _ => true
  | .sumreplyArrival _ _ _ _ => true
  | .replyTimeout _ _ => true
  | .junctionPacket _ => true
  | .arrivalAck _ _ => true
  | .intermediateRedraw => true
  | .portDown _ => true
  | .portTraining _ _ _ => true
  | .fabricTableLoad _ => true
  | .dieFailure _ => true
  | .cxlMemRequest _ _ _ => true
  | .cxlMemWaitExpired _ => true
  | .submissionEntry => true
  | .hostEndpointDelivery _ => true
  | .bar0RegisterWrite _ _ => true
  | .spdmGetVersion => true
  | .spdmGetCapabilities => true
  | .spdmNegotiateAlgorithms _ => true
  | .spdmGetDigests => true
  | .spdmGetCertificate _ _ _ => true
  | .spdmChallenge _ => true
  | .spdmGetMeasurements _ => true
  | .spdmKeyExchange _ => true
  | .spdmFinish _ _ => true
  | .spdmHeartbeat => true
  | .spdmEndSession => true
  | .installDomainSecret _ _ => true
  | .setRosterAndPermissions _ _ _ _ _ => true
  | .readSessionLog _ => true
  | .advanceLogReadPointer _ _ => true
  | .readErrorSummary _ => true
  | .descriptorCreate _ => true
  | .descriptorDelete _ => true
  | .logItemWrite => true
  | .heartbeat _ => true
  | .receiptWrite _ => true
  | .launchRecordCheck _ => true
  | .shareCheck _ _ _ => true
  | .placement _ => true
  | .launchStart _ => true
  | .victimPark _ => true
  | .launchRevival _ => true
  | .launchEnding _ => true
  | .domainSwitch _ _ => true
  | .managementPark _ _ _ => true
  | .sporeOut _ => true
  | .haltGroupFire _ _ => true
  | .debugHalt _ => true
  | .debugResume _ => true
  | .debugStepInstruction _ => true
  | .debugStepCycle _ => true
  | .debugRead _ _ => true
  | .debugWrite _ _ _ => true
  | .faultLogResend _ => true
  | .faultLogAck _ _ => true
  | .fatalFault _ _ => true
  | .fatalRecordCollect _ => true
  | .waitLimitExpired => true
  | .svcInterfaceVersion => true
  | .svcCycleCount => true
  | .svcFreshRandom => true
  | .svcUserRecord => true
  | .svcErrorInjection => true
  | .loopCsrWrite _ _ => true
  | .mdomainWrite _ => true
  | .minjectWrite _ => true
  | .mfaultlogSelect _ => true
  | .mfaultlogRelease _ => true
  | .csrRegisterWrite _ _ => true
  | .coldReset => true
  | .throttleWindow => true
  | .powerReport _ => true
  | .thermalSample _ _ => true
  | .unreachableMarkClear _ => true
  | .withheldFrameRelease _ => true
  | .firstTouchPoolRefill _ _ _ => true
  | .rootOfTrustFailover => true
  | .doubleFatalSporeRelease _ => true
  | .errorSummaryRelease _ => true
  | .hostWindowTableLoad _ => true
  | .hdmDecoderProgram _ _ _ => true
  | .ideKmRequest _ => true
  | .tileResetOrPowerGate _ => true
  | .powerRemoval => true

/-- An instruction whose operands pass their checks. -/
abbrev WellFormed (i : Instr) : Prop := wellFormed i = true

end Sys2Proof
end

