-- ==== Sys2Proof/Decode.lean ====
section
/-! DEFINITION. The decoder: one 32-bit word, or the bytes at the program counter, to an instruction or a named rejection
(R215-R222, R252, and the encoding tables of R291-R312, R317, R346-R356, R365-R366); and the encoder, from the same tables. -/

namespace Sys2Proof

/-- Bits `hi`:`lo` of a word. -/
def bitsOf (w hi lo : Nat) : Nat := w / 2 ^ lo % 2 ^ (hi + 1 - lo)

/-- Why a word is no instruction (R215, R221, R222, R252). -/
inductive Reject where
  /-- Bits 1:0 are not 0b11 (R215). -/
  | compressed
  /-- The major opcode is marked Illegal, MISC-MEM, AMO or reserved (R146, R147, R221). -/
  | illegalOpcode
  /-- The major opcode is assigned and the rest of the word is not (R221-R223, R252). -/
  | unassigned
  /-- Fewer than four bytes. -/
  | short
deriving DecidableEq, Repr

/-- A register number of a 5-bit field (R218). -/
def regOf (n : Nat) : Reg := Fin.ofNat 32 n

/-- The 12 immediate bits of an S or B word as they stand: bits 31:25, then 11:7 (R216). -/
def immS (w : Nat) : BitVec 12 := BitVec.ofNat 12 (bitsOf w 31 25 * 32 + bitsOf w 11 7)

/-- Words of major opcode 0x37. -/
def decode37 (w : Nat) : Option Instr :=
  some (.lui (regOf (bitsOf w 11 7)) (BitVec.ofNat 20 (bitsOf w 31 12)))

/-- Words of major opcode 0x17. -/
def decode17 (w : Nat) : Option Instr :=
  some (.auipc (regOf (bitsOf w 11 7)) (BitVec.ofNat 20 (bitsOf w 31 12)))

/-- Words of major opcode 0x6F. -/
def decode6F (w : Nat) : Option Instr :=
  some (.jal (regOf (bitsOf w 11 7)) (BitVec.ofNat 20 (bitsOf w 31 12)))

/-- Words of major opcode 0x67. -/
def decode67 (w : Nat) : Option Instr :=
  if bitsOf w 14 12 = 0 then
    some (.jalr (regOf (bitsOf w 11 7)) (regOf (bitsOf w 19 15)) (BitVec.ofNat 12 (bitsOf w 31 20)))
  else none

/-- Words of major opcode 0x63. -/
def decode63 (w : Nat) : Option Instr :=
  if bitsOf w 14 12 = 0 then
    some (.beq (regOf (bitsOf w 19 15)) (regOf (bitsOf w 24 20)) (immS w))
  else if bitsOf w 14 12 = 1 then
    some (.bne (regOf (bitsOf w 19 15)) (regOf (bitsOf w 24 20)) (immS w))
  else if bitsOf w 14 12 = 4 then
    some (.blt (regOf (bitsOf w 19 15)) (regOf (bitsOf w 24 20)) (immS w))
  else if bitsOf w 14 12 = 5 then
    some (.bge (regOf (bitsOf w 19 15)) (regOf (bitsOf w 24 20)) (immS w))
  else if bitsOf w 14 12 = 6 then
    some (.bltu (regOf (bitsOf w 19 15)) (regOf (bitsOf w 24 20)) (immS w))
  else if bitsOf w 14 12 = 7 then
    some (.bgeu (regOf (bitsOf w 19 15)) (regOf (bitsOf w 24 20)) (immS w))
  else none

/-- Words of major opcode 0x03. -/
def decode03 (w : Nat) : Option Instr :=
  if bitsOf w 14 12 = 0 then
    some (.lb (regOf (bitsOf w 11 7)) (regOf (bitsOf w 19 15)) (BitVec.ofNat 12 (bitsOf w 31 20)))
  else if bitsOf w 14 12 = 1 then
    some (.lh (regOf (bitsOf w 11 7)) (regOf (bitsOf w 19 15)) (BitVec.ofNat 12 (bitsOf w 31 20)))
  else if bitsOf w 14 12 = 2 then
    some (.lw (regOf (bitsOf w 11 7)) (regOf (bitsOf w 19 15)) (BitVec.ofNat 12 (bitsOf w 31 20)))
  else if bitsOf w 14 12 = 3 then
    some (.ld (regOf (bitsOf w 11 7)) (regOf (bitsOf w 19 15)) (BitVec.ofNat 12 (bitsOf w 31 20)))
  else if bitsOf w 14 12 = 4 then
    some (.lbu (regOf (bitsOf w 11 7)) (regOf (bitsOf w 19 15)) (BitVec.ofNat 12 (bitsOf w 31 20)))
  else if bitsOf w 14 12 = 5 then
    some (.lhu (regOf (bitsOf w 11 7)) (regOf (bitsOf w 19 15)) (BitVec.ofNat 12 (bitsOf w 31 20)))
  else if bitsOf w 14 12 = 6 then
    some (.lwu (regOf (bitsOf w 11 7)) (regOf (bitsOf w 19 15)) (BitVec.ofNat 12 (bitsOf w 31 20)))
  else none

/-- Words of major opcode 0x23. -/
def decode23 (w : Nat) : Option Instr :=
  if bitsOf w 14 12 = 0 then
    some (.sb (regOf (bitsOf w 19 15)) (regOf (bitsOf w 24 20)) (immS w))
  else if bitsOf w 14 12 = 1 then
    some (.sh (regOf (bitsOf w 19 15)) (regOf (bitsOf w 24 20)) (immS w))
  else if bitsOf w 14 12 = 2 then
    some (.sw (regOf (bitsOf w 19 15)) (regOf (bitsOf w 24 20)) (immS w))
  else if bitsOf w 14 12 = 3 then
    some (.sd (regOf (bitsOf w 19 15)) (regOf (bitsOf w 24 20)) (immS w))
  else none

/-- Words of major opcode 0x13. -/
def decode13 (w : Nat) : Option Instr :=
  if bitsOf w 14 12 = 0 then
    some (.addi (regOf (bitsOf w 11 7)) (regOf (bitsOf w 19 15)) (BitVec.ofNat 12 (bitsOf w 31 20)))
  else if bitsOf w 14 12 = 2 then
    some (.slti (regOf (bitsOf w 11 7)) (regOf (bitsOf w 19 15)) (BitVec.ofNat 12 (bitsOf w 31 20)))
  else if bitsOf w 14 12 = 3 then
    some (.sltiu (regOf (bitsOf w 11 7)) (regOf (bitsOf w 19 15)) (BitVec.ofNat 12 (bitsOf w 31 20)))
  else if bitsOf w 14 12 = 4 then
    some (.xori (regOf (bitsOf w 11 7)) (regOf (bitsOf w 19 15)) (BitVec.ofNat 12 (bitsOf w 31 20)))
  else if bitsOf w 14 12 = 6 then
    some (.ori (regOf (bitsOf w 11 7)) (regOf (bitsOf w 19 15)) (BitVec.ofNat 12 (bitsOf w 31 20)))
  else if bitsOf w 14 12 = 7 then
    some (.andi (regOf (bitsOf w 11 7)) (regOf (bitsOf w 19 15)) (BitVec.ofNat 12 (bitsOf w 31 20)))
  else if bitsOf w 14 12 = 1 ∧ bitsOf w 31 26 = 0 then
    some (.slli (regOf (bitsOf w 11 7)) (regOf (bitsOf w 19 15)) (BitVec.ofNat 6 (bitsOf w 25 20)))
  else if bitsOf w 14 12 = 5 ∧ bitsOf w 31 26 = 0 then
    some (.srli (regOf (bitsOf w 11 7)) (regOf (bitsOf w 19 15)) (BitVec.ofNat 6 (bitsOf w 25 20)))
  else if bitsOf w 14 12 = 5 ∧ bitsOf w 31 26 = 16 then
    some (.srai (regOf (bitsOf w 11 7)) (regOf (bitsOf w 19 15)) (BitVec.ofNat 6 (bitsOf w 25 20)))
  else none

/-- Words of major opcode 0x1B. -/
def decode1B (w : Nat) : Option Instr :=
  if bitsOf w 14 12 = 0 then
    some (.addiw (regOf (bitsOf w 11 7)) (regOf (bitsOf w 19 15)) (BitVec.ofNat 12 (bitsOf w 31 20)))
  else if bitsOf w 14 12 = 1 ∧ bitsOf w 31 25 = 0 then
    some (.slliw (regOf (bitsOf w 11 7)) (regOf (bitsOf w 19 15)) (BitVec.ofNat 5 (bitsOf w 24 20)))
  else if bitsOf w 14 12 = 5 ∧ bitsOf w 31 25 = 0 then
    some (.srliw (regOf (bitsOf w 11 7)) (regOf (bitsOf w 19 15)) (BitVec.ofNat 5 (bitsOf w 24 20)))
  else if bitsOf w 14 12 = 5 ∧ bitsOf w 31 25 = 32 then
    some (.sraiw (regOf (bitsOf w 11 7)) (regOf (bitsOf w 19 15)) (BitVec.ofNat 5 (bitsOf w 24 20)))
  else none

/-- Words of major opcode 0x33. -/
def decode33 (w : Nat) : Option Instr :=
  if bitsOf w 14 12 = 0 ∧ bitsOf w 31 25 = 0 then
    some (.add (regOf (bitsOf w 11 7)) (regOf (bitsOf w 19 15)) (regOf (bitsOf w 24 20)))
  else if bitsOf w 14 12 = 1 ∧ bitsOf w 31 25 = 0 then
    some (.sll (regOf (bitsOf w 11 7)) (regOf (bitsOf w 19 15)) (regOf (bitsOf w 24 20)))
  else if bitsOf w 14 12 = 2 ∧ bitsOf w 31 25 = 0 then
    some (.slt (regOf (bitsOf w 11 7)) (regOf (bitsOf w 19 15)) (regOf (bitsOf w 24 20)))
  else if bitsOf w 14 12 = 3 ∧ bitsOf w 31 25 = 0 then
    some (.sltu (regOf (bitsOf w 11 7)) (regOf (bitsOf w 19 15)) (regOf (bitsOf w 24 20)))
  else if bitsOf w 14 12 = 4 ∧ bitsOf w 31 25 = 0 then
    some (.xor (regOf (bitsOf w 11 7)) (regOf (bitsOf w 19 15)) (regOf (bitsOf w 24 20)))
  else if bitsOf w 14 12 = 5 ∧ bitsOf w 31 25 = 0 then
    some (.srl (regOf (bitsOf w 11 7)) (regOf (bitsOf w 19 15)) (regOf (bitsOf w 24 20)))
  else if bitsOf w 14 12 = 6 ∧ bitsOf w 31 25 = 0 then
    some (.or (regOf (bitsOf w 11 7)) (regOf (bitsOf w 19 15)) (regOf (bitsOf w 24 20)))
  else if bitsOf w 14 12 = 7 ∧ bitsOf w 31 25 = 0 then
    some (.and (regOf (bitsOf w 11 7)) (regOf (bitsOf w 19 15)) (regOf (bitsOf w 24 20)))
  else if bitsOf w 14 12 = 0 ∧ bitsOf w 31 25 = 32 then
    some (.sub (regOf (bitsOf w 11 7)) (regOf (bitsOf w 19 15)) (regOf (bitsOf w 24 20)))
  else if bitsOf w 14 12 = 5 ∧ bitsOf w 31 25 = 32 then
    some (.sra (regOf (bitsOf w 11 7)) (regOf (bitsOf w 19 15)) (regOf (bitsOf w 24 20)))
  else if bitsOf w 14 12 = 0 ∧ bitsOf w 31 25 = 1 then
    some (.mul (regOf (bitsOf w 11 7)) (regOf (bitsOf w 19 15)) (regOf (bitsOf w 24 20)))
  else if bitsOf w 14 12 = 1 ∧ bitsOf w 31 25 = 1 then
    some (.mulh (regOf (bitsOf w 11 7)) (regOf (bitsOf w 19 15)) (regOf (bitsOf w 24 20)))
  else if bitsOf w 14 12 = 2 ∧ bitsOf w 31 25 = 1 then
    some (.mulhsu (regOf (bitsOf w 11 7)) (regOf (bitsOf w 19 15)) (regOf (bitsOf w 24 20)))
  else if bitsOf w 14 12 = 3 ∧ bitsOf w 31 25 = 1 then
    some (.mulhu (regOf (bitsOf w 11 7)) (regOf (bitsOf w 19 15)) (regOf (bitsOf w 24 20)))
  else if bitsOf w 14 12 = 4 ∧ bitsOf w 31 25 = 1 then
    some (.div (regOf (bitsOf w 11 7)) (regOf (bitsOf w 19 15)) (regOf (bitsOf w 24 20)))
  else if bitsOf w 14 12 = 5 ∧ bitsOf w 31 25 = 1 then
    some (.divu (regOf (bitsOf w 11 7)) (regOf (bitsOf w 19 15)) (regOf (bitsOf w 24 20)))
  else if bitsOf w 14 12 = 6 ∧ bitsOf w 31 25 = 1 then
    some (.rem (regOf (bitsOf w 11 7)) (regOf (bitsOf w 19 15)) (regOf (bitsOf w 24 20)))
  else if bitsOf w 14 12 = 7 ∧ bitsOf w 31 25 = 1 then
    some (.remu (regOf (bitsOf w 11 7)) (regOf (bitsOf w 19 15)) (regOf (bitsOf w 24 20)))
  else if bitsOf w 14 12 = 1 ∧ bitsOf w 31 25 = 5 then
    some (.clmul (regOf (bitsOf w 11 7)) (regOf (bitsOf w 19 15)) (regOf (bitsOf w 24 20)))
  else if bitsOf w 14 12 = 2 ∧ bitsOf w 31 25 = 5 then
    some (.clmulr (regOf (bitsOf w 11 7)) (regOf (bitsOf w 19 15)) (regOf (bitsOf w 24 20)))
  else if bitsOf w 14 12 = 3 ∧ bitsOf w 31 25 = 5 then
    some (.clmulh (regOf (bitsOf w 11 7)) (regOf (bitsOf w 19 15)) (regOf (bitsOf w 24 20)))
  else none

/-- Words of major opcode 0x3B. -/
def decode3B (w : Nat) : Option Instr :=
  if bitsOf w 14 12 = 0 ∧ bitsOf w 31 25 = 0 then
    some (.addw (regOf (bitsOf w 11 7)) (regOf (bitsOf w 19 15)) (regOf (bitsOf w 24 20)))
  else if bitsOf w 14 12 = 1 ∧ bitsOf w 31 25 = 0 then
    some (.sllw (regOf (bitsOf w 11 7)) (regOf (bitsOf w 19 15)) (regOf (bitsOf w 24 20)))
  else if bitsOf w 14 12 = 5 ∧ bitsOf w 31 25 = 0 then
    some (.srlw (regOf (bitsOf w 11 7)) (regOf (bitsOf w 19 15)) (regOf (bitsOf w 24 20)))
  else if bitsOf w 14 12 = 0 ∧ bitsOf w 31 25 = 32 then
    some (.subw (regOf (bitsOf w 11 7)) (regOf (bitsOf w 19 15)) (regOf (bitsOf w 24 20)))
  else if bitsOf w 14 12 = 5 ∧ bitsOf w 31 25 = 32 then
    some (.sraw (regOf (bitsOf w 11 7)) (regOf (bitsOf w 19 15)) (regOf (bitsOf w 24 20)))
  else if bitsOf w 14 12 = 0 ∧ bitsOf w 31 25 = 1 then
    some (.mulw (regOf (bitsOf w 11 7)) (regOf (bitsOf w 19 15)) (regOf (bitsOf w 24 20)))
  else if bitsOf w 14 12 = 4 ∧ bitsOf w 31 25 = 1 then
    some (.divw (regOf (bitsOf w 11 7)) (regOf (bitsOf w 19 15)) (regOf (bitsOf w 24 20)))
  else if bitsOf w 14 12 = 5 ∧ bitsOf w 31 25 = 1 then
    some (.divuw (regOf (bitsOf w 11 7)) (regOf (bitsOf w 19 15)) (regOf (bitsOf w 24 20)))
  else if bitsOf w 14 12 = 6 ∧ bitsOf w 31 25 = 1 then
    some (.remw (regOf (bitsOf w 11 7)) (regOf (bitsOf w 19 15)) (regOf (bitsOf w 24 20)))
  else if bitsOf w 14 12 = 7 ∧ bitsOf w 31 25 = 1 then
    some (.remuw (regOf (bitsOf w 11 7)) (regOf (bitsOf w 19 15)) (regOf (bitsOf w 24 20)))
  else none

/-- Words of major opcode 0x73. -/
def decode73 (w : Nat) : Option Instr :=
  if bitsOf w 14 12 = 1 then
    some (.csrrw (regOf (bitsOf w 11 7)) (regOf (bitsOf w 19 15)) (BitVec.ofNat 12 (bitsOf w 31 20)))
  else if bitsOf w 14 12 = 2 then
    some (.csrrs (regOf (bitsOf w 11 7)) (regOf (bitsOf w 19 15)) (BitVec.ofNat 12 (bitsOf w 31 20)))
  else if bitsOf w 14 12 = 3 then
    some (.csrrc (regOf (bitsOf w 11 7)) (regOf (bitsOf w 19 15)) (BitVec.ofNat 12 (bitsOf w 31 20)))
  else if bitsOf w 14 12 = 5 then
    some (.csrrwi (regOf (bitsOf w 11 7)) (BitVec.ofNat 5 (bitsOf w 19 15)) (BitVec.ofNat 12 (bitsOf w 31 20)))
  else if bitsOf w 14 12 = 6 then
    some (.csrrsi (regOf (bitsOf w 11 7)) (BitVec.ofNat 5 (bitsOf w 19 15)) (BitVec.ofNat 12 (bitsOf w 31 20)))
  else if bitsOf w 14 12 = 7 then
    some (.csrrci (regOf (bitsOf w 11 7)) (BitVec.ofNat 5 (bitsOf w 19 15)) (BitVec.ofNat 12 (bitsOf w 31 20)))
  else if bitsOf w 11 7 = 0 ∧ bitsOf w 14 12 = 0 ∧ bitsOf w 31 15 = 0 then
    some (.ecall)
  else if bitsOf w 11 7 = 0 ∧ bitsOf w 14 12 = 0 ∧ bitsOf w 31 15 = 32 then
    some (.ebreak)
  else if bitsOf w 11 7 = 0 ∧ bitsOf w 14 12 = 0 ∧ bitsOf w 31 15 = 8352 then
    some (.wfi)
  else if bitsOf w 11 7 = 0 ∧ bitsOf w 14 12 = 0 ∧ bitsOf w 31 15 = 24640 then
    some (.mret)
  else none

/-- Words of major opcode 0x7B with funct3 5. -/
def decode7B_5 (w : Nat) : Option Instr :=
  if bitsOf w 11 7 = 0 ∧ bitsOf w 31 28 = 0 then
    some (.lpSet (regOf (bitsOf w 19 15)) (BitVec.ofNat 8 (bitsOf w 27 20)))
  else if bitsOf w 11 7 = 0 ∧ bitsOf w 19 15 = 0 ∧ bitsOf w 31 28 = 8 then
    some (.kpre (BitVec.ofNat 8 (bitsOf w 27 20)))
  else none

/-- Words of major opcode 0x7B with funct3 0. -/
def decode7B_0 (w : Nat) : Option Instr :=
  if bitsOf w 31 15 = 0 then
    some (.rgnOpen (regOf (bitsOf w 11 7)))
  else if bitsOf w 31 25 = 8 then
    some (.rgnKeep (regOf (bitsOf w 11 7)) (regOf (bitsOf w 19 15)) (regOf (bitsOf w 24 20)))
  else if bitsOf w 11 7 = 0 ∧ bitsOf w 31 15 = 16384 then
    some (.rgnClose)
  else if bitsOf w 11 7 = 0 ∧ bitsOf w 19 15 = 0 ∧ bitsOf w 31 28 = 3 then
    some (.rgnAbort (BitVec.ofNat 8 (bitsOf w 27 20)))
  else none

/-- Words of major opcode 0x7B with funct3 1. -/
def decode7B_1 (w : Nat) : Option Instr :=
  if bitsOf w 11 7 = 0 ∧ bitsOf w 31 20 = 0 then
    some (.snapTake (regOf (bitsOf w 19 15)))
  else if bitsOf w 11 7 = 0 ∧ bitsOf w 31 20 = 256 then
    some (.snapAccept (regOf (bitsOf w 19 15)))
  else if bitsOf w 11 7 = 0 ∧ bitsOf w 31 20 = 512 then
    some (.snapReject (regOf (bitsOf w 19 15)))
  else if bitsOf w 31 20 = 768 then
    some (.snapInfo (regOf (bitsOf w 11 7)) (regOf (bitsOf w 19 15)))
  else none

/-- Words of major opcode 0x7B with funct3 2. -/
def decode7B_2 (w : Nat) : Option Instr :=
  if bitsOf w 11 7 = 0 ∧ bitsOf w 31 22 = 0 then
    some (.barJoin (regOf (bitsOf w 19 15)) (BitVec.ofNat 2 (bitsOf w 21 20)))
  else if bitsOf w 11 7 = 0 ∧ bitsOf w 19 15 = 0 ∧ bitsOf w 31 22 = 64 then
    some (.barArrive (BitVec.ofNat 2 (bitsOf w 21 20)))
  else if bitsOf w 11 7 = 0 ∧ bitsOf w 19 15 = 0 ∧ bitsOf w 31 22 = 128 then
    some (.barWait (BitVec.ofNat 2 (bitsOf w 21 20)))
  else if bitsOf w 11 7 = 0 ∧ bitsOf w 31 26 = 12 then
    some (.xchBegin (regOf (bitsOf w 19 15)) (BitVec.ofNat 4 (bitsOf w 23 20)) (BitVec.ofNat 2 (bitsOf w 25 24)))
  else if bitsOf w 11 7 = 0 ∧ bitsOf w 31 20 = 1024 then
    some (.xchSend (regOf (bitsOf w 19 15)))
  else if bitsOf w 31 15 = 40960 then
    some (.xchEnd (regOf (bitsOf w 11 7)))
  else none

/-- Words of major opcode 0x7B with funct3 3. -/
def decode7B_3 (w : Nat) : Option Instr :=
  if bitsOf w 11 7 = 0 ∧ bitsOf w 19 15 = 0 ∧ bitsOf w 31 28 = 0 then
    some (.gangForm (BitVec.ofNat 8 (bitsOf w 27 20)))
  else if bitsOf w 11 7 = 0 ∧ bitsOf w 31 15 = 8192 then
    some (.gangSplit)
  else if bitsOf w 11 7 = 0 ∧ bitsOf w 31 15 = 16384 then
    some (.gangJoin)
  else none

/-- Words of major opcode 0x7B with funct3 4. -/
def decode7B_4 (w : Nat) : Option Instr :=
  if bitsOf w 19 15 = 0 ∧ bitsOf w 31 23 = 0 then
    some (.waitQ (regOf (bitsOf w 11 7)) (BitVec.ofNat 3 (bitsOf w 22 20)))
  else if bitsOf w 31 20 = 256 then
    some (.waitJob (regOf (bitsOf w 11 7)) (regOf (bitsOf w 19 15)))
  else none

/-- Words of major opcode 0x7B with funct3 6. -/
def decode7B_6 (w : Nat) : Option Instr :=
  if bitsOf w 31 25 = 0 then
    some (.lnchPost (regOf (bitsOf w 11 7)) (regOf (bitsOf w 19 15)) (regOf (bitsOf w 24 20)))
  else if bitsOf w 11 7 = 0 ∧ bitsOf w 31 20 = 256 then
    some (.lnchDone (regOf (bitsOf w 19 15)))
  else none

/-- Words of major opcode 0x7B with funct3 7. -/
def decode7B_7 (w : Nat) : Option Instr :=
  if bitsOf w 31 21 = 0 then
    some (.sysPark (regOf (bitsOf w 11 7)) (regOf (bitsOf w 19 15)) (BitVec.ofNat 1 (bitsOf w 20 20)))
  else if bitsOf w 31 20 = 256 then
    some (.sysRevive (regOf (bitsOf w 11 7)) (regOf (bitsOf w 19 15)))
  else if bitsOf w 11 7 = 0 ∧ bitsOf w 31 20 = 512 then
    some (.sysHalt (regOf (bitsOf w 19 15)))
  else none

/-- Words of major opcode 0x0B with funct3 0. -/
def decode0B_0 (w : Nat) : Option Instr :=
  if bitsOf w 31 27 = 0 then
    some (.vaddVv (regOf (bitsOf w 11 7)) (regOf (bitsOf w 19 15)) (regOf (bitsOf w 24 20)) (BitVec.ofNat 2 (bitsOf w 26 25)))
  else if bitsOf w 31 27 = 1 then
    some (.vsubVv (regOf (bitsOf w 11 7)) (regOf (bitsOf w 19 15)) (regOf (bitsOf w 24 20)) (BitVec.ofNat 2 (bitsOf w 26 25)))
  else if bitsOf w 31 27 = 2 then
    some (.vmulVv (regOf (bitsOf w 11 7)) (regOf (bitsOf w 19 15)) (regOf (bitsOf w 24 20)) (BitVec.ofNat 2 (bitsOf w 26 25)))
  else if bitsOf w 31 27 = 3 then
    some (.vmulhVv (regOf (bitsOf w 11 7)) (regOf (bitsOf w 19 15)) (regOf (bitsOf w 24 20)) (BitVec.ofNat 2 (bitsOf w 26 25)))
  else if bitsOf w 31 27 = 4 then
    some (.vmulhuVv (regOf (bitsOf w 11 7)) (regOf (bitsOf w 19 15)) (regOf (bitsOf w 24 20)) (BitVec.ofNat 2 (bitsOf w 26 25)))
  else if bitsOf w 31 27 = 5 then
    some (.vandVv (regOf (bitsOf w 11 7)) (regOf (bitsOf w 19 15)) (regOf (bitsOf w 24 20)) (BitVec.ofNat 2 (bitsOf w 26 25)))
  else if bitsOf w 31 27 = 6 then
    some (.vorVv (regOf (bitsOf w 11 7)) (regOf (bitsOf w 19 15)) (regOf (bitsOf w 24 20)) (BitVec.ofNat 2 (bitsOf w 26 25)))
  else if bitsOf w 31 27 = 7 then
    some (.vxorVv (regOf (bitsOf w 11 7)) (regOf (bitsOf w 19 15)) (regOf (bitsOf w 24 20)) (BitVec.ofNat 2 (bitsOf w 26 25)))
  else if bitsOf w 31 27 = 8 then
    some (.vsllVv (regOf (bitsOf w 11 7)) (regOf (bitsOf w 19 15)) (regOf (bitsOf w 24 20)) (BitVec.ofNat 2 (bitsOf w 26 25)))
  else if bitsOf w 31 27 = 9 then
    some (.vsrlVv (regOf (bitsOf w 11 7)) (regOf (bitsOf w 19 15)) (regOf (bitsOf w 24 20)) (BitVec.ofNat 2 (bitsOf w 26 25)))
  else if bitsOf w 31 27 = 10 then
    some (.vsraVv (regOf (bitsOf w 11 7)) (regOf (bitsOf w 19 15)) (regOf (bitsOf w 24 20)) (BitVec.ofNat 2 (bitsOf w 26 25)))
  else if bitsOf w 31 27 = 11 then
    some (.vminVv (regOf (bitsOf w 11 7)) (regOf (bitsOf w 19 15)) (regOf (bitsOf w 24 20)) (BitVec.ofNat 2 (bitsOf w 26 25)))
  else if bitsOf w 31 27 = 12 then
    some (.vmaxVv (regOf (bitsOf w 11 7)) (regOf (bitsOf w 19 15)) (regOf (bitsOf w 24 20)) (BitVec.ofNat 2 (bitsOf w 26 25)))
  else if bitsOf w 31 27 = 13 then
    some (.vminuVv (regOf (bitsOf w 11 7)) (regOf (bitsOf w 19 15)) (regOf (bitsOf w 24 20)) (BitVec.ofNat 2 (bitsOf w 26 25)))
  else if bitsOf w 31 27 = 14 then
    some (.vmaxuVv (regOf (bitsOf w 11 7)) (regOf (bitsOf w 19 15)) (regOf (bitsOf w 24 20)) (BitVec.ofNat 2 (bitsOf w 26 25)))
  else if bitsOf w 31 27 = 15 then
    some (.vseqVv (regOf (bitsOf w 11 7)) (regOf (bitsOf w 19 15)) (regOf (bitsOf w 24 20)) (BitVec.ofNat 2 (bitsOf w 26 25)))
  else if bitsOf w 31 27 = 16 then
    some (.vsltVv (regOf (bitsOf w 11 7)) (regOf (bitsOf w 19 15)) (regOf (bitsOf w 24 20)) (BitVec.ofNat 2 (bitsOf w 26 25)))
  else if bitsOf w 31 27 = 17 then
    some (.vsltuVv (regOf (bitsOf w 11 7)) (regOf (bitsOf w 19 15)) (regOf (bitsOf w 24 20)) (BitVec.ofNat 2 (bitsOf w 26 25)))
  else if bitsOf w 31 27 = 18 then
    some (.vsel (regOf (bitsOf w 11 7)) (regOf (bitsOf w 19 15)) (regOf (bitsOf w 24 20)) (BitVec.ofNat 2 (bitsOf w 26 25)))
  else none

/-- Words of major opcode 0x0B with funct3 1. -/
def decode0B_1 (w : Nat) : Option Instr :=
  if bitsOf w 31 27 = 0 then
    some (.vaddVx (regOf (bitsOf w 11 7)) (regOf (bitsOf w 19 15)) (regOf (bitsOf w 24 20)) (BitVec.ofNat 2 (bitsOf w 26 25)))
  else if bitsOf w 31 27 = 1 then
    some (.vsubVx (regOf (bitsOf w 11 7)) (regOf (bitsOf w 19 15)) (regOf (bitsOf w 24 20)) (BitVec.ofNat 2 (bitsOf w 26 25)))
  else if bitsOf w 31 27 = 2 then
    some (.vmulVx (regOf (bitsOf w 11 7)) (regOf (bitsOf w 19 15)) (regOf (bitsOf w 24 20)) (BitVec.ofNat 2 (bitsOf w 26 25)))
  else if bitsOf w 31 27 = 3 then
    some (.vmulhVx (regOf (bitsOf w 11 7)) (regOf (bitsOf w 19 15)) (regOf (bitsOf w 24 20)) (BitVec.ofNat 2 (bitsOf w 26 25)))
  else if bitsOf w 31 27 = 4 then
    some (.vmulhuVx (regOf (bitsOf w 11 7)) (regOf (bitsOf w 19 15)) (regOf (bitsOf w 24 20)) (BitVec.ofNat 2 (bitsOf w 26 25)))
  else if bitsOf w 31 27 = 5 then
    some (.vandVx (regOf (bitsOf w 11 7)) (regOf (bitsOf w 19 15)) (regOf (bitsOf w 24 20)) (BitVec.ofNat 2 (bitsOf w 26 25)))
  else if bitsOf w 31 27 = 6 then
    some (.vorVx (regOf (bitsOf w 11 7)) (regOf (bitsOf w 19 15)) (regOf (bitsOf w 24 20)) (BitVec.ofNat 2 (bitsOf w 26 25)))
  else if bitsOf w 31 27 = 7 then
    some (.vxorVx (regOf (bitsOf w 11 7)) (regOf (bitsOf w 19 15)) (regOf (bitsOf w 24 20)) (BitVec.ofNat 2 (bitsOf w 26 25)))
  else if bitsOf w 31 27 = 8 then
    some (.vsllVx (regOf (bitsOf w 11 7)) (regOf (bitsOf w 19 15)) (regOf (bitsOf w 24 20)) (BitVec.ofNat 2 (bitsOf w 26 25)))
  else if bitsOf w 31 27 = 9 then
    some (.vsrlVx (regOf (bitsOf w 11 7)) (regOf (bitsOf w 19 15)) (regOf (bitsOf w 24 20)) (BitVec.ofNat 2 (bitsOf w 26 25)))
  else if bitsOf w 31 27 = 10 then
    some (.vsraVx (regOf (bitsOf w 11 7)) (regOf (bitsOf w 19 15)) (regOf (bitsOf w 24 20)) (BitVec.ofNat 2 (bitsOf w 26 25)))
  else if bitsOf w 31 27 = 11 then
    some (.vminVx (regOf (bitsOf w 11 7)) (regOf (bitsOf w 19 15)) (regOf (bitsOf w 24 20)) (BitVec.ofNat 2 (bitsOf w 26 25)))
  else if bitsOf w 31 27 = 12 then
    some (.vmaxVx (regOf (bitsOf w 11 7)) (regOf (bitsOf w 19 15)) (regOf (bitsOf w 24 20)) (BitVec.ofNat 2 (bitsOf w 26 25)))
  else if bitsOf w 31 27 = 13 then
    some (.vminuVx (regOf (bitsOf w 11 7)) (regOf (bitsOf w 19 15)) (regOf (bitsOf w 24 20)) (BitVec.ofNat 2 (bitsOf w 26 25)))
  else if bitsOf w 31 27 = 14 then
    some (.vmaxuVx (regOf (bitsOf w 11 7)) (regOf (bitsOf w 19 15)) (regOf (bitsOf w 24 20)) (BitVec.ofNat 2 (bitsOf w 26 25)))
  else if bitsOf w 31 27 = 15 then
    some (.vseqVx (regOf (bitsOf w 11 7)) (regOf (bitsOf w 19 15)) (regOf (bitsOf w 24 20)) (BitVec.ofNat 2 (bitsOf w 26 25)))
  else if bitsOf w 31 27 = 16 then
    some (.vsltVx (regOf (bitsOf w 11 7)) (regOf (bitsOf w 19 15)) (regOf (bitsOf w 24 20)) (BitVec.ofNat 2 (bitsOf w 26 25)))
  else if bitsOf w 31 27 = 17 then
    some (.vsltuVx (regOf (bitsOf w 11 7)) (regOf (bitsOf w 19 15)) (regOf (bitsOf w 24 20)) (BitVec.ofNat 2 (bitsOf w 26 25)))
  else none

/-- Words of major opcode 0x0B with funct3 2. -/
def decode0B_2 (w : Nat) : Option Instr :=
  if bitsOf w 31 27 = 0 then
    some (.vfaddVv (regOf (bitsOf w 11 7)) (regOf (bitsOf w 19 15)) (regOf (bitsOf w 24 20)) (BitVec.ofNat 2 (bitsOf w 26 25)))
  else if bitsOf w 31 27 = 1 then
    some (.vfsubVv (regOf (bitsOf w 11 7)) (regOf (bitsOf w 19 15)) (regOf (bitsOf w 24 20)) (BitVec.ofNat 2 (bitsOf w 26 25)))
  else if bitsOf w 31 27 = 2 then
    some (.vfmulVv (regOf (bitsOf w 11 7)) (regOf (bitsOf w 19 15)) (regOf (bitsOf w 24 20)) (BitVec.ofNat 2 (bitsOf w 26 25)))
  else if bitsOf w 31 27 = 3 then
    some (.vfmaVv (regOf (bitsOf w 11 7)) (regOf (bitsOf w 19 15)) (regOf (bitsOf w 24 20)) (BitVec.ofNat 2 (bitsOf w 26 25)))
  else if bitsOf w 31 27 = 4 then
    some (.vfmsVv (regOf (bitsOf w 11 7)) (regOf (bitsOf w 19 15)) (regOf (bitsOf w 24 20)) (BitVec.ofNat 2 (bitsOf w 26 25)))
  else if bitsOf w 31 27 = 5 then
    some (.vfnmaVv (regOf (bitsOf w 11 7)) (regOf (bitsOf w 19 15)) (regOf (bitsOf w 24 20)) (BitVec.ofNat 2 (bitsOf w 26 25)))
  else if bitsOf w 31 27 = 6 then
    some (.vfminVv (regOf (bitsOf w 11 7)) (regOf (bitsOf w 19 15)) (regOf (bitsOf w 24 20)) (BitVec.ofNat 2 (bitsOf w 26 25)))
  else if bitsOf w 31 27 = 7 then
    some (.vfmaxVv (regOf (bitsOf w 11 7)) (regOf (bitsOf w 19 15)) (regOf (bitsOf w 24 20)) (BitVec.ofNat 2 (bitsOf w 26 25)))
  else if bitsOf w 31 27 = 8 then
    some (.vfeqVv (regOf (bitsOf w 11 7)) (regOf (bitsOf w 19 15)) (regOf (bitsOf w 24 20)) (BitVec.ofNat 2 (bitsOf w 26 25)))
  else if bitsOf w 31 27 = 9 then
    some (.vfltVv (regOf (bitsOf w 11 7)) (regOf (bitsOf w 19 15)) (regOf (bitsOf w 24 20)) (BitVec.ofNat 2 (bitsOf w 26 25)))
  else if bitsOf w 31 27 = 10 then
    some (.vfleVv (regOf (bitsOf w 11 7)) (regOf (bitsOf w 19 15)) (regOf (bitsOf w 24 20)) (BitVec.ofNat 2 (bitsOf w 26 25)))
  else if bitsOf w 31 27 = 11 then
    some (.vfsgnjVv (regOf (bitsOf w 11 7)) (regOf (bitsOf w 19 15)) (regOf (bitsOf w 24 20)) (BitVec.ofNat 2 (bitsOf w 26 25)))
  else if bitsOf w 24 20 = 0 ∧ bitsOf w 31 27 = 12 then
    some (.vfclass (regOf (bitsOf w 11 7)) (regOf (bitsOf w 19 15)) (BitVec.ofNat 2 (bitsOf w 26 25)))
  else if bitsOf w 24 20 = 0 ∧ bitsOf w 31 27 = 13 then
    some (.vfcvtIf (regOf (bitsOf w 11 7)) (regOf (bitsOf w 19 15)) (BitVec.ofNat 2 (bitsOf w 26 25)))
  else if bitsOf w 24 20 = 0 ∧ bitsOf w 31 27 = 14 then
    some (.vfcvtFi (regOf (bitsOf w 11 7)) (regOf (bitsOf w 19 15)) (BitVec.ofNat 2 (bitsOf w 26 25)))
  else if bitsOf w 31 25 = 62 then
    some (.vncvt (regOf (bitsOf w 11 7)) (regOf (bitsOf w 19 15)) (BitVec.ofNat 5 (bitsOf w 24 20)))
  else if bitsOf w 31 25 = 66 then
    some (.vwcvt (regOf (bitsOf w 11 7)) (regOf (bitsOf w 19 15)) (BitVec.ofNat 5 (bitsOf w 24 20)))
  else none

/-- Words of major opcode 0x0B with funct3 3. -/
def decode0B_3 (w : Nat) : Option Instr :=
  if bitsOf w 31 27 = 0 then
    some (.vfaddVx (regOf (bitsOf w 11 7)) (regOf (bitsOf w 19 15)) (regOf (bitsOf w 24 20)) (BitVec.ofNat 2 (bitsOf w 26 25)))
  else if bitsOf w 31 27 = 1 then
    some (.vfsubVx (regOf (bitsOf w 11 7)) (regOf (bitsOf w 19 15)) (regOf (bitsOf w 24 20)) (BitVec.ofNat 2 (bitsOf w 26 25)))
  else if bitsOf w 31 27 = 2 then
    some (.vfmulVx (regOf (bitsOf w 11 7)) (regOf (bitsOf w 19 15)) (regOf (bitsOf w 24 20)) (BitVec.ofNat 2 (bitsOf w 26 25)))
  else if bitsOf w 31 27 = 3 then
    some (.vfmaVx (regOf (bitsOf w 11 7)) (regOf (bitsOf w 19 15)) (regOf (bitsOf w 24 20)) (BitVec.ofNat 2 (bitsOf w 26 25)))
  else if bitsOf w 31 27 = 4 then
    some (.vfmsVx (regOf (bitsOf w 11 7)) (regOf (bitsOf w 19 15)) (regOf (bitsOf w 24 20)) (BitVec.ofNat 2 (bitsOf w 26 25)))
  else if bitsOf w 31 27 = 5 then
    some (.vfnmaVx (regOf (bitsOf w 11 7)) (regOf (bitsOf w 19 15)) (regOf (bitsOf w 24 20)) (BitVec.ofNat 2 (bitsOf w 26 25)))
  else if bitsOf w 31 27 = 6 then
    some (.vfminVx (regOf (bitsOf w 11 7)) (regOf (bitsOf w 19 15)) (regOf (bitsOf w 24 20)) (BitVec.ofNat 2 (bitsOf w 26 25)))
  else if bitsOf w 31 27 = 7 then
    some (.vfmaxVx (regOf (bitsOf w 11 7)) (regOf (bitsOf w 19 15)) (regOf (bitsOf w 24 20)) (BitVec.ofNat 2 (bitsOf w 26 25)))
  else if bitsOf w 31 27 = 8 then
    some (.vfeqVx (regOf (bitsOf w 11 7)) (regOf (bitsOf w 19 15)) (regOf (bitsOf w 24 20)) (BitVec.ofNat 2 (bitsOf w 26 25)))
  else if bitsOf w 31 27 = 9 then
    some (.vfltVx (regOf (bitsOf w 11 7)) (regOf (bitsOf w 19 15)) (regOf (bitsOf w 24 20)) (BitVec.ofNat 2 (bitsOf w 26 25)))
  else if bitsOf w 31 27 = 10 then
    some (.vfleVx (regOf (bitsOf w 11 7)) (regOf (bitsOf w 19 15)) (regOf (bitsOf w 24 20)) (BitVec.ofNat 2 (bitsOf w 26 25)))
  else if bitsOf w 31 27 = 11 then
    some (.vfsgnjVx (regOf (bitsOf w 11 7)) (regOf (bitsOf w 19 15)) (regOf (bitsOf w 24 20)) (BitVec.ofNat 2 (bitsOf w 26 25)))
  else none

/-- Words of major opcode 0x0B with funct3 5. -/
def decode0B_5 (w : Nat) : Option Instr :=
  if bitsOf w 31 27 = 0 then
    some (.vredsum (regOf (bitsOf w 11 7)) (regOf (bitsOf w 19 15)) (regOf (bitsOf w 24 20)) (BitVec.ofNat 2 (bitsOf w 26 25)))
  else if bitsOf w 31 27 = 1 then
    some (.vredmax (regOf (bitsOf w 11 7)) (regOf (bitsOf w 19 15)) (regOf (bitsOf w 24 20)) (BitVec.ofNat 2 (bitsOf w 26 25)))
  else if bitsOf w 31 27 = 2 then
    some (.vredmin (regOf (bitsOf w 11 7)) (regOf (bitsOf w 19 15)) (regOf (bitsOf w 24 20)) (BitVec.ofNat 2 (bitsOf w 26 25)))
  else if bitsOf w 31 27 = 3 then
    some (.vfredsum (regOf (bitsOf w 11 7)) (regOf (bitsOf w 19 15)) (regOf (bitsOf w 24 20)) (BitVec.ofNat 2 (bitsOf w 26 25)))
  else if bitsOf w 31 27 = 4 then
    some (.vfredmax (regOf (bitsOf w 11 7)) (regOf (bitsOf w 19 15)) (regOf (bitsOf w 24 20)) (BitVec.ofNat 2 (bitsOf w 26 25)))
  else if bitsOf w 31 27 = 5 then
    some (.vfredmin (regOf (bitsOf w 11 7)) (regOf (bitsOf w 19 15)) (regOf (bitsOf w 24 20)) (BitVec.ofNat 2 (bitsOf w 26 25)))
  else if bitsOf w 31 27 = 6 then
    some (.vslideup (regOf (bitsOf w 11 7)) (regOf (bitsOf w 19 15)) (regOf (bitsOf w 24 20)) (BitVec.ofNat 2 (bitsOf w 26 25)))
  else if bitsOf w 31 27 = 7 then
    some (.vslidedn (regOf (bitsOf w 11 7)) (regOf (bitsOf w 19 15)) (regOf (bitsOf w 24 20)) (BitVec.ofNat 2 (bitsOf w 26 25)))
  else if bitsOf w 31 27 = 8 then
    some (.vgather (regOf (bitsOf w 11 7)) (regOf (bitsOf w 19 15)) (regOf (bitsOf w 24 20)) (BitVec.ofNat 2 (bitsOf w 26 25)))
  else if bitsOf w 31 20 = 1152 then
    some (.vpopc (regOf (bitsOf w 11 7)) (regOf (bitsOf w 19 15)))
  else if bitsOf w 31 20 = 1280 then
    some (.vfirst (regOf (bitsOf w 11 7)) (regOf (bitsOf w 19 15)))
  else none

/-- Words of major opcode 0x0B with funct3 6. -/
def decode0B_6 (w : Nat) : Option Instr :=
  if bitsOf w 31 26 = 1 then
    some (.vfdiv (regOf (bitsOf w 11 7)) (regOf (bitsOf w 19 15)) (regOf (bitsOf w 24 20)) (BitVec.ofNat 1 (bitsOf w 25 25)))
  else if bitsOf w 24 20 = 0 ∧ bitsOf w 31 26 = 3 then
    some (.vfsqrt (regOf (bitsOf w 11 7)) (regOf (bitsOf w 19 15)) (BitVec.ofNat 1 (bitsOf w 25 25)))
  else if bitsOf w 31 20 = 320 then
    some (.vfrcp (regOf (bitsOf w 11 7)) (regOf (bitsOf w 19 15)))
  else if bitsOf w 31 20 = 448 then
    some (.vfexp2 (regOf (bitsOf w 11 7)) (regOf (bitsOf w 19 15)))
  else if bitsOf w 31 25 = 19 then
    some (.vclmul (regOf (bitsOf w 11 7)) (regOf (bitsOf w 19 15)) (regOf (bitsOf w 24 20)))
  else if bitsOf w 31 25 = 23 then
    some (.vclmulh (regOf (bitsOf w 11 7)) (regOf (bitsOf w 19 15)) (regOf (bitsOf w 24 20)))
  else none

/-- Words of major opcode 0x0B with funct3 7. -/
def decode0B_7 (w : Nat) : Option Instr :=
  if bitsOf w 24 21 = 0 ∧ bitsOf w 31 27 = 0 then
    some (.vcfg (regOf (bitsOf w 11 7)) (regOf (bitsOf w 19 15)) (BitVec.ofNat 1 (bitsOf w 20 20)) (BitVec.ofNat 2 (bitsOf w 26 25)))
  else if bitsOf w 19 15 = 0 ∧ bitsOf w 31 27 = 1 then
    some (.vmvVx (regOf (bitsOf w 11 7)) (regOf (bitsOf w 24 20)) (BitVec.ofNat 2 (bitsOf w 26 25)))
  else if bitsOf w 31 27 = 2 then
    some (.vmvXv (regOf (bitsOf w 11 7)) (regOf (bitsOf w 19 15)) (regOf (bitsOf w 24 20)) (BitVec.ofNat 2 (bitsOf w 26 25)))
  else if bitsOf w 24 20 = 0 ∧ bitsOf w 31 27 = 3 then
    some (.vmvVv (regOf (bitsOf w 11 7)) (regOf (bitsOf w 19 15)) (BitVec.ofNat 2 (bitsOf w 26 25)))
  else if bitsOf w 24 15 = 0 ∧ bitsOf w 31 27 = 4 then
    some (.vid (regOf (bitsOf w 11 7)) (BitVec.ofNat 2 (bitsOf w 26 25)))
  else none

/-- Words of major opcode 0x0B with funct3 4. -/
def decode0B_4 (w : Nat) : Option Instr :=
  if bitsOf w 19 15 = 0 ∧ bitsOf w 31 30 = 0 then
    some (.vmvVk (regOf (bitsOf w 11 7)) (BitVec.ofNat 8 (bitsOf w 27 20)) (BitVec.ofNat 2 (bitsOf w 29 28)))
  else none

/-- Words of major opcode 0x2B with funct3 0. -/
def decode2B_0 (w : Nat) : Option Instr :=
  if bitsOf w 11 7 = 0 ∧ bitsOf w 31 20 = 128 then
    some (.capFree (regOf (bitsOf w 19 15)))
  else if bitsOf w 31 20 = 896 then
    some (.capReclaim (regOf (bitsOf w 11 7)) (regOf (bitsOf w 19 15)))
  else if bitsOf w 31 20 = 1024 then
    some (.capSealX (regOf (bitsOf w 11 7)) (regOf (bitsOf w 19 15)))
  else if bitsOf w 31 20 = 1152 then
    some (.capMov (regOf (bitsOf w 11 7)) (regOf (bitsOf w 19 15)))
  else if bitsOf w 31 25 = 0 then
    some (.capAlloc (regOf (bitsOf w 11 7)) (regOf (bitsOf w 19 15)) (BitVec.ofNat 5 (bitsOf w 24 20)))
  else if bitsOf w 31 25 = 8 then
    some (.capCarve (regOf (bitsOf w 11 7)) (regOf (bitsOf w 19 15)) (regOf (bitsOf w 24 20)))
  else if bitsOf w 31 25 = 12 then
    some (.capMerge (regOf (bitsOf w 11 7)) (regOf (bitsOf w 19 15)) (regOf (bitsOf w 24 20)))
  else if bitsOf w 31 25 = 16 then
    some (.capNarrow (regOf (bitsOf w 11 7)) (regOf (bitsOf w 19 15)) (regOf (bitsOf w 24 20)))
  else if bitsOf w 31 25 = 20 then
    some (.capSplitR (regOf (bitsOf w 11 7)) (regOf (bitsOf w 19 15)) (regOf (bitsOf w 24 20)))
  else if bitsOf w 31 25 = 24 then
    some (.capSplitF (regOf (bitsOf w 11 7)) (regOf (bitsOf w 19 15)) (regOf (bitsOf w 24 20)))
  else if bitsOf w 31 25 = 28 then
    some (.capJoin (regOf (bitsOf w 11 7)) (regOf (bitsOf w 19 15)) (regOf (bitsOf w 24 20)))
  else if bitsOf w 31 25 = 40 then
    some (.capGet (regOf (bitsOf w 11 7)) (regOf (bitsOf w 19 15)) (regOf (bitsOf w 24 20)))
  else if bitsOf w 31 25 = 44 then
    some (.capFmt (regOf (bitsOf w 11 7)) (regOf (bitsOf w 19 15)) (regOf (bitsOf w 24 20)))
  else none

/-- Words of major opcode 0x2B with funct3 1. -/
def decode2B_1 (w : Nat) : Option Instr :=
  if bitsOf w 27 25 = 0 then
    some (.cldB (regOf (bitsOf w 11 7)) (regOf (bitsOf w 19 15)) (regOf (bitsOf w 24 20)) (BitVec.ofNat 4 (bitsOf w 31 28)))
  else if bitsOf w 27 25 = 1 then
    some (.cldH (regOf (bitsOf w 11 7)) (regOf (bitsOf w 19 15)) (regOf (bitsOf w 24 20)) (BitVec.ofNat 4 (bitsOf w 31 28)))
  else if bitsOf w 27 25 = 2 then
    some (.cldW (regOf (bitsOf w 11 7)) (regOf (bitsOf w 19 15)) (regOf (bitsOf w 24 20)) (BitVec.ofNat 4 (bitsOf w 31 28)))
  else if bitsOf w 27 25 = 3 then
    some (.cldD (regOf (bitsOf w 11 7)) (regOf (bitsOf w 19 15)) (regOf (bitsOf w 24 20)) (BitVec.ofNat 4 (bitsOf w 31 28)))
  else if bitsOf w 27 25 = 4 then
    some (.cldBu (regOf (bitsOf w 11 7)) (regOf (bitsOf w 19 15)) (regOf (bitsOf w 24 20)) (BitVec.ofNat 4 (bitsOf w 31 28)))
  else if bitsOf w 27 25 = 5 then
    some (.cldHu (regOf (bitsOf w 11 7)) (regOf (bitsOf w 19 15)) (regOf (bitsOf w 24 20)) (BitVec.ofNat 4 (bitsOf w 31 28)))
  else if bitsOf w 27 25 = 6 then
    some (.cldWu (regOf (bitsOf w 11 7)) (regOf (bitsOf w 19 15)) (regOf (bitsOf w 24 20)) (BitVec.ofNat 4 (bitsOf w 31 28)))
  else none

/-- Words of major opcode 0x2B with funct3 2. -/
def decode2B_2 (w : Nat) : Option Instr :=
  if bitsOf w 27 25 = 0 then
    some (.cstB (regOf (bitsOf w 11 7)) (regOf (bitsOf w 19 15)) (regOf (bitsOf w 24 20)) (BitVec.ofNat 4 (bitsOf w 31 28)))
  else if bitsOf w 27 25 = 1 then
    some (.cstH (regOf (bitsOf w 11 7)) (regOf (bitsOf w 19 15)) (regOf (bitsOf w 24 20)) (BitVec.ofNat 4 (bitsOf w 31 28)))
  else if bitsOf w 27 25 = 2 then
    some (.cstW (regOf (bitsOf w 11 7)) (regOf (bitsOf w 19 15)) (regOf (bitsOf w 24 20)) (BitVec.ofNat 4 (bitsOf w 31 28)))
  else if bitsOf w 27 25 = 3 then
    some (.cstD (regOf (bitsOf w 11 7)) (regOf (bitsOf w 19 15)) (regOf (bitsOf w 24 20)) (BitVec.ofNat 4 (bitsOf w 31 28)))
  else if bitsOf w 27 25 = 4 then
    some (.cfoldW (regOf (bitsOf w 11 7)) (regOf (bitsOf w 19 15)) (regOf (bitsOf w 24 20)) (BitVec.ofNat 4 (bitsOf w 31 28)))
  else if bitsOf w 27 25 = 5 then
    some (.cfoldD (regOf (bitsOf w 11 7)) (regOf (bitsOf w 19 15)) (regOf (bitsOf w 24 20)) (BitVec.ofNat 4 (bitsOf w 31 28)))
  else none

/-- Words of major opcode 0x2B with funct3 3. -/
def decode2B_3 (w : Nat) : Option Instr :=
  if bitsOf w 26 25 = 0 then
    some (.vcld (regOf (bitsOf w 11 7)) (regOf (bitsOf w 19 15)) (regOf (bitsOf w 24 20)) (BitVec.ofNat 5 (bitsOf w 31 27)))
  else if bitsOf w 26 25 = 1 then
    some (.vclds (regOf (bitsOf w 11 7)) (regOf (bitsOf w 19 15)) (regOf (bitsOf w 24 20)) (BitVec.ofNat 5 (bitsOf w 31 27)))
  else if bitsOf w 26 25 = 2 then
    some (.vcldx (regOf (bitsOf w 11 7)) (regOf (bitsOf w 19 15)) (regOf (bitsOf w 24 20)) (BitVec.ofNat 5 (bitsOf w 31 27)))
  else none

/-- Words of major opcode 0x2B with funct3 4. -/
def decode2B_4 (w : Nat) : Option Instr :=
  if bitsOf w 26 25 = 0 then
    some (.vcst (regOf (bitsOf w 11 7)) (regOf (bitsOf w 19 15)) (regOf (bitsOf w 24 20)) (BitVec.ofNat 5 (bitsOf w 31 27)))
  else if bitsOf w 26 25 = 1 then
    some (.vcsts (regOf (bitsOf w 11 7)) (regOf (bitsOf w 19 15)) (regOf (bitsOf w 24 20)) (BitVec.ofNat 5 (bitsOf w 31 27)))
  else if bitsOf w 26 25 = 2 then
    some (.vcstx (regOf (bitsOf w 11 7)) (regOf (bitsOf w 19 15)) (regOf (bitsOf w 24 20)) (BitVec.ofNat 5 (bitsOf w 31 27)))
  else none

/-- Words of major opcode 0x2B with funct3 5. -/
def decode2B_5 (w : Nat) : Option Instr :=
  if bitsOf w 11 7 = 0 ∧ bitsOf w 31 25 = 0 then
    some (.msgSend (regOf (bitsOf w 19 15)) (regOf (bitsOf w 24 20)))
  else if bitsOf w 31 27 = 1 then
    some (.msgSendc (regOf (bitsOf w 11 7)) (regOf (bitsOf w 19 15)) (regOf (bitsOf w 24 20)) (BitVec.ofNat 2 (bitsOf w 26 25)))
  else none

/-- Words of major opcode 0x2B with funct3 6. -/
def decode2B_6 (w : Nat) : Option Instr :=
  if bitsOf w 11 7 = 0 ∧ bitsOf w 31 15 = 0 then
    some (.msgRecv)
  else if bitsOf w 31 15 = 4096 then
    some (.msgPeek (regOf (bitsOf w 11 7)))
  else if bitsOf w 11 7 = 0 ∧ bitsOf w 31 15 = 8192 then
    some (.hret)
  else none

/-- Words of major opcode 0x2B with funct3 7. -/
def decode2B_7 (w : Nat) : Option Instr :=
  if bitsOf w 11 7 = 0 ∧ bitsOf w 31 27 = 0 then
    some (.xfer (regOf (bitsOf w 19 15)) (regOf (bitsOf w 24 20)) (BitVec.ofNat 2 (bitsOf w 26 25)))
  else if bitsOf w 19 15 = 0 ∧ bitsOf w 31 22 = 32 then
    some (.batchClose (regOf (bitsOf w 11 7)) (BitVec.ofNat 2 (bitsOf w 21 20)))
  else if bitsOf w 31 25 = 8 then
    some (.xferCp (regOf (bitsOf w 11 7)) (regOf (bitsOf w 19 15)) (regOf (bitsOf w 24 20)))
  else none

/-- Words of major opcode 0x5B. -/
def decode5B (w : Nat) : Option Instr :=
  if bitsOf w 11 7 = 0 ∧ bitsOf w 14 12 = 3 ∧ bitsOf w 31 20 = 64 then
    some (.ringPub (regOf (bitsOf w 19 15)))
  else if bitsOf w 11 7 = 0 ∧ bitsOf w 14 12 = 3 ∧ bitsOf w 31 20 = 128 then
    some (.ringDoneSlot (regOf (bitsOf w 19 15)))
  else if bitsOf w 14 12 = 1 ∧ bitsOf w 24 15 = 0 ∧ bitsOf w 31 30 = 0 then
    some (.mxZero (regOf (bitsOf w 11 7)) (BitVec.ofNat 5 (bitsOf w 29 25)))
  else if bitsOf w 14 12 = 2 ∧ bitsOf w 31 20 = 0 then
    some (.mxPoll (regOf (bitsOf w 11 7)) (regOf (bitsOf w 19 15)))
  else if bitsOf w 14 12 = 2 ∧ bitsOf w 31 20 = 32 then
    some (.mxCancel (regOf (bitsOf w 11 7)) (regOf (bitsOf w 19 15)))
  else if bitsOf w 14 12 = 3 ∧ bitsOf w 31 20 = 32 then
    some (.ringRsv (regOf (bitsOf w 11 7)) (regOf (bitsOf w 19 15)))
  else if bitsOf w 14 12 = 3 ∧ bitsOf w 31 20 = 96 then
    some (.ringTake (regOf (bitsOf w 11 7)) (regOf (bitsOf w 19 15)))
  else if bitsOf w 14 12 = 3 ∧ bitsOf w 31 25 = 0 then
    some (.ringInit (regOf (bitsOf w 11 7)) (regOf (bitsOf w 19 15)) (regOf (bitsOf w 24 20)))
  else if bitsOf w 14 12 = 3 ∧ bitsOf w 31 25 = 4 then
    some (.ringDoneDismantle (regOf (bitsOf w 11 7)) (regOf (bitsOf w 19 15)) (regOf (bitsOf w 24 20)))
  else if bitsOf w 14 12 = 4 ∧ bitsOf w 31 25 = 0 then
    some (.fcvtN (regOf (bitsOf w 11 7)) (regOf (bitsOf w 19 15)) (regOf (bitsOf w 24 20)))
  else if bitsOf w 14 12 = 4 ∧ bitsOf w 31 25 = 1 then
    some (.fcvtW (regOf (bitsOf w 11 7)) (regOf (bitsOf w 19 15)) (regOf (bitsOf w 24 20)))
  else if bitsOf w 14 12 = 1 ∧ bitsOf w 31 30 = 1 then
    some (.mxLoad (regOf (bitsOf w 11 7)) (regOf (bitsOf w 19 15)) (regOf (bitsOf w 24 20)) (BitVec.ofNat 5 (bitsOf w 29 25)))
  else if bitsOf w 14 12 = 1 ∧ bitsOf w 31 30 = 2 then
    some (.mxOut (regOf (bitsOf w 11 7)) (regOf (bitsOf w 19 15)) (regOf (bitsOf w 24 20)) (BitVec.ofNat 5 (bitsOf w 29 25)))
  else if bitsOf w 14 12 = 0 then
    some (.mxMma (regOf (bitsOf w 11 7)) (regOf (bitsOf w 19 15)) (regOf (bitsOf w 24 20)) (regOf (bitsOf w 29 25)) (BitVec.ofNat 2 (bitsOf w 31 30)))
  else none

/-- The instruction of a word whose bits are the number `w` (R221). -/
def decodeNat (w : Nat) : Option Instr :=
  match w % 128 with
  | 0x03 => decode03 w
  | 0x0B =>
    match bitsOf w 14 12 with
    | 0 => decode0B_0 w
    | 1 => decode0B_1 w
    | 2 => decode0B_2 w
    | 3 => decode0B_3 w
    | 4 => decode0B_4 w
    | 5 => decode0B_5 w
    | 6 => decode0B_6 w
    | 7 => decode0B_7 w
    | _ => none
  | 0x13 => decode13 w
  | 0x17 => decode17 w
  | 0x1B => decode1B w
  | 0x23 => decode23 w
  | 0x2B =>
    match bitsOf w 14 12 with
    | 0 => decode2B_0 w
    | 1 => decode2B_1 w
    | 2 => decode2B_2 w
    | 3 => decode2B_3 w
    | 4 => decode2B_4 w
    | 5 => decode2B_5 w
    | 6 => decode2B_6 w
    | 7 => decode2B_7 w
    | _ => none
  | 0x33 => decode33 w
  | 0x37 => decode37 w
  | 0x3B => decode3B w
  | 0x5B => decode5B w
  | 0x63 => decode63 w
  | 0x67 => decode67 w
  | 0x6F => decode6F w
  | 0x73 => decode73 w
  | 0x7B =>
    match bitsOf w 14 12 with
    | 0 => decode7B_0 w
    | 1 => decode7B_1 w
    | 2 => decode7B_2 w
    | 3 => decode7B_3 w
    | 4 => decode7B_4 w
    | 5 => decode7B_5 w
    | 6 => decode7B_6 w
    | 7 => decode7B_7 w
    | _ => none
  | _ => none

/-- The major opcodes to which R221 gives instructions. -/
def assignedOpcodes : List Nat := [0x03, 0x0B, 0x13, 0x17, 0x1B, 0x23, 0x2B, 0x33, 0x37, 0x3B, 0x5B, 0x63, 0x67, 0x6F, 0x73, 0x7B]

/-- Decode one word: an instruction, or a rejection by name. -/
def decode (w : BitVec 32) : Except Reject Instr :=
  match decodeNat w.toNat with
  | some i => .ok i
  | none =>
    if w.toNat % 4 ≠ 3 then .error .compressed
    else if assignedOpcodes.contains (w.toNat % 128) then .error .unassigned
    else .error .illegalOpcode

/-- The little-endian word of four bytes (R7, R215). -/
def wordOfBytes (b0 b1 b2 b3 : Byte) : BitVec 32 := b3 ++ b2 ++ b1 ++ b0

/-- The bytes of a word, lowest address first (R7). -/
def bytesOfWord (w : BitVec 32) : List Byte :=
  [w.extractLsb' 0 8, w.extractLsb' 8 8, w.extractLsb' 16 8, w.extractLsb' 24 8]

/-- Decode the bytes at the program counter: the instruction and the bytes after it, or a rejection by name. -/
def decodeBytes : List Byte → Except Reject (Instr × List Byte)
  | b0 :: b1 :: b2 :: b3 :: rest =>
    match decode (wordOfBytes b0 b1 b2 b3) with
    | .ok i => .ok (i, rest)
    | .error r => .error r
  | _ => .error .short

/-- What the decoder reads from an instruction whose bits are `w` (the bits above `nbits` are 0). -/
def decodeTableWord (nbits w : Nat) : Option Instr :=
  match decodeBytes (bytesOfWord (BitVec.ofNat 32 (w % 2 ^ nbits))) with
  | .ok (i, _) => some i
  | .error _ => none

/-- The word `rest` with the field value `v` put at bit `lo`. -/
def put (lo v rest : Nat) : Nat := rest + v * 2 ^ lo

/-- The word of an instruction as a number, from the encoding tables; none for a row without an encoding. -/
def encodeNat : Instr → Option Nat
  | .lui d imm => some (put 12 imm.toNat (put 7 d.val 0x00000037))
  | .auipc d imm => some (put 12 imm.toNat (put 7 d.val 0x00000017))
  | .jal d imm => some (put 12 imm.toNat (put 7 d.val 0x0000006F))
  | .jalr d a imm => some (put 20 imm.toNat (put 15 a.val (put 7 d.val 0x00000067)))
  | .beq a b imm => some (put 25 (imm.toNat / 32) (put 7 (imm.toNat % 32) (put 20 b.val (put 15 a.val 0x00000063))))
  | .bne a b imm => some (put 25 (imm.toNat / 32) (put 7 (imm.toNat % 32) (put 20 b.val (put 15 a.val 0x00001063))))
  | .blt a b imm => some (put 25 (imm.toNat / 32) (put 7 (imm.toNat % 32) (put 20 b.val (put 15 a.val 0x00004063))))
  | .bge a b imm => some (put 25 (imm.toNat / 32) (put 7 (imm.toNat % 32) (put 20 b.val (put 15 a.val 0x00005063))))
  | .bltu a b imm => some (put 25 (imm.toNat / 32) (put 7 (imm.toNat % 32) (put 20 b.val (put 15 a.val 0x00006063))))
  | .bgeu a b imm => some (put 25 (imm.toNat / 32) (put 7 (imm.toNat % 32) (put 20 b.val (put 15 a.val 0x00007063))))
  | .lb d a imm => some (put 20 imm.toNat (put 15 a.val (put 7 d.val 0x00000003)))
  | .lh d a imm => some (put 20 imm.toNat (put 15 a.val (put 7 d.val 0x00001003)))
  | .lw d a imm => some (put 20 imm.toNat (put 15 a.val (put 7 d.val 0x00002003)))
  | .ld d a imm => some (put 20 imm.toNat (put 15 a.val (put 7 d.val 0x00003003)))
  | .lbu d a imm => some (put 20 imm.toNat (put 15 a.val (put 7 d.val 0x00004003)))
  | .lhu d a imm => some (put 20 imm.toNat (put 15 a.val (put 7 d.val 0x00005003)))
  | .lwu d a imm => some (put 20 imm.toNat (put 15 a.val (put 7 d.val 0x00006003)))
  | .sb a b imm => some (put 25 (imm.toNat / 32) (put 7 (imm.toNat % 32) (put 20 b.val (put 15 a.val 0x00000023))))
  | .sh a b imm => some (put 25 (imm.toNat / 32) (put 7 (imm.toNat % 32) (put 20 b.val (put 15 a.val 0x00001023))))
  | .sw a b imm => some (put 25 (imm.toNat / 32) (put 7 (imm.toNat % 32) (put 20 b.val (put 15 a.val 0x00002023))))
  | .sd a b imm => some (put 25 (imm.toNat / 32) (put 7 (imm.toNat % 32) (put 20 b.val (put 15 a.val 0x00003023))))
  | .addi d a imm => some (put 20 imm.toNat (put 15 a.val (put 7 d.val 0x00000013)))
  | .slti d a imm => some (put 20 imm.toNat (put 15 a.val (put 7 d.val 0x00002013)))
  | .sltiu d a imm => some (put 20 imm.toNat (put 15 a.val (put 7 d.val 0x00003013)))
  | .xori d a imm => some (put 20 imm.toNat (put 15 a.val (put 7 d.val 0x00004013)))
  | .ori d a imm => some (put 20 imm.toNat (put 15 a.val (put 7 d.val 0x00006013)))
  | .andi d a imm => some (put 20 imm.toNat (put 15 a.val (put 7 d.val 0x00007013)))
  | .slli d a h => some (put 20 h.toNat (put 15 a.val (put 7 d.val 0x00001013)))
  | .srli d a h => some (put 20 h.toNat (put 15 a.val (put 7 d.val 0x00005013)))
  | .srai d a h => some (put 20 h.toNat (put 15 a.val (put 7 d.val 0x40005013)))
  | .addiw d a imm => some (put 20 imm.toNat (put 15 a.val (put 7 d.val 0x0000001B)))
  | .slliw d a sh => some (put 20 sh.toNat (put 15 a.val (put 7 d.val 0x0000101B)))
  | .srliw d a sh => some (put 20 sh.toNat (put 15 a.val (put 7 d.val 0x0000501B)))
  | .sraiw d a sh => some (put 20 sh.toNat (put 15 a.val (put 7 d.val 0x4000501B)))
  | .add d a b => some (put 20 b.val (put 15 a.val (put 7 d.val 0x00000033)))
  | .sll d a b => some (put 20 b.val (put 15 a.val (put 7 d.val 0x00001033)))
  | .slt d a b => some (put 20 b.val (put 15 a.val (put 7 d.val 0x00002033)))
  | .sltu d a b => some (put 20 b.val (put 15 a.val (put 7 d.val 0x00003033)))
  | .xor d a b => some (put 20 b.val (put 15 a.val (put 7 d.val 0x00004033)))
  | .srl d a b => some (put 20 b.val (put 15 a.val (put 7 d.val 0x00005033)))
  | .or d a b => some (put 20 b.val (put 15 a.val (put 7 d.val 0x00006033)))
  | .and d a b => some (put 20 b.val (put 15 a.val (put 7 d.val 0x00007033)))
  | .sub d a b => some (put 20 b.val (put 15 a.val (put 7 d.val 0x40000033)))
  | .sra d a b => some (put 20 b.val (put 15 a.val (put 7 d.val 0x40005033)))
  | .mul d a b => some (put 20 b.val (put 15 a.val (put 7 d.val 0x02000033)))
  | .mulh d a b => some (put 20 b.val (put 15 a.val (put 7 d.val 0x02001033)))
  | .mulhsu d a b => some (put 20 b.val (put 15 a.val (put 7 d.val 0x02002033)))
  | .mulhu d a b => some (put 20 b.val (put 15 a.val (put 7 d.val 0x02003033)))
  | .div d a b => some (put 20 b.val (put 15 a.val (put 7 d.val 0x02004033)))
  | .divu d a b => some (put 20 b.val (put 15 a.val (put 7 d.val 0x02005033)))
  | .rem d a b => some (put 20 b.val (put 15 a.val (put 7 d.val 0x02006033)))
  | .remu d a b => some (put 20 b.val (put 15 a.val (put 7 d.val 0x02007033)))
  | .clmul d a b => some (put 20 b.val (put 15 a.val (put 7 d.val 0x0A001033)))
  | .clmulr d a b => some (put 20 b.val (put 15 a.val (put 7 d.val 0x0A002033)))
  | .clmulh d a b => some (put 20 b.val (put 15 a.val (put 7 d.val 0x0A003033)))
  | .addw d a b => some (put 20 b.val (put 15 a.val (put 7 d.val 0x0000003B)))
  | .sllw d a b => some (put 20 b.val (put 15 a.val (put 7 d.val 0x0000103B)))
  | .srlw d a b => some (put 20 b.val (put 15 a.val (put 7 d.val 0x0000503B)))
  | .subw d a b => some (put 20 b.val (put 15 a.val (put 7 d.val 0x4000003B)))
  | .sraw d a b => some (put 20 b.val (put 15 a.val (put 7 d.val 0x4000503B)))
  | .mulw d a b => some (put 20 b.val (put 15 a.val (put 7 d.val 0x0200003B)))
  | .divw d a b => some (put 20 b.val (put 15 a.val (put 7 d.val 0x0200403B)))
  | .divuw d a b => some (put 20 b.val (put 15 a.val (put 7 d.val 0x0200503B)))
  | .remw d a b => some (put 20 b.val (put 15 a.val (put 7 d.val 0x0200603B)))
  | .remuw d a b => some (put 20 b.val (put 15 a.val (put 7 d.val 0x0200703B)))
  | .csrrw d a csr => some (put 20 csr.toNat (put 15 a.val (put 7 d.val 0x00001073)))
  | .csrrs d a csr => some (put 20 csr.toNat (put 15 a.val (put 7 d.val 0x00002073)))
  | .csrrc d a csr => some (put 20 csr.toNat (put 15 a.val (put 7 d.val 0x00003073)))
  | .csrrwi d u csr => some (put 20 csr.toNat (put 15 u.toNat (put 7 d.val 0x00005073)))
  | .csrrsi d u csr => some (put 20 csr.toNat (put 15 u.toNat (put 7 d.val 0x00006073)))
  | .csrrci d u csr => some (put 20 csr.toNat (put 15 u.toNat (put 7 d.val 0x00007073)))
  | .ecall => some (0x00000073)
  | .ebreak => some (0x00100073)
  | .wfi => some (0x10500073)
  | .mret => some (0x30200073)
  | .lpSet a l => some (put 20 l.toNat (put 15 a.val 0x0000507B))
  | .kpre n => some (put 20 n.toNat 0x8000507B)
  | .vaddVv d a b t => some (put 25 t.toNat (put 20 b.val (put 15 a.val (put 7 d.val 0x0000000B))))
  | .vsubVv d a b t => some (put 25 t.toNat (put 20 b.val (put 15 a.val (put 7 d.val 0x0800000B))))
  | .vmulVv d a b t => some (put 25 t.toNat (put 20 b.val (put 15 a.val (put 7 d.val 0x1000000B))))
  | .vmulhVv d a b t => some (put 25 t.toNat (put 20 b.val (put 15 a.val (put 7 d.val 0x1800000B))))
  | .vmulhuVv d a b t => some (put 25 t.toNat (put 20 b.val (put 15 a.val (put 7 d.val 0x2000000B))))
  | .vandVv d a b t => some (put 25 t.toNat (put 20 b.val (put 15 a.val (put 7 d.val 0x2800000B))))
  | .vorVv d a b t => some (put 25 t.toNat (put 20 b.val (put 15 a.val (put 7 d.val 0x3000000B))))
  | .vxorVv d a b t => some (put 25 t.toNat (put 20 b.val (put 15 a.val (put 7 d.val 0x3800000B))))
  | .vsllVv d a b t => some (put 25 t.toNat (put 20 b.val (put 15 a.val (put 7 d.val 0x4000000B))))
  | .vsrlVv d a b t => some (put 25 t.toNat (put 20 b.val (put 15 a.val (put 7 d.val 0x4800000B))))
  | .vsraVv d a b t => some (put 25 t.toNat (put 20 b.val (put 15 a.val (put 7 d.val 0x5000000B))))
  | .vminVv d a b t => some (put 25 t.toNat (put 20 b.val (put 15 a.val (put 7 d.val 0x5800000B))))
  | .vmaxVv d a b t => some (put 25 t.toNat (put 20 b.val (put 15 a.val (put 7 d.val 0x6000000B))))
  | .vminuVv d a b t => some (put 25 t.toNat (put 20 b.val (put 15 a.val (put 7 d.val 0x6800000B))))
  | .vmaxuVv d a b t => some (put 25 t.toNat (put 20 b.val (put 15 a.val (put 7 d.val 0x7000000B))))
  | .vseqVv d a b t => some (put 25 t.toNat (put 20 b.val (put 15 a.val (put 7 d.val 0x7800000B))))
  | .vsltVv d a b t => some (put 25 t.toNat (put 20 b.val (put 15 a.val (put 7 d.val 0x8000000B))))
  | .vsltuVv d a b t => some (put 25 t.toNat (put 20 b.val (put 15 a.val (put 7 d.val 0x8800000B))))
  | .vsel d a b t => some (put 25 t.toNat (put 20 b.val (put 15 a.val (put 7 d.val 0x9000000B))))
  | .vaddVx d a b t => some (put 25 t.toNat (put 20 b.val (put 15 a.val (put 7 d.val 0x0000100B))))
  | .vsubVx d a b t => some (put 25 t.toNat (put 20 b.val (put 15 a.val (put 7 d.val 0x0800100B))))
  | .vmulVx d a b t => some (put 25 t.toNat (put 20 b.val (put 15 a.val (put 7 d.val 0x1000100B))))
  | .vmulhVx d a b t => some (put 25 t.toNat (put 20 b.val (put 15 a.val (put 7 d.val 0x1800100B))))
  | .vmulhuVx d a b t => some (put 25 t.toNat (put 20 b.val (put 15 a.val (put 7 d.val 0x2000100B))))
  | .vandVx d a b t => some (put 25 t.toNat (put 20 b.val (put 15 a.val (put 7 d.val 0x2800100B))))
  | .vorVx d a b t => some (put 25 t.toNat (put 20 b.val (put 15 a.val (put 7 d.val 0x3000100B))))
  | .vxorVx d a b t => some (put 25 t.toNat (put 20 b.val (put 15 a.val (put 7 d.val 0x3800100B))))
  | .vsllVx d a b t => some (put 25 t.toNat (put 20 b.val (put 15 a.val (put 7 d.val 0x4000100B))))
  | .vsrlVx d a b t => some (put 25 t.toNat (put 20 b.val (put 15 a.val (put 7 d.val 0x4800100B))))
  | .vsraVx d a b t => some (put 25 t.toNat (put 20 b.val (put 15 a.val (put 7 d.val 0x5000100B))))
  | .vminVx d a b t => some (put 25 t.toNat (put 20 b.val (put 15 a.val (put 7 d.val 0x5800100B))))
  | .vmaxVx d a b t => some (put 25 t.toNat (put 20 b.val (put 15 a.val (put 7 d.val 0x6000100B))))
  | .vminuVx d a b t => some (put 25 t.toNat (put 20 b.val (put 15 a.val (put 7 d.val 0x6800100B))))
  | .vmaxuVx d a b t => some (put 25 t.toNat (put 20 b.val (put 15 a.val (put 7 d.val 0x7000100B))))
  | .vseqVx d a b t => some (put 25 t.toNat (put 20 b.val (put 15 a.val (put 7 d.val 0x7800100B))))
  | .vsltVx d a b t => some (put 25 t.toNat (put 20 b.val (put 15 a.val (put 7 d.val 0x8000100B))))
  | .vsltuVx d a b t => some (put 25 t.toNat (put 20 b.val (put 15 a.val (put 7 d.val 0x8800100B))))
  | .vfaddVv d a b t => some (put 25 t.toNat (put 20 b.val (put 15 a.val (put 7 d.val 0x0000200B))))
  | .vfsubVv d a b t => some (put 25 t.toNat (put 20 b.val (put 15 a.val (put 7 d.val 0x0800200B))))
  | .vfmulVv d a b t => some (put 25 t.toNat (put 20 b.val (put 15 a.val (put 7 d.val 0x1000200B))))
  | .vfmaVv d a b t => some (put 25 t.toNat (put 20 b.val (put 15 a.val (put 7 d.val 0x1800200B))))
  | .vfmsVv d a b t => some (put 25 t.toNat (put 20 b.val (put 15 a.val (put 7 d.val 0x2000200B))))
  | .vfnmaVv d a b t => some (put 25 t.toNat (put 20 b.val (put 15 a.val (put 7 d.val 0x2800200B))))
  | .vfminVv d a b t => some (put 25 t.toNat (put 20 b.val (put 15 a.val (put 7 d.val 0x3000200B))))
  | .vfmaxVv d a b t => some (put 25 t.toNat (put 20 b.val (put 15 a.val (put 7 d.val 0x3800200B))))
  | .vfeqVv d a b t => some (put 25 t.toNat (put 20 b.val (put 15 a.val (put 7 d.val 0x4000200B))))
  | .vfltVv d a b t => some (put 25 t.toNat (put 20 b.val (put 15 a.val (put 7 d.val 0x4800200B))))
  | .vfleVv d a b t => some (put 25 t.toNat (put 20 b.val (put 15 a.val (put 7 d.val 0x5000200B))))
  | .vfsgnjVv d a b t => some (put 25 t.toNat (put 20 b.val (put 15 a.val (put 7 d.val 0x5800200B))))
  | .vfclass d a t => some (put 25 t.toNat (put 15 a.val (put 7 d.val 0x6000200B)))
  | .vfcvtIf d a t => some (put 25 t.toNat (put 15 a.val (put 7 d.val 0x6800200B)))
  | .vfcvtFi d a t => some (put 25 t.toNat (put 15 a.val (put 7 d.val 0x7000200B)))
  | .vncvt d a p => some (put 20 p.toNat (put 15 a.val (put 7 d.val 0x7C00200B)))
  | .vwcvt d a p => some (put 20 p.toNat (put 15 a.val (put 7 d.val 0x8400200B)))
  | .vfaddVx d a b t => some (put 25 t.toNat (put 20 b.val (put 15 a.val (put 7 d.val 0x0000300B))))
  | .vfsubVx d a b t => some (put 25 t.toNat (put 20 b.val (put 15 a.val (put 7 d.val 0x0800300B))))
  | .vfmulVx d a b t => some (put 25 t.toNat (put 20 b.val (put 15 a.val (put 7 d.val 0x1000300B))))
  | .vfmaVx d a b t => some (put 25 t.toNat (put 20 b.val (put 15 a.val (put 7 d.val 0x1800300B))))
  | .vfmsVx d a b t => some (put 25 t.toNat (put 20 b.val (put 15 a.val (put 7 d.val 0x2000300B))))
  | .vfnmaVx d a b t => some (put 25 t.toNat (put 20 b.val (put 15 a.val (put 7 d.val 0x2800300B))))
  | .vfminVx d a b t => some (put 25 t.toNat (put 20 b.val (put 15 a.val (put 7 d.val 0x3000300B))))
  | .vfmaxVx d a b t => some (put 25 t.toNat (put 20 b.val (put 15 a.val (put 7 d.val 0x3800300B))))
  | .vfeqVx d a b t => some (put 25 t.toNat (put 20 b.val (put 15 a.val (put 7 d.val 0x4000300B))))
  | .vfltVx d a b t => some (put 25 t.toNat (put 20 b.val (put 15 a.val (put 7 d.val 0x4800300B))))
  | .vfleVx d a b t => some (put 25 t.toNat (put 20 b.val (put 15 a.val (put 7 d.val 0x5000300B))))
  | .vfsgnjVx d a b t => some (put 25 t.toNat (put 20 b.val (put 15 a.val (put 7 d.val 0x5800300B))))
  | .vredsum d a b t => some (put 25 t.toNat (put 20 b.val (put 15 a.val (put 7 d.val 0x0000500B))))
  | .vredmax d a b t => some (put 25 t.toNat (put 20 b.val (put 15 a.val (put 7 d.val 0x0800500B))))
  | .vredmin d a b t => some (put 25 t.toNat (put 20 b.val (put 15 a.val (put 7 d.val 0x1000500B))))
  | .vfredsum d a b t => some (put 25 t.toNat (put 20 b.val (put 15 a.val (put 7 d.val 0x1800500B))))
  | .vfredmax d a b t => some (put 25 t.toNat (put 20 b.val (put 15 a.val (put 7 d.val 0x2000500B))))
  | .vfredmin d a b t => some (put 25 t.toNat (put 20 b.val (put 15 a.val (put 7 d.val 0x2800500B))))
  | .vslideup d a b t => some (put 25 t.toNat (put 20 b.val (put 15 a.val (put 7 d.val 0x3000500B))))
  | .vslidedn d a b t => some (put 25 t.toNat (put 20 b.val (put 15 a.val (put 7 d.val 0x3800500B))))
  | .vgather d a b t => some (put 25 t.toNat (put 20 b.val (put 15 a.val (put 7 d.val 0x4000500B))))
  | .vpopc d a => some (put 15 a.val (put 7 d.val 0x4800500B))
  | .vfirst d a => some (put 15 a.val (put 7 d.val 0x5000500B))
  | .vfdiv d a b t => some (put 25 t.toNat (put 20 b.val (put 15 a.val (put 7 d.val 0x0400600B))))
  | .vfsqrt d a t => some (put 25 t.toNat (put 15 a.val (put 7 d.val 0x0C00600B)))
  | .vfrcp d a => some (put 15 a.val (put 7 d.val 0x1400600B))
  | .vfexp2 d a => some (put 15 a.val (put 7 d.val 0x1C00600B))
  | .vclmul d a b => some (put 20 b.val (put 15 a.val (put 7 d.val 0x2600600B)))
  | .vclmulh d a b => some (put 20 b.val (put 15 a.val (put 7 d.val 0x2E00600B)))
  | .vcfg d a m t => some (put 25 t.toNat (put 20 m.toNat (put 15 a.val (put 7 d.val 0x0000700B))))
  | .vmvVx d b t => some (put 25 t.toNat (put 20 b.val (put 7 d.val 0x0800700B)))
  | .vmvXv d a b t => some (put 25 t.toNat (put 20 b.val (put 15 a.val (put 7 d.val 0x1000700B))))
  | .vmvVv d a t => some (put 25 t.toNat (put 15 a.val (put 7 d.val 0x1800700B)))
  | .vid d t => some (put 25 t.toNat (put 7 d.val 0x2000700B))
  | .vmvVk d n w => some (put 28 w.toNat (put 20 n.toNat (put 7 d.val 0x0000400B)))
  | .capAlloc d a k => some (put 20 k.toNat (put 15 a.val (put 7 d.val 0x0000002B)))
  | .capFree a => some (put 15 a.val 0x0800002B)
  | .capCarve d a b => some (put 20 b.val (put 15 a.val (put 7 d.val 0x1000002B)))
  | .capMerge d a b => some (put 20 b.val (put 15 a.val (put 7 d.val 0x1800002B)))
  | .capNarrow d a b => some (put 20 b.val (put 15 a.val (put 7 d.val 0x2000002B)))
  | .capSplitR d a b => some (put 20 b.val (put 15 a.val (put 7 d.val 0x2800002B)))
  | .capSplitF d a b => some (put 20 b.val (put 15 a.val (put 7 d.val 0x3000002B)))
  | .capJoin d a b => some (put 20 b.val (put 15 a.val (put 7 d.val 0x3800002B)))
  | .capReclaim d a => some (put 15 a.val (put 7 d.val 0x3800002B))
  | .capSealX d a => some (put 15 a.val (put 7 d.val 0x4000002B))
  | .capMov d a => some (put 15 a.val (put 7 d.val 0x4800002B))
  | .capGet d a b => some (put 20 b.val (put 15 a.val (put 7 d.val 0x5000002B)))
  | .capFmt d a b => some (put 20 b.val (put 15 a.val (put 7 d.val 0x5800002B)))
  | .cldB d s cs imm => some (put 28 imm.toNat (put 20 cs.val (put 15 s.val (put 7 d.val 0x0000102B))))
  | .cldH d s cs imm => some (put 28 imm.toNat (put 20 cs.val (put 15 s.val (put 7 d.val 0x0200102B))))
  | .cldW d s cs imm => some (put 28 imm.toNat (put 20 cs.val (put 15 s.val (put 7 d.val 0x0400102B))))
  | .cldD d s cs imm => some (put 28 imm.toNat (put 20 cs.val (put 15 s.val (put 7 d.val 0x0600102B))))
  | .cldBu d s cs imm => some (put 28 imm.toNat (put 20 cs.val (put 15 s.val (put 7 d.val 0x0800102B))))
  | .cldHu d s cs imm => some (put 28 imm.toNat (put 20 cs.val (put 15 s.val (put 7 d.val 0x0A00102B))))
  | .cldWu d s cs imm => some (put 28 imm.toNat (put 20 cs.val (put 15 s.val (put 7 d.val 0x0C00102B))))
  | .cstB d s cs imm => some (put 28 imm.toNat (put 20 cs.val (put 15 s.val (put 7 d.val 0x0000202B))))
  | .cstH d s cs imm => some (put 28 imm.toNat (put 20 cs.val (put 15 s.val (put 7 d.val 0x0200202B))))
  | .cstW d s cs imm => some (put 28 imm.toNat (put 20 cs.val (put 15 s.val (put 7 d.val 0x0400202B))))
  | .cstD d s cs imm => some (put 28 imm.toNat (put 20 cs.val (put 15 s.val (put 7 d.val 0x0600202B))))
  | .cfoldW d s cs imm => some (put 28 imm.toNat (put 20 cs.val (put 15 s.val (put 7 d.val 0x0800202B))))
  | .cfoldD d s cs imm => some (put 28 imm.toNat (put 20 cs.val (put 15 s.val (put 7 d.val 0x0A00202B))))
  | .vcld d s cs e => some (put 27 e.toNat (put 20 cs.val (put 15 s.val (put 7 d.val 0x0000302B))))
  | .vclds d s cs e => some (put 27 e.toNat (put 20 cs.val (put 15 s.val (put 7 d.val 0x0200302B))))
  | .vcldx d s cs e => some (put 27 e.toNat (put 20 cs.val (put 15 s.val (put 7 d.val 0x0400302B))))
  | .vcst d s cs e => some (put 27 e.toNat (put 20 cs.val (put 15 s.val (put 7 d.val 0x0000402B))))
  | .vcsts d s cs e => some (put 27 e.toNat (put 20 cs.val (put 15 s.val (put 7 d.val 0x0200402B))))
  | .vcstx d s cs e => some (put 27 e.toNat (put 20 cs.val (put 15 s.val (put 7 d.val 0x0400402B))))
  | .msgSend a b => some (put 20 b.val (put 15 a.val 0x0000502B))
  | .msgSendc d a b h => some (put 25 h.toNat (put 20 b.val (put 15 a.val (put 7 d.val 0x0800502B))))
  | .msgRecv => some (0x0000602B)
  | .msgPeek d => some (put 7 d.val 0x0800602B)
  | .hret => some (0x1000602B)
  | .xfer a b h => some (put 25 h.toNat (put 20 b.val (put 15 a.val 0x0000702B)))
  | .batchClose d t => some (put 20 t.toNat (put 7 d.val 0x0800702B))
  | .xferCp d a b => some (put 20 b.val (put 15 a.val (put 7 d.val 0x1000702B)))
  | .mxMma d s cs cb m => some (put 30 m.toNat (put 25 cb.val (put 20 cs.val (put 15 s.val (put 7 d.val 0x0000005B)))))
  | .mxZero d n => some (put 25 n.toNat (put 7 d.val 0x0000105B))
  | .mxLoad d a b n => some (put 25 n.toNat (put 20 b.val (put 15 a.val (put 7 d.val 0x4000105B))))
  | .mxOut d a b n => some (put 25 n.toNat (put 20 b.val (put 15 a.val (put 7 d.val 0x8000105B))))
  | .mxPoll d a => some (put 15 a.val (put 7 d.val 0x0000205B))
  | .mxCancel d a => some (put 15 a.val (put 7 d.val 0x0200205B))
  | .ringInit d a b => some (put 20 b.val (put 15 a.val (put 7 d.val 0x0000305B)))
  | .ringRsv d a => some (put 15 a.val (put 7 d.val 0x0200305B))
  | .ringPub a => some (put 15 a.val 0x0400305B)
  | .ringTake d a => some (put 15 a.val (put 7 d.val 0x0600305B))
  | .ringDoneSlot a => some (put 15 a.val 0x0800305B)
  | .ringDoneDismantle d a b => some (put 20 b.val (put 15 a.val (put 7 d.val 0x0800305B)))
  | .fcvtN d a b => some (put 20 b.val (put 15 a.val (put 7 d.val 0x0000405B)))
  | .fcvtW d a b => some (put 20 b.val (put 15 a.val (put 7 d.val 0x0200405B)))
  | .rgnOpen d => some (put 7 d.val 0x0000007B)
  | .rgnKeep d a b => some (put 20 b.val (put 15 a.val (put 7 d.val 0x1000007B)))
  | .rgnClose => some (0x2000007B)
  | .rgnAbort c => some (put 20 c.toNat 0x3000007B)
  | .snapTake a => some (put 15 a.val 0x0000107B)
  | .snapAccept a => some (put 15 a.val 0x1000107B)
  | .snapReject a => some (put 15 a.val 0x2000107B)
  | .snapInfo d a => some (put 15 a.val (put 7 d.val 0x3000107B))
  | .barJoin a l => some (put 20 l.toNat (put 15 a.val 0x0000207B))
  | .barArrive l => some (put 20 l.toNat 0x1000207B)
  | .barWait l => some (put 20 l.toNat 0x2000207B)
  | .xchBegin a t l => some (put 24 l.toNat (put 20 t.toNat (put 15 a.val 0x3000207B)))
  | .xchSend a => some (put 15 a.val 0x4000207B)
  | .xchEnd d => some (put 7 d.val 0x5000207B)
  | .gangForm m => some (put 20 m.toNat 0x0000307B)
  | .gangSplit => some (0x1000307B)
  | .gangJoin => some (0x2000307B)
  | .waitQ d q => some (put 20 q.toNat (put 7 d.val 0x0000407B))
  | .waitJob d a => some (put 15 a.val (put 7 d.val 0x1000407B))
  | .lnchPost d a b => some (put 20 b.val (put 15 a.val (put 7 d.val 0x0000607B)))
  | .lnchDone a => some (put 15 a.val 0x1000607B)
  | .sysPark d a k => some (put 20 k.toNat (put 15 a.val (put 7 d.val 0x0000707B)))
  | .sysRevive d a => some (put 15 a.val (put 7 d.val 0x1000707B))
  | .sysHalt a => some (put 15 a.val 0x2000707B)
  | .illegalInstruction _ => none
  | .handlerActivation => none
  | .messageArrival _ => none
  | .shunterPlacement _ => none
  | .transferCopy _ _ => none
  | .shunterCopyJob _ _ => none
  | .homeAccessRequest _ => none
  | .homeControlRequest _ => none
  | .foldLineMerge _ => none
  | .homeReplyArrival _ => none
  | .snapshotGrantRequest _ _ _ => none
  | .l2Request _ => none
  | .pageWalk _ => none
  | .firstTouchService _ _ => none
  | .faultMessage _ => none
  | .faultAnswerRetry _ => none
  | .faultAnswerDeny _ => none
  | .faultWaitExpired => none
  | .translationInvalidate _ _ _ => none
  | .pageMigration _ _ => none
  | .pageOutToHost _ _ => none
  | .pageInFromHost _ _ => none
  | .hbm4Request _ _ _ => none
  | .scrubHbm4 _ => none
  | .scrubSram _ _ => none
  | .stepGrant _ => none
  | .slotCounterAdvance _ => none
  | .stepRetire _ => none
  | .accumulatorJobRun _ => none
  | .jobEnd _ _ => none
  | .auditSegmentSign _ => none
  | .auditReplay _ => none
  | .auditVerdict _ => none
  | .quarantineRelease _ => none
  | .barrierRelease _ _ => none
  | .exchangeArrival _ => none
  | .terminationSweep _ => none
  | .rollback => none
  | .sidingRelease _ => none
  | .remoteAckArrival _ _ => none
  | .summaryRequest _ _ => none
  | .sumreplyArrival _ _ _ _ => none
  | .replyTimeout _ _ => none
  | .junctionPacket _ => none
  | .arrivalAck _ _ => none
  | .intermediateRedraw => none
  | .portDown _ => none
  | .portTraining _ _ _ => none
  | .fabricTableLoad _ => none
  | .dieFailure _ => none
  | .cxlMemRequest _ _ _ => none
  | .cxlMemWaitExpired _ => none
  | .submissionEntry => none
  | .hostEndpointDelivery _ => none
  | .bar0RegisterWrite _ _ => none
  | .spdmGetVersion => none
  | .spdmGetCapabilities => none
  | .spdmNegotiateAlgorithms _ => none
  | .spdmGetDigests => none
  | .spdmGetCertificate _ _ _ => none
  | .spdmChallenge _ => none
  | .spdmGetMeasurements _ => none
  | .spdmKeyExchange _ => none
  | .spdmFinish _ _ => none
  | .spdmHeartbeat => none
  | .spdmEndSession => none
  | .installDomainSecret _ _ => none
  | .setRosterAndPermissions _ _ _ _ _ => none
  | .readSessionLog _ => none
  | .advanceLogReadPointer _ _ => none
  | .readErrorSummary _ => none
  | .descriptorCreate _ => none
  | .descriptorDelete _ => none
  | .logItemWrite => none
  | .heartbeat _ => none
  | .receiptWrite _ => none
  | .launchRecordCheck _ => none
  | .shareCheck _ _ _ => none
  | .placement _ => none
  | .launchStart _ => none
  | .victimPark _ => none
  | .launchRevival _ => none
  | .launchEnding _ => none
  | .domainSwitch _ _ => none
  | .managementPark _ _ _ => none
  | .sporeOut _ => none
  | .haltGroupFire _ _ => none
  | .debugHalt _ => none
  | .debugResume _ => none
  | .debugStepInstruction _ => none
  | .debugStepCycle _ => none
  | .debugRead _ _ => none
  | .debugWrite _ _ _ => none
  | .faultLogResend _ => none
  | .faultLogAck _ _ => none
  | .fatalFault _ _ => none
  | .fatalRecordCollect _ => none
  | .waitLimitExpired => none
  | .svcInterfaceVersion => none
  | .svcCycleCount => none
  | .svcFreshRandom => none
  | .svcUserRecord => none
  | .svcErrorInjection => none
  | .loopCsrWrite _ _ => none
  | .mdomainWrite _ => none
  | .minjectWrite _ => none
  | .mfaultlogSelect _ => none
  | .mfaultlogRelease _ => none
  | .csrRegisterWrite _ _ => none
  | .coldReset => none
  | .throttleWindow => none
  | .powerReport _ => none
  | .thermalSample _ _ => none
  | .unreachableMarkClear _ => none
  | .withheldFrameRelease _ => none
  | .firstTouchPoolRefill _ _ _ => none
  | .rootOfTrustFailover => none
  | .doubleFatalSporeRelease _ => none
  | .errorSummaryRelease _ => none
  | .hostWindowTableLoad _ => none
  | .hdmDecoderProgram _ _ _ => none
  | .ideKmRequest _ => none
  | .tileResetOrPowerGate _ => none
  | .powerRemoval => none

/-- The words of an instruction: one, or none for a row without an encoding. -/
def encode (i : Instr) : List (BitVec 32) :=
  match encodeNat i with
  | some n => [BitVec.ofNat 32 n]
  | none => []

/-- The word that `mtval` receives for an instruction (R223): its encoding, or the word that is no instruction. -/
def instrWord : Instr → Word
  | .illegalInstruction w => zext w
  | i => word ((encodeNat i).getD 0)

end Sys2Proof
end

