-- ==== Sys2Proof/Config.lean ====
section
/-! DEFINITION. What the implementation fixes and the spec gives no value of: keyed codes, keys, hashes, signatures and
random draws, as opaque functions without a body (logs 5 and 6), and the fixed numbers of the part. -/

namespace Sys2Proof.Config

open Sys2Proof

/-- The keyed 16-bit check code over cap bits 239:0 under the secret of a device's root of trust (R58). -/
opaque capCheck (device : Nat) (bits : BitVec 240) : BitVec 16

/-- Random words of the root of trust's generator (R39 word 248, R262 service 2, R476): the n-th draw (log 6). -/
opaque freeWord : Nat → Word

/-- The value of a read that the spec leaves open, by the number of the draw (log 6). -/
opaque freeValue (draw : Nat) : Word

/-- The 128-bit tag of a sealed text under a key (R424, R462, R458). -/
opaque tag (key : Nat) (nonce : Nat) (bytes : List Byte) : BitVec 128

/-- The 64-bit MAC of a host-resident sector (R189) or of a sealed sector (R458). -/
opaque mac (key : Nat) (address : Nat) (version : Nat) (bytes : List Byte) : BitVec 64

/-- A cryptographic digest of words (R463, R467, R471). -/
opaque digest (words : List Nat) : Nat

/-- A signature of a digest under a key of the root of trust (R465, R467, R471). -/
opaque signature (key : Nat) (digest : Nat) : Nat

/-- A key derived from a secret and labels (R460, R461). -/
opaque deriveKey (secret : Nat) (labels : List Nat) : Nat

/-- The byte at a place of the certificate chain of a slot, for an attestation key (R471). -/
opaque certificate (key slot place : Nat) : Byte

/-- The byte of a key's stream at a nonce and place (log 5). -/
opaque keystream (key : Nat) (nonce : Nat) (i : Nat) : Byte

/-- Encryption of bytes under a key and nonce, and its own inverse (R189, R458, log 5). -/
def cipher (key nonce : Nat) (bytes : List Byte) : List Byte := bytes.zipIdx.map fun p => p.1 ^^^ keystream key nonce p.2

/-- Whether a signed or measured image verifies in the boot step given (R512, R513). -/
opaque imageVerifies (image : Nat) : Bool

/-- Where the boot sequence places the Lichen image and its data in the system window (R456, R513), which the spec does not say: base, length,
buffer number and generation of the image (0 to 3) and of the data (4 to 7) (log 7). -/
opaque lichenPlace : Nat → Nat

/-- Where domain-0 firmware places the reserve area of a die in the system window, and the size of one of its slots, which the spec does not say, in
256-byte units from the start of the window (R416, log 41). -/
opaque reserveArea (die : Nat) : Nat
opaque reserveSlot : Nat

/-- A byte of a spore section whose layout the scan map gives and the spec does not, by the draw of the section and its place (R420, log 41). -/
opaque sporeByte (draw place : Nat) : Byte

/-- Whether the part is the module LK-9416-M and not the package LK-9416-P (R1). -/
opaque moduleForm : Bool

/-- The words of the PCIe configuration space of function 0 that the spec gives no content, its CXL DVSECs among them (R492, log 6). -/
opaque pcieWord (offset : Nat) : BitVec 32

/-- Number of tiles of the device (R28). -/
def tiles : Nat := 2048

/-- Number of clusters of the device (R28). -/
def clusters : Nat := 256

/-- TMEM bytes of a tile (R32). -/
def tmemSize : Nat := 0xC0000

/-- CMEM bytes of a cluster (R42). -/
def cmemSize : Nat := 0x1000000

/-- First byte of the CMEM heap (R42). -/
def cmemHeap : Nat := 0x20000

/-- First device virtual address of the system window (R45). -/
def systemWindow : Nat := 0xFF0000000000

/-- First device virtual address of domain 0's range (R47). -/
def domain0Base : Nat := 0xFE0000000000

/-- First frame address above the HBM4 of the device (R44). -/
def frameEnd : Nat := 2 ^ 39

end Sys2Proof.Config
end

