-- ==== Sys2Proof/Machine/Types.lean ====
section
/-! DEFINITION. The data that a tile holds, as plain data: every piece of state the spec gives it, with the rule that names it
and its reset value. A field's comment reads: width; rule; reset value; what it is. -/

namespace Sys2Proof.Machine

open Sys2Proof

/-- U-mode and M-mode (R239, R263). -/
inductive Mode where
  | u
  | m
deriving DecidableEq, Repr

/-- Home kind of a cap (R53 bits 91:88): 0 null to 7 ring slot; codes 8-15 are reserved. -/
inductive CapKind where
  | null
  | tmem
  | cmem
  | dmem
  | remote
  | host
  | handle
  | slot
  | reserved (code : Fin 8)
deriving DecidableEq, Repr

/-- Mode of a cap (R53 bits 121:120). -/
inductive CapMode where
  | exclusive
  | read
  | fold
  | exec
deriving DecidableEq, Repr

/-- The rights field of a cap (R53 bits 117:112). -/
structure Rights where
  /-- 1 bit; R53; reset 0; right to read. -/
  r : Bool := false
  /-- 1 bit; R53; reset 0; right to write, or to fold in fold mode. -/
  w : Bool := false
  /-- 1 bit; R53; reset 0; right to send. -/
  s : Bool := false
  /-- 1 bit; R53; reset 0; right to split, seal and carve. -/
  p : Bool := false
  /-- 1 bit; R53; reset 0; right to snapshot. -/
  n : Bool := false
  /-- 1 bit; R53; reset 0; right to leave the device. -/
  e : Bool := false
deriving DecidableEq, Repr

/-- A capability (R53). Every field of the null cap is zero. -/
structure Cap where
  /-- 48 bits; R53; reset 0; start of the range, by home kind (R25). -/
  base : BitVec 48 := 0
  /-- 40 bits; R53; reset 0; length in bytes. -/
  length : BitVec 40 := 0
  /-- 4 bits; R53; reset null; home kind. -/
  kind : CapKind := .null
  /-- 20 bits; R53; reset 0; tile index, cluster index or device number. -/
  location : BitVec 20 := 0
  /-- 6 bits; R53; reset none; the rights. -/
  rights : Rights := {}
  /-- 1 bit; R53; reset 0; L, lent to a job. -/
  lent : Bool := false
  /-- 1 bit; R53; reset 0; Z, the buffer holds poisoned sectors. -/
  z : Bool := false
  /-- 2 bits; R53; reset exclusive (00); the mode. -/
  mode : CapMode := .exclusive
  /-- 5 bits; R53; reset 0; the fold operation code. -/
  foldOp : BitVec 5 := 0
  /-- 1 bit; R53; reset 0; reserved bit 127, checked on entry (R60). -/
  rsv127 : BitVec 1 := 0
  /-- 24 bits; R53; reset 0; buffer number within the home. -/
  buffer : BitVec 24 := 0
  /-- 16 bits; R53; reset 0; generation of the buffer when the cap was issued. -/
  generation : BitVec 16 := 0
  /-- 17 bits; R53; reset 0; weight. -/
  weight : BitVec 17 := 0
  /-- 3 bits; R53; reset 0; snapshot depth as last reported. -/
  depth : BitVec 3 := 0
  /-- 4 bits; R53; reset 0; reserved bits 191:188, checked on entry (R60). -/
  rsv188 : BitVec 4 := 0
  /-- 32 bits; R53; reset 0; format descriptor. -/
  format : BitVec 32 := 0
  /-- 16 bits; R53; reset 0; domain of the issuing launch. -/
  domain : BitVec 16 := 0
  /-- 16 bits; R53, R58; reset 0; keyed check code. -/
  check : BitVec 16 := 0
deriving DecidableEq, Repr

/-- The null cap (R54): 256 zero bits. -/
def Cap.null : Cap := {}

/-- A vector register with its lane poison bits and origin (R288, R313). -/
structure VReg where
  /-- 1,024 bits; R288; reset 0 (R191 at launch; DESIGN CHOICE, log 4, before). -/
  bits : BitVec 1024 := 0
  /-- 16 bits; R313; reset 0 (DESIGN CHOICE, log 4); poison of lanes 0-15. -/
  poison : BitVec 16 := 0
  /-- 48 bits; R313; reset 0 (DESIGN CHOICE, log 4); origin of the poison. -/
  origin : BitVec 48 := 0
deriving DecidableEq, Repr

/-- A home: the directory agent of one place (R3, R46). `remote` is the DMEM home of another device. -/
inductive HomeId where
  | tile (i : Nat)
  | cluster (i : Nat)
  | die (d : Nat)
  | remote (device : Nat)
deriving DecidableEq, Repr

/-- State of a directory entry (R70 bits 90:88). -/
inductive DirState where
  | free
  | exclusive
  | readShared
  | foldShared
  | execShared
  | inTransit
  | carved
deriving DecidableEq, Repr

/-- An owner directory entry (R70). -/
structure DirEntry where
  /-- home; R70; the home that keeps the entry. -/
  home : HomeId
  /-- 24 bits; R70; buffer number within the home. -/
  number : Nat
  /-- 48 bits; R70; start of the whole range. -/
  base : Nat
  /-- 40 bits; R70; length of the whole range. -/
  length : Nat
  /-- 3 bits; R70; state. -/
  state : DirState
  /-- 5 bits; R70; fold op of outstanding fold shares. -/
  foldOp : BitVec 5 := 0
  /-- 4 bits; R70, R120; dies whose check cache may hold the entry. -/
  dies : BitVec 4 := 0
  /-- 3 bits; R70; snapshot depth. -/
  depth : Nat := 0
  /-- 24 bits; R70; parent of a carved child (0xFF_FFFF, here none, otherwise). -/
  link : Option Nat := none
  /-- 16 bits; R70; current generation. -/
  generation : BitVec 16
  /-- 24 bits; R70; weight outstanding, exec count or live children. -/
  count : Nat := 0
  /-- 16 bits; R70; poisoned sectors, saturating. -/
  poison : Nat := 0
  /-- 16 bits; R70; domain of the buffer. -/
  domain : BitVec 16
  /-- 32 bits; R70; owner endpoint. -/
  owner : Nat
  /-- 1 bit; R445; both copies of the entry failed. -/
  lost : Bool := false
  /-- rounded length; R90; quota charge of a Shunter copy, 0 for other buffers. -/
  quota : Nat := 0
  /-- 1 bit; R73, R121; the number is retired until the launch ends. -/
  retired : Bool := false
deriving DecidableEq, Repr

/-- A level record (R149); the number of its copies is counted from the copies themselves. -/
structure LevelRecord where
  /-- home; R149. -/
  home : HomeId
  /-- 24 bits; R149; buffer number. -/
  buffer : Nat
  /-- 3 bits; R149; level number 1-7. -/
  level : Nat
  /-- 1 bit; R149; true for a region level. -/
  region : Bool
  /-- 4 bits; R149; region nesting depth of the keep, 0 for a snapshot level. -/
  regionDepth : Nat
  /-- 32 bits; R149; lowest line index covered. -/
  firstLine : Nat
  /-- 32 bits; R149; highest line index covered. -/
  lastLine : Nat
  /-- 2 bits; R149; 0 none, 1 accept, 2 reject in progress. -/
  operation : Nat := 0
  /-- 32 bits; R149; copies already processed by that operation. -/
  cursor : Nat := 0
  /-- 32 bits; R149; endpoint of the tile whose region created the level, 0 for a snapshot level. -/
  regionOwner : Nat
  /-- tile index; R166, R374; the tile that created the level. -/
  byTile : Nat
  /-- handler level; R166, R374; the handler level that created it. -/
  byLevel : Level
  /-- count; R367; order of creation, by which a region knows the levels created since it opened. -/
  seq : Nat
deriving DecidableEq, Repr

/-- A saved copy of one 256-byte line (R150). -/
structure LineCopy where
  /-- home; R150. -/
  home : HomeId
  /-- 24 bits; R150; buffer number. -/
  buffer : Nat
  /-- 32 bits; R150; line index. -/
  line : Nat
  /-- 3 bits; R150; level label. -/
  label : Nat
  /-- 256 bytes; R150; the content saved. -/
  data : List Byte
  /-- four bits; R150; poison of the four sectors. -/
  poison : List Bool
deriving DecidableEq, Repr

/-- A poisoned sector (R438) with its mask of clean bytes written since it was marked (R330). -/
structure PoisonMark where
  /-- sector; R438; address of the sector divided by 64. -/
  sector : Nat
  /-- 64 bits; R330; bytes written clean since the sector was last marked. -/
  clean : BitVec 64
deriving DecidableEq, Repr

/-- The item in which an error is armed (R449, R450). -/
inductive ErrorItem where
  | sector (key : Nat)
  | x (tile : Nat) (bank : Level) (r : Reg)
  | vLane (tile : Nat) (r : Reg) (lane : Nat)
  | cap (tile : Nat) (r : Reg)
  | accRow (cluster acc row : Nat)
  | l1Sector (tile key : Nat)
  | tlb (slice va : Nat)
  | walk (slice va : Nat)
  | check (slice die buffer : Nat)
  | auditSignature (tile : Nat)
  | dirEntry (home : HomeId) (buffer : Nat)
  | ringRecord (cluster buffer : Nat)
  | levelRecord (home : HomeId) (buffer level : Nat)
  /-- The copy index of a buffer: what labels its lines (R150, R435, R445). -/
  | copyIndex (home : HomeId) (buffer : Nat)
  /-- Other state of a tile, a CSR among it, whose error no descriptor of R449 places. -/
  | tileState (tile : Nat)
deriving DecidableEq, Repr

/-- An armed or real error waiting to be detected at the item's next read (R435, R450). -/
structure ArmedError where
  item : ErrorItem
  /-- 1 bit; R449; true for severity 01. -/
  uncorrectable : Bool
  /-- 1 bit; R450; caused by an injection. -/
  injected : Bool
deriving DecidableEq, Repr

/-- Where a message goes: a rank of a launch (R50) or an endpoint (R30). -/
inductive Dest where
  | rank (launch : Nat) (r : Nat)
  | endpoint (e : Nat)
deriving DecidableEq, Repr

/-- A message (R331, R334). -/
structure Msg where
  /-- 30 bits; R334; sending rank. -/
  sender : Nat
  /-- 32 bits; R100; endpoint of the sender, to which a return goes. -/
  senderEp : Nat
  /-- 64 bits; R50; launch of the sender. -/
  senderLaunch : Nat
  dest : Dest
  /-- 8 bits; R331. -/
  type : BitVec 8
  /-- up to seven words; R331. -/
  payload : List Word
  /-- up to two caps; R331. -/
  caps : List Cap
  /-- 2 bits; R89; placement hint. -/
  hint : BitVec 2 := 0
  /-- 2 bits per slot; R96; placement outcome. -/
  places : List (BitVec 2) := []
  /-- 1 bit; R88; the Shunter has decided the placement, or none is needed. -/
  placed : Bool := true
  /-- landing index and payload bytes; R382; an exchange message. -/
  landing : Option (Nat × List Byte) := none
  /-- 64-byte pieces; R381; those of the payload that hold bytes of poisoned lanes. -/
  landBad : List Nat := []
  /-- count; R479, R482; order of injection. -/
  seq : Nat := 0
  /-- 1 bit; R427, R429; waited for a parked rank and enters before any new arrival. -/
  replay : Bool := false
  /-- 1 bit; R212; its delivery counts in `msgrecv`: not a message that Lichen or the device originates, other than a return. -/
  counted : Bool := true
deriving DecidableEq, Repr

/-- An entry of a receive queue (R194). -/
structure QMsg where
  msg : Msg
  /-- region depth; R370; consumed inside a region at this depth and kept. -/
  kept : Option Nat := none
  /-- 1 bit; R382; the payload of an exchange message has landed. -/
  landed : Bool := true
  /-- per slot; R61; the cap failed its check and the trap is still to be taken. -/
  failed : List Nat := []
deriving DecidableEq, Repr

/-- What the Siding and the release path hold (R142, R207, R347); `sent`: the caps of a message whose Send transition is made (R333). -/
inductive HeldKind where
  | msg (m : Msg) (sent : Nat)
  | arrive (domain : Nat) (level : Level)
  | ringPub (c : Cap)
  | ringDone (c : Cap)
deriving DecidableEq, Repr

/-- A held item with the handler level and region depth that issued it (R333, R374). -/
structure Held where
  kind : HeldKind
  level : Level
  depth : Nat
deriving DecidableEq, Repr

/-- A request of a stalled instruction, a job or a transfer to another device, with its answer (R484, R485). -/
structure Ask where
  /-- serial; R422. -/
  serial : Nat
  /-- device; R483. -/
  device : Nat
  /-- 4 bits; R483; 1 RDREQ, 2 WRREQ, 4 CTRL. -/
  op : Nat
  buffer : Nat
  generation : BitVec 16
  /-- offset of the sector read or written, or the operation of a CTRL; R482, R483. -/
  key : Nat
  /-- 1 bit; R484; the answer has come. -/
  done : Bool := false
  /-- reason; R69, R481; the answer is a refusal. -/
  reason : Option Nat := none
  /-- words; R485; the payload of the request, sent again while no answer comes. -/
  args : List Word := []
  /-- words; R483; the data read, or the entry fields that a control operation returns. -/
  words : List Word := []
  /-- 1 bit; R481; the sector read is poisoned. -/
  bad : Bool := false
  /-- count; R485; times resent. -/
  resent : Nat := 0
  /-- 1 bit; R377; asked for an item of the release path, not for the stalled instruction. -/
  held : Bool := false
  /-- 32 bits; R98; endpoint of the home that a Shunter asks. -/
  home : Nat := 0
  /-- 1 bit; R330, R441; the store of a job marks its sector poisoned. -/
  mark : Bool := false
deriving DecidableEq, Repr

/-- What a reply tells the tile (R67, R110, R115). -/
inductive ReplyKind where
  | done
  | refused (reason : Nat) (off : Nat)
  | data (words : List Word) (bad : Bool)
deriving DecidableEq, Repr

/-- A reply or acknowledgement on its way to a tile (R110). -/
structure Reply where
  tile : Nat
  serial : Nat
  buffer : Nat
  generation : BitVec 16
  /-- 1 bit; R483; it comes from another device. -/
  peer : Bool := false
  /-- 16 bits; R428; domain of the request, whose tile a park may take away meanwhile. -/
  domain : BitVec 16 := 0
  kind : ReplyKind
deriving DecidableEq, Repr

/-- Status of a job (R354). -/
inductive JobStatus where
  | queued
  | running
  | auditing
  | done
  | cancelled
  | shadowExhausted
  | translationFault
  | homeRefused
  | auditMismatch
  | rolledBack
deriving DecidableEq, Repr

/-- What a job does (R337, R351, R352). -/
inductive JobKind where
  | mma (acc : Nat) (fp64 : Bool) (steps : Nat) (az : Bool) (ca cb : Cap)
  | zero (acc : Nat)
  | load (acc : Nat) (fp64 : Bool) (src : Cap) (off : Nat)
  | out (acc : Nat) (fp64 : Bool) (dst : Cap) (off : Nat) (rmode : BitVec 4) (seed : Word)
  | copy (dst src : Cap) (len : Nat)
deriving DecidableEq, Repr

/-- An entry of a tile's job table (R353-R357). -/
structure Job where
  /-- 48 bits; R353. -/
  number : Nat
  kind : JobKind
  status : JobStatus
  /-- 32 bits; R356; steps retired or 256-byte units copied. -/
  steps : Nat := 0
  /-- 1 bit; R355; a pending job error. -/
  pending : Bool := false
  /-- level and depth; R357; the region that issued the job. -/
  region : Option (Level × Nat) := none
  /-- 11 bits; R29, R66; the tile that lends the caps. -/
  tile : Nat := 0
  /-- cluster; R340, R351; index of the cluster whose engine or Shunter runs the job. -/
  cluster : Nat := 0
  /-- registers; R137; the cap registers lent, by level bank and number. -/
  lent : List (Level × Reg) := []
  /-- 1 bit; R129; the job has ended and its caps are back. -/
  ended : Bool := false
  /-- status; R354; the final status reached, before the job has ended. -/
  outcome : Option JobStatus := none
  /-- cycle; R184; when its wait on a translation began. -/
  since : Option Nat := none
  /-- buffers; R440; those of which a poisoned sector was met. -/
  marked : List (CapKind × Nat × Nat × BitVec 16) := []
  /-- 1 bit; R418; the caps are held because the lending tile is parked. -/
  held : Bool := false
  /-- 1 bit; R362; selected for audit. -/
  audited : Bool := false
  /-- 1 bit; R359; a step is granted and has not retired. -/
  granted : Bool := false
  /-- count; R353; order of acceptance at the engine. -/
  accepted : Nat := 0
  /-- count; R105; when the Shunter last served the copy job, in units moved; at first, when it was submitted. -/
  turn : Nat := 0
  /-- slots popped by the granted step (ring A, ring B); R345. -/
  popped : List (Nat × Nat × Nat) := []
  /-- 1 bit; R184; the wait that `since` counts is that of a home's copy before a write. -/
  copying : Bool := false
  /-- count; R354; rows that an `mx.out` has written. -/
  rows : Nat := 0
  /-- list; R483, R484; requests of the job to another device under a kind 4 cap. -/
  asks : List Ask := []
deriving DecidableEq, Repr

/-- An architectural item that a region saves (R368). -/
inductive Item where
  | x (r : Reg)
  | v (r : Reg)
  | c (r : Reg)
  | csr (n : BitVec 12)
  | loop
  | acc (n : Nat)
  | updateLine (kind : CapKind) (location buffer generation line : Nat)
deriving DecidableEq, Repr

/-- Hardware-loop state (R233, R265-R267). -/
structure LoopState where
  /-- 64 bits; R233; reset 0. -/
  start : Word := 0
  /-- 64 bits; R233; reset 0. -/
  stop : Word := 0
  /-- 64 bits; R233; reset 0. -/
  count : Word := 0
  /-- 2 bits; R265; reset 0 (DESIGN CHOICE, log 4); `lplevel`. -/
  level : Level := 0
  /-- 64 bits; R267; reset none; pending start write. -/
  pendStart : Option Word := none
  /-- 64 bits; R267; reset none; pending end write. -/
  pendStop : Option Word := none
  /-- 64 bits; R267; reset none; pending count write. -/
  pendCount : Option Word := none
deriving DecidableEq, Repr

/-- The partial values of a fold update line (R82, R111). -/
structure UpdateLine where
  /-- home, buffer; R82. -/
  home : HomeId
  buffer : Nat
  /-- 16 bits; R82. -/
  generation : BitVec 16
  /-- 5 bits; R82. -/
  op : BitVec 5
  /-- line index; R111; offset divided by 256. -/
  line : Nat
  /-- words; R82; partial value where valid. -/
  words : List (Option Word)
  /-- store numbers; R484; numbers of the folds held, under a kind 4 cap. -/
  numbers : List (BitVec 2 × Nat) := []
  /-- the cap's view; R82; domain and principal for the home's check. -/
  domain : BitVec 16
  principal : Nat
deriving DecidableEq, Repr

/-- State of a 64-byte sector of an L1 data line (R109). -/
inductive SectorState where
  | invalid
  | partl
  | valid
deriving DecidableEq, Repr

/-- A 64-byte sector of an L1 data line (R109, R110). -/
structure Sector where
  /-- 3 values; R109; reset Invalid. -/
  state : SectorState := .invalid
  /-- 64 bytes; R109, R110; reset empty; the bytes held. -/
  data : List Byte := []
  /-- 64 bits; R109; reset 0; byte-dirty mask. -/
  dirty : BitVec 64 := 0
  /-- 1 bit; R109; reset 0. -/
  poison : Bool := false
  /-- 1 bit; R330; reset 0; a poisoned lane was stored since the last write-back. -/
  bad : Bool := false
  /-- 64 bits; R330; reset 0; dirty bytes stored clean since then. -/
  clean : BitVec 64 := 0
  /-- 64 bits; R110; reset 0; dirty bytes in a write-back that the home has not acknowledged, not stored again since. -/
  sent : BitVec 64 := 0
deriving DecidableEq, Repr

/-- A line of the L1 data cache (R109); the list order is the replacement order, most recent first. -/
structure L1Line where
  kind : CapKind
  /-- 20 bits; R109. -/
  location : Nat
  /-- 24 bits; R109. -/
  buffer : Nat
  /-- 16 bits; R109. -/
  generation : BitVec 16
  /-- 48 bits; R109, R344; base of the cap, which tells the slots of a ring apart (log 17). -/
  base : Nat := 0
  /-- line index; R109; offset divided by 256. -/
  line : Nat
  /-- partials; R109; an update line's data, none for a data line. -/
  update : Option UpdateLine := none
  /-- level and depth; R109, R371; pinned by that open region. -/
  pin : Option (Level × Nat) := none
  /-- 1 bit; R188; the merge is held by a migrating page. -/
  heldMerge : Bool := false
  sectors : List Sector := [{}, {}, {}, {}]
deriving DecidableEq, Repr

/-- A line of the instruction cache (R115); the list order is the replacement order, most recent fill first. -/
structure ILine where
  kind : CapKind
  /-- 20 bits; R115. -/
  location : Nat
  /-- 24 bits; R115. -/
  buffer : Nat
  /-- 16 bits; R115. -/
  generation : BitVec 16
  /-- line index; R115; offset divided by 256. -/
  line : Nat
  /-- 256 bytes; R115, R139; the content. -/
  data : List Byte
  /-- four bits; R250, R442; the sectors that were poisoned at the fill, with the key of each. -/
  bad : List (Nat × Nat) := []
deriving DecidableEq, Repr

/-- A saved value of an item (R368); an accumulator's content is taken when the first job of the region that writes it begins
(R357, log 21). -/
inductive Saved where
  | x (r : Reg) (v : Word)
  | v (r : Reg) (v : VReg)
  | c (r : Reg) (c : Cap)
  | csr (n : BitVec 12) (v : Word)
  | loop (l : LoopState)
  | acc (n : Nat) (content : Option (List Host.Cell)) (rows cols : BitVec 64)
  | line (l : L1Line)
deriving DecidableEq, Repr

/-- An open recovery region (R367). -/
structure Region where
  /-- 5 bits; R367; destination register of `rgn.open`. -/
  dest : Reg
  /-- 64 bits; R374; address of the `rgn.open`. -/
  pc : Word
  /-- count; R367; submissions made at the open. -/
  jobSerial : Nat
  /-- 64 bits; R367; `msgrecv` at the open. -/
  msgrecv : Word
  /-- count; R367; Siding fill at the open. -/
  sidingFill : Nat
  /-- count; R367; number of the next level record at the open. -/
  levelSeq : Nat
  /-- list; R368; saved items, newest first. -/
  saved : List Saved := []
  /-- list; R371; fold lines pinned or relabelled in the region. -/
  pinned : Nat := 0
  /-- slots; R347; ring slots taken or popped in the region, oldest first. -/
  slots : List (Nat × Nat × Nat) := []
deriving DecidableEq, Repr

/-- A wait of a tile: the stalled instruction is retried at every step (log 2). -/
inductive WaitKind where
  | queue (q : Nat)
  | barrier (l : Level)
  | gangForm (mask : BitVec 8)
  | gangJoin
  | job (n : Nat)
  | lent (c : Reg)
  | reclaim (c : Reg)
  | wfi
  | early
  | translation (off : Nat)
  | reply (off : Nat)
  | drain (off : Nat)
  | copy (off : Nat)
  | inject
  | answer
  | park
  | xchBegin
  | xchEnd
  | release
  | batch
  | foldHeld
  | faultLog
  | jobTable (n : Nat)
deriving DecidableEq, Repr

/-- A wait in progress (R197, R236). -/
structure Wait where
  kind : WaitKind
  /-- cycle; R197; when its count started or restarted. -/
  since : Nat
  /-- 48 bits; R236; `wlimit` as the wait read it then. -/
  limit : BitVec 48 := 0
  /-- 1 bit; R182; a Deny answer has come for what it waits on. -/
  denied : Bool := false
deriving DecidableEq, Repr

/-- How Lichen or a debugger holds the tile (R408, R410, R415, R431). -/
inductive Hold where
  | free
  | retry (woken : Bool)
  | stop
  | fatal
deriving DecidableEq, Repr

/-- The trap that Lichen is disposing of (R408). -/
structure LichenTask where
  cause : Nat
  value : Word
  pc : Word
  /-- 2 bits; R409; handler level at the trap. -/
  level : Level
  /-- 1 bit; R409; the tile was a gang member. -/
  gang : Bool
  /-- 1 bit; R408; the unit begins with a `kpre`. -/
  prefixed : Bool
  /-- 4 bits; R412; the fault log entry written, if any. -/
  entry : Option Nat
  /-- 1 bit; R408, R409; the record has been accepted, or the tile has halted instead. -/
  sent : Bool := false
deriving DecidableEq, Repr

/-- A fault log entry (R411). -/
structure FaultEntry where
  /-- 8 bits; R411; reset 0. -/
  code : Nat := 0
  /-- 2 bits; R411; reset 0: 0 free, 1 replayable, 2 fatal. -/
  cls : Nat := 0
  /-- 2 bits; R411; reset 0. -/
  level : Nat := 0
  /-- 1 bit; R411; reset 0. -/
  acked : Bool := false
  /-- 1 bit; R412; reset 0; Lichen has released it. -/
  released : Bool := false
  /-- 1 bit; R411; reset 0. -/
  trap : Bool := false
  /-- 16 bits; R411; reset 0. -/
  sequence : Nat := 0
  /-- 64 bits; R411; reset 0. -/
  place : Word := 0
  /-- 64 bits; R411; reset 0. -/
  what : Word := 0
  /-- 64 bits; R411; reset 0. -/
  time : Word := 0
  /-- 1 bit; R450; reset 0; caused by an injected error. -/
  injected : Bool := false
  /-- 1 bit; R409; reset 0; the tile was a gang member at the event. -/
  gang : Bool := false
deriving DecidableEq, Repr

/-- A barrier level of a tile (R205). -/
structure Binding where
  /-- 6 bits; R205. -/
  domain : Nat
  /-- round; R205; the round of the last arrival not yet waited. -/
  arrived : Option Nat := none
  /-- cycle; R209; release cycle of the last round waited. -/
  released : Option Nat := none
deriving DecidableEq, Repr

/-- An entry of a Timetable (R208). -/
structure TableEntry where
  /-- 16 bits; R208. -/
  start : Nat
  /-- 3 bits; R208; 1-5. -/
  flits : Nat
  /-- 30 bits; R208. -/
  dest : Nat
deriving DecidableEq, Repr

/-- An exchange phase in progress (R209, R380). -/
structure Phase where
  /-- 4 bits; R209. -/
  table : Nat
  /-- cycle; R209; the round's release cycle. -/
  release : Nat
  /-- count; R210; next entry. -/
  next : Nat := 0
  /-- register; R380; the landing cap's register, if it is lent. -/
  landing : Option Reg := none
  /-- cycles; R380; closing cycle A. -/
  closing : Nat
deriving DecidableEq, Repr

/-- Gang state (R199-R204). -/
structure Gang where
  /-- 8 bits; R204; reset 0. -/
  mask : BitVec 8 := 0
  /-- 8 bits; R204; reset 0. -/
  left : BitVec 8 := 0
  /-- 3 bits; R204; reset 0. -/
  leader : Nat := 0
  /-- 3 bits; R204; reset 0. -/
  position : Nat := 0
  /-- 1 bit; R204; reset 0. -/
  member : Bool := false
  /-- 64 bits; R201; reset none; how the leader resolved the branch or the `jalr` that a follower has in hand. -/
  resolved : Option Word := none
deriving DecidableEq, Repr

/-- An entry of the dispatch table (R192). -/
structure DispatchEntry where
  /-- 40 bits; R192. -/
  entry : Nat
  /-- 2 bits; R192. -/
  level : Level
deriving DecidableEq, Repr

/-- Remote stores of one batch tag (R338). -/
structure Batch where
  /-- count; R338; reset 0. -/
  count : Nat := 0
  /-- 64 bits; R338; reset 0. -/
  summary : BitVec 64 := 0
  /-- devices; R338, R486; peers touched since the last close. -/
  peers : List Nat := []
deriving DecidableEq, Repr

/-- A remote store or fold not yet acknowledged (R141, R484). -/
structure Remote where
  /-- 2 bits; R328. -/
  tag : Nat
  /-- numbers; R338; store numbers it carries. -/
  numbers : List Nat
  /-- serial; R422. -/
  serial : Nat
  /-- device; R484. -/
  device : Nat
  buffer : Nat
  generation : BitVec 16
  domain : BitVec 16
  principal : Nat
  /-- address; R133; the 64-byte sector divided by 64. -/
  sector : Nat
  /-- bytes; R484; (offset in the buffer, address, byte). -/
  bytes : List (Nat × Nat × Byte)
  /-- line; R484; a FOLDREQ's update line. -/
  fold : Option UpdateLine := none
  /-- count; R485; times resent. -/
  resent : Nat := 0
  /-- tag and number; R338, R484; folds of other batch tags that the line gathered. -/
  also : List (Nat × Nat) := []
  /-- 1 bit; R330, R441; the store marks its sector poisoned. -/
  bad : Bool := false
  /-- operation and operands; R72, R483; set for the notice of a split, which the tile's next drain waits for. -/
  control : List Nat := []
deriving DecidableEq, Repr

/-- A send that has begun (R83 steps 2 to 4): the send buffer. -/
structure Sending where
  /-- message; R83; its caps as they were at issue. -/
  msg : Msg
  /-- cap registers; R84; by slot. -/
  regs : List Reg
  /-- caps; R83; those of the slots whose step 4 is done, as sent. -/
  done : List Cap := []
deriving DecidableEq, Repr

/-- An entry of the snapshot grant table (R152). -/
structure Grant where
  home : HomeId
  buffer : Nat
  generation : BitVec 16
  line : Nat
deriving DecidableEq, Repr

/-- A tile: its architectural and hidden state (R18, R225, R233, R420). -/
structure Tile where
  /-- 11 bits; R28; reset its own number. -/
  index : Nat
  /-- 11 bits; R428; reset its own number; home name: the index at which its rank group was first loaded. -/
  homeName : Nat
  /-- 1 bit; R239; reset M (DEDUCED from R521, log 7). -/
  mode : Mode
  /-- 2 bits; R195, R233; reset 0; `hlevel`. -/
  level : Level
  /-- 64 bits; R225; reset 0 (DESIGN CHOICE, log 7); offset within the code buffer. -/
  pc : Word
  /-- 4 x 32 x 64 bits; R225; reset 0 (R191 at launch; DESIGN CHOICE, log 4, before); banks 0-3. -/
  x : Vector (Vector Word 32) 4
  /-- 32 x 1,024 bits; R225; reset 0. -/
  v : Vector VReg 32
  /-- 32 x 256 bits; R225; reset null. -/
  c : Vector Cap 32
  /-- 3 x 2 x 256 bits; R225; reset null; `c28`, `c29` of levels 1-3. -/
  cBank : Vector (Vector Cap 2) 4
  /-- 9 bits; R230, R232; reset none; prefix latch. -/
  kpre : Option (BitVec 8)
  /-- 9 bits; R289; reset 0; `vl` len (8 bits). -/
  vlen : Nat
  /-- 1 bit; R289; reset 0; `vl` mk. -/
  vmk : Bool
  /-- 32 bits; R290; reset 0. -/
  vfmt : BitVec 32
  /-- 3 bits; R278; reset 0; mode 0-5. -/
  rmode : BitVec 3
  /-- 1 bit; R278; reset 0; sat. -/
  rsat : Bool
  /-- 64 bits; R278; reset 0. -/
  srseed : Word
  /-- 5 bits; R342; reset 0. -/
  mxmode : BitVec 5
  /-- 2 bits; R233; reset 0. -/
  btag : BitVec 2
  /-- R265-R267; the hardware loop. -/
  loop : LoopState
  /-- 48 bits; R236; reset 0x0EE6_B280. -/
  wlimit : BitVec 48
  /-- 30 bits; R233; reset 0; `tilerank`. -/
  rank : Nat
  /-- 64 bits; R212; reset 0. -/
  msgsent : Word
  /-- 64 bits; R212; reset 0. -/
  msgrecv : Word
  /-- R204; `gstat`. -/
  gang : Gang
  /-- 64 bits; R237; reset 0. -/
  waitinfo : Word
  /-- 64 bits; R375; reset 0. -/
  rgncause : Word
  /-- 64 bits; R238; reset 0. -/
  mcapinfo : Word
  /-- 6 bits; R414; reset 0; entry and word selected. -/
  logSelect : BitVec 6
  /-- 16 bits; R454; reset 0. -/
  mdomain : BitVec 16
  /-- 33 bits; R430; reset 0. -/
  mhaltgrp : BitVec 33
  /-- 48 bits; R425; reset 0; save area. -/
  sporeArea : BitVec 48
  /-- 8 bits; R425; reset 0; status. -/
  sporeStatus : BitVec 8
  /-- 5 bits; R233; reset 16. -/
  mauditf : Nat
  /-- 64 bits; R233; reset 0; `mcycle` minus the clock. -/
  cycleOff : Word
  /-- 64 bits; R233; reset 0. -/
  minstret : Word
  /-- 16 x 64 bits; R233; reset 0. -/
  pmc : Vector Word 16
  /-- 16 selects 0-11; R235; reset 0. -/
  pmcsel : Vector Nat 16
  /-- 2 x 64 bits; R233; reset 0; `pmpcfg0`, `pmpcfg2`. -/
  pmpcfg : Vector Word 2
  /-- 16 x 64 bits; R233; reset 0. -/
  pmpaddr : Vector Word 16
  /-- 2 bits; R235; reset U (reads 0); `mstatus.mpp`. -/
  mpp : Mode
  /-- 62 bits; R235; reset 0 (DESIGN CHOICE, log 4); base, bits 1:0 read 0. -/
  mtvec : Word
  /-- 64 bits; R235; reset 0 (DESIGN CHOICE, log 4). -/
  mscratch : Word
  /-- 64 bits; R235; reset 0 (DESIGN CHOICE, log 4); bits 1:0 read 0. -/
  mepc : Word
  /-- 64 bits; R235; reset 0 (DESIGN CHOICE, log 4). -/
  mcause : Word
  /-- 64 bits; R235; reset 0 (DESIGN CHOICE, log 4). -/
  mtval : Word
  /-- 3 x 64 bits; R195; reset 0 (DESIGN CHOICE, log 4); resume points of pre-empted levels. -/
  retPc : Vector Word 4
  /-- 3 x 2 bits; R195; reset 0 (DESIGN CHOICE, log 4); pre-empted levels. -/
  prev : Vector Level 4
  /-- 256 entries; R192; reset empty: every type at level 0. -/
  dispatch : List (Nat × DispatchEntry)
  /-- 4 queues of 32; R194; reset empty. -/
  queues : Vector (List QMsg) 4
  /-- queue of 32; R194, R208; reset empty; exchange queue. -/
  xqueue : List QMsg
  /-- 5 counts; R237; reset 0; messages removed from each queue. -/
  qHead : Vector Nat 5
  /-- 5 counts; R237; reset 0; messages entered into each queue. -/
  qTail : Vector Nat 5
  /-- 32 messages; R142, R333; reset empty. -/
  siding : List Held
  /-- list; R377; reset empty; release path. -/
  releasePath : List Held
  /-- 16 entries; R152; reset empty, most recent first. -/
  grants : List Grant
  /-- 64 entries; R353; reset empty, oldest first. -/
  jobs : List Job
  /-- count; R353; reset 0; submissions made: modulo 2^18 it is the serial of the next job. -/
  jobSerial : Nat
  /-- 4 tags; R338; reset empty. -/
  batches : Vector Batch 4
  /-- list; R141, R484; reset empty; remote stores not acknowledged. -/
  remotes : List Remote
  /-- list; R484, R485; reset empty; requests of the stalled instruction to other devices. -/
  asks : List Ask
  /-- serial; R422; reset 0; next request serial. -/
  serial : Nat
  /-- 4 stacks; R198, R367; reset empty, innermost first. -/
  regions : Vector (List Region) 4
  /-- 256 lines; R109; reset empty (invalid). -/
  l1 : List L1Line
  /-- 256 lines; R115; reset empty. -/
  icache : List ILine
  /-- 16 entries; R411; reset free. -/
  faultLog : Vector FaultEntry 16
  /-- entry numbers; R412; reset empty; records whose copy is on its way to the launch controller. -/
  logCopies : List Nat
  /-- 1 bit; R450; reset 0; the error being taken was injected. -/
  tainted : Bool
  /-- 16 bits; R411; reset 0; next sequence number. -/
  faultSeq : Nat
  /-- 4 levels; R205; reset unbound. -/
  barriers : Vector (Option Binding) 4
  /-- R209; reset none; exchange phase. -/
  phase : Option Phase
  /-- R197; reset none; the wait of a stalled instruction. -/
  wait : Option Wait
  /-- 64 bits; R355, R387, R417; reset none; the answer of an agent the stalled instruction waits for. -/
  answer : Option Word
  /-- R408; reset none; the trap Lichen disposes of. -/
  lichen : Option LichenTask
  /-- R408, R410, R415; reset free. -/
  hold : Hold
  /-- 1 bit; R431; reset 0; halted for debug. -/
  halted : Bool
  /-- R434; reset none; debug step in progress: true runs until one instruction retires, false for one cycle. -/
  debugStep : Option Bool
  /-- 1 bit; R417; reset 0; clock stopped by a park. -/
  parked : Bool
  /-- cycle; R417, R431; reset 0; when the clock of a parked or halted tile stopped. -/
  stopTime : Nat
  /-- 256 bits; R59, R456; reset null; exec share of the Lichen image. -/
  lichenShare : Cap
  /-- 256 bits; R59, R456; reset null; Lichen's domain-0 DMEM cap. -/
  lichenData : Cap
  /-- 64 bits; R39; reset none; launch that the tile belongs to. -/
  launch : Option Nat
  /-- bytes; R33; reset 131072 (the default of R33); P. -/
  privateSize : Nat
  /-- bytes; R34; reset 16384 (default). -/
  undoSize : Nat
  /-- bytes; R34; reset 49152 (default). -/
  tshadowSize : Nat
  /-- bytes; R34; reset 6144 (default). -/
  hstackSize : Nat
  /-- bytes; R90; reset 262144 (default); Q. -/
  quota : Nat
  /-- 32 bits; R437; reset 0; corrected errors. -/
  corrected : Nat
  /-- list; R419, R420; reset empty; park buffer. -/
  parkBuffer : List Msg
  /-- list; R419, R422; reset empty; replies and acknowledgements absorbed while the tile is parked and its spore is not out. -/
  parkReplies : List Reply
  /-- 1 bit; R101; reset 0; reset or power-gated by E TILE_RESET_OR_POWER_GATE. -/
  gated : Bool
  /-- 7 records; R421; reset 0; packets injected and accepted per virtual network. -/
  vnCounts : Vector (Nat × Nat) 7
  /-- 7 counts of 8 bits; R421, R427; reset 0 (DESIGN CHOICE, log 41); flow-control credits that a revive loaded into the port. -/
  vnCredits : Vector Nat 7
  /-- list; R68, R61; reset empty; cap registers to trap for after a revive (R62). -/
  reviveTraps : List Reg
  /-- at most one per level; R373; reset empty; rollbacks that wait for their level: level, depth, cause value. -/
  rollbacks : List (Level × Nat × Nat)
  /-- 1 bit; R399; reset 0; started by the launch controller. -/
  started : Bool
  /-- item; R444; reset none; the register whose error began the rollback that is pending. -/
  failing : Option ErrorItem
  /-- slots; R61; reset empty; caps delivered to a handler that failed their check and whose trap is still to be taken. -/
  slotTraps : List Nat
  /-- 256 entries; R51; reset empty; rank groups whose rank map entry the network interface holds, with the cluster that it gives, oldest first. -/
  rankCache : List (Nat × Nat)
  /-- 1 bit; R203, R417; reset 0; gang lag: a follower parked before it executed the instruction that its leader has completed. -/
  lag : Bool
  /-- 1 bit; R213, R420; reset 0; whether the tile was idle when a park stopped its clock. -/
  idleStop : Bool
  /-- send buffer; R83; reset none; the send that has begun. -/
  sending : Option Sending
deriving DecidableEq, Repr

end Sys2Proof.Machine
end

