-- ==== Sys2Proof/Machine/Device.lean ====
section
/-! DEFINITION. The data of the agents beside the tiles: homes, rings, engines, Shunters, paging, launches, spores, the root of
trust, the fabric, the host port and power. A field's comment reads: width; rule; reset value; what it is. -/

namespace Sys2Proof.Machine

open Sys2Proof

/-- A violation log entry (R68). -/
structure Violation where
  home : HomeId
  principal : Nat
  buffer : Nat
  genPresented : BitVec 16
  genRecorded : BitVec 16
  reason : Nat
  /-- 2 bits; R68; 0 load, 1 store or write-back, 2 fold, 3 control. -/
  access : Nat
  offset : Nat
  domain : BitVec 16
  /-- domain recorded in the entry; R68; the entry's domain when it differs and is not Free. -/
  recorded : Option (BitVec 16)
  time : Nat
deriving DecidableEq, Repr

/-- What a request asks of a home (R66, R71, R82, R110). -/
inductive ReqKind where
  | load (off n : Nat)
  | store (bytes : List (Nat × Byte)) (bad : List Nat) (clean : List Nat)
  | merge (line : UpdateLine)
  | notice (state : DirState) (op : BitVec 5)
deriving DecidableEq, Repr

/-- A request on its way to a home (R66, R72, R422). -/
structure Request where
  /-- serial; R422. -/
  serial : Nat
  /-- tile index; R72; the issuing tile. -/
  tile : Nat
  /-- endpoint; R66; the principal. -/
  principal : Nat
  home : HomeId
  buffer : Nat
  generation : BitVec 16
  domain : BitVec 16
  kind : ReqKind
  /-- cap; R344; the slot cap of a request under one, by whose ring record the home checks it. -/
  ring : Option Cap := none
  /-- serial and device; R484; set for a request of another device, which awaits an answer. -/
  remote : Option (Nat × Nat) := none
  /-- 2 bits and mask; R484, R486; batch tag and store numbers of a remote request. -/
  batch : Nat × BitVec 64 := (0, 0)
  /-- 1 bit; R66, R184; made by an engine or Shunter job that the tile lent the cap to. -/
  job : Bool := false
deriving DecidableEq, Repr

/-- State of a ring slot (R345). -/
inductive SlotState where
  | free
  | reserved
  | published
  | visible
  | taken
  | popped
  | held
deriving DecidableEq, Repr

/-- A slot entry (R343). -/
structure Slot where
  /-- 3 bits; R343; reset Free. -/
  state : SlotState := .free
  /-- 1 bit; R347; taken or popped inside a region. -/
  region : Bool := false
  /-- 16 bits; R343; reset 0; serial. -/
  serial : BitVec 16 := 0
deriving DecidableEq, Repr

/-- A ring record (R343) with its slot entries. -/
structure Ring where
  /-- cluster; R343; index of the cluster that holds it. -/
  cluster : Nat
  /-- 8 bits; R343; reset 0. -/
  rsv : Nat := 0
  /-- 8 bits; R343; reset 0. -/
  tail : Nat := 0
  /-- 8 bits; R343; reset 0. -/
  head : Nat := 0
  /-- 9 bits; R343; reset 0. -/
  visible : Nat := 0
  /-- 6 bits; R343. -/
  rights : Rights
  /-- 24 bits; R343. -/
  buffer : Nat
  /-- 16 bits; R343. -/
  generation : BitVec 16
  /-- 24 bits; R343; CMEM offset of slot 0. -/
  base : Nat
  /-- 32 bits; R343. -/
  format : BitVec 32
  /-- 16 bits; R344; domain of the ring. -/
  domain : BitVec 16
  /-- n entries; R343. -/
  slots : List Slot
  /-- 1 bit; R445; the record has failed. -/
  lost : Bool := false
deriving DecidableEq, Repr

/-- The matrix engine of a cluster (R339-R342, R358, R359, R448). -/
structure Engine where
  /-- 32 x 64 bits; R341; reset 0; row poison masks. -/
  rows : Vector (BitVec 64) 32
  /-- 32 x 64 bits; R341; reset 0; column poison masks. -/
  cols : Vector (BitVec 64) 32
  /-- counter; R358; reset 0; step slots. -/
  counter : Nat
  /-- 64 x 4 bits; R358; reset: Audit at 15, 31, 47, 63, Open elsewhere. -/
  table : List Nat
  /-- 8 counts; R359; reset 1 (the weights of the default table). -/
  credits : List Nat
  /-- 3 bits; R359; reset 0. -/
  pointer : Nat
  /-- list; R359; reset empty, oldest first. -/
  debt : List Nat
  /-- count; R361, R20; reset 0; slots that the running step still holds. -/
  busy : Nat
  /-- count; R353; reset 0; number of the next accepted job. -/
  accepted : Nat
  /-- count; R448; reset 0; suspect records. -/
  suspects : Nat
  /-- count; R448; reset none; passing segments still needed under probation. -/
  probation : Option Nat
deriving DecidableEq, Repr

/-- An entry of a Shunter's transfer queue (R88, R91, R94, R103). -/
structure Transfer where
  msg : Msg
  /-- 1 bit; R91, R103; the placement is decided and a copy is due. -/
  decided : Bool := false
  /-- 2 bits per slot; R91, R96; empty until decided. -/
  places : List (BitVec 2) := []
  /-- caps of the new homes, by slot; R94, R95; empty until they are allocated. -/
  copies : List Cap := []
  /-- 0-2; R94; the slot whose copy is next. -/
  slot : Nat := 0
  /-- units; R103; 256-byte units of that slot copied. -/
  units : Nat := 0
  /-- list; R98, R484; requests to the source's home on another device. -/
  asks : List Ask := []
  /-- count; R103; when the Shunter last served it, in units moved; at first, when it was decided. -/
  turn : Nat := 0
deriving DecidableEq, Repr

/-- A cluster (R28, R42, R43, R103, R448, R455). -/
structure Cluster where
  /-- 8 bits; R28. -/
  index : Nat
  /-- 8 bits; R428; reset its own index; home name of the rank group it runs. -/
  homeName : Nat
  /-- bytes; R43; reset 1 MiB (default); S. -/
  shadow : Nat
  engine : Engine
  /-- 64 entries; R103; reset empty, oldest first. -/
  transfers : List Transfer
  /-- serial; R422; reset 0; next request serial of the Shunter. -/
  serial : Nat
  /-- count; R103, R105; reset 0; 256-byte units that the Shunter has moved. -/
  turn : Nat
  /-- 0-4; R105; reset 0; transfer units copied since the last unit of a copy job. -/
  burst : Nat
  /-- 64 bits; R394, R39; reset none; launch loaded on it. -/
  launch : Option Nat
  /-- 1 bit; R448; reset 0. -/
  quarantined : Bool
  /-- 1 bit; R417; reset 0; engine, Shunter and home stopped by a park with k = 1. -/
  stopped : Bool
  /-- 1 bit; R415, R448; reset 0; a tile of it left a fatal record. -/
  fatal : Bool
deriving DecidableEq, Repr

/-- An audit segment (R362, R363). -/
structure Segment where
  /-- cluster; R362; index of the cluster whose engine ran it. -/
  cluster : Nat
  tile : Nat
  /-- 48 bits; R353. -/
  job : Nat
  acc : Nat
  fp64 : Bool
  /-- bytes; R362; the accumulator at the segment start. -/
  start : List (Nat × Byte)
  startMasks : List (BitVec 64 × BitVec 64)
  /-- bytes of the slots read, step by step; R362. -/
  steps : List (List Byte × List Byte)
  formats : BitVec 32 × BitVec 32
  /-- 64 bits; R362; signature of the original. -/
  sign : Option (BitVec 64) := none
  /-- cluster and signature of each replay; R363. -/
  replays : List (Nat × BitVec 64) := []
  /-- cluster and count; R363; the replay in progress and its steps still to be granted. -/
  replaying : Option (Nat × Nat) := none
  /-- 1 bit; R450; caused by an injection. -/
  injected : Bool := false
deriving DecidableEq, Repr

/-- An L2 line (R117, R118): its bytes are those of its frame in HBM4, for the L2 writes through (R119). The list order is the replacement
order, most recent fill first (log 70). -/
structure L2Line where
  /-- die x 256 + slice; R117. -/
  slice : Nat
  /-- 40 bits; R118; address divided by 256. -/
  line : Nat
  domain : BitVec 16
  buffer : Nat
  generation : BitVec 16
  /-- four bits; R117; sectors present. -/
  sectors : List Bool
  /-- 39 bits; R119, R169; the frame address of the line, by the translation that filled it. -/
  frame : Nat
deriving DecidableEq, Repr

/-- A TLB entry (R173). -/
structure TlbEntry where
  slice : Nat
  /-- page base; R173. -/
  va : Nat
  /-- 4 bits; R168; size code. -/
  size : Nat
  pa : Nat
deriving DecidableEq, Repr

/-- A walk-cache entry (R173): the table reached below a level. -/
structure WalkEntry where
  slice : Nat
  /-- 1-3; R173. -/
  level : Nat
  /-- virtual address bits above the entry's span. -/
  key : Nat
  table : Nat
deriving DecidableEq, Repr

/-- Whose request waits on a page (R176, R181, R184). -/
inductive Requester where
  /-- The stalled instruction of a tile; `unit` tells its instructions apart. -/
  | tile (i : Nat) (unit : Nat)
  /-- A write-back, merge or other posted request of a tile, by its serial. -/
  | posted (tile serial : Nat)
  | job (tile number : Nat)
  | remote (device serial : Nat)
  /-- The CXL.mem request that the host port endpoint serves. -/
  | host
  /-- A home's own access. -/
  | home
deriving DecidableEq, Repr

/-- A page that requests wait on at a slice (R176, R180, R187). -/
structure PageWait where
  slice : Nat
  /-- requests; R176, R181, R184; those that wait on the page, oldest first. -/
  who : List Requester
  /-- 48 bits; R180; faulting address. -/
  va : Nat
  /-- page; R176; first address and size of the page waited on. -/
  page : Nat
  span : Nat
  /-- 3 bits; R180; none while held by a migration. -/
  reason : Option Nat
  /-- 2 bits; R180. -/
  access : Nat
  principal : Nat
  buffer : Nat
  generation : BitVec 16
  domain : BitVec 16
  entry : Word
  /-- 1 bit; R180; the Station core has the fault message. -/
  received : Bool := false
deriving DecidableEq, Repr

/-- The translation machinery of the device (R167-R190). -/
structure Paging where
  /-- 39 bits; R167; reset 0 (DESIGN CHOICE, log 4); frame of the root table. -/
  root : Nat
  /-- list; R117; reset empty. -/
  l2 : List L2Line
  /-- list; R173; reset empty. -/
  tlb : List TlbEntry
  /-- list; R173; reset empty. -/
  walks : List WalkEntry
  /-- list of (die x 256 + slice, home die, buffer); R120; reset empty. -/
  checks : List (Nat × Nat × Nat)
  /-- list; R176, R181; reset empty. -/
  waits : List PageWait
  /-- list of (die, size code, frame); R178; reset empty. -/
  pools : List (Nat × Nat × Nat)
  /-- count; R167; reset 0 (DESIGN CHOICE, log 23); page table frames taken from the top of HBM4. -/
  tables : Nat
  /-- list of (page, size, new frame); R186, R189; reset empty; pages with mig = 1 and the copy made. -/
  moving : List (Nat × Nat × Nat)
  /-- list of (slice, entry address, value); R175; reset empty; first reads of critical leaves whose second read is to come. -/
  seconds : List (Nat × Nat × Nat)
deriving DecidableEq, Repr

/-- State of a launch (R396). -/
inductive LaunchState where
  | waiting
  | ready
  | loading
  | running
  | parking
  | parked
  | reviving
  | ending
  | ended
deriving DecidableEq, Repr

/-- An error summary entry (R468). -/
structure Summary where
  /-- 32 bytes; R468; the body. -/
  body : List Word
  /-- 0-6; R468. -/
  source : Nat
  injected : Bool
  endpoint : Nat
  time : Nat
  device : Nat
deriving DecidableEq, Repr

/-- A rank group of a launch (R50-R52, R398, R428). -/
structure Group where
  /-- cluster; R52; the rank map entry. -/
  cluster : Nat
  /-- cluster; R428; home name. -/
  home : Nat
  /-- device; R405. -/
  device : Nat
  /-- 1 bit; R396; its spore is out and it is not revived. -/
  parked : Bool := false
  /-- 1 bit; R399; loaded. -/
  loaded : Bool := false
  /-- 1 bit; R398, R406; reset 1; 0 once its device has unloaded it and queued it again. -/
  placed : Bool := true
deriving DecidableEq, Repr

/-- An initial-cap entry of a launch record (R392). -/
structure CapEntry where
  first : Nat
  last : Nat
  reg : Nat
  kind : Nat
  mode : Nat
  rights : Nat
  length : Nat
  imageOffset : Nat
  imageLength : Nat
  format : BitVec 32
deriving DecidableEq, Repr

/-- A Timetable (R208, R393): the sender lists by rank. -/
structure Timetable where
  t : Nat
  senders : List (Nat × List TableEntry)
deriving DecidableEq, Repr

/-- A launch record as read (R391-R393). -/
structure Record where
  clusters : Nat := 1
  priority : Nat := 0
  domain : BitVec 16 := 0
  entry : Nat := 0
  arenareg : Nat := 0
  privateSize : Nat := 131072
  undo : Nat := 16384
  tshadow : Nat := 49152
  hstack : Nat := 6144
  cshadow : Nat := 1048576
  quota : Nat := 262144
  /-- MiB; R160. -/
  dshadow : Nat := 256
  /-- microseconds; R182. -/
  faultwait : Nat := 10000
  faultrank : Nat := 0
  complete : Nat := 0
  /-- MiB; R47. -/
  arena : Nat := 0
  arenarank : Nat := 0
  after : List Nat := []
  consts : List Word := []
  dispatch : List (Nat × DispatchEntry) := []
  caps : List CapEntry := []
  /-- domain and member count; R393. -/
  barriers : List (Nat × Nat) := []
  tables : List Timetable := []
  slots : List Nat := []
  devices : List (Nat × Nat) := []
deriving DecidableEq, Repr

/-- A launch (R391-R407, R467, R468). -/
structure Launch where
  number : Nat
  /-- device; R406; the device that issued the number. -/
  device : Nat
  state : LaunchState
  record : Record
  recordCap : Cap
  codeCap : Cap
  /-- die; R387, R398; the controller that accepted the post. -/
  die : Nat
  /-- rank groups; R50, R398. -/
  groups : List Group := []
  /-- shares; R399, R392; caps and weights the controller keeps. -/
  kept : List Cap := []
  /-- caps by number of the initial-cap entry, or 256 for the arena; R47, R392; the DMEM buffers made. -/
  buffers : List (Nat × Cap) := []
  /-- sweep; R214; the last sweep: all idle, sums of msgsent and msgrecv. -/
  sweep : Option (Bool × Nat × Nat) := none
  /-- rank and value; R388. -/
  done : Option (Nat × Word) := none
  /-- 1 bit; R445; ended by a failed die. -/
  failed : Bool := false
  /-- 1 bit; R388, R402; the completion message is out. -/
  delivered : Bool := false
  postTime : Nat := 0
  startTime : Nat := 0
  endTime : Nat := 0
  /-- count; R467. -/
  parks : Nat := 0
  /-- count; R467. -/
  audited : Nat := 0
  /-- count; R363. -/
  unaudited : Nat := 0
  /-- count; R101. -/
  lost : Nat := 0
  /-- entries; R468. -/
  summary : List Summary := []
  /-- count; R468; entries that did not fit. -/
  overflow : Nat := 0
  /-- counts by source 0-6; R467. -/
  sources : List Nat := [0, 0, 0, 0, 0, 0, 0]
  /-- count; R467; violation items. -/
  violations : Nat := 0
  /-- share answers; R405; device and refusal code (0 accept). -/
  shares : List (Nat × Nat) := []
  /-- words; R405; the record, its length and the code that the lead sent, at a share not yet loaded. -/
  offer : List Word := []
  /-- rank, register, cap; R405; caps that the lead made for ranks of this device. -/
  remoteCaps : List (Nat × Nat × Cap) := []
  /-- devices; R406, R407, R403; other devices whose share is loaded or revived, or has ended. -/
  ready : List Nat := []
  /-- caps; R402, R404; the caps of the completion message: the record buffer, and rank 0's c1. -/
  outgoing : List Cap := []
  /-- count; R407; reset 0; acknowledgements of rank-map changes that the lead waits for. -/
  mapOwed : Nat := 0
  /-- devices; R407; reset none; those whose moved rank groups wait for the acknowledgements. -/
  movers : List Nat := []
  /-- 1 bit; R52, R407; reset 0; every device of the launch has the rank map of the groups that are to be revived. -/
  mapKnown : Bool := false
  /-- sweeps; R407; device, all idle, sums of msgsent and msgrecv, not yet combined. -/
  peerSweeps : List (Nat × Bool × Nat × Nat) := []
  /-- digest; R467; the code buffer at post. -/
  codeHash : Nat := 0
  /-- digest; R467; the launch record at post. -/
  recordHash : Nat := 0
  /-- 2 bits; R402, R467; bits 1:0 of word 1 of the completion message. -/
  endMode : Nat := 0
  /-- 1 bit; R468; domain-0 firmware has released the error summary. -/
  released : Bool := false
  /-- 1 bit; R400; new `xch.begin` stalls. -/
  holdExchange : Bool := false
  /-- 1 bit; R402, R403; caps, spores, contexts and clusters of the launch are freed. -/
  cleaned : Bool := false
deriving DecidableEq, Repr

/-- A barrier domain of a launch (R205, R206). -/
structure BarDomain where
  launch : Nat
  domain : Nat
  members : Nat
  /-- bindings; R205; rank and level. -/
  bound : List (Nat × Level) := []
  /-- count; R205; current round. -/
  round : Nat := 0
  /-- count; R205; arrivals of the current round. -/
  arrivals : Nat := 0
  /-- rounds released; R206; round and release cycle. -/
  released : List (Nat × Nat) := []
deriving DecidableEq, Repr

/-- A DMEM range in use (R47). -/
structure DmemRange where
  domain : BitVec 16
  first : Nat
  bytes : Nat
  /-- launch; R47; none for the buffer of a launch that has ended (R404). -/
  launch : Option Nat
deriving DecidableEq, Repr

/-- A post waiting at a launch controller (R387). -/
structure Post where
  tile : Nat
  reg : Reg
  codeReg : Reg
  recordCap : Cap
  codeCap : Cap
  level : Level
  /-- 64 bits; R405; the launch drawn for it while share controllers answer. -/
  number : Option Nat := none
deriving DecidableEq, Repr

/-- A spore (R420) with its header fields. -/
structure Spore where
  /-- 48 bits; R425; save area. -/
  area : Nat
  /-- 16 bits; R420; format version, 0x0001. -/
  version : Nat
  /-- 4 bits; R420; 0 tile, 1 gang set, 2 cluster. -/
  kind : Nat
  sealed : Bool
  idle : Bool
  dfatal : Bool
  held : Bool
  halted : Bool
  /-- 32 bits; R420, R235. -/
  revision : BitVec 32
  /-- 64 bits; R420. -/
  scanhash : Word
  domain : BitVec 16
  /-- 64 bits; R423. -/
  counter : Nat
  launch : Nat
  rank : Nat
  endpoint : Nat
  sent : Nat
  received : Nat
  /-- 128 bits; R424. -/
  tag : BitVec 128
  /-- sections 0-3, 5 and 7; R420; the tiles as stopped. -/
  tiles : List Tile
  /-- section 6; R420; engine, Shunter and cluster state. -/
  cluster : Option Cluster
  /-- sections 4 and 6; R420; TMEM, CMEM and accumulator bytes of a cluster spore. -/
  cells : List Host.Cell
  /-- sections 4 and 6; R420; directory entries of the stopped homes. -/
  dirs : List DirEntry
  /-- sections 4 and 6; R420; level records of the stopped homes. -/
  levels : List LevelRecord
  /-- sections 4 and 6; R420; copies of the stopped homes. -/
  copies : List LineCopy
  /-- section 6; R420; ring records. -/
  rings : List Ring
  /-- sections 4 and 6; R420, R441; poisoned sectors. -/
  poison : List PoisonMark
  /-- section 6; R420, R362; the audit area. -/
  segments : List Segment
  /-- section 3; R126, R421; write-backs and notices of its tiles in flight at the stop. -/
  requests : List Request := []
  /-- section 5, tile by tile; R421; a 128-bit record, as two words, for each virtual network. -/
  records : List (List Nat) := []
  /-- section 5; R421; the redirect table: serial, destination endpoint, and whether data is awaited. -/
  redirects : List (Nat × Nat × Bool) := []
  /-- eight counts of 256-byte units; R420; lengths of the sections, known when the spore is out. -/
  lengths : List Nat := []
  /-- tile by tile, seven counts; R427; packets that the old router absorbed, by its own count. -/
  routers : List (List Nat) := []
  /-- replies; R422; those that reached the old router after the spore was out: it discarded and counted them, and a reissued request gets them again. -/
  late : List Reply := []
  /-- 1 bit; R417; asked for through the management port, whose owner waits for the status. -/
  managed : Bool := false
  /-- 1 bit; R423, R426; it has been revived: its context is Live. -/
  revived : Bool := false
  /-- 1 bit; R420; the header is accepted and the spore is out. -/
  out : Bool
  /-- tile waiting for the status; R417. -/
  requester : Option Nat
deriving DecidableEq, Repr

/-- A spore context of the root of trust (R423). -/
structure Context where
  domain : BitVec 16
  launch : Nat
  rank : Nat
  counter : Nat
  parked : Bool
deriving DecidableEq, Repr

/-- A spore overflow queue (R429). -/
structure Overflow where
  launch : Nat
  rank : Nat
  msgs : List Msg
deriving DecidableEq, Repr

/-- A domain descriptor (R452). -/
structure Descriptor where
  domain : BitVec 16
  isSealed : Bool
  debug : Bool
  inject : Bool
  hostclear : Bool
  keyed : Bool
  /-- 10 bits; R452; key slot. -/
  slot : Nat
  roster : List Nat
  /-- GiB; R452. -/
  arenabase : Nat
  /-- GiB; R452. -/
  arenasize : Nat
  logbase : Nat
  /-- 5 bits; R452. -/
  logsize : Nat
  /-- 256 bits; R471; the domain secret. -/
  secret : Nat
deriving DecidableEq, Repr

/-- An item of a session log (R463, R464). -/
structure LogItem where
  /-- 8 bits; R464. -/
  type : Nat
  /-- 8 bits; R463. -/
  units : Nat
  injected : Bool
  domain : BitVec 16
  /-- 64 bits; R463. -/
  sequence : Nat
  /-- ns; R463. -/
  time : Nat
  launch : Nat
  /-- payload words; R464. -/
  payload : List Nat
  /-- 48 bytes; R463; the chain value. -/
  chain : Nat
deriving DecidableEq, Repr

/-- A session log (R463-R466). -/
structure SessionLog where
  domain : BitVec 16
  /-- units; R452; capacity. -/
  size : Nat
  items : List LogItem := []
  /-- count; R463; items written. -/
  sequence : Nat := 0
  /-- count; R466; units written and not yet read. -/
  used : Nat := 0
  /-- count; R465. -/
  heartbeats : Nat := 0
  /-- count; R465; items dropped since the last heartbeat. -/
  dropped : Nat := 0
  /-- count; R465, R68; violation items dropped by homes since the last heartbeat. -/
  violationsDropped : Nat := 0
  /-- 48 bytes; R463; chain value of the last item. -/
  chain : Nat := 0
  /-- ns; R463; time of the last item. -/
  lastTime : Nat := 0
deriving DecidableEq, Repr

/-- An item on its way to the writer of a log (R463, R68). -/
structure PendingItem where
  domain : BitVec 16
  type : Nat
  units : Nat
  injected : Bool
  launch : Nat
  payload : List Nat
deriving DecidableEq, Repr

/-- Phase of the SPDM responder (R471). -/
inductive SpdmPhase where
  | start
  | version
  | capabilities
  | algorithms
  | exchanged
  | secure (domain : BitVec 16)
deriving DecidableEq, Repr

/-- A link of a halt group of a die of this device to the same group of another die, of this device or another (R431). -/
structure HaltLink where
  /-- 0-3; R431; die of this device. -/
  die : Nat
  /-- 0-15; R431. -/
  group : Nat
  /-- 19 bits; R431; device of the linked die. -/
  device : Nat
  /-- 0-3; R431; the linked die. -/
  other : Nat
deriving DecidableEq, Repr

/-- The root of trust (R423, R452-R471, R512). -/
structure Trust where
  /-- list; R452; reset empty. -/
  descriptors : List Descriptor
  /-- list; R463; reset empty; domain 0's log opens at step 7 of boot. -/
  logs : List SessionLog
  /-- list; R463; reset empty. -/
  pending : List PendingItem
  /-- list of (domain, counter); R423; reset empty: every counter 0 (DESIGN CHOICE, log 4). -/
  counters : List (BitVec 16 × Nat)
  /-- list; R423; reset empty. -/
  contexts : List Context
  /-- 7 registers of 384 bits; R470; reset 0. -/
  measurements : List Nat
  /-- key; R469; reset 0. -/
  attestation : Nat
  /-- list; R467; reset empty; receipts kept for domain-0 firmware: launch and words. -/
  receipts : List (Nat × List Nat)
  /-- 1 bit; R469; reset 0; the mirror on IO die 1 is in charge. -/
  mirror : Bool
  /-- R471; reset start. -/
  spdm : SpdmPhase
  /-- list; R471; reset empty; answers on the DOE mailbox, newest first: code and words. -/
  answers : List (Nat × List Nat)
  /-- transcript of the SPDM exchange; R471; reset empty. -/
  transcript : List Nat
deriving DecidableEq, Repr

/-- Mode of a fabric port (R472, R489). -/
inductive PortMode where
  | down
  | native
  | ualink
deriving DecidableEq, Repr

/-- An entry of the fabric table (R475). -/
structure Route where
  device : Nat
  port : Nat
  hops : Nat
  mask : BitVec 72
deriving DecidableEq, Repr

/-- A fabric packet (R481-R483). -/
structure Packet where
  op : Nat
  vn : Nat
  sealed : Bool := false
  epoch : Nat := 0
  flits : Nat := 1
  hop : Nat := 0
  btag : Nat := 0
  bytes : Nat := 0
  via : Option Nat := none
  source : Nat := 0
  destination : Nat := 0
  opfield : BitVec 9 := 0
  buffer : Nat := 0
  generation : BitVec 16 := 0
  offset : Nat := 0
  domain : BitVec 16 := 0
  serial : Nat := 0
  /-- words; R483; payload. -/
  words : List Word := []
  /-- message; R483; the message of a MSG packet. -/
  msg : Option Msg := none
  /-- 64 bits; R461; counter of the trailer. -/
  counter : Nat := 0
  /-- 128 bits; R461, R488; tag of the trailer. -/
  tag : BitVec 128 := 0
  /-- 1 bit; R170, R461; it carries data of a confidential page. -/
  conf : Bool := false
  /-- 1 bit; R483; a reserved bit of the packet is set. -/
  reserved : Bool := false
deriving DecidableEq, Repr

/-- A path record (R477). -/
structure Path where
  device : Nat
  port : Nat
  via : Option Nat
  unacked : Nat
deriving DecidableEq, Repr

/-- Key state for one peer and domain (R461, R462). -/
structure KeyState where
  domain : BitVec 16
  peer : Nat
  /-- 32 bits; R461; full epoch number when sending. -/
  sendEpoch : Nat := 0
  /-- 64 bits; R461; next counter. -/
  sendCounter : Nat := 0
  /-- 32 bits; R461; current epoch when receiving. -/
  recvEpoch : Nat := 0
  /-- window; R462; counters seen of the current epoch. -/
  seen : List Nat := []
deriving DecidableEq, Repr

/-- The Junctions (R472-R490). -/
structure Fabric where
  /-- 72 ports; R472, R489; reset down. -/
  ports : List PortMode
  /-- list; R475; reset empty: every device absent. -/
  routes : List Route
  /-- list; R477; reset empty. -/
  paths : List Path
  /-- list; R479; reset empty; packets kept until acknowledged, oldest first. -/
  kept : List Packet
  /-- list; R476; reset empty; packets that have left, newest first. -/
  sent : List Packet
  /-- list; R485; reset empty. -/
  unreachable : List Nat
  /-- list; R476; reset empty; intermediates drawn, as device and port. -/
  intermediates : List (Nat × Nat)
  /-- 72 counts; R476; reset 0; flits queued per port. -/
  queued : List Nat
  /-- list; R461; reset empty. -/
  keys : List KeyState
  /-- list of (device, sequence); R479, R482; reset empty; next message sequence to send. -/
  sendSeq : List (Nat × Nat)
  /-- list of (device, sequence); R479; reset empty; next message sequence to accept. -/
  recvSeq : List (Nat × Nat)
  /-- list of (source endpoint, serial); R479, R422; reset empty; requests passed on. -/
  passed : List (Nat × Nat)
  /-- count; R483; reset 0; packets discarded. -/
  discards : Nat
  /-- list of (rank source endpoint, tag, mask); R486; reset empty; refusals not yet summarised. -/
  refusals : List (Nat × Nat × BitVec 64)
  /-- list of (packet, failures); R488; reset empty; a packet is its device times 2^24 plus its message sequence. -/
  failures : List (Nat × Nat)
  /-- list; R477; reset empty; packets that wait for a path record, oldest first. -/
  waiting : List Packet
  /-- list; R483; reset empty; packets that have reached a Junction of this device and wait to be handled, oldest first. -/
  inbox : List Packet
deriving DecidableEq, Repr

/-- A CXL.mem request (R493). -/
structure CxlRequest where
  write : Bool
  addr : Nat
  data : List Byte
  /-- cycle; R493; when its wait on a translation began. -/
  since : Option Nat := none
deriving DecidableEq, Repr

/-- The host port endpoint (R471, R491-R496). -/
structure HostPort where
  /-- 64 bits; R494; reset 0. -/
  sqbase : Word
  /-- 64 bits; R494; reset 0. -/
  sqsize : Word
  /-- 64 bits; R494; reset 0. -/
  sqtail : Word
  /-- 64 bits; R494; reset 0. -/
  sqhead : Word
  /-- 64 bits; R494; reset 0. -/
  rqbase : Word
  /-- 64 bits; R494; reset 0. -/
  rqsize : Word
  /-- 64 bits; R494; reset 0. -/
  rqhead : Word
  /-- 64 bits; R494; reset 0. -/
  rqtail : Word
  /-- 64 bits; R494; reset 0; bit 0 enable. -/
  hctl : Word
  /-- 64 bits; R494; reset 0x1_0000; BAR0 offset of the copy of the feature block. -/
  featbase : Word
  /-- 4,096 handles; R495; reset empty; handle and cap. -/
  handles : List (Nat × Cap)
  /-- 64 entries; R496; reset empty; domain, base, length. -/
  windows : List (BitVec 16 × Nat × Nat)
  /-- R493; reset none; host base B, size Z, device window base W. -/
  decoder : Option (Nat × Nat × Nat)
  /-- 24 bits; R496; reset 0; kind 5 caps made. -/
  made : Nat
  /-- list; R493; reset empty; requests waiting on a translation. -/
  waiting : List CxlRequest
  /-- list; R493; reset empty; completions, newest first: data and poison indication. -/
  completions : List (List Byte × Bool)
  /-- keys; R491; reset none. -/
  ide : Option Nat
deriving DecidableEq, Repr

/-- Power, thermal and boot state (R512-R518). -/
structure Power where
  /-- 0-7; R512; reset 0; boot steps done. -/
  bootStep : Nat
  /-- 1 bit; R513; reset 0; stopped after step 2. -/
  bootFailed : Bool
  /-- 0-7; R515; reset 0. -/
  throttle : Nat
  /-- watts; R515, R517; reset 0; input of the last window. -/
  watts : Nat
  /-- 0-7; R515, R518; reset 0; level that the power draw requires. -/
  powerLevel : Nat
  /-- degrees; R518; reset empty; readings of the die sensors and of the stacks. -/
  dieTemps : List Int
  /-- degrees; R518; reset empty. -/
  stackTemps : List Int
  /-- 1 bit; R518; reset 0; thermal trip: every clock stopped. -/
  tripped : Bool
  /-- 1 bit; R518; reset 1; input power is present. -/
  powered : Bool
deriving DecidableEq, Repr

/-- A slot of a reserve area that holds an unreleased double-fatal spore (R416): the tile and the address of its slot, in which the spore of `State.spores` lies. -/
structure ReserveSlot where
  tile : Nat
  /-- 48 bits; R416. -/
  area : Nat
deriving DecidableEq, Repr

end Sys2Proof.Machine
end

