-- ==== Sys2Proof/Machine/State.lean ====
section
/-! DEFINITION. The state of the machine as plain data, the reasons a step can stop, and the state right after reset. A field's
comment reads: width; rule; reset value; what it is. -/

namespace Sys2Proof.Machine

open Sys2Proof

/-- Why the machine stops. -/
inductive Fault where
  /-- Raised by the debug port (`DEBUG_READ`, `DEBUG_WRITE`) for a TMEM offset of 0xC_0000 or more (R32) and by `HBM4_REQUEST`
  for a frame address of 2^39 or more (R44): the spec gives no such byte. Safe. -/
  | noSuchAddress (address : Nat)
deriving DecidableEq, Repr

/-- Why an instruction has no meaning here. -/
inductive Refusal where
  /-- Raised by the dispatch of an instruction whose meaning is not written yet, by its mnemonic. Safe. -/
  | notModelled (mnemonic : String)
deriving DecidableEq, Repr

/-- Which agent takes the next step (log 1). -/
inductive Turn where
  | pass (cycles : Nat)
  | run (tile : Nat)
  | event (i : Instr)
  | follow (tile : Nat) (i : Instr)
deriving DecidableEq, Repr

/-- Memory: (address, byte) cells, addresses rising, no cell equal to the byte an unlisted address reads as (log 8). -/
abbrev Memory := List Host.Cell

/-- A control request of another device for a home of this one (R483 CTRL). -/
structure Control where
  /-- endpoint; R66. -/
  principal : Nat
  /-- device and serial to answer; R483, R485. -/
  device : Nat
  serial : Nat
  home : HomeId
  buffer : Nat
  generation : BitVec 16
  domain : BitVec 16
  /-- operation; R483: 0 free, 1 send, 2 delivery, 3 undeliverable return, 4 split read, 5 split fold, 6 seal, 7 exec split,
  8 exec join, 9 join to exclusive, 10 reclaim, 11 carve, 12 merge, 13 take, 14 accept, 15 reject, 16 keep, 17 cancel, 18 information,
  19 accept at a region's close, 20 reject at a rollback, 21 grant (log 11). -/
  operation : Nat
  /-- words 1-3; R483; register operands. -/
  operands : List Nat
deriving DecidableEq, Repr

/-- The machine (R16-R24). -/
structure State where
  /-- R18; reset tile 0; the tile that takes the steps. -/
  tile : Tile
  /-- 2,047 tiles; R28; reset as each tile's own reset; the other tiles. -/
  others : List Tile
  /-- list; reset empty; which agent moves next: the model's own field (log 1). -/
  turns : List Turn
  /-- cycles; R106, R209, R236; reset 0; cycles since reset (log 2). -/
  clock : Nat
  /-- count; R39, R262; reset 0 (DESIGN CHOICE, log 6); free values drawn: the model's own field. -/
  draws : Nat
  /-- 19 bits; R475; reset 0 (DESIGN CHOICE, log 4); number of this device. -/
  device : Nat
  /-- bytes; R25, R32, R42, R44, R49, R339; reset empty: every byte reads 0 (DESIGN CHOICE, log 8). -/
  mem : Memory
  /-- entries; R70, R45; reset empty: every entry Free; they stand beside memory (log 87). -/
  dirs : List DirEntry
  /-- records; R149; reset empty (log 87). -/
  levels : List LevelRecord
  /-- count; R367; reset 0; levels created. -/
  levelSeq : Nat
  /-- units; R150; reset empty (log 87). -/
  copies : List LineCopy
  /-- sectors; R438; reset empty. -/
  poison : List PoisonMark
  /-- items; R435, R449; reset empty. -/
  armed : List ArmedError
  /-- list; R446; reset empty; sectors poisoned by an injected error. -/
  injected : List Nat
  /-- list of structure and 32-bit count; R437; reset 0; a structure is the endpoint of a home, 2^32 and the number of a slice, or 2^33 and that of a stack (log 46). -/
  corrected : List (Nat × Nat)
  /-- list of sector and time; R437; reset empty; corrections of sectors whose frame is in use (log 46). -/
  correctedSectors : List (Nat × Nat)
  /-- list of sectors; R437; reset empty. -/
  withheld : List Nat
  /-- 64 entries per home; R68; reset empty. -/
  violations : List Violation
  /-- list of home and count; R68; reset 0. -/
  violationOverflow : List (HomeId × Nat)
  /-- list; R66, R72; reset empty; oldest first. -/
  requests : List Request
  /-- list; R110; reset empty. -/
  replies : List Reply
  /-- list; R483; reset empty. -/
  controls : List Control
  /-- list; R343; reset empty. -/
  rings : List Ring
  /-- 256 clusters; R28. -/
  clusters : List Cluster
  /-- list; R362; reset empty. -/
  segments : List Segment
  /-- R167-R190. -/
  paging : Paging
  /-- list; R332; reset empty; messages in the network, oldest first. -/
  net : List Msg
  /-- list; R30, R402, R387; reset empty; messages that Station cores and launch controllers have accepted, oldest first. -/
  stationMsgs : List Msg
  /-- count; R479; reset 0; messages injected. -/
  msgSeq : Nat
  /-- list; R391; reset empty. -/
  launches : List Launch
  /-- 64 bits; R395; reset 2^16. -/
  nextLaunch : Nat
  /-- list; R387; reset empty. -/
  posts : List Post
  /-- list; R205; reset empty. -/
  bars : List BarDomain
  /-- list; R420; reset empty. -/
  spores : List Spore
  /-- list; R429; reset empty. -/
  overflows : List Overflow
  /-- list; R416; reset empty. -/
  reserve : List ReserveSlot
  /-- list of (domain, bytes); R160; reset empty; DMEM shadow pools. -/
  dmemPools : List (BitVec 16 × Nat)
  /-- list of ranges; R47; reset empty; DMEM ranges in use. -/
  dmemUsed : List DmemRange
  /-- R452-R471. -/
  trust : Trust
  /-- R472-R490. -/
  fabric : Fabric
  /-- R491-R496. -/
  host : HostPort
  /-- R512-R518. -/
  power : Power
  /-- list of words; R434, R437; reset empty; values read by Station cores, newest first. -/
  station : List Word
  /-- list of (die, group); R431; reset empty; halt groups firing. -/
  firing : List (Nat × Nat)
  /-- list; R431; reset empty; halt groups that domain-0 Station firmware has linked (log 78). -/
  haltLinks : List HaltLink
  /-- list of (Station core 0-7 of the fault service, four words); R180; reset empty; fault messages received, oldest first. -/
  stationFaults : List (Nat × List Word)
deriving DecidableEq, Repr

/-- A tile after reset (R233, R235; values the spec gives none of: logs 4 and 7). -/
def Tile.reset (i : Nat) : Tile where
  index := i
  homeName := i
  mode := .m
  level := 0
  pc := 0
  x := Vector.replicate 4 (Vector.replicate 32 0)
  v := Vector.replicate 32 {}
  c := Vector.replicate 32 Cap.null
  cBank := Vector.replicate 4 (Vector.replicate 2 Cap.null)
  kpre := none
  vlen := 0
  vmk := false
  vfmt := 0
  rmode := 0
  rsat := false
  srseed := 0
  mxmode := 0
  btag := 0
  loop := {}
  wlimit := 0x0EE6B280
  rank := 0
  msgsent := 0
  msgrecv := 0
  gang := {}
  waitinfo := 0
  rgncause := 0
  mcapinfo := 0
  logSelect := 0
  mdomain := 0
  mhaltgrp := 0
  sporeArea := 0
  sporeStatus := 0
  mauditf := 16
  cycleOff := 0
  minstret := 0
  pmc := Vector.replicate 16 0
  pmcsel := Vector.replicate 16 0
  pmpcfg := Vector.replicate 2 0
  pmpaddr := Vector.replicate 16 0
  mpp := .u
  mtvec := 0
  mscratch := 0
  mepc := 0
  mcause := 0
  mtval := 0
  retPc := Vector.replicate 4 0
  prev := Vector.replicate 4 0
  dispatch := []
  queues := Vector.replicate 4 []
  xqueue := []
  qHead := Vector.replicate 5 0
  qTail := Vector.replicate 5 0
  siding := []
  releasePath := []
  grants := []
  jobs := []
  jobSerial := 0
  batches := Vector.replicate 4 {}
  remotes := []
  asks := []
  serial := 0
  regions := Vector.replicate 4 []
  l1 := []
  icache := []
  faultLog := Vector.replicate 16 {}
  logCopies := []
  tainted := false
  faultSeq := 0
  barriers := Vector.replicate 4 none
  phase := none
  wait := none
  answer := none
  lichen := none
  hold := .free
  halted := false
  debugStep := none
  parked := false
  stopTime := 0
  lichenShare := Cap.null
  lichenData := Cap.null
  launch := none
  privateSize := 131072
  undoSize := 16384
  tshadowSize := 49152
  hstackSize := 6144
  quota := 262144
  corrected := 0
  parkBuffer := []
  parkReplies := []
  gated := false
  vnCounts := Vector.replicate 7 (0, 0)
  vnCredits := Vector.replicate 7 0
  reviveTraps := []
  rollbacks := []
  started := false
  failing := none
  slotTraps := []
  rankCache := []
  lag := false
  idleStop := false
  sending := none

/-- The default slot table (R358): Audit at entries 15, 31, 47 and 63, Open elsewhere. -/
def defaultSlots : List Nat := (List.range 64).map fun e => if e % 16 = 15 then 8 else 9

/-- An engine after reset (R341, R358, R359). -/
def Engine.reset : Engine where
  rows := Vector.replicate 32 0
  cols := Vector.replicate 32 0
  counter := 0
  table := defaultSlots
  credits := List.replicate 8 1
  pointer := 0
  debt := []
  busy := 0
  accepted := 0
  suspects := 0
  probation := none

/-- A cluster after reset (R42, R43). -/
def Cluster.reset (i : Nat) : Cluster where
  index := i
  homeName := i
  shadow := 0x100000
  engine := Engine.reset
  transfers := []
  serial := 0
  turn := 0
  burst := 0
  launch := none
  quarantined := false
  stopped := false
  fatal := false

/-- The translation machinery after reset (R167, R173, R178). -/
def Paging.reset : Paging where
  root := 0
  l2 := []
  tlb := []
  walks := []
  checks := []
  waits := []
  pools := []
  seconds := []
  tables := 0
  moving := []

/-- The root of trust after reset (R452, R463, R470). -/
def Trust.reset : Trust where
  descriptors := []
  logs := []
  pending := []
  counters := []
  contexts := []
  measurements := List.replicate 8 0
  attestation := 0
  receipts := []
  mirror := false
  spdm := .start
  answers := []
  transcript := []

/-- The Junctions after reset (R472, R475). -/
def Fabric.reset : Fabric where
  ports := List.replicate 72 .down
  routes := []
  paths := []
  kept := []
  sent := []
  unreachable := []
  intermediates := []
  queued := List.replicate 72 0
  keys := []
  sendSeq := []
  recvSeq := []
  passed := []
  discards := 0
  refusals := []
  failures := []
  waiting := []
  inbox := []

/-- The host port endpoint after reset (R494). -/
def HostPort.reset : HostPort where
  sqbase := 0
  sqsize := 0
  sqtail := 0
  sqhead := 0
  rqbase := 0
  rqsize := 0
  rqhead := 0
  rqtail := 0
  hctl := 0
  featbase := 0x10000
  handles := []
  windows := []
  decoder := none
  made := 0
  waiting := []
  completions := []
  ide := none

/-- Power and boot after reset (R512, R515). -/
def Power.reset : Power where
  bootStep := 0
  bootFailed := false
  throttle := 0
  watts := 0
  powerLevel := 0
  dieTemps := []
  stackTemps := []
  tripped := false
  powered := true

/-- The machine right after reset, before the boot sequence of R512 has run (log 7). -/
def State.reset : State where
  tile := Tile.reset 0
  others := (List.range 2047).map fun i => Tile.reset (i + 1)
  turns := []
  clock := 0
  draws := 0
  device := 0
  mem := []
  dirs := []
  levels := []
  levelSeq := 0
  copies := []
  poison := []
  armed := []
  injected := []
  corrected := []
  correctedSectors := []
  withheld := []
  violations := []
  violationOverflow := []
  requests := []
  replies := []
  controls := []
  rings := []
  clusters := (List.range 256).map Cluster.reset
  segments := []
  paging := Paging.reset
  net := []
  stationMsgs := []
  msgSeq := 0
  launches := []
  nextLaunch := 2 ^ 16
  posts := []
  bars := []
  spores := []
  overflows := []
  reserve := []
  dmemPools := []
  dmemUsed := []
  trust := Trust.reset
  fabric := Fabric.reset
  host := HostPort.reset
  power := Power.reset
  station := []
  firing := []
  haltLinks := []
  stationFaults := []

end Sys2Proof.Machine
end

