-- ==== Sys2Proof/Machine/Ops.lean ====
section
/-! DEFINITION. The named operations over memory and registers, the undo records of open regions, retirement, and taking and
leaving an exception (R239, R263, R266, R368). -/

namespace Sys2Proof.Machine

open Sys2Proof

/-! ### Memory -/

/-- The byte at a key; an unlisted key reads 0 (log 8). -/
def Memory.read : Memory → Nat → Byte
  | [], _ => 0
  | (k, b) :: m, a => if k = a then b else Memory.read m a

/-- The cells but those of a key. -/
def Memory.without : Memory → Nat → Memory
  | [], _ => []
  | (k, c) :: m, a => if k = a then Memory.without m a else (k, c) :: Memory.without m a

/-- Store a byte and keep the canonical form: the key is listed in its place, or not at all for 0, whatever the list held of it. -/
def Memory.write : Memory → Nat → Byte → Memory
  | [], a, b => if b = 0 then [] else [(a, b)]
  | (k, c) :: m, a, b =>
    if a < k then (if b = 0 then (k, c) :: Memory.without m a else (a, b) :: (k, c) :: Memory.without m a)
    else if a = k then (if b = 0 then Memory.without m a else (a, b) :: Memory.without m a)
    else (k, c) :: Memory.write m a b

/-- Keys rise strictly and no cell holds 0. -/
def Memory.wf : Memory → Bool
  | [] => true
  | [(_, b)] => b ≠ 0
  | (k, b) :: (k', b') :: m => b ≠ 0 && k < k' && Memory.wf ((k', b') :: m)

/-- The `n` bytes from a key on. -/
def Memory.readN (m : Memory) (a n : Nat) : List Byte := (List.range n).map fun i => m.read (a + i)

/-- Store bytes from a key on. -/
def Memory.writeN : Memory → Nat → List Byte → Memory
  | m, _, [] => m
  | m, a, b :: bs => Memory.writeN (m.write a b) (a + 1) bs

/-- Store cells one by one. -/
def Memory.writeCells : Memory → List (Nat × Byte) → Memory
  | m, [] => m
  | m, (a, b) :: cs => Memory.writeCells (m.write a b) cs

/-- The number that little-endian bytes spell (R7). -/
def leNat : List Byte → Nat
  | [] => 0
  | b :: bs => b.toNat + 256 * leNat bs

/-- The low `n` bytes of a number, lowest first (R7). -/
def leBytes : Nat → Nat → List Byte
  | 0, _ => []
  | n + 1, v => BitVec.ofNat 8 v :: leBytes n (v / 256)

/-- The storage arrays of the device (R32, R42, R44, R49, R339); `peer` is the DMEM of another device by its virtual address. -/
inductive Space where
  | tmem (tile : Nat)
  | cmem (cluster : Nat)
  | hbm
  | peer (device : Nat)
  | host
  | acc (cluster : Nat)
deriving DecidableEq, Repr

/-- The key of byte 0 of a storage array: the arrays lie apart in the one memory (log 8). -/
def Space.base : Space → Nat
  | .tmem t => t * 2 ^ 56
  | .cmem c => 2 ^ 80 + c * 2 ^ 56
  | .hbm => 2 * 2 ^ 80
  | .peer d => 3 * 2 ^ 80 + d * 2 ^ 56
  | .host => 4 * 2 ^ 80
  | .acc c => 5 * 2 ^ 80 + c * 2 ^ 56

/-! ### The form of an action -/

/-- How an instruction ends early. -/
inductive Stop where
  /-- A precise trap (R239). -/
  | trap (cause : Nat) (value : Word)
  /-- A stall: the instruction is retried (R197, log 2). -/
  | wait (kind : WaitKind)
  /-- A rollback of the innermost open region of the current level (R373). -/
  | rollback (cause : Nat)
  /-- The step is complete as it stands: the instruction does not advance the pc itself. -/
  | leave
  /-- A fatal fault (R415). -/
  | fatal (code : Nat)
deriving DecidableEq, Repr

/-- An action over the state: it answers a value or ends early, and keeps the state as it left it. -/
abbrev Act (α : Type) := EStateM Stop State α

/-- End with a trap (R239). -/
def trap {α : Type} (cause : Nat) (value : Word) : Act α := throw (.trap cause value)

/-- End with an illegal-instruction trap, `mtval` the word of the instruction (R223). -/
def illegal {α : Type} (i : Instr) : Act α := throw (.trap 2 (instrWord i))

/-- Stall (log 2). -/
def stall {α : Type} (k : WaitKind) : Act α := throw (.wait k)

/-- The tile that takes the step. -/
def curTile : Act Tile := do return (← get).tile

/-- Change the current tile. -/
def onTile (f : Tile → Tile) : Act Unit := modify fun s => { s with tile := f s.tile }

/-- Go on only under a condition, else trap. -/
def require (b : Bool) (cause : Nat) (value : Word) : Act Unit := if b then pure () else trap cause value

/-! ### Tiles and places -/

/-- The tile of an index. -/
def State.tileAt (s : State) (i : Nat) : Option Tile :=
  if s.tile.index = i then some s.tile else s.others.find? fun t => t.index = i

/-- Put a tile back at its index. -/
def State.putTile (s : State) (t : Tile) : State :=
  if s.tile.index = t.index then { s with tile := t }
  else { s with others := s.others.map fun u => if u.index = t.index then t else u }

/-- Change the tile of an index. -/
def State.mapTile (s : State) (i : Nat) (f : Tile → Tile) : State :=
  if s.tile.index = i then { s with tile := f s.tile }
  else { s with others := s.others.map fun u => if u.index = i then f u else u }

/-- Every tile. -/
def State.allTiles (s : State) : List Tile := s.tile :: s.others

/-- Change every tile that passes a test. -/
def State.mapTiles (s : State) (p : Tile → Bool) (f : Tile → Tile) : State :=
  { s with tile := if p s.tile then f s.tile else s.tile, others := s.others.map fun u => if p u then f u else u }

/-- Make another tile the current one (log 1). -/
def State.switchTo (s : State) (i : Nat) : State :=
  if s.tile.index = i then s
  else match s.others.find? fun t => t.index = i with
    | none => s
    | some t => { s with tile := t, others := s.tile :: s.others.filter fun u => u.index ≠ i }

/-- Act as another tile and come back. -/
def asTile {α : Type} (i : Nat) (a : Act α) : Act α := do
  let back := (← get).tile.index
  modify (·.switchTo i)
  let r ← a
  modify (·.switchTo back)
  return r

/-- The cluster of an index. -/
def State.clusterAt (s : State) (i : Nat) : Option Cluster := s.clusters.find? fun c => c.index = i

/-- Change the cluster of an index. -/
def State.mapCluster (s : State) (i : Nat) (f : Cluster → Cluster) : State :=
  { s with clusters := s.clusters.map fun c => if c.index = i then f c else c }

/-- The launch of a number. -/
def State.launchAt (s : State) (n : Nat) : Option Launch := s.launches.find? fun l => l.number = n

/-- Change the launch of a number. -/
def State.mapLaunch (s : State) (n : Nat) (f : Launch → Launch) : State :=
  { s with launches := s.launches.map fun l => if l.number = n then f l else l }

/-- The launch of a tile. -/
def State.launchOf (s : State) (t : Tile) : Option Launch := t.launch.bind s.launchAt

/-- The endpoint of a tile index on a device (R28, R29). -/
def tileEndpoint (device i : Nat) : Nat := device * 2 ^ 13 + i / 512 * 2 ^ 10 + i % 512 / 8 * 2 ^ 4 + i % 8

/-- The endpoint of a cluster's agent (R30): unit 8 Shunter, 9 engine, 10 cluster home. -/
def clusterEndpoint (device c unit : Nat) : Nat := device * 2 ^ 13 + c / 64 * 2 ^ 10 + c % 64 * 2 ^ 4 + unit

/-- The host port endpoint of a device (R30). -/
def hostEndpoint (device : Nat) : Nat := device * 2 ^ 13 + 4 * 2 ^ 10 + 11

/-- The launch controller queue of a compute die (R30). -/
def controllerEndpoint (device die : Nat) : Nat := device * 2 ^ 13 + (4 + die / 2) * 2 ^ 10 + (4 + die % 2)

/-- The DMEM home of a die (R30). -/
def dmemHomeEndpoint (device die : Nat) : Nat := device * 2 ^ 13 + die * 2 ^ 10 + 11

/-- Whether an endpoint names an agent (R30): any other combination is reserved (R31). -/
def endpointValid (e : Nat) : Bool :=
  let die := e / 2 ^ 10 % 8
  let cluster := e / 2 ^ 4 % 64
  let unit := e % 16
  if die < 4 then unit ≤ 10 || (cluster = 0 && (unit = 11 || unit = 12))
  else if die < 6 then
    cluster = 0 && (unit ≤ 5 || unit = 8 || unit = 9 || unit = 10 || (die = 4 && unit = 11))
  else false

/-- The tile index of a tile endpoint (R30). -/
def endpointTile (e : Nat) : Option Nat :=
  if e / 2 ^ 10 % 8 < 4 && e % 16 < 8 then some (e / 2 ^ 10 % 8 * 512 + e / 2 ^ 4 % 64 * 8 + e % 16) else none

/-- The cluster whose Shunter an endpoint names (R30). -/
def endpointShunter (e : Nat) : Option Nat :=
  if e / 2 ^ 10 % 8 < 4 && e % 16 = 8 then some (e / 2 ^ 10 % 8 * 64 + e / 2 ^ 4 % 64) else none

/-- The cluster whose home an endpoint names (R30). -/
def endpointClusterHome (e : Nat) : Option Nat :=
  if e / 2 ^ 10 % 8 < 4 && e % 16 = 10 then some (e / 2 ^ 10 % 8 * 64 + e / 2 ^ 4 % 64) else none

/-- The endpoint under which a tile's requests and entries stand: that of its home name (R66, R428, log 9). -/
def Tile.principal (t : Tile) (device : Nat) : Nat := tileEndpoint device t.homeName

/-- Count a packet that a tile's port has injected (true) or accepted (false) (R421). -/
def Tile.countPacket (t : Tile) (vn : Nat) (out : Bool) : Tile :=
  { t with vnCounts := Vector.ofFn fun i =>
      let c := t.vnCounts.get i
      if i.val = vn then (if out then ((c.1 + 1) % 2 ^ 32, c.2) else (c.1, (c.2 + 1) % 2 ^ 32)) else c }

/-- The cluster index of a tile index (R28). -/
def clusterOf (tile : Nat) : Nat := tile / 8

/-- The gang index of a tile: rank mod 8 (R39 word 245). -/
def Tile.gangIndex (t : Tile) : Nat := t.rank % 8

/-- The cluster number that stands for a home name of a domain while its spore is out (R428): what is asked of it waits (log 41). -/
def awayCluster (domain : BitVec 16) (home : Nat) : Nat := Config.clusters * (domain.toNat + 1) + home

/-- Move a home of cluster `a` to cluster `b`. -/
def HomeId.move (a b : Nat) : HomeId → HomeId
  | .tile i => if clusterOf i = a then .tile (8 * b + i % 8) else .tile i
  | .cluster c => if c = a then .cluster b else .cluster c
  | h => h

/-- The relocation map of a domain (R428): where the cluster of a home name is now. A group that runs comes before one whose spore is out. -/
def State.relocate (s : State) (domain : BitVec 16) (c : Nat) : Nat :=
  let named := s.launches.flatMap fun l =>
    if l.record.domain = domain && l.state ≠ .ended then l.groups.filter fun g => g.home = c && g.device = s.device && g.loaded else []
  match named.find? fun g => !g.parked with
  | some g => g.cluster
  | none => if named.isEmpty then c else awayCluster domain c

/-- The tile that now holds the TMEM of a home name (R428). -/
def State.relocateTile (s : State) (domain : BitVec 16) (i : Nat) : Nat := s.relocate domain (i / 8) * 8 + i % 8

/-- The next free value of the root of trust's generator (log 6). -/
def drawWord : Act Word := do
  let s ← get
  set { s with draws := s.draws + 1 }
  return Config.freeWord s.draws

/-! ### Undo records of open regions (R368) -/

/-- The undo pool bytes of a saved item (R368, R371). -/
def Saved.size : Saved → Nat
  | .x _ _ => 8
  | .v _ _ => 144
  | .c _ _ => 32
  | .csr _ _ => 8
  | .loop _ => 40
  | .acc _ _ _ _ => 16384
  | .line _ => 264

/-- The item of a saved value. -/
def Saved.item : Saved → Item
  | .x r _ => .x r
  | .v r _ => .v r
  | .c r _ => .c r
  | .csr n _ => .csr n
  | .loop _ => .loop
  | .acc n _ _ _ => .acc n
  | .line l => .updateLine l.kind l.location l.buffer l.generation.toNat l.line

/-- The undo pool bytes of a region: its record and what it saved (R367, R368). -/
def Region.bytes (r : Region) : Nat := 64 + (r.saved.map Saved.size).sum

/-- The undo pool bytes in use (R368). -/
def Tile.undoUsed (t : Tile) : Nat := (t.regions.toList.map fun l => (l.map Region.bytes).sum).sum

/-- The open regions of the current level, innermost first. -/
def Tile.openRegions (t : Tile) : List Region := t.regions.get t.level

/-- Whether a region is open at the current level. -/
def Tile.inRegion (t : Tile) : Bool := !t.openRegions.isEmpty

/-- The region depth of the current level (R198). -/
def Tile.depth (t : Tile) : Nat := t.openRegions.length

/-- Replace the region stack of the current level. -/
def Tile.setRegions (t : Tile) (l : List Region) : Tile := { t with regions := t.regions.set t.level.val l }

/-- Read a CSR that a region saves (R368). -/
def Tile.savedCsr (t : Tile) (n : BitVec 12) : Word :=
  if n = 0x800 then word (t.vlen + (if t.vmk then 256 else 0))
  else if n = 0x801 then zext t.vfmt
  else if n = 0x802 then zext t.rmode ||| (if t.rsat then 8 else 0)
  else if n = 0x803 then t.srseed
  else if n = 0x804 then zext t.mxmode
  else if n = 0x805 then zext t.btag
  else zext t.wlimit

/-- Write a CSR that a region saves. -/
def Tile.setSavedCsr (t : Tile) (n : BitVec 12) (v : Word) : Tile :=
  if n = 0x800 then { t with vlen := v.toNat % 256, vmk := v.getLsbD 8 }
  else if n = 0x801 then { t with vfmt := v.setWidth 32 }
  else if n = 0x802 then { t with rmode := v.setWidth 3, rsat := v.getLsbD 3 }
  else if n = 0x803 then { t with srseed := v }
  else if n = 0x804 then { t with mxmode := v.setWidth 5 }
  else if n = 0x805 then { t with btag := v.setWidth 2 }
  else { t with wlimit := v.setWidth 48 }

/-! ### Registers -/

/-- A register of the x file at the current level's bank; `x0` reads 0 (R225). -/
def Tile.rx (t : Tile) (r : Reg) : Word := if r = 0 then 0 else (t.x.get t.level).get r

/-- Write a register of the x file; a write to `x0` is discarded (R225). -/
def Tile.setX (t : Tile) (r : Reg) (v : Word) : Tile :=
  if r = 0 then t else { t with x := t.x.set t.level.val ((t.x.get t.level).set r.val v) }

/-- A register of the x file in a bank. -/
def Tile.rxBank (t : Tile) (l : Level) (r : Reg) : Word := if r = 0 then 0 else (t.x.get l).get r

/-- Write a register of the x file in a bank. -/
def Tile.setXBank (t : Tile) (l : Level) (r : Reg) (v : Word) : Tile :=
  if r = 0 then t else { t with x := t.x.set l.val ((t.x.get l).set r.val v) }

/-- A cap register in a bank: `c0` is null, `c28` and `c29` are banked (R54, R225). -/
def Tile.rcBank (t : Tile) (l : Level) (r : Reg) : Cap :=
  if r = 0 then Cap.null
  else if l = 0 then t.c.get r
  else if r = 28 then (t.cBank.get l).get 0
  else if r = 29 then (t.cBank.get l).get 1
  else t.c.get r

/-- Write a cap register in a bank; a write to `c0` is discarded (R54). -/
def Tile.setCBank (t : Tile) (l : Level) (r : Reg) (c : Cap) : Tile :=
  if r = 0 then t
  else if l ≠ 0 && r = 28 then { t with cBank := t.cBank.set l.val ((t.cBank.get l).set 0 c) }
  else if l ≠ 0 && r = 29 then { t with cBank := t.cBank.set l.val ((t.cBank.get l).set 1 c) }
  else { t with c := t.c.set r.val c }

/-- A cap register at the current level. -/
def Tile.rc (t : Tile) (r : Reg) : Cap := t.rcBank t.level r

/-- Write a cap register at the current level. -/
def Tile.setC (t : Tile) (r : Reg) (c : Cap) : Tile := t.setCBank t.level r c

/-- Write a v register. -/
def Tile.setV (t : Tile) (r : Reg) (v : VReg) : Tile := { t with v := t.v.set r.val v }

/-- The old value of a register item of the current level, as the undo record keeps it. -/
def Tile.savedOf (t : Tile) : Item → Option Saved
  | .x r => if r = 0 then none else some (.x r (t.rx r))
  | .v r => some (.v r (t.v.get r))
  | .c r => if r = 0 then none else some (.c r (t.rc r))
  | .csr n => some (.csr n (t.savedCsr n))
  | .loop => some (.loop t.loop)
  | .acc _ => none
  | .updateLine _ _ _ _ _ => none

/-- Save one value in the innermost region of the current level, once per depth; trap 28 with value 0 when the undo pool
lacks room (R368). -/
def saveValue (v : Saved) : Act Unit := do
  let t ← curTile
  match t.openRegions with
  | [] => pure ()
  | r :: rest =>
    if r.saved.any fun o => o.item = v.item then pure ()
    else if t.undoUsed + v.size > t.undoSize then trap 28 0
    else onTile fun t => t.setRegions ({ r with saved := v :: r.saved } :: rest)

/-- Save items one by one. -/
def saveEach : List Item → Act Unit
  | [] => pure ()
  | i :: is => do
    match (← curTile).savedOf i with
    | some v => saveValue v
    | none => pure ()
    saveEach is

/-- An action whole or not at all: the state it leaves when it ends early is the state before it. -/
def whole {α : Type} (a : Act α) : Act α := fun s =>
  match a s with
  | .ok x s' => .ok x s'
  | .error e _ => .error e s

/-- Save the items that an instruction is about to write (R368): all of them or, when the pool lacks room, none. -/
def saveItems (is : List Item) : Act Unit := whole (saveEach is)

/-- Drop the armed errors of items that a write replaces whole (R450). -/
def State.rearm (s : State) (p : ErrorItem → Bool) : State := { s with armed := s.armed.filter fun a => !p a.item }

/-- A read of an armed register detects the error (R435, R450): a correctable one is counted, an uncorrectable one rolls back the
region with cause 64 (R443) or is fatal with code 64. -/
def detectItem (item : ErrorItem) : Act Unit := do
  let s ← get
  match s.armed.find? fun a => a.item = item with
  | none => pure ()
  | some a =>
    if !a.uncorrectable then
      set { s with armed := s.armed.filter (fun o => o ≠ a), tile := { s.tile with corrected := min (2 ^ 32 - 1) (s.tile.corrected + 1) } }
    else if s.tile.mode = .u && s.tile.inRegion then
      onTile fun t => { t with failing := some item, tainted := a.injected }
      throw (.rollback 64)
    else
      onTile fun t => { t with tainted := a.injected }
      throw (.fatal 64)

/-- Write an x register inside or outside a region (R225, R368). -/
def setX (r : Reg) (v : Word) : Act Unit := do
  saveItems [.x r]
  modify fun s => s.rearm fun i => i = .x s.tile.index s.tile.level r
  onTile (·.setX r v)

/-- Write a v register inside or outside a region (R368). -/
def setV (r : Reg) (v : VReg) : Act Unit := do
  saveItems [.v r]
  onTile (·.setV r v)

/-- Write a cap register inside or outside a region (R368). -/
def setC (r : Reg) (c : Cap) : Act Unit := do
  saveItems [.c r]
  modify fun s => s.rearm fun i => i = .cap s.tile.index r
  onTile (·.setC r c)

/-- Read an x register. -/
def getX (r : Reg) : Act Word := do
  detectItem (.x (← curTile).index (← curTile).level r)
  return (← curTile).rx r

/-- Read a cap register. -/
def getC (r : Reg) : Act Cap := do return (← curTile).rc r

/-! ### The constant window and the prefix -/

/-- The key of a byte of a tile's TMEM. -/
def tmemKey (tile off : Nat) : Nat := (Space.tmem tile).base + off

/-- Word `k` of a tile's constant window (R38). -/
def State.window (s : State) (tile k : Nat) : Word := word (leNat (s.mem.readN (tmemKey tile (8 * k)) 8))

/-- The integer rs2 operand: word N of the constant window under a latched prefix, else the register (R229, R230). -/
def rs2 (r : Reg) : Act Word := do
  let s ← get
  match s.tile.kpre with
  | some k => return s.window s.tile.index k.toNat
  | none => getX r

/-! ### Retirement -/

/-- `pc` after the instruction at `pc` under the loop-back test of R266. -/
def Tile.loopBack (t : Tile) (nextPc : Word) : Tile :=
  if t.mode = .u && t.loop.count ≠ 0 && t.pc = t.loop.stop && t.level = t.loop.level then
    let c := t.loop.pendCount.getD (t.loop.count - 1)
    let start := t.loop.pendStart.getD t.loop.start
    let stop := t.loop.pendStop.getD t.loop.stop
    let l : LoopState := { t.loop with start := start, stop := stop, count := c, pendStart := none, pendStop := none, pendCount := none }
    { t with loop := l, pc := if c ≠ 0 then start else nextPc }
  else { t with pc := nextPc }

/-- Count an event in the counters whose select names it (R233, R235). -/
def Tile.count (t : Tile) (code : Nat) (n : Nat) : Tile :=
  if t.pmcsel.toList.all fun c => c ≠ code then t
  else { t with pmc := Vector.ofFn fun i => if t.pmcsel.get i = code then t.pmc.get i + word n else t.pmc.get i }

/-- Whether the loop-back test would run and write the loop registers (R266, R368). -/
def Tile.atLoopEnd (t : Tile) : Bool :=
  t.mode = .u && t.loop.count ≠ 0 && t.pc = t.loop.stop && t.level = t.loop.level

/-- Retire the instruction at `pc` towards `nextPc`: the loop-back test, the counters, the prefix and the wait end. -/
def Tile.retireTo (t : Tile) (nextPc : Word) : Tile :=
  let t := t.loopBack nextPc
  let t := t.count 2 1
  { t with minstret := t.minstret + 1, kpre := none, wait := none, answer := none, asks := t.asks.filter (·.held),
           debugStep := none, halted := t.halted || t.debugStep.isSome }

/-- Retire towards the next word (R128). -/
def Tile.retire (t : Tile) : Tile := t.retireTo (t.pc + 4)

/-- Set the program counter of a jump that retires, after the loop-back test would not run on it (R251, R268). -/
def jumpTo (target : Word) : Act Unit := do
  onTile fun t => t.retireTo target
  throw .leave

/-! ### Gangs: leaving (R201) -/

/-- Whether two tiles stand in one gang: one cluster, one formed mask. -/
def sameGang (a b : Tile) : Bool :=
  clusterOf a.index = clusterOf b.index && a.gang.mask = b.gang.mask && a.gang.mask ≠ 0 &&
    a.gang.mask.getLsbD b.gangIndex && a.launch = b.launch

/-- Whether a tile leads a gang that has not dissolved. -/
def Tile.leads (t : Tile) : Bool := t.gang.mask ≠ 0 && t.gang.member && t.gang.leader = t.gangIndex

/-- The bit of a gang index. -/
def gangBit (u : Nat) : BitVec 8 := BitVec.ofNat 8 (2 ^ u)

/-- Whether a turn is a follower's, for a tile that passes a test. -/
def Turn.followsFor (p : Nat → Bool) : Turn → Bool
  | .follow i _ => p i
  | _ => false

/-- Tiles that leave a gang execute what they have in hand on their own: their turns as followers go (R201). -/
def State.dropFollows (s : State) (p : Nat → Bool) : State := { s with turns := s.turns.filter fun o => !o.followsFor p }

/-- A follower leaves, or the leader dissolves the gang (R201): a tile that left fetches alone from its own `pc`, and so completes the
instruction in hand. -/
def State.leaveGang (s : State) : State :=
  let t := s.tile
  if t.leads then
    let followers := t.gang.mask &&& ~~~ (gangBit t.gangIndex)
    (s.dropFollows fun i => (s.tileAt i).any (sameGang t)).mapTiles (sameGang t) fun u =>
      { u with lag := false, gang := { u.gang with left := u.gang.left ||| followers, member := false } }
  else if t.gang.member then
    let s := (s.dropFollows fun i => i = t.index).mapTiles (sameGang t) fun u => { u with gang := { u.gang with left := u.gang.left ||| gangBit t.gangIndex } }
    { s with tile := { s.tile with lag := false, gang := { s.tile.gang with member := false } } }
  else s

/-! ### Taking an exception (R239) and returning from one (R263) -/

/-- Bits 1:0 of `pc` values kept 0 (R235). -/
def alignPc (p : Word) : Word := p &&& ~~~ 3

/-- The address that `mepc` receives: the instruction, or its prefix (R232). -/
def Tile.unitPc (t : Tile) : Word := if t.kpre.isSome then t.pc - 4 else t.pc

/-- What tells the instructions of a tile apart: where it stands, and how many have retired. -/
def Tile.unitKey (t : Tile) : Nat := t.minstret.toNat * 2 ^ 64 + t.unitPc.toNat

/-- The registers that taking a trap writes (R239). -/
def Tile.enterTrap (t : Tile) (cause : Nat) (value : Word) : Tile :=
  { t with mepc := alignPc t.unitPc, mcause := word cause, mtval := value, mpp := t.mode, mode := .m, pc := t.mtvec,
           kpre := none, wait := none, answer := none, asks := t.asks.filter (·.held), tainted := false, halted := t.halted || t.debugStep.isSome, debugStep := none }

/-- The first free replayable entry of the fault log (R412). -/
def Tile.freeEntry (t : Tile) : Option (Fin 16) := (List.finRange 16).find? fun i => i.val < 15 && (t.faultLog.get i).cls = 0

/-- Write a fault log entry with the next sequence number (R411); the copy of a replayable record goes to the launch controller
(R412). -/
def Tile.logEntry (t : Tile) (i : Fin 16) (e : FaultEntry) : Tile :=
  { t with faultLog := t.faultLog.set i.val { e with sequence := t.faultSeq % 65536 }, faultSeq := (t.faultSeq + 1) % 65536,
           logCopies := if i.val < 15 then i.val :: t.logCopies else t.logCopies }

/-- `mcycle` of a tile (R233): the cycle count with what was written to it. -/
def State.mcycle (s : State) (t : Tile) : Word := word s.clock + t.cycleOff

/-- Whether a tile is idle (R213). -/
def Tile.idle (t : Tile) : Bool :=
  t.mode = .u && t.level = 0 && !t.halted && t.hold = .free && t.lichen.isNone && t.siding.isEmpty && t.releasePath.isEmpty &&
  t.queues.toList.all (·.isEmpty) && t.xqueue.isEmpty && (t.jobs.all fun j => j.ended) &&
  (match t.wait with
   | some w => (match w.kind with
     | .queue _ => true
     | .wfi => true
     | _ => false)
   | none => false)

/-- The clock of a tile stops (R417, R431). -/
def Tile.stopClock (t : Tile) (now : Nat) : Tile := if t.parked || t.halted then t else { t with stopTime := now }

/-- The clock of a tile starts again: its counts go on from where they stopped (R400, R417). -/
def Tile.startClock (t : Tile) (now : Nat) : Tile :=
  if t.parked || t.halted then t
  else
    let d := now - t.stopTime
    { t with cycleOff := t.cycleOff - word d, wait := t.wait.map fun w => { w with since := w.since + d },
             phase := t.phase.map fun p => { p with release := p.release + d } }

/-- Whether a tile is idle, for a sweep or a spore: a tile that a park stopped is what it was at the stop (R213, R420). -/
def Tile.idleSeen (t : Tile) : Bool := if t.parked then t.idleStop else t.idle

/-- A park stops the clocks of its set in one cycle (R203, R417): a follower that its leader is ahead of keeps its lag. -/
def State.stopSet (s : State) (set : List Nat) : State :=
  let behind (i : Nat) : Bool := s.turns.any fun o => o.followsFor fun j => j = i
  (s.mapTiles (fun u => set.contains u.index) fun u =>
    { u.stopClock s.clock with parked := true, idleStop := u.idleSeen, lag := u.lag || behind u.index }).dropFollows fun i => set.contains i

/-- The tiles of this device that stand in the current formation of a member's gang, itself among them (R203). -/
def State.gangSet (s : State) (t : Tile) : List Nat :=
  if t.gang.member then ((s.allTiles.filter fun u => sameGang t u && u.gang.member).map (·.index)).mergeSort else [t.index]

/-- Whether an area may hold a spore (R425). -/
def validArea (area : Nat) : Bool := area % 256 = 0 && Config.systemWindow ≤ area && area < 2 ^ 48

/-- The tile revision code (R235). -/
def revision : BitVec 32 := 0x94160101

/-- The hash of the scan map of the revision (R420). -/
def scanHash : Word := 0x3D5A0E71C4B89F26

/-- Whether a domain is sealed (R452). -/
def State.sealed (s : State) (d : BitVec 16) : Bool := s.trust.descriptors.any fun e => e.domain = d && e.isSealed

/-- Bytes of homes as the spore keeps them: the cells of their arrays (R420). -/
def State.cellsOf (s : State) (bases : List (Nat × Nat)) : List Host.Cell :=
  s.mem.filter fun c => bases.any fun b => b.1 ≤ c.1 && c.1 < b.1 + b.2

/-- Whether Lichen holds a tile (R410): a fatal stop is none of its holds. -/
def Tile.lichenHeld (t : Tile) : Bool := t.hold ≠ .free && t.hold ≠ .fatal

/-- The slot of a tile in the reserve area of its die (R416). -/
def reserveSlotOf (tile : Nat) : Nat := Config.systemWindow + 256 * (Config.reserveArea (tile / 512) + tile % 512 * Config.reserveSlot)

/-- The spore of tiles as they stand at the stop (R420): kind 0 tile, 1 gang set, 2 cluster. Its counter is given when it is out. -/
def State.capture (s : State) (tiles : List Tile) (kind area : Nat) (dfatal : Bool) (requester : Option Nat) : Spore :=
  let lead := tiles.head?.getD s.tile
  let launch := lead.launch.getD 0
  let domain := ((s.launchAt launch).map (·.record.domain)).getD lead.mdomain
  let cluster := s.clusterAt (clusterOf lead.index)
  let whole := kind = 2
  let homes : List HomeId := (tiles.map fun t => HomeId.tile t.index) ++ (if whole then [HomeId.cluster (clusterOf lead.index)] else [])
  let spaces := (tiles.map fun t => ((Space.tmem t.index).base, 2 ^ 56)) ++
    (if whole then [((Space.cmem (clusterOf lead.index)).base, 2 ^ 56), ((Space.acc (clusterOf lead.index)).base, 2 ^ 56)] else [])
  { area := area, requests := s.requests.filter fun r => r.remote.isNone && tiles.any (fun t => t.index = r.tile), version := 1, kind := kind, sealed := s.sealed domain, idle := tiles.all (·.idleSeen), dfatal := dfatal,
    held := tiles.any (·.lichenHeld), halted := tiles.any (·.halted), revision := revision, scanhash := scanHash,
    domain := domain, counter := 0, launch := launch, rank := (tiles.map (·.rank)).foldl min lead.rank,
    endpoint := tileEndpoint s.device lead.index, sent := (tiles.map (·.msgsent.toNat)).sum,
    received := (tiles.map (·.msgrecv.toNat)).sum, tag := 0, tiles := tiles, cluster := if whole then cluster else none,
    cells := s.cellsOf spaces, dirs := s.dirs.filter fun e => homes.contains e.home,
    levels := s.levels.filter fun l => homes.contains l.home, copies := s.copies.filter fun c => homes.contains c.home,
    rings := if whole then s.rings.filter fun r => r.cluster = clusterOf lead.index else [],
    poison := s.poison.filter fun m => spaces.any fun b => b.1 ≤ m.sector * 64 && m.sector * 64 < b.1 + b.2,
    segments := if whole then s.segments.filter fun g => g.cluster = clusterOf lead.index else [],
    out := false, requester := requester }

/-- Halt the members of a group on some dies (R431); a parked tile ignores it. -/
def State.haltMembers (s : State) (dies : List Nat) (group : Nat) : State :=
  s.mapTiles (fun t => dies.contains (t.index / 512) && group < 16 && t.mhaltgrp.getLsbD group && !t.parked)
    fun t => { t.stopClock s.clock with halted := true, debugStep := none }

/-- Fire the halt groups that a mask of a tile's die names; a group that is firing ignores a second firing (R431). -/
def State.fire (s : State) (die : Nat) (mask : BitVec 16) : State :=
  let groups := ((List.range 16).filter fun g => mask.getLsbD g).map fun g => (die, g)
  { s with firing := s.firing ++ groups.filter fun g => !s.firing.contains g }

/-- Add an entry to the error summary of a launch (R468): 4,096 entries, then a count. -/
def Launch.summarise (l : Launch) (e : Summary) : Launch :=
  let sources := l.sources.set e.source (l.sources.getD e.source 0 + 1)
  if l.summary.length < 4096 then { l with summary := l.summary ++ [e], sources := sources }
  else { l with overflow := l.overflow + 1, sources := sources }

/-- A fatal event that finds entry 15 occupied (R416): the tile parks, its gang with it (R203), into its save area, else into its slot of the reserve area of
its die; a slot that is taken keeps its spore and the controller adds a fatal record to the error summary. The trigger groups
fire. -/
def State.doubleFatal (s : State) (code : Nat) (place what : Word) : State :=
  let set := s.gangSet s.tile
  let s := { s with tile := { s.tile with hold := .fatal, wait := none } }.stopSet set
  let t := s.tile
  let tiles := set.filterMap s.tileAt
  let kind := if set.length > 1 then 1 else 0
  let area := t.sporeArea.toNat
  let s :=
    if validArea area then { s with spores := s.spores ++ [s.capture tiles kind area true none] }
    else if s.reserve.any fun r => r.tile = t.index then
      match t.launch with
      | none => s
      | some n => s.mapLaunch n fun l => l.summarise
          { body := [word code, place, what, s.mcycle t], source := 6, injected := false,
            endpoint := tileEndpoint s.device t.index, time := s.clock, device := s.device }
    else
      let slot := reserveSlotOf t.index
      { s with reserve := s.reserve ++ [⟨t.index, slot⟩], spores := s.spores ++ [s.capture tiles kind slot true none] }
  s.fire (t.index / 512) (t.mhaltgrp.extractLsb' 16 16)

/-- Stop the tile for a fatal event (R415, R416): entry 15 takes the record, with `mepc` and `mtval` as they stand (R411, log 81), or, when it is
occupied, the tile parks with the double-fatal flag. -/
def State.fatal (s : State) (code : Nat) : State :=
  let t := s.tile
  let e : FaultEntry := { code := code, cls := 2, level := t.level.val, place := t.mepc, what := t.mtval, time := s.mcycle t,
                          injected := t.tainted, gang := t.gang.member }
  if (t.faultLog.get 15).cls = 0 then { s with tile := { t.logEntry 15 e with hold := .fatal, wait := none, tainted := false } }
  else s.doubleFatal code t.mepc t.mtval

/-- The trap that Lichen is to dispose of (R408). -/
def Tile.task (t : Tile) (cause : Nat) (value : Word) (entry : Option Nat) : LichenTask :=
  { cause := cause, value := value, pc := alignPc t.unitPc, level := t.level,
    gang := t.gang.member, prefixed := t.kpre.isSome, entry := entry }

/-- Waits that the fault-wait limit ends (R182). -/
def WaitKind.faultWait : WaitKind → Bool
  | .translation _ | .reply _ | .drain _ | .copy _ => true
  | _ => false

/-- The wait of an instruction that stalls: a count goes on while the same wait lasts, one of R182 also when the first byte still
waiting is another; one that starts reads `wlimit` (R236). A wait for a fault log entry keeps the Deny that its trap stands for (R413). -/
def Tile.nextWait (t : Tile) (k : WaitKind) (now : Nat) : Wait :=
  let fresh : Wait := { kind := k, since := now, limit := t.wlimit, denied := k = .faultLog && t.wait.any (·.denied) }
  match t.wait with
  | some w => if w.kind = k || (w.kind.faultWait && k.faultWait) then { w with kind := k } else fresh
  | none => fresh

/-- Whether a trap can be taken now (R413): one in U-mode needs a free fault log entry. -/
def Tile.canTrap (t : Tile) : Bool := t.mode = .m || t.freeEntry.isSome

/-- Take a precise trap (R239, R240): the registers of R239, and what the trap's own chapter adds: a fault log record and Lichen's
task for a U-mode trap and its hold under Retry (R408, R412), the wait for a free entry (R413), a fatal stop for a trap in M-mode (R415). -/
def State.takeTrap (s : State) (cause : Nat) (value : Word) : State :=
  let t := s.tile
  match t.mode with
  | .m =>
    let s := { s with tile := t.enterTrap cause value }
    s.fatal 68
  | .u =>
    if cause = 8 then
      let s := s.leaveGang
      { s with tile := { s.tile.enterTrap cause value with lichen := some (t.task cause value none) } }
    else
      match t.freeEntry with
      | none => { s with tile := { t with wait := some (t.nextWait .faultLog s.clock) } }
      | some i =>
        let e : FaultEntry := { code := cause, cls := 1, level := t.level.val, trap := true,
                                place := alignPc t.unitPc, what := value, time := s.mcycle t, injected := t.tainted }
        let s := s.leaveGang
        { s with tile := { (s.tile.logEntry i e).enterTrap cause value with
            lichen := some (t.task cause value (some i.val)),
            hold := if cause = 26 || cause = 29 || cause = 48 then .retry false else s.tile.hold } }

/-- A trap that ends an instruction begun in state `s` with state `t` (R239, R413): while no fault log entry is free, the instruction stalls as if it had
not begun. -/
def State.trapFrom (s t : State) (cause : Nat) (value : Word) : State :=
  if cause = 8 || s.tile.canTrap then t.takeTrap cause value else s.takeTrap cause value

/-- The return from an exception (R263). -/
def Tile.mret (t : Tile) : Tile := { t with mode := t.mpp, mpp := .u, pc := t.mepc }

/-- The event code of a stalled cycle (R235). -/
def WaitKind.stallCode : WaitKind → Nat
  | .lent _ => 5
  | .drain _ | .copy _ => 6
  | .translation _ => 7
  | _ => 0

/-- Stall the instruction: the wait keeps the cycle in which it began, and every effect the action made before the stall stands
(log 2). The cycle counts as a stall of its kind (R235). -/
def State.stallOn (s : State) (k : WaitKind) : State :=
  let t := { s.tile with wait := some (s.tile.nextWait k s.clock) }
  { s with tile := if k.stallCode = 0 then t else t.count k.stallCode 1 }

end Sys2Proof.Machine
end

