-- ==== Sys2Proof/Machine/Links.lean ====
section
/-! DEFINITION. The sending side of the Junctions: path choice, path records, sealing and the packets kept until acknowledged
(R460-R461, R475-R483). -/

namespace Sys2Proof.Machine

open Sys2Proof

/-- The fabric table's entry of a device (R475). -/
def Fabric.route (f : Fabric) (d : Nat) : Option Route := f.routes.find? fun r => r.device = d

/-- A device that is absent from the fabric table or marked unreachable (R475, R485). -/
def State.peerDown (s : State) (d : Nat) : Bool := (s.fabric.route d).isNone || s.fabric.unreachable.contains d

/-- The descriptor of a domain (R452). -/
def State.descriptor (s : State) (d : BitVec 16) : Option Descriptor := s.trust.descriptors.find? fun e => e.domain = d

/-- Whether hostclear lets a domain's data go to the host (R459). -/
def State.hostClear (s : State) (d : BitVec 16) : Bool := !(s.descriptor d).any fun e => e.isSealed && !e.hostclear

/-- Flits queued at a port (R476). -/
def Fabric.load (f : Fabric) (port : Nat) : Nat := f.queued.getD port 0

/-- Whether a port runs (R489). -/
def Fabric.up (f : Fabric) (port : Nat) : Bool := f.ports.getD port .down ≠ .down

/-- The candidate of fewest queued flits (R476): port and intermediate. -/
def Fabric.best (f : Fabric) (cs : List (Nat × Option Nat)) : Option (Nat × Option Nat) :=
  cs.foldl (fun b c => match b with
    | none => some c
    | some b => some (if f.load c.1 < f.load b.1 then c else b)) none

/-- The path of a packet to a device (R476): the minimal one, or the least loaded of up to three non-minimal ones when the minimal
port's queue exceeds it by more than 32 flits. A port that is down is no candidate (R479). -/
def Fabric.choose (f : Fabric) (r : Route) : Nat × Option Nat :=
  let others := ((f.intermediates.filter fun i => i.2 ≠ r.port && r.mask.getLsbD i.2 && f.up i.2).take 3).map fun i => (i.2, some i.1)
  match f.best others with
  | none => (r.port, none)
  | some c => if f.load r.port > f.load c.1 + 32 || !f.up r.port then c else (r.port, none)

/-- The path that packets to a device take now: the record's while packets are unacknowledged, else a new choice (R477). -/
def Fabric.pathTo (f : Fabric) (r : Route) : Nat × Option Nat :=
  match f.paths.find? fun p => p.device = r.device && p.unacked > 0 with
  | some p => (p.port, p.via)
  | none => f.choose r

/-- Count a packet on the path record of its device (R477). -/
def Fabric.note (f : Fabric) (d port : Nat) (via : Option Nat) (flits : Nat) : Fabric :=
  let old := ((f.paths.find? fun p => p.device = d).map (·.unacked)).getD 0
  { f with paths := ⟨d, port, via, old + 1⟩ :: f.paths.filter (fun p => p.device ≠ d)
           queued := f.queued.set port (f.load port + flits) }

/-- The key state for a peer and domain (R461). -/
def Fabric.keyState (f : Fabric) (domain : BitVec 16) (peer : Nat) : KeyState :=
  (f.keys.find? fun k => k.domain = domain && k.peer = peer).getD { domain := domain, peer := peer }

/-- Put a key state back. -/
def Fabric.putKey (f : Fabric) (k : KeyState) : Fabric :=
  { f with keys := k :: f.keys.filter fun o => !(o.domain = k.domain && o.peer = k.peer) }

/-- The next send counter of a key: before it reaches 2^48 the sender moves to the next epoch (R461). -/
def KeyState.next (k : KeyState) : KeyState :=
  if k.sendCounter + 1 ≥ 2 ^ 48 then { k with sendEpoch := k.sendEpoch + 1, sendCounter := 0 }
  else { k with sendCounter := k.sendCounter + 1 }

/-- Whether the full epoch number is spent (R461). -/
def KeyState.exhausted (k : KeyState) : Bool := k.sendEpoch ≥ 2 ^ 32

/-- A device off the roster of a sealed domain, or whose key has spent its epochs (R460, R461). -/
def State.offRoster (s : State) (domain : BitVec 16) (d : Nat) : Bool :=
  (s.descriptor domain).any fun e => e.isSealed && (!e.roster.contains d || (s.fabric.keyState domain d).exhausted)

/-- The fabric key of a domain, a sender, a receiver and an epoch (R461, R471). -/
def State.fabricKey (s : State) (domain : BitVec 16) (sender receiver epoch : Nat) : Nat :=
  Config.deriveKey (((s.descriptor domain).map (·.secret)).getD 0) [4, sender, receiver, epoch]

/-- Bytes of a packet that its tag covers (R461). -/
def Packet.bytesOf (p : Packet) : List Byte :=
  (p.words.flatMap fun w => (List.range 8).map fun i => w.extractLsb' (8 * i) 8) ++
  ((List.range 4).map fun i => BitVec.ofNat 8 (p.buffer / 2 ^ (8 * i)))

/-- The key under which two Junctions authenticate the caps of open domains (R488, log 27). -/
def portKey (sender receiver : Nat) : Nat := Config.deriveKey 0 [7, sender, receiver]

/-- Seal a packet of a sealed domain under the key of its epoch (R461). -/
def State.sealPacket (s : State) (p : Packet) (peer : Nat) : Packet × State :=
  let k := s.fabric.keyState p.domain peer
  let tag := Config.tag (s.fabricKey p.domain s.device peer k.sendEpoch) k.sendCounter p.bytesOf
  ({ p with sealed := true, epoch := k.sendEpoch % 16, counter := k.sendCounter, tag := tag },
   { s with fabric := s.fabric.putKey k.next })

/-- The virtual network of an op (R483); a message travels in that of its level. -/
def opNetwork (op level : Nat) : Nat := if op = 0 then level else if op ≤ 4 then 5 else if op ≤ 7 then 6 else 7

/-- What a Junction seals, where the domain is sealed (R461): messages, caps, data of confidential pages; and the data of remote stores and folds,
of whose pages the issuing device sees no entry (log 27). -/
def Packet.secret (p : Packet) : Bool := p.op = 0 || p.op = 2 || p.op = 3 || p.op = 8 || p.conf

/-- Send a packet towards a device (R476-R479, R461): sealed where R461 says so, on the path of the device's record, kept until
acknowledged. It waits while all 4,096 records are in use. A device that is absent takes none. -/
def State.sendPacket (s : State) (peer : Nat) (p : Packet) : State :=
  match s.fabric.route peer with
  | none => s
  | some r =>
    let known := s.fabric.paths.any fun q => q.device = peer
    if !known && (s.fabric.paths.filter fun q => q.unacked > 0).length ≥ 4096 then
      { s with fabric := { s.fabric with waiting := s.fabric.waiting ++ [p] } }
    else
      let secret := s.sealed p.domain && p.secret
      let (p, s) := if secret then s.sealPacket p peer else (p, s)
      let (port, via) := s.fabric.pathTo r
      let p := { p with via := via, hop := 1 }
      let p := if !secret && p.msg.any (fun m => !m.caps.isEmpty) then { p with tag := Config.tag (portKey s.device peer) p.counter p.bytesOf } else p
      { s with fabric := { s.fabric.note peer port via p.flits with kept := s.fabric.kept ++ [p], sent := p :: s.fabric.sent } }

/-- Flits of a packet (R481). -/
def flitsOf (payload : Nat) (trailer : Bool) : Nat := (32 + payload + (if trailer then 32 else 0) + 63) / 64

/-- Station traffic of a launch across devices (R405-R407) to the controller of another device: the spec gives SYS packets no
layout beyond the sequence, so a kind in bits 31:16 of word 0 and plain words stand for it (log 24). -/
def State.sendSys (s : State) (peer kind : Nat) (words : List Nat) : State :=
  let n := min 256 (8 * (words.length + 1))
  s.sendPacket peer { op := 8, vn := 7, bytes := n, flits := flitsOf n false, source := controllerEndpoint s.device 0,
                      destination := controllerEndpoint peer 0,
                      words := word (s.fabric.sent.length % 65536 + kind * 65536) :: words.map word }

/-- A request packet of a principal under a kind 4 cap (R29, R66, R483, R484). -/
def State.requestOf (s : State) (principal op peer buffer off bytes payload serial btag : Nat) (g domain : BitVec 16) : Packet :=
  { op := op, vn := opNetwork op 0, flits := flitsOf payload (s.sealed domain && (op = 2 || op = 3)), btag := btag, bytes := bytes,
    source := principal, destination := dmemHomeEndpoint peer (buffer % 4), buffer := buffer,
    generation := g, offset := off, domain := domain, serial := serial % 2 ^ 24 }

/-- A request packet of the current tile. -/
def State.request (s : State) (op peer buffer off bytes payload serial btag : Nat) (g domain : BitVec 16) : Packet :=
  s.requestOf (s.tile.principal s.device) op peer buffer off bytes payload serial btag g domain

/-- The words of a violation record (R68). -/
def violationWords (principal buffer presented recorded reason access off domain time : Nat) : List Nat :=
  [principal + buffer * 2 ^ 32 + presented % 256 * 2 ^ 56,
   presented / 256 + recorded * 2 ^ 8 + reason * 2 ^ 24 + access * 2 ^ 28 + off % 2 ^ 32 * 2 ^ 32,
   off / 2 ^ 32 + domain * 2 ^ 16, time]

/-- Record a violation of R460 in the log of a domain: a record in the layout of R68 with reason 8. -/
def State.rosterItem (s : State) (domain : BitVec 16) (principal buffer : Nat) (g : BitVec 16) (off : Nat) : State :=
  { s with trust := { s.trust with pending := s.trust.pending ++
      [⟨domain, 1, 1, false, 0, violationWords principal buffer g.toNat 0 8 3 off domain.toNat s.clock⟩] } }

end Sys2Proof.Machine
end

