-- ==== Sys2Proof/Machine/Paging.lean ====
section
/-! DEFINITION. Translation of device virtual addresses: page tables, walks, TLBs, walk caches, first touch and the wait lists
of the L2 slices (R167-R182). -/

namespace Sys2Proof.Machine

open Sys2Proof

/-- Bytes of a page of a size code (R168). -/
def pageSize : Nat → Nat
  | 0 => 2 ^ 12
  | 1 => 2 ^ 14
  | 2 => 2 ^ 16
  | 3 => 2 ^ 18
  | 4 => 2 ^ 20
  | 5 => 2 ^ 21
  | 6 => 2 ^ 22
  | 7 => 2 ^ 24
  | 8 => 2 ^ 26
  | 9 => 2 ^ 28
  | 10 => 2 ^ 30
  | _ => 2 ^ 32

/-- Level at which a size code may stand (R168). -/
def pageLevel (code : Nat) : Nat := if code ≤ 4 then 0 else if code ≤ 9 then 1 else 2

/-- Span of one entry of a level (R167). -/
def entrySpan (level : Nat) : Nat := 2 ^ (12 + 9 * level)

/-- The L2 slice of a die for a device virtual address (R48). -/
def sliceOf (die va : Nat) : Nat :=
  let b (i : Nat) : BitVec 8 := BitVec.ofNat 8 (va / 2 ^ i)
  die * 256 + (b 40 ^^^ b 32 ^^^ b 24 ^^^ b 16 ^^^ b 8).toNat

/-- The key of a frame byte. -/
def hbmKey (pa : Nat) : Nat := Space.hbm.base + pa

/-- A page table entry at a frame address (R170). -/
def State.pte (s : State) (pa : Nat) : Nat := leNat (s.mem.readN (hbmKey pa) 8)

/-- Write a page table entry. -/
def State.setPte (s : State) (pa v : Nat) : State := { s with mem := s.mem.writeN (hbmKey pa) (leBytes 8 v) }

/-- Bit `i` of an entry. -/
def pteBit (e i : Nat) : Bool := e / 2 ^ i % 2 = 1

/-- Size code of an entry (R170). -/
def pteSize (e : Nat) : Nat := e / 4 % 16

/-- Frame or table address of an entry with V = 1 (R170). -/
def pteFrame (e : Nat) : Nat := e / 2 ^ 12 % 2 ^ 27 * 2 ^ 12

/-- Host address of an entry with host = 1 (R170). -/
def pteHost (e : Nat) : Nat := e / 2 ^ 12 % 2 ^ 36 * 2 ^ 12

/-- Page version of an entry (R170). -/
def pteVersion (e : Nat) : Nat := e / 2 ^ 48 % 2 ^ 16

/-- What a walk finds (R171). -/
inductive Walk where
  /-- A leaf with V = 1: page, size code, frame of the page, entry address and entry. -/
  | leaf (page size frame entryAt entry : Nat)
  /-- A leaf with mig = 1 (R187). -/
  | hold (page size entryAt entry : Nat)
  /-- A first-touch leaf (R178). -/
  | touch (page size entryAt entry : Nat)
  /-- A fault message with its reason (R180). -/
  | bad (reason page span entryAt entry : Nat)
deriving DecidableEq, Repr

/-- Whether an address lies in the system window (R45). -/
def inWindow (va : Nat) : Bool := Config.systemWindow ≤ va

/-- Whether an entry read at a level is malformed (R171, first row). -/
def pteMalformed (level va e : Nat) : Bool :=
  let v := pteBit e 0
  let leaf := pteBit e 1
  let size := pteSize e
  pteBit e 11 || (v && e / 2 ^ 39 % 2 ^ 9 ≠ 0) || (!leaf && size ≠ 0)
  || (leaf && (level = 3 || size > 11 || pageLevel size ≠ level))
  || (v && leaf && pteFrame e % pageSize size ≠ 0)
  || (v && (pteBit e 6 || pteBit e 7)) || (pteBit e 10 && !(v && leaf))
  || (inWindow va && (!v || pteBit e 10))

/-- Whether the sector of an entry holds an error that the read of it cannot correct (R175, R438). -/
def State.pteLost (s : State) (entryAt : Nat) : Bool :=
  (s.armed.any fun a => a.uncorrectable && a.item = .sector ((hbmKey entryAt) / 64)) || s.poison.any fun m => m.sector = (hbmKey entryAt) / 64

/-- Walk down from a table at a level (fuel: the level plus one) (R167, R171). A pointer at level 0 is malformed (log 71). A fault
without a leaf stands for the whole span of the entry read (log 82). -/
def walkFrom (s : State) (va : Nat) : Nat → Nat → Walk
  | 0, table => .bad 3 va 1 table 0
  | level + 1, table =>
    let entryAt := table + va / entrySpan level % 512 * 8
    let e := s.pte entryAt
    let span := entrySpan level
    let page := va - va % span
    if s.pteLost entryAt then .bad 5 page span entryAt 0
    else if pteMalformed level va e || (level = 0 && pteBit e 0 && !pteBit e 1) then .bad 3 page span entryAt e
    else if pteBit e 0 && !pteBit e 1 then walkFrom s va level (pteFrame e)
    else
      let size := pteSize e
      let first := va - va % pageSize size
      if pteBit e 0 then
        if pteBit e 10 then .hold first size entryAt e else .leaf first size (pteFrame e) entryAt e
      else if pteBit e 6 && pteBit e 1 then .touch first size entryAt e
      else if pteBit e 7 && pteBit e 1 then .bad 1 first (pageSize size) entryAt e
      else .bad 0 page span entryAt e

/-- The walk of a device virtual address from the root (R167). -/
def State.walk (s : State) (va : Nat) : Walk := walkFrom s va 4 s.paging.root

/-- The entries of the run of a leaf (R168, R169), as frame addresses. -/
def runOf (size entryAt : Nat) : List Nat :=
  let n := pageSize size / entrySpan (pageLevel size)
  let first := entryAt - entryAt % (8 * n)
  (List.range n).map fun i => first + 8 * i

/-- Change every entry of a run (R169: the entries of a run must be identical). -/
def State.setRun (s : State) (size entryAt v : Nat) : State := (runOf size entryAt).foldl (fun s a => s.setPte a v) s

/-- The entry that the first-touch unit writes: V = 1, ft = 0 and the frame address in place of the address bits (R170, R178). -/
def touchedEntry (e frame : Nat) : Nat := e / 2 ^ 48 * 2 ^ 48 + frame + (e % 2 ^ 12 - 64) + 1

/-- Whether no sector of a run of frame bytes is poisoned or withheld (R437). -/
def State.frameClean (s : State) (frame n : Nat) : Bool :=
  let inside (k : Nat) : Bool := hbmKey frame ≤ k * 64 && k * 64 < hbmKey (frame + n)
  !(s.withheld.any inside) && !(s.poison.any fun m => inside m.sector)

/-- The first-touch unit of a die installs a pre-zeroed frame (R178) in the entries of the run (log 73): nothing when its pool for the
size is empty. -/
def State.firstTouch (s : State) (die size entryAt entry : Nat) : Option State :=
  match s.paging.pools.find? fun p => p.1 = die && p.2.1 = size && s.frameClean p.2.2 (pageSize size) with
  | none => none
  | some p =>
    let s := s.setRun size entryAt (touchedEntry entry p.2.2)
    some { s with paging := { s.paging with pools := s.paging.pools.erase p } }

/-! ### TLBs and walk caches (R173, R174) -/

/-- Raise the 32-bit saturating count of a key in a list of counts (R437). -/
def bumpCount (k : Nat) : List (Nat × Nat) → List (Nat × Nat)
  | [] => [(k, 1)]
  | (a, n) :: l => if a = k then (a, min (2 ^ 32 - 1) (n + 1)) :: l else (a, n) :: bumpCount k l

/-- A lookup in a slice that meets a parity error: the error is gone and counted in the slice's corrected-error counter (R174). -/
def State.parityAt (s : State) (slice : Nat) (p : ErrorItem → Bool) : Option State :=
  if s.armed.any fun a => p a.item then some { s.rearm p with corrected := bumpCount (2 ^ 32 + slice) s.corrected } else none

/-- Whether an armed error lies in a TLB entry (R174, R450). -/
def TlbEntry.struck (e : TlbEntry) : ErrorItem → Bool
  | .tlb slice va => slice = e.slice && e.va ≤ va && va < e.va + pageSize e.size
  | _ => false

/-- Whether an error lies in a walk-cache entry (R174). -/
def WalkEntry.struck (w : WalkEntry) : ErrorItem → Bool
  | .walk slice va => slice = w.slice && va / entrySpan w.level = w.key
  | _ => false

/-- The TLB entry of a slice that covers an address (R173). -/
def State.tlbHit (s : State) (slice va : Nat) : Option TlbEntry :=
  s.paging.tlb.find? fun e => e.slice = slice && e.va ≤ va && va < e.va + pageSize e.size

/-- Look an address up in the TLB of a slice: a parity error invalidates the entry and makes the lookup a miss (R174). -/
def State.tlbLook (s : State) (slice va : Nat) : Option TlbEntry × State :=
  match s.tlbHit slice va with
  | none => (none, s)
  | some e => match s.parityAt slice e.struck with
    | none => (some e, s)
    | some s => (none, { s with paging := { s.paging with tlb := s.paging.tlb.erase e } })

/-- Put an entry into a structure that holds `n` entries per slice: the oldest goes from a full one (log 70). -/
def putBounded {α : Type} [DecidableEq α] (n : Nat) (mine : α → Bool) (e : α) (l : List α) : List α :=
  let m := l.filter mine
  if m.length < n then e :: l else match m.getLast? with
    | some o => e :: l.erase o
    | none => e :: l

/-- Add a TLB entry: 1,024 entries per slice (R173); it is written whole, so an error in its place has no effect (R450). -/
def State.fillTlb (s : State) (e : TlbEntry) : State :=
  let s := s.rearm e.struck
  { s with paging := { s.paging with tlb := putBounded 1024 (fun o => o.slice = e.slice) e s.paging.tlb } }

/-- Look an address up in the walk cache of a slice, at the given levels (R173); a parity error invalidates the entry (R174). -/
def State.walkLook (s : State) (slice va : Nat) : List Nat → Option WalkEntry × State
  | [] => (none, s)
  | level :: ls =>
    match s.paging.walks.find? fun w => w.slice = slice && w.level = level && w.key = va / entrySpan level with
    | none => State.walkLook s slice va ls
    | some w => match s.parityAt slice w.struck with
      | none => (some w, s)
      | some s => State.walkLook { s with paging := { s.paging with walks := s.paging.walks.erase w } } slice va ls

/-- The level and the table at which a walk of a slice begins: below the deepest pointer that its walk cache holds, else at the root
(R167, R173). -/
def State.walkStart (s : State) (slice va : Nat) : Nat × Nat × State :=
  match s.walkLook slice va [1, 2, 3] with
  | (some w, s) => (w.level, w.table, s)
  | (none, s) => (4, s.paging.root, s)

/-- Fill the walk cache of a slice with the pointers that a walk from a table reads at the given levels: 128 entries per slice (R173). -/
def State.fillWalks (s : State) (slice va table : Nat) : List Nat → State
  | [] => s
  | level :: ls =>
    let e := s.pte (table + va / entrySpan level % 512 * 8)
    if pteBit e 0 && !pteBit e 1 then
      let w : WalkEntry := ⟨slice, level, va / entrySpan level, pteFrame e⟩
      let others := s.paging.walks.filter fun o => !(o.slice = slice && o.level = level && o.key = w.key)
      State.fillWalks { s with paging := { s.paging with walks := putBounded 128 (fun o => o.slice = slice) w others } } slice va (pteFrame e) ls
    else s

/-- Who asks for a translation, for the fault message (R180). -/
structure Asker where
  die : Nat
  /-- 2 bits; R180; 0 read, 1 write, 2 fold merge, 3 fetch. -/
  access : Nat
  principal : Nat
  buffer : Nat
  generation : BitVec 16
  domain : BitVec 16
  /-- R176, R181, R184; whose request it is. -/
  who : Requester
deriving DecidableEq, Repr

/-- Whether the fault wait list of a slice takes one more request: 64 requests (R176). -/
def State.waitRoom (s : State) (slice : Nat) : Bool := ((s.paging.waits.filter fun o => o.slice = slice).map fun o => o.who.length).sum < 64

/-- Whether a slice accepts no request at its network port (R176): its wait list is full, and the request is none of those that it holds. -/
def State.portFull (s : State) (slice : Nat) (who : Requester) : Bool :=
  !s.waitRoom slice && !(s.paging.waits.any fun o => o.slice = slice && o.who.contains who)

/-- A page wait with one more request: 16 requests per page (R176). -/
def PageWait.join (o : PageWait) (who : Requester) : PageWait :=
  if o.who.contains who || 16 ≤ o.who.length then o else { o with who := o.who ++ [who] }

/-- Put a request into the fault wait list of a slice: it joins a page already waited on; the list holds 64 requests over at most 16
pages, and a request that finds no room stays at the slice's port, where its requester asks again (R176). -/
def State.joinWait (s : State) (who : Requester) (w : PageWait) : State :=
  let isPage (o : PageWait) : Bool := o.slice = w.slice && o.page = w.page && o.span = w.span
  if !s.waitRoom w.slice then s
  else if s.paging.waits.any isPage then
    { s with paging := { s.paging with waits := s.paging.waits.map fun o => if (isPage o) then o.join who else o } }
  else if (s.paging.waits.filter fun o => o.slice = w.slice).length < 16 then
    { s with paging := { s.paging with waits := s.paging.waits ++ [{ w with who := [who] }] } }
  else s

/-- The wait of an asker on a page. -/
def Asker.waitOn (q : Asker) (slice va page span : Nat) (reason : Option Nat) (entry : Nat) : PageWait :=
  { slice := slice, who := [q.who], va := va, page := page, span := span, reason := reason, access := q.access,
    principal := q.principal, buffer := q.buffer, generation := q.generation, domain := q.domain, entry := word entry }

/-- Whether the slice already waits on the page of an address (R176). -/
def State.waiting (s : State) (slice va : Nat) : Option PageWait :=
  s.paging.waits.find? fun w => w.slice = slice && w.page ≤ va && va < w.page + w.span

/-- The entry address and the entry that a walk read last, when it is a critical leaf (R170, R175). -/
def Walk.critical : Walk → Option (Nat × Nat)
  | .leaf _ _ _ entryAt e | .hold _ _ entryAt e | .touch _ _ entryAt e => if pteBit e 8 then some (entryAt, e) else none
  | .bad _ _ _ _ _ => none

/-- The two reads of a critical leaf by the walkers of a slice (R175): after the first one the request waits; at the second, the walk goes on when the
values are equal and faults with reason 4 when they differ. -/
def State.readTwice (s : State) (slice : Nat) (w : Walk) : Option Walk × State :=
  match w.critical with
  | none => (some w, s)
  | some (entryAt, e) =>
    let mine (o : Nat × Nat × Nat) : Bool := o.1 = slice && o.2.1 = entryAt
    let others := s.paging.seconds.filter fun o => !mine o
    match s.paging.seconds.find? mine with
    | none => (none, { s with paging := { s.paging with seconds := (slice, entryAt, e) :: others } })
    | some o =>
      let s := { s with paging := { s.paging with seconds := others } }
      if o.2.2 = e then (some w, s) else match w with
        | .leaf page size _ _ _ | .hold page size _ _ | .touch page size _ _ => (some (.bad 4 page (pageSize size) entryAt e), s)
        | .bad _ _ _ _ _ => (some w, s)

/-- Translate an address for a request that missed the L2 (R171-R178): the frame address, or none when the request waits. A
first-touch page is installed by the unit of the slice's die and the walk restarts; an empty pool is reason 2. -/
def State.translate (s : State) (q : Asker) (va : Nat) : Option Nat × State :=
  let slice := sliceOf q.die va
  match s.waiting slice va with
  | some w => (none, s.joinWait q.who w)
  | none =>
    match s.tlbLook slice va with
    | (some e, s) => (some (e.pa + (va - e.va)), s)
    | (none, s) =>
      let (level, table, s) := s.walkStart slice va
      let ended (s : State) : Walk → Option Nat × State
        | .leaf page size frame _ _ =>
          (some (frame + (va - page)), (s.fillTlb ⟨slice, page, size, frame⟩).fillWalks slice va table ([3, 2, 1].filter fun l => l < level))
        | .hold page size _ e => (none, s.joinWait q.who (q.waitOn slice va page (pageSize size) none e))
        | .bad reason page span _ e => (none, s.joinWait q.who (q.waitOn slice va page span (some reason) (if reason = 5 then 0 else e)))
        | .touch page size _ e => (none, s.joinWait q.who (q.waitOn slice va page (pageSize size) (some 2) e))
      match s.readTwice slice (walkFrom s va level table) with
      | (none, s) => (none, s)
      | (some (.touch page size entryAt e), s) => match s.firstTouch (slice / 256) size entryAt e with
        | none => ended s (.touch page size entryAt e)
        | some s => ended s (walkFrom s va level table)
      | (some w, s) => ended s w

/-- Where the page tables put the bytes of a page, whatever its mig bit says (R167, R187). -/
def State.frameOf (s : State) (va : Nat) : Option Nat :=
  match s.walk va with
  | .leaf page _ frame _ _ => some (frame + (va - page))
  | .hold page _ _ e => some (pteFrame e + (va - page))
  | _ => none

/-- Drop what an invalidate names: TLB and walk-cache entries over a range, and its L2 lines when asked (R185). Requests held on
the range rewalk. -/
def State.invalidate (s : State) (va span : Nat) (dropL2 : Bool) : State :=
  let meets (a n : Nat) : Bool := a < va + span && va < a + n
  { s with paging := { s.paging with
      tlb := s.paging.tlb.filter fun e => !meets e.va (pageSize e.size)
      walks := s.paging.walks.filter fun w => !meets (w.key * entrySpan w.level) (entrySpan w.level)
      l2 := if dropL2 then s.paging.l2.filter fun l => !meets (l.line * 256) 256 else s.paging.l2
      seconds := []
      waits := s.paging.waits.filter fun w => !meets w.page w.span } }

/-! ### The L2 (R117-R120) -/

/-- The L2 line of a die that a request hits: address and domain match and the stamp is the request's (R118). -/
def State.l2Line (s : State) (q : Asker) (va : Nat) : Option L2Line :=
  s.paging.l2.find? fun l => l.slice = sliceOf q.die va && l.line = va / 256 && l.domain = q.domain &&
    l.buffer = q.buffer && l.generation = q.generation && l.sectors.getD (va / 64 % 4) false

/-- Whether a request hits the L2 (R48, R118). -/
def State.l2Hit (s : State) (q : Asker) (va : Nat) : Bool := (s.l2Line q va).isSome

/-- The set of a line within its slice (R117). -/
def l2Set (line : Nat) : Nat := (BitVec.ofNat 10 line ^^^ BitVec.ofNat 10 (line / 2 ^ 10)).toNat

/-- Fill the sector of an address from its frame into the L2, dropping a line of another stamp; 12 ways per set, of which the one filled
longest ago goes (R117, R118, log 70). -/
def State.l2Fill (s : State) (q : Asker) (va pa : Nat) : State :=
  let slice := sliceOf q.die va
  let at' (l : L2Line) : Bool := l.slice = slice && l.line = va / 256 && l.domain = q.domain
  let old := match s.paging.l2.find? at' with
    | some l => if l.buffer = q.buffer && l.generation = q.generation then l.sectors else [false, false, false, false]
    | none => [false, false, false, false]
  let l : L2Line := { slice := slice, line := va / 256, domain := q.domain, buffer := q.buffer, generation := q.generation,
                      sectors := old.set (va / 64 % 4) true, frame := pa / 256 * 256 }
  let mates (o : L2Line) : Bool := o.slice = slice && l2Set o.line = l2Set (va / 256)
  { s with paging := { s.paging with l2 := putBounded 12 mates l (s.paging.l2.filter fun l => !at' l) } }

/-- A write-back at a slice whose line differs in its stamp drops the line (R119). -/
def State.l2Write (s : State) (q : Asker) (va : Nat) : State :=
  { s with paging := { s.paging with l2 := s.paging.l2.filter fun l =>
      !(l.slice = sliceOf q.die va && l.line = va / 256 && l.domain = q.domain &&
        !(l.buffer = q.buffer && l.generation = q.generation)) } }

end Sys2Proof.Machine
end

