-- ==== Sys2Proof/Machine/Home.lean ====
section
/-! DEFINITION. The homes: directory entries and their transitions, the checks of R66, the violation log, poison marks, snapshot
levels and copies, ring records (R66-R82, R148-R166, R330, R343-R345, R438-R445). -/

namespace Sys2Proof.Machine

open Sys2Proof

/-! ### Caps -/

/-- Code of a home kind (R53). -/
def CapKind.code : CapKind → Nat
  | .null => 0
  | .tmem => 1
  | .cmem => 2
  | .dmem => 3
  | .remote => 4
  | .host => 5
  | .handle => 6
  | .slot => 7
  | .reserved k => 8 + k.val

/-- Home kind of a code (R53). -/
def CapKind.ofCode (n : Nat) : CapKind :=
  if n = 0 then .null else if n = 1 then .tmem else if n = 2 then .cmem else if n = 3 then .dmem
  else if n = 4 then .remote else if n = 5 then .host else if n = 6 then .handle else if n = 7 then .slot
  else .reserved (Fin.ofNat 8 (n - 8))

/-- Code of a mode (R53). -/
def CapMode.code : CapMode → Nat
  | .exclusive => 0
  | .read => 1
  | .fold => 2
  | .exec => 3

/-- Mode of a code (R53). -/
def CapMode.ofCode (n : Nat) : CapMode := if n = 0 then .exclusive else if n = 1 then .read else if n = 2 then .fold else .exec

/-- The six rights as bits R W S P N E from bit 0 up (R53). -/
def Rights.code (r : Rights) : Nat :=
  r.r.toNat + 2 * r.w.toNat + 4 * r.s.toNat + 8 * r.p.toNat + 16 * r.n.toNat + 32 * r.e.toNat

/-- Rights of six bits (R53). -/
def Rights.ofCode (n : Nat) : Rights :=
  { r := n % 2 = 1, w := n / 2 % 2 = 1, s := n / 4 % 2 = 1, p := n / 8 % 2 = 1, n := n / 16 % 2 = 1, e := n / 32 % 2 = 1 }

/-- The AND of two rights fields. -/
def Rights.and (a b : Rights) : Rights :=
  { r := a.r && b.r, w := a.w && b.w, s := a.s && b.s, p := a.p && b.p, n := a.n && b.n, e := a.e && b.e }

/-- The 256 bits of a cap as four words (R53). -/
def Cap.words (c : Cap) : List Nat :=
  let w1 := c.length.toNat / 2 ^ 16 + c.kind.code * 2 ^ 24 + c.location.toNat * 2 ^ 28 + c.rights.code * 2 ^ 48
    + c.lent.toNat * 2 ^ 54 + c.z.toNat * 2 ^ 55 + c.mode.code * 2 ^ 56 + c.foldOp.toNat * 2 ^ 58 + c.rsv127.toNat * 2 ^ 63
  let w2 := c.buffer.toNat + c.generation.toNat * 2 ^ 24 + c.weight.toNat * 2 ^ 40 + c.depth.toNat * 2 ^ 57 + c.rsv188.toNat * 2 ^ 60
  [c.base.toNat + c.length.toNat % 2 ^ 16 * 2 ^ 48, w1, w2,
   c.format.toNat + c.domain.toNat * 2 ^ 32 + c.check.toNat * 2 ^ 48]

/-- The cap of four words (R53). -/
def Cap.ofWords (w0 w1 w2 w3 : Nat) : Cap :=
  { base := BitVec.ofNat 48 w0, length := BitVec.ofNat 40 (w0 / 2 ^ 48 % 2 ^ 16 + w1 % 2 ^ 24 * 2 ^ 16),
    kind := CapKind.ofCode (w1 / 2 ^ 24 % 16), location := BitVec.ofNat 20 (w1 / 2 ^ 28),
    rights := Rights.ofCode (w1 / 2 ^ 48 % 64), lent := w1 / 2 ^ 54 % 2 = 1, z := w1 / 2 ^ 55 % 2 = 1,
    mode := CapMode.ofCode (w1 / 2 ^ 56 % 4), foldOp := BitVec.ofNat 5 (w1 / 2 ^ 58), rsv127 := BitVec.ofNat 1 (w1 / 2 ^ 63),
    buffer := BitVec.ofNat 24 w2, generation := BitVec.ofNat 16 (w2 / 2 ^ 24), weight := BitVec.ofNat 17 (w2 / 2 ^ 40),
    depth := BitVec.ofNat 3 (w2 / 2 ^ 57), rsv188 := BitVec.ofNat 4 (w2 / 2 ^ 60),
    format := BitVec.ofNat 32 w3, domain := BitVec.ofNat 16 (w3 / 2 ^ 32), check := BitVec.ofNat 16 (w3 / 2 ^ 48) }

/-- Bits 239:0 of a cap (R58). -/
def Cap.bits240 (c : Cap) : BitVec 240 :=
  match c.words with
  | [w0, w1, w2, w3] => BitVec.ofNat 240 (w0 + w1 * 2 ^ 64 + w2 * 2 ^ 128 + w3 * 2 ^ 192)
  | _ => 0

/-- The check code that a cap should carry on a device (R58); the null cap's is zero (R54). -/
def checkOn (device : Nat) (c : Cap) : BitVec 16 := if c.kind = .null then 0 else Config.capCheck device c.bits240

/-- A cap that a tile of a device derived, with its check recomputed (R58). -/
def Cap.signOn (c : Cap) (device : Nat) : Cap := { c with check := checkOn device { c with check := 0 } }

/-- The check code that a cap should carry here (R58). -/
def State.checkOf (s : State) (c : Cap) : BitVec 16 := checkOn s.device c

/-- A derived cap with its check recomputed (R58). -/
def State.sign (s : State) (c : Cap) : Cap := c.signOn s.device

/-- Effective rights: the rights under the mask of the mode (R56). -/
def Cap.eff (c : Cap) : Rights :=
  match c.mode with
  | .exclusive => c.rights
  | .read => { c.rights with w := false, n := false }
  | .fold => { c.rights with r := false, n := false }
  | .exec => { c.rights with w := false, n := false }

/-- Whether a fold op code is assigned (R80). -/
def validFoldOp (f : BitVec 5) : Bool := 1 ≤ f.toNat && f.toNat ≤ 15

/-- Bytes of a fold op's width (R80). -/
def foldBytes (f : BitVec 5) : Nat :=
  if f = 1 || f = 3 || f = 5 || f = 7 || f = 9 || f = 14 || f = 15 then 4 else 8

/-- The order key of an FP32 pattern under R81: −0 below +0, subnormals exact. -/
def fpKey (x : BitVec 32) : Int := if x.msb then -(x.toNat % 2 ^ 31 : Nat) - 1 else x.toNat

/-- Whether an FP32 pattern is a NaN. -/
def fpNan (x : BitVec 32) : Bool := x.toNat % 2 ^ 31 > 0x7F800000

/-- Combine two words under a fold op (R80, R81). -/
def foldWord (op : BitVec 5) (a b : Word) : Word :=
  let x := lo32 a
  let y := lo32 b
  if op = 1 then zext (x + y)
  else if op = 2 then a + b
  else if op = 3 then zext (if x.toInt ≤ y.toInt then x else y)
  else if op = 4 then (if a.toInt ≤ b.toInt then a else b)
  else if op = 5 then zext (if x.toInt ≤ y.toInt then y else x)
  else if op = 6 then (if a.toInt ≤ b.toInt then b else a)
  else if op = 7 then zext (if x.toNat ≤ y.toNat then x else y)
  else if op = 8 then (if a.toNat ≤ b.toNat then a else b)
  else if op = 9 then zext (if x.toNat ≤ y.toNat then y else x)
  else if op = 10 then (if a.toNat ≤ b.toNat then b else a)
  else if op = 11 then a &&& b
  else if op = 12 then a ||| b
  else if op = 13 then a ^^^ b
  else if fpNan x || fpNan y then 0x7FC00000
  else if op = 14 then zext (if fpKey x ≤ fpKey y then x else y)
  else zext (if fpKey x ≤ fpKey y then y else x)

/-! ### Entries -/

/-- The home of a cap's buffer (R3, R25, R46, R428). -/
def State.homeOf (s : State) (c : Cap) : Option HomeId :=
  match c.kind with
  | .tmem => some (.tile (s.relocateTile c.domain c.location.toNat))
  | .cmem | .handle | .slot => some (.cluster (s.relocate c.domain c.location.toNat))
  | .dmem => some (.die (c.buffer.toNat % 4))
  | .remote => some (.remote c.location.toNat)
  | .null | .host | .reserved _ => none

/-- Whether a home is stopped by a park, or away in a spore (R417): requests to it wait. -/
def State.asleep (s : State) : HomeId → Bool
  | .tile i => Config.tiles ≤ i || (s.tileAt i).any (·.parked)
  | .cluster k => Config.clusters ≤ k || (s.clusterAt k).any (·.stopped)
  | _ => false

/-- The endpoint of a home (R30). -/
def State.homeEndpoint (s : State) : HomeId → Nat
  | .tile i => tileEndpoint s.device i
  | .cluster i => clusterEndpoint s.device i 10
  | .die d => dmemHomeEndpoint s.device d
  | .remote d => dmemHomeEndpoint d 0

/-- Code of a state (R70). -/
def DirState.code : DirState → Nat
  | .free => 0
  | .exclusive => 1
  | .readShared => 2
  | .foldShared => 3
  | .execShared => 4
  | .inTransit => 5
  | .carved => 6

/-- State of a code (R70). -/
def DirState.ofCode (n : Nat) : DirState :=
  if n = 1 then .exclusive else if n = 2 then .readShared else if n = 3 then .foldShared else if n = 4 then .execShared
  else if n = 5 then .inTransit else if n = 6 then .carved else .free

/-- The four words of a directory entry (R70). -/
def DirEntry.words (e : DirEntry) : List Nat :=
  let v := e.base + e.length * 2 ^ 48 + e.state.code * 2 ^ 88 + e.foldOp.toNat * 2 ^ 91 + e.dies.toNat * 2 ^ 96 + e.depth * 2 ^ 102 +
    e.link.getD 0xFFFFFF * 2 ^ 128 + e.generation.toNat * 2 ^ 152 + e.count * 2 ^ 168 + e.poison * 2 ^ 192 + e.domain.toNat * 2 ^ 208 +
    e.owner * 2 ^ 224
  (List.range 4).map fun i => v / 2 ^ (64 * i) % 2 ^ 64

/-- The entry of a home that a buffer number and four words give (R70). -/
def DirEntry.ofWords (h : HomeId) (number : Nat) (ws : List Nat) : DirEntry :=
  let v := ws.getD 0 0 + ws.getD 1 0 * 2 ^ 64 + ws.getD 2 0 * 2 ^ 128 + ws.getD 3 0 * 2 ^ 192
  let link := v / 2 ^ 128 % 2 ^ 24
  { home := h, number := number, base := v % 2 ^ 48, length := v / 2 ^ 48 % 2 ^ 40, state := DirState.ofCode (v / 2 ^ 88 % 8),
    foldOp := BitVec.ofNat 5 (v / 2 ^ 91), depth := v / 2 ^ 102 % 8, link := if link = 0xFFFFFF then none else some link,
    generation := BitVec.ofNat 16 (v / 2 ^ 152), count := v / 2 ^ 168 % 2 ^ 24, poison := v / 2 ^ 192 % 2 ^ 16,
    domain := BitVec.ofNat 16 (v / 2 ^ 208), owner := v / 2 ^ 224 % 2 ^ 32 }

/-- What the answer of a control request says of an entry (R483, log 11): its buffer number, then its four words. -/
def DirEntry.fields (e : DirEntry) : List Word := (e.number :: e.words).map word

/-- The n-th entry of such an answer. -/
def DirEntry.ofFields (h : HomeId) (ws : List Word) (n : Nat) : DirEntry :=
  let ws := (ws.drop (5 * n)).map BitVec.toNat
  DirEntry.ofWords h (ws.getD 0 0 % 2 ^ 24) (ws.drop 1)

/-- The directory entry of a buffer number at a home (R70). -/
def State.entry (s : State) (h : HomeId) (b : Nat) : Option DirEntry := s.dirs.find? fun e => e.home = h && e.number = b

/-- Change an entry. -/
def State.mapEntry (s : State) (h : HomeId) (b : Nat) (f : DirEntry → DirEntry) : State :=
  { s with dirs := s.dirs.map fun e => if e.home = h && e.number = b then f e else e }

/-- Tell the home of a kind 4 cap on another device of a directory event (R71, R483): the entry kept here follows it. -/
def State.tellPeer (s : State) (c : Cap) (op : Nat) (args : List Nat) : State :=
  if c.kind ≠ .remote then s
  else s.sendPacket c.location.toNat
    { op := 4, vn := 5, bytes := 32, flits := flitsOf 32 false, serial := s.fabric.sent.length % 2 ^ 24, source := controllerEndpoint s.device 0,
      destination := dmemHomeEndpoint c.location.toNat (c.buffer.toNat % 4), buffer := c.buffer.toNat, generation := c.generation,
      domain := c.domain, words := (op :: args).map word }

/-- Append an item for a session log (R463). -/
def State.postItem (s : State) (d : BitVec 16) (type units : Nat) (injected : Bool) (launch : Nat) (payload : List Nat) : State :=
  { s with trust := { s.trust with pending := s.trust.pending ++ [⟨d, type, units, injected, launch, payload⟩] } }

/-- Count violation items that homes drop (R68, R465). -/
def State.dropNotice (s : State) (d : BitVec 16) : State :=
  { s with trust := { s.trust with logs := s.trust.logs.map fun l =>
      if l.domain = d then { l with violationsDropped := l.violationsDropped + 1 } else l } }

/-- Write a violation log entry, or count it when the 64 entries of the home are in use (R68). -/
def State.violate (s : State) (v : Violation) : State :=
  if (s.violations.filter fun o => o.home = v.home).length < 64 then { s with violations := s.violations ++ [v] }
  else
    let n := match s.violationOverflow.find? fun p => p.1 = v.home with
      | some p => p.2
      | none => 0
    let s := { s with violationOverflow := (v.home, n + 1) :: s.violationOverflow.filter fun p => p.1 ≠ v.home }
    let s := s.dropNotice v.domain
    match v.recorded with
    | some d => s.dropNotice d
    | none => s

/-- The space of a home whose offsets are physical. -/
def HomeId.space : HomeId → Space
  | .tile i => .tmem i
  | .cluster i => .cmem i
  | .die _ => .hbm
  | .remote d => .peer d

/-- Whether a home is that of DMEM. -/
def HomeId.isDmem : HomeId → Bool
  | .die _ | .remote _ => true
  | .tile _ | .cluster _ => false

/-- What a request shows a home (R66). -/
structure Claim where
  home : HomeId
  buffer : Nat
  generation : BitVec 16
  domain : BitVec 16
  principal : Nat
  /-- base and length; R25, R43, R45; the range of the cap, where the request shows the cap. -/
  range : Option (Nat × Nat) := none
  /-- die; R48, R117; the die whose L2 the request reaches, where it is not that of the principal's endpoint. -/
  site : Option Nat := none
  /-- R176, R184; whose request it is. -/
  who : Requester := .home
deriving DecidableEq, Repr

/-- The range that a cap shows its home (R25): a ring cap stands for slots, which its ring record checks (R344). -/
def Cap.range (c : Cap) : Option (Nat × Nat) :=
  match c.kind with
  | .handle | .slot => none
  | _ => some (c.base.toNat, c.length.toNat)

/-- The claim of a tile under a cap (R66, log 9): its requests reach the L2 of the die where it runs now (R48, R428). -/
def State.claim (s : State) (h : HomeId) (c : Cap) (t : Tile) : Claim :=
  { home := h, buffer := c.buffer.toNat, generation := c.generation, domain := c.domain, principal := t.principal s.device,
    range := c.range, site := some (t.index / 512), who := .tile t.index t.unitKey }

/-- The claim of a posted request: one of another device reaches the L2 that its buffer number names (R117), one whose
tile a park has taken away that of its home name (log 41). -/
def Request.claim (r : Request) : Claim :=
  { home := r.home, buffer := r.buffer, generation := r.generation, domain := r.domain, principal := r.principal,
    site := some (if r.remote.isSome then r.buffer % 4 else if r.tile < Config.tiles then r.tile / 512 else ((endpointTile r.principal).getD 0) / 512),
    who := match r.remote with
      | some p => .remote p.1 p.2
      | none => .posted r.tile r.serial }

/-- Whether an uncorrectable error has struck a structure that is kept twice (R435, R445). -/
def State.struck (s : State) (item : ErrorItem) : Bool := s.armed.any fun a => a.uncorrectable && a.item = item

/-- Whether a home has lost an entry: both of its copies have failed (R445). -/
def State.gone (s : State) (e : DirEntry) : Bool := e.lost || s.struck (.dirEntry e.home e.number)

/-- Whether a ring record has failed (R445). -/
def State.ringGone (s : State) (r : Ring) : Bool := r.lost || s.struck (.ringRecord r.cluster r.buffer)

/-- Payload words of a poison item (R464 type 2). -/
def poisonPayload (b : Nat) (g : BitVec 16) (code off endpoint : Nat) : List Nat := [b, g.toNat, code, off, endpoint]

/-- The launch whose tiles an endpoint names (R446). -/
def State.launchAtEndpoint (s : State) (e : Nat) : Option Nat :=
  (endpointTile e).bind fun i => (s.tileAt i).bind (·.launch)

/-- Record an event of a buffer (R446): the session log of its domain, and the error summary of the launch that owns it, there under a source and
a reason code of R468. -/
def State.recordEvent (s : State) (h : HomeId) (e : DirEntry) (off code : Nat) (source reason : Nat) (injected : Bool) : State :=
  let launch := s.launchAtEndpoint e.owner
  let s := s.postItem e.domain 2 1 injected (launch.getD 0) (poisonPayload e.number e.generation code off (s.homeEndpoint h))
  match launch with
  | none => s
  | some n => s.mapLaunch n fun l => l.summarise
      { body := [word (e.number + e.generation.toNat * 2 ^ 24), word off, word reason, 0], source := source, injected := injected,
        endpoint := s.homeEndpoint h, time := s.clock, device := s.device }

/-- A read of a structure finds its error (R445, R450): the error is taken from those that wait, and the loss recorded (log 79). -/
def State.loseStructure (s : State) (item : ErrorItem) (h : HomeId) (e : DirEntry) (reason : Nat) : State :=
  let injected := s.armed.any fun a => a.item = item && a.injected
  { s with armed := s.armed.filter fun a => a.item ≠ item }.recordEvent h e 0 0 3 reason injected

/-- A home that refuses a request has read its entry or ring record: one that an error has struck is lost from then on (R445). -/
def State.loseStruck (s : State) (h : HomeId) (b : Nat) : State :=
  match s.entry h b with
  | none => s
  | some e =>
    let s := if s.struck (.dirEntry h b) then (s.loseStructure (.dirEntry h b) h e 1).mapEntry h b fun e => { e with lost := true } else s
    match h with
    | .cluster k =>
      if s.struck (.ringRecord k b) then
        let s := s.loseStructure (.ringRecord k b) h e 4
        { s with rings := s.rings.map fun r => if r.cluster = k && r.buffer = b then { r with lost := true } else r }
      else s
    | _ => s

/-- Write the violation of a refused claim and answer the reason (R67, R68). -/
def State.refuse (s : State) (q : Claim) (access off reason : Nat) : State :=
  let s := s.loseStruck q.home q.buffer
  let e := s.entry q.home q.buffer
  let recorded := match e with
    | some e => if e.state ≠ .free && e.domain ≠ q.domain then some e.domain else none
    | none => none
  s.violate { home := q.home, principal := q.principal, buffer := q.buffer, genPresented := q.generation,
              genRecorded := (e.map (·.generation)).getD 0, reason := reason, access := access, offset := off,
              domain := q.domain, recorded := recorded, time := s.clock }

/-- Heap of a home: where `cap.alloc` may place a buffer (R33, R42, R43). -/
def State.heapOf (s : State) : HomeId → Nat × Nat
  | .tile i => (((s.tileAt i).map (·.privateSize)).getD 0, Config.tmemSize)
  | .cluster i => (Config.cmemHeap, Config.cmemSize - ((s.clusterAt i).map (·.shadow)).getD 0)
  | .die _ | .remote _ => (0, 0)

/-- Whether the range of a claim lies outside the entry, or outside the heap of a cluster home (R43, R66). -/
def State.rangeLeaves (s : State) (q : Claim) (e : DirEntry) : Bool :=
  let r := q.range.getD (e.base, e.length)
  r.1 < e.base || e.base + e.length < r.1 + r.2 ||
    (match q.home with
     | .cluster i => r.1 < (s.heapOf (.cluster i)).1 || (s.heapOf (.cluster i)).2 < r.1 + r.2
     | _ => false)

/-- Whether the range of a claim of another domain than 0 touches the system window (R45). -/
def Claim.inWindow (q : Claim) (e : DirEntry) : Bool :=
  let r := q.range.getD (e.base, e.length)
  q.home.isDmem && q.domain ≠ 0 && Config.systemWindow < r.1 + r.2

/-- The check of R66 on an access of `n` bytes at an offset from the start of the cap's range `base`: none when it passes, else
the reason. `access`: 0 load, 1 store, 2 fold; `op`: the fold op. The tests run in the order of R66 (log 10). A store is made in
exclusive mode, so it comes from the owner, which R70 keeps over a split: a write-back of bytes stored before it may follow it (R72). -/
def State.checkAccess (s : State) (q : Claim) (base off n access : Nat) (op : BitVec 5) : Option Nat :=
  match s.entry q.home q.buffer with
  | none => some 1
  | some e =>
    if s.gone e || e.state = .free || e.state = .carved then some 1
    else if e.generation ≠ q.generation then some 2
    else if e.domain ≠ q.domain then some 6
    else if base + off < e.base || base + off + n > e.base + e.length || s.rangeLeaves q e then some 5
    else if (e.state = .exclusive || e.state = .inTransit || access = 1) && e.owner ≠ q.principal then some 3
    else if e.state = .inTransit then some 4
    else if access = 0 && e.state = .foldShared then some 4
    else if access = 2 && e.state ≠ .foldShared then some 4
    else if access = 2 && e.foldOp ≠ op then some 11
    else if q.inWindow e then some 7
    else none

/-! ### Ring records (R343, R344) -/

/-- The ring of a buffer number at a cluster. -/
def State.ring (s : State) (cluster buffer : Nat) : Option Ring := s.rings.find? fun r => r.cluster = cluster && r.buffer = buffer

/-- Change a ring record. -/
def State.mapRing (s : State) (cluster buffer : Nat) (f : Ring → Ring) : State :=
  { s with rings := s.rings.map fun r => if r.cluster = cluster && r.buffer = buffer then f r else r }

/-- The slot number of a slot cap (R344). -/
def Ring.slotOf (r : Ring) (c : Cap) : Nat := (c.base.toNat - r.base) / 4352

/-- The cluster of a home. -/
def HomeId.clusterIx : HomeId → Nat
  | .cluster i => i
  | _ => 0

/-- The check of R344 on a handle or slot cap: none when it passes. -/
def State.checkRing (s : State) (h : HomeId) (c : Cap) : Option Nat :=
  match s.ring h.clusterIx c.buffer.toNat with
  | none => some 4
  | some r =>
    if s.ringGone r then some 4
    else if r.domain ≠ c.domain then some 6
    else if c.kind = .handle then
      if r.generation ≠ c.generation then some 2
      else if c.base.toNat ≠ r.base || c.length.toNat ≠ r.slots.length * 4352 then some 5 else none
    else
      let i := r.slotOf c
      match r.slots[i]? with
      | none => some 5
      | some sl =>
        if c.base.toNat ≠ r.base + 4352 * i || c.length.toNat > 4352 then some 5
        else if sl.serial ≠ c.generation then some 2
        else if c.rights.w then (if sl.state = .reserved then none else some 4)
        else if sl.state = .taken then none else some 4

/-! ### Poison (R330, R438-R440, R446) -/

/-- The mark of a sector. -/
def State.markOf (s : State) (sector : Nat) : Option PoisonMark := s.poison.find? fun m => m.sector = sector

/-- Whether a sector is poisoned. -/
def State.poisoned (s : State) (sector : Nat) : Bool := s.poison.any fun m => m.sector = sector

/-- Record a poison event of a buffer (R446): the session log of its domain and the error summary of the launch that owns it. -/
def State.recordPoison (s : State) (h : HomeId) (e : DirEntry) (off code : Nat) (injected : Bool) : State :=
  s.recordEvent h e off code 1 code injected

/-- Mark the sector of a key poisoned: a new mark raises the entry's count and is recorded; a mark again resets the mask of clean
bytes (R330, R438). -/
def State.markPoison (s : State) (h : HomeId) (buffer off key code : Nat) (injected : Bool) : State :=
  let sector := key / 64
  if s.poisoned sector then
    { s with poison := s.poison.map fun m => if m.sector = sector then { m with clean := 0 } else m }
  else
    let s := { s with poison := ⟨sector, 0⟩ :: s.poison, injected := if injected then sector :: s.injected else s.injected }
    match s.entry h buffer with
    | none => s
    | some e =>
      let s := s.mapEntry h buffer fun e => { e with poison := min 65535 (e.poison + 1) }
      s.recordPoison h e (off / 64 * 64) code injected

/-- Clear the mark of a sector, and record the clearing (R439). -/
def State.clearPoison (s : State) (h : HomeId) (buffer off key : Nat) : State :=
  let sector := key / 64
  if s.poisoned sector then
    let s := match s.entry h buffer with
      | some e => s.recordPoison h e (off / 64 * 64) 66 (s.injected.contains sector)
      | none => s
    ({ s with poison := s.poison.filter fun m => m.sector ≠ sector }).mapEntry h buffer fun e => { e with poison := e.poison - 1 }
  else s

/-- A read of a stored sector by its home or controller detects an armed or real error (R435, R450). A corrected one counts at the HBM4
controller of the sector's stack or at the home (R437). -/
def State.detect (s : State) (h : HomeId) (buffer off key : Nat) : State :=
  match s.armed.find? fun a => a.item = .sector (key / 64) with
  | none => s
  | some a =>
    let s := { s with armed := s.armed.filter fun o => o ≠ a }
    if a.uncorrectable then s.markPoison h buffer off key 69 a.injected
    else { s with corrected := bumpCount (if hbmKey 0 ≤ key && key < hbmKey Config.frameEnd then 2 ^ 33 + (key - hbmKey 0) / 256 % 8
                                          else s.homeEndpoint h) s.corrected,
                  correctedSectors := s.correctedSectors ++ [(key / 64, s.clock)] }

/-- A read of a sector that no buffer covers (R437, R450): an uncorrectable error poisons it, goes to the session log of domain 0, and withholds it. -/
def State.detectFree (s : State) (h : HomeId) (key : Nat) : State :=
  match s.armed.find? fun a => a.item = .sector (key / 64) with
  | none => s
  | some a =>
    let s := s.detect h (2 ^ 24) 0 key
    if !a.uncorrectable then s
    else { s with withheld := if s.withheld.contains (key / 64) then s.withheld else s.withheld ++ [key / 64] }.postItem 0 2 1 a.injected 0
      (poisonPayload 0 0 69 (key - h.space.base) (s.homeEndpoint h))

/-- A write of all 64 bytes rewrites the check bits: an armed error has no effect (R450). -/
def State.disarm (s : State) (key : Nat) : State :=
  { s with armed := s.armed.filter fun a => a.item ≠ .sector (key / 64) }

/-- Write a fault log entry of code 65 or 66 in a tile, when an entry is free (R412, R413). -/
def State.logRecord (s : State) (tile code off buffer : Nat) (g : BitVec 16) : Option State :=
  match s.tileAt tile with
  | none => some s
  | some t => match t.freeEntry with
    | none => none
    | some i =>
      let e : FaultEntry := { code := code, cls := 1, level := t.level.val, place := word off,
                              what := word (buffer + g.toNat * 2 ^ 24), time := s.mcycle t }
      some (s.putTile (t.logEntry i e))

/-- Set Z in every cap register of a tile that names a buffer and generation (R440). The check follows (R58). -/
def Tile.setZ (t : Tile) (device : Nat) (kind : CapKind) (loc buffer : Nat) (g : BitVec 16) : Tile :=
  let mark (c : Cap) : Cap :=
    if c.kind = kind && c.location.toNat = loc && c.buffer.toNat = buffer && c.generation = g then Cap.signOn { c with z := true } device else c
  { t with c := t.c.map mark, cBank := t.cBank.map fun b => b.map mark }

/-! ### Shadow pools, levels and copies (R148-R160) -/

/-- Shadow pool units in use at a home: records and copies; the DMEM pool is that of the domain (R160). Which
unit holds which of them is left open: they stand beside memory (log 87). -/
def State.unitsUsed (s : State) (h : HomeId) (d : BitVec 16) : Nat :=
  let mine (h' : HomeId) (b : Nat) : Bool :=
    match h with
    | .die _ => (match h' with
      | .die _ => true
      | _ => false) && ((s.entry h' b).map fun e => decide (e.domain = d)).getD false
    | _ => h' = h
  (s.levels.filter fun l => mine l.home l.buffer).length + (s.copies.filter fun c => mine c.home c.buffer).length

/-- Shadow pool units of a home (R160). A remote home's pool is that device's: it is not bounded here (log 11). -/
def State.poolUnits (s : State) (h : HomeId) (d : BitVec 16) : Nat :=
  match h with
  | .tile i => ((s.tileAt i).map fun t => t.tshadowSize / 256).getD 0
  | .cluster i => ((s.clusterAt i).map fun c => c.shadow / 256).getD 0
  | .die _ => ((s.dmemPools.find? fun p => p.1 = d).map fun p => p.2 / 256).getD 0
  | .remote _ => 2 ^ 28

/-- Free shadow pool units (R160). -/
def State.poolFree (s : State) (h : HomeId) (d : BitVec 16) : Nat := s.poolUnits h d - s.unitsUsed h d

/-- The level records of a buffer, top first (R148). -/
def State.stackOf (s : State) (h : HomeId) (b : Nat) : List LevelRecord :=
  let mine := s.levels.filter fun l => l.home = h && l.buffer = b
  [7, 6, 5, 4, 3, 2, 1].flatMap fun n => mine.filter fun l => l.level = n

/-- The lowest level of a buffer whose record has failed, and the item; a failure of its copy index is one of every level (R445). -/
def State.failedLevel (s : State) (h : HomeId) (b : Nat) : Option (Nat × ErrorItem) :=
  let stack := s.stackOf h b
  if s.struck (.copyIndex h b) && !stack.isEmpty then some (1, .copyIndex h b)
  else ((stack.filter fun l => s.struck (.levelRecord h b l.level)).getLast?).map fun l => (l.level, .levelRecord h b l.level)

/-- A read of the level records or the copy index of a buffer finds that one has failed (R445): every sector of every line whose tag is at or above that
level is poisoned, and those levels go. -/
def State.failLevels (s : State) (h : HomeId) (b : Nat) : State :=
  match s.failedLevel h b, s.entry h b with
  | some (level, item), some e =>
    let s := s.loseStructure item h e 0
    let lines := ((s.copies.filter fun c => c.home = h && c.buffer = b && level ≤ c.label).map (·.line)).eraseDups
    let offs := lines.flatMap fun k => ((List.range 4).map fun i => 256 * k + 64 * i).filter (· < e.length)
    let key (off : Nat) : Option Nat := if h.isDmem then (s.frameOf (e.base + off)).map hbmKey else some (h.space.base + e.base + off)
    let s := offs.foldl (fun s off => match key off with
      | some k => s.markPoison h b off k 69 false
      | none => s) s
    { s with levels := s.levels.filter (fun o => !(o.home = h && o.buffer = b && level ≤ o.level)),
             copies := s.copies.filter (fun c => !(c.home = h && c.buffer = b && level ≤ c.label)),
             armed := s.armed.filter (fun a => match a.item with
               | .levelRecord h' b' n => !(h' = h && b' = b && level ≤ n)
               | _ => true) }.mapEntry h b fun e => { e with depth := level - 1 }
  | _, _ => s

/-- Whether level `k` of a buffer covers a line (R148). -/
def State.covers (s : State) (h : HomeId) (b k line : Nat) : Bool :=
  s.levels.any fun l => l.home = h && l.buffer = b && l.level = k && l.firstLine ≤ line && line ≤ l.lastLine

/-- The tag of a line: the highest level that labels a copy of it, or 0 (R150). -/
def State.tagOf (s : State) (h : HomeId) (b line : Nat) : Nat :=
  (s.copies.filter fun c => c.home = h && c.buffer = b && c.line = line).foldl (fun m c => max m c.label) 0

/-- The level that the copy of a first write would be labelled with (R151): `k` falls while it is above the tag and not covering. -/
def State.copyLevel (s : State) (h : HomeId) (b line t : Nat) : Nat → Nat
  | 0 => 0
  | k + 1 => if k + 1 > t && !s.covers h b (k + 1) line then State.copyLevel s h b line t k else k + 1

/-- The copies labelled with a level (R149). -/
def State.copiesAt (s : State) (h : HomeId) (b k : Nat) : List LineCopy :=
  s.copies.filter fun c => c.home = h && c.buffer = b && c.label = k

/-- The four words of a level record, which stand in no byte of memory (R149, log 87): level, kind, region depth, operation and buffer; the lines
covered; the count of copies and the cursor; the region's owner. -/
def State.levelWords (s : State) (l : LevelRecord) : List Word :=
  [word (l.level + (if l.region then 2 ^ 3 else 0) + l.regionDepth * 2 ^ 4 + l.operation * 2 ^ 8 + l.buffer * 2 ^ 16),
   word (l.firstLine + l.lastLine * 2 ^ 32),
   word ((s.copiesAt l.home l.buffer l.level).length + l.cursor * 2 ^ 32),
   word l.regionOwner]

/-! ### Where bytes are -/

/-- The die whose L2 a claim reaches (R48, R117). -/
def Claim.die (q : Claim) : Nat := q.site.getD (q.principal / 2 ^ 10 % 4)

/-- The asker of a request, for its translation (R172, R180). -/
def Claim.asker (q : Claim) (access : Nat) : Asker :=
  { die := q.die, access := access, principal := q.principal, buffer := q.buffer, generation := q.generation, domain := q.domain, who := q.who }

/-- A request finds its directory entry in the check cache of its slice, or the slice fetches it from the DMEM home, which notes the die
(R120): 512 entries per slice, the oldest goes (log 70). A parity error invalidates the entry, and it is fetched again. -/
def State.fillCheck (s : State) (slice die buffer : Nat) : State :=
  let struck (i : ErrorItem) : Bool := i = .check slice die buffer
  let s := match s.parityAt slice struck with
    | some s => { s with paging := { s.paging with checks := s.paging.checks.erase (slice, die, buffer) } }
    | none => s
  if s.paging.checks.contains (slice, die, buffer) then s
  else ({ s with paging := { s.paging with checks := putBounded 512 (fun o => o.1 = slice) (slice, die, buffer) s.paging.checks } }).mapEntry
    (.die die) buffer fun e => { e with dies := e.dies ||| BitVec.ofNat 4 (2 ^ (slice / 256)) }

/-- The slice that a kind 3 request for an address reaches checks it first (R120, R172): refused or not, the directory entry is in its cache then. -/
def State.sliceCheck (s : State) (q : Claim) (addr : Nat) : State :=
  match q.home with
  | .die d => s.fillCheck (sliceOf q.die addr) d q.buffer
  | _ => s

/-- A translation (R171-R178) whose walk meets a table sector that it cannot correct: the controller that read it marks the sector and records it
(R175, R438). -/
def State.translateAt (s : State) (a : Asker) (addr : Nat) : Option Nat × State :=
  match s.translate a addr, s.walk addr with
  | (none, s), .bad 5 _ _ entryAt _ => (none, s.detectFree (.die 0) (hbmKey entryAt))
  | r, _ => r

/-- The key of the byte at an address of a home: TMEM and CMEM offsets and other devices' addresses are direct; a device virtual
address goes through the check cache and the L2 of a slice (a read that hits needs no translation, R48) or a translation (R172). None: the
request waits. -/
def State.locate (s : State) (q : Claim) (access : Nat) (addr : Nat) : Option Nat × State :=
  match q.home with
  | .die _ =>
    let a := q.asker access
    let reads := access = 0 || access = 3
    let s := s.sliceCheck q addr
    if s.portFull (sliceOf a.die addr) q.who then (none, s) else
    match (if reads then s.l2Line a addr else none) with
    | some l => (some (hbmKey (l.frame + addr % 256)), s)
    | none => match s.translateAt a addr with
      | (some pa, s) => (some (hbmKey pa), if reads then s.l2Fill a addr pa else s.l2Write a addr)
      | (none, s) => (none, s)
  | h => (some (h.space.base + addr), s)

/-- The keys of `n` bytes from an address on, each sector located once; none: a page of them waits. -/
def State.locateSectors (s : State) (q : Claim) (access : Nat) (addr : Nat) : Nat → Option (List Nat) × State
  | 0 => (some [], s)
  | n + 1 =>
    match State.locateSectors s q access addr n with
    | (none, s) => (none, s)
    | (some ks, s) =>
      match ks.getLast? with
      | some k =>
        if (addr + n) % 64 ≠ 0 then (some (ks ++ [k + 1]), s)
        else match s.locate q access (addr + n) with
          | (some k, s) => (some (ks ++ [k]), s)
          | (none, s) => (none, s)
      | none => match s.locate q access (addr + n) with
        | (some k, s) => (some (ks ++ [k]), s)
        | (none, s) => (none, s)

/-- The keys of `n` bytes from an address on: those of a memory whose addresses are physical follow each other; those of DMEM are located sector by
sector. None: a page of them waits. -/
def State.locateN (s : State) (q : Claim) (access : Nat) (addr n : Nat) : Option (List Nat) × State :=
  match q.home with
  | .die _ => s.locateSectors q access addr n
  | h => (some ((List.range n).map fun i => h.space.base + addr + i), s)

/-! ### First-write check, take, accept and reject (R151-R157) -/

/-- Whether a write to a line needs a copy of it first (R151). -/
def State.owesCopy (s : State) (h : HomeId) (b line : Nat) : Bool :=
  let t := s.tagOf h b line
  t < s.copyLevel h b line t (((s.entry h b).map (·.depth)).getD 0)

/-- What the first-write check of a line answers (R151). -/
inductive Granted where
  | yes (s : State)
  | exhausted (s : State)
  | waits (s : State)

/-- The first-write check of a line: save a copy where the depth asks for one (R151). -/
def State.firstWrite (s : State) (q : Claim) (line : Nat) : Granted :=
  let s := s.failLevels q.home q.buffer
  match s.entry q.home q.buffer with
  | none => .yes s
  | some e =>
    let t := s.tagOf q.home q.buffer line
    let k := s.copyLevel q.home q.buffer line t e.depth
    if k ≤ t then .yes s
    else if s.poolFree q.home e.domain = 0 then .exhausted s
    else
      let addr := e.base + 256 * line
      match s.locateN q 0 addr (min 256 (e.length - 256 * line)) with
      | (none, s) => .waits s
      | (some ks, s) =>
        let s := ks.foldl (fun s k => if k % 64 = 0 then s.detect q.home q.buffer (256 * line) k else s) s
        let data := ks.map s.mem.read
        let bad := (List.range 4).map fun i => (ks.drop (64 * i)).head?.any fun k => s.poisoned (k / 64)
        .yes { s with copies := s.copies ++ [⟨q.home, q.buffer, line, k, data, bad⟩] }

/-- Set or clear the mark of a sector as a reject finds it in a copy (R157): the entry's count follows, and no event is recorded again. The bytes
written clean since the copy are undone, so the mask of a mark that stays starts again (R330). -/
def State.restoreMark (s : State) (h : HomeId) (b off key : Nat) (bad : Bool) : State :=
  if bad then
    let others := s.poison.filter fun m => m.sector ≠ key / 64
    if s.poisoned (key / 64) then { s with poison := ⟨key / 64, 0⟩ :: others }
    else ({ s with poison := ⟨key / 64, 0⟩ :: s.poison } : State).mapEntry h b fun e => { e with poison := min 65535 (e.poison + 1) }
  else s.clearPoison h b off key

/-- Restore a line from a copy and its poison bits (R157); false while a page of it must be waited for. The L2s drop the line. -/
def State.restoreLine (s : State) (q : Claim) (c : LineCopy) : Bool × State :=
  match s.entry q.home q.buffer with
  | none => (true, s)
  | some e =>
    match s.locateN q 1 (e.base + 256 * c.line) c.data.length with
    | (none, s) => (false, s)
    | (some ks, s) =>
      let s := { s with mem := s.mem.writeCells (ks.zip c.data) }
      let s := (List.range 4).foldl (fun s i =>
        match (ks.drop (64 * i)).head? with
        | none => s
        | some k => s.restoreMark q.home q.buffer (256 * c.line + 64 * i) k (c.poison.getD i false)) s
      let old (l : L2Line) : Bool := q.home.isDmem && l.buffer = q.buffer && l.domain = e.domain && (e.base + 256 * c.line) / 256 = l.line
      (true, { s with paging := { s.paging with l2 := s.paging.l2.filter fun l => !old l } })

/-- Record the top level of a buffer (R149). -/
def State.addLevel (s : State) (h : HomeId) (b : Nat) (region : Bool) (rdepth first last owner byTile : Nat) (byLevel : Level) : State :=
  match s.entry h b with
  | none => s
  | some e =>
    let l : LevelRecord :=
      { home := h, buffer := b, level := e.depth, region := region, regionDepth := rdepth, firstLine := first,
        lastLine := last, regionOwner := owner, byTile := byTile, byLevel := byLevel, seq := s.levelSeq }
    { s with levels := s.levels ++ [l], levelSeq := s.levelSeq + 1 }

/-- Push a level (R155, R165). -/
def State.pushLevel (s : State) (h : HomeId) (b : Nat) (region : Bool) (rdepth first last owner byTile : Nat) (byLevel : Level) : State :=
  (s.mapEntry h b fun e => { e with depth := e.depth + 1 }).addLevel h b region rdepth first last owner byTile byLevel

/-- Drop the top level record. -/
def State.popLevel (s : State) (h : HomeId) (b d : Nat) : State :=
  ({ s with levels := s.levels.filter fun l => !(l.home = h && l.buffer = b && l.level = d) }).mapEntry h b
    fun e => { e with depth := d - 1 }

/-- The highest level below `d` that covers a line, or 0 (R156). -/
def State.coverBelow (s : State) (h : HomeId) (b line : Nat) : Nat → Nat
  | 0 => 0
  | e + 1 => if s.covers h b (e + 1) line then e + 1 else State.coverBelow s h b line e

/-- Accept the top level (R156): each copy is handed down to the next covering level that has none of the line, or freed. -/
def State.acceptTop (s : State) (h : HomeId) (b : Nat) : State :=
  match s.entry h b with
  | none => s
  | some e =>
    let d := e.depth
    let copies := s.copies.filterMap fun c =>
      if c.home = h && c.buffer = b && c.label = d then
        let k := s.coverBelow h b c.line (d - 1)
        if k > 0 && !(s.copies.any fun o => o.home = h && o.buffer = b && o.line = c.line && o.label = k)
        then some { c with label := k } else none
      else some c
    ({ s with copies := copies }).popLevel h b d

/-- Change the record of a level. -/
def State.mapLevel (s : State) (h : HomeId) (b d : Nat) (f : LevelRecord → LevelRecord) : State :=
  { s with levels := s.levels.map fun l => if l.home = h && l.buffer = b && l.level = d then f l else l }

/-- Restore and free copies in their order, the record's cursor counting them (R157, R159); false at one whose page must be waited for. -/
def State.restoreCopies (s : State) (q : Claim) (d : Nat) : List LineCopy → Bool × State
  | [] => (true, s)
  | c :: cs =>
    match s.restoreLine q c with
    | (false, s) => (false, s)
    | (true, s) =>
      let s := { s with copies := s.copies.filter fun o => o ≠ c }
      State.restoreCopies (s.mapLevel q.home q.buffer d fun l => { l with cursor := l.cursor + 1 }) q d cs

/-- Begin or resume a reject of the top level (R157, R159): its record shows the operation and the copies processed. False while a copy's
page must be waited for. -/
def State.rejectCopies (s : State) (q : Claim) : Bool × State :=
  match s.entry q.home q.buffer with
  | none => (true, s)
  | some e =>
    let s := s.mapLevel q.home q.buffer e.depth fun l => { l with operation := 2 }
    s.restoreCopies q e.depth ((s.copiesAt q.home q.buffer e.depth).insertionSort fun a b => a.line ≤ b.line)

/-- Reject the top level (R157): every copy labelled with it is restored and freed, and its record goes. False while the reject is in
progress. -/
def State.rejectTop (s : State) (q : Claim) : Bool × State :=
  match s.rejectCopies q with
  | (false, s) => (false, s)
  | (true, s) => (true, s.popLevel q.home q.buffer (((s.entry q.home q.buffer).map (·.depth)).getD 0))

/-- Discard every level of a buffer without restoring (R164). -/
def State.discardLevels (s : State) (h : HomeId) (b : Nat) : State :=
  ({ s with levels := s.levels.filter fun l => !(l.home = h && l.buffer = b),
            copies := s.copies.filter fun c => !(c.home = h && c.buffer = b) }).mapEntry h b fun e => { e with depth := 0 }

/-! ### Control requests (R71, R120) -/

/-- The DMEM home drops an entry from the check caches of the dies before it acknowledges a transition (R120). -/
def State.dropChecks (s : State) (h : HomeId) (b : Nat) : State :=
  match h with
  | .die d =>
    let s := { s with paging := { s.paging with checks := s.paging.checks.filter fun c => !(c.2.1 = d && c.2.2 = b) } }
    s.mapEntry h b fun e => { e with dies := 0 }
  | _ => s

/-- What the checks of a control request find (R25, R43, R45, R66): none when it passes; `bad`: the reason in a state that the event is not listed
for (R71). -/
def State.checkControl (s : State) (q : Claim) (states : List DirState) (owned : Bool) (bad : Nat := if owned then 3 else 2) : Option Nat :=
  match s.entry q.home q.buffer with
  | none => some 1
  | some e =>
    if s.gone e || e.state = .free || e.state = .carved then some 1
    else if e.generation ≠ q.generation then some 2
    else if e.domain ≠ q.domain then some 6
    else if s.rangeLeaves q e then some 5
    else if e.state = .exclusive && owned && e.owner ≠ q.principal then some 3
    else if !states.contains e.state then some bad
    else if q.inWindow e then some 7
    else none

/-! ### Applying a write at a home (R66, R119, R151, R330) -/

/-- What a home answers to a request. -/
inductive Answer where
  | done (s : State)
  | refused (reason : Nat) (s : State)
  | exhausted (s : State)
  | waits (s : State)

/-- Lines touched by bytes at buffer offsets. -/
def linesOf (bytes : List (Nat × Byte)) : List Nat := (bytes.map fun p => p.1 / 256).eraseDups

/-- First-write checks of several lines, in order. -/
def State.firstWrites (s : State) (q : Claim) : List Nat → Granted
  | [] => .yes s
  | l :: ls =>
    match s.firstWrite q l with
    | .yes s => State.firstWrites s q ls
    | .exhausted s => .exhausted s
    | .waits s => .waits s

/-- The keys of bytes at addresses, each located. -/
def State.locateBytes (s : State) (q : Claim) (access : Nat) (base : Nat) :
    List (Nat × Byte) → Option (List (Nat × Byte)) × State
  | [] => (some [], s)
  | (off, b) :: rest =>
    match s.locate q access (base + off) with
    | (none, s) => (none, s)
    | (some k, s) =>
      match State.locateBytes s q access base rest with
      | (none, s) => (none, s)
      | (some ks, s) => (some ((k, b) :: ks), s)

/-- A clean byte reaches a sector of a buffer: the sector's mask grows, and a full mask clears the mark with code 66 in a tile's log (R330). When
that tile's log is full the store stays outstanding (R413). -/
def State.cleanByte (s : State) (h : HomeId) (b : Nat) (g : BitVec 16) (log : Nat) (off key : Nat) : Option State :=
  match s.markOf (key / 64) with
  | none => some s
  | some m =>
    let clean := m.clean ||| BitVec.ofNat 64 (2 ^ (key % 64))
    if clean = BitVec.allOnes 64 then
      (s.logRecord log 66 (off / 64 * 64) (b % 2 ^ 24) g).map fun s => s.clearPoison h b off key
    else some { s with poison := s.poison.map fun o => if o.sector = key / 64 then { o with clean := clean } else o }

/-- Clean bytes reach their keys, each with its offset (R330). -/
def State.cleanBytes (s : State) (h : HomeId) (b : Nat) (g : BitVec 16) (log : Nat) (at' : List (Nat × Nat)) : Option State :=
  at'.foldl (fun o p => o.bind fun (s : State) => s.cleanByte h b g log p.1 p.2) (some s)

/-- Apply bytes at a home under a claim: the check of R66, the first-write check, the bytes, the poison marks `bad` (sector
numbers within the buffer) and the clean bytes (offsets). -/
def State.applyStore (s : State) (q : Claim) (base : Nat) (log : Nat)
    (bytes : List (Nat × Byte)) (bad clean : List Nat) (injected : Bool) : Answer :=
  let first := (bytes.map (·.1)).foldl min (2 ^ 48)
  let last := (bytes.map (·.1)).foldl max 0
  if bytes.isEmpty then .done s else
  let s := s.sliceCheck q (base + first)
  match s.checkAccess q base first (last + 1 - first) 1 0 with
  | some r => .refused r (s.refuse q 1 first r)
  | none =>
    match s.firstWrites q (linesOf bytes) with
    | .exhausted s => .exhausted s
    | .waits s => .waits s
    | .yes s =>
      match s.locateBytes q 1 base bytes with
      | (none, s) => .waits s
      | (some cells, s) =>
        let keys := cells.map (·.1)
        let sectors := (keys.map (· / 64)).eraseDups
        let s := sectors.foldl (fun s sec =>
          if (keys.filter fun k => k / 64 = sec).length = 64 then s.disarm (sec * 64)
          else s.detect q.home q.buffer first (sec * 64)) s
        let s := { s with mem := s.mem.writeCells cells }
        let located := (bytes.map (·.1)).zip keys
        let s := located.foldl (fun s p =>
          if bad.contains (p.1 / 64) && !(s.poisoned (p.2 / 64) && (s.markOf (p.2 / 64)).any fun m => m.clean = 0) then
            s.markPoison q.home q.buffer p.1 p.2 70 injected else s) s
        match s.cleanBytes q.home q.buffer q.generation log (located.filter fun p => clean.contains p.1) with
        | some s => .done s
        | none => .waits s

/-- Merge an update line at its home: every valid word combined with the stored word (R82). -/
def State.applyMerge (s : State) (q : Claim) (base : Nat) (u : UpdateLine) : Answer :=
  let n := foldBytes u.op
  let words := (u.words.zipIdx).filterMap fun p => p.1.map fun w => (256 * u.line + n * p.2, w)
  match words with
  | [] => .done s
  | (off, _) :: _ =>
    let last := (words.map (·.1)).foldl max 0
    let s := s.sliceCheck q (base + off)
    match s.checkAccess q base off (last + n - off) 2 u.op with
    | some r => .refused r (s.refuse q 2 off r)
    | none =>
      let step (a : Option State) (p : Nat × Word) : Option State :=
        match a with
        | none => none
        | some s =>
          match s.locateN q 2 (base + p.1) n with
          | (none, _) => none
          | (some ks, s) =>
            let s := s.detect q.home q.buffer p.1 (ks.headD 0)
            let old := word (leNat (ks.map s.mem.read))
            let v := foldWord u.op old p.2
            some { s with mem := s.mem.writeCells (ks.zip (leBytes n v.toNat)) }
      let probe := s.locateN q 2 (base + off) n
      match words.foldl step (some s) with
      | some s => .done s
      | none => .waits probe.2

/-- The split of an exclusive cap at the home (R71, R74), as a posted notice tells it: a refusal leaves only the violation. -/
def State.applyNotice (s : State) (q : Claim) (state : DirState) (op : BitVec 5) : Answer :=
  match s.checkControl q [.exclusive] true with
  | some r => .refused r (s.refuse q 3 0 r)
  | none => .done ((s.dropChecks q.home q.buffer).mapEntry q.home q.buffer fun e =>
      { e with state := state, count := 65536, foldOp := op, owner := q.principal })

/-- The claim under which bytes of a ring's buffer are reached once the ring record admits the cap (R344). -/
def State.ringClaim (s : State) (q : Claim) : Claim :=
  match s.ring q.home.clusterIx q.buffer with
  | some r => { q with generation := r.generation, principal := s.homeEndpoint q.home }
  | none => q

/-- The offset of the first partial value that an update line holds. -/
def UpdateLine.firstByte (u : UpdateLine) : Nat := 256 * u.line + foldBytes u.op * (u.words.takeWhile (·.isNone)).length

/-- The access code and offset of a request, for the violation log (R68). -/
def ReqKind.place : ReqKind → Nat × Nat
  | .load off _ => (0, off)
  | .store bytes _ _ => (1, (bytes.map (·.1)).headD 0)
  | .merge u => (2, u.firstByte)
  | .notice _ _ => (3, 0)

/-- Serve a request whose ring check, if any, has passed (R66): the answer of the home to a claim on a range from `base` on. -/
def State.serveAt (s : State) (r : Request) (q : Claim) (base : Nat) : Answer :=
  match r.kind with
  | .load off n =>
    let s := s.sliceCheck q (base + off)
    match s.checkAccess q base off n 0 0 with
    | some c => .refused c (s.refuse q 0 off c)
    | none => match s.locateN q 0 (base + off) n with
      | (none, s) => .waits s
      | (some ks, s) => .done (ks.foldl (fun s k => if k % 64 = 0 then s.detect r.home r.buffer off k else s) s)
  | .store bytes bad clean => s.applyStore q base r.tile bytes bad clean false
  | .merge u => s.applyMerge q base u
  | .notice state op => s.applyNotice q state op

/-- Serve a posted request (R66, R344): the answer of the home. -/
def State.serve (s : State) (r : Request) : Answer :=
  let q := r.claim
  if s.asleep r.home then .waits s else
  match r.ring with
  | none => s.serveAt r q (((s.entry r.home r.buffer).map (·.base)).getD 0)
  | some c =>
    match s.checkRing r.home c with
    | some reason => .refused reason (s.refuse q r.kind.place.1 r.kind.place.2 reason)
    | none => s.serveAt r (s.ringClaim q) c.base.toNat

/-! ### Transitions of an entry (R71, R73) -/

/-- Buffer numbers of a home: a DMEM home's have its die in bits 1:0 (R46). -/
def numberStep : HomeId → Nat × Nat
  | .die d => (d, 4)
  | .remote _ => (0, 1)
  | .tile _ | .cluster _ => (0, 1)

/-- The lowest unused number of a home among the first `n` candidates (log 12): that of a lost entry is not used again (R445). -/
def State.freshFrom (s : State) (h : HomeId) (start step : Nat) : Nat → Nat → Option Nat
  | 0, _ => none
  | n + 1, i =>
    let b := start + step * i
    if b ≥ 2 ^ 24 then none
    else if s.dirs.any fun e => e.home = h && e.number = b && (e.state ≠ .free || e.retired || e.lost) then State.freshFrom s h start step n (i + 1)
    else some b

/-- A fresh buffer number of a home (R70, R73). -/
def State.freshNumber (s : State) (h : HomeId) : Option Nat :=
  let p := numberStep h
  s.freshFrom h p.1 p.2 (s.dirs.length + 1) 0

/-- Before a DMEM home issues a number, every L2 drops the lines stamped with it (R121). -/
def State.dropStamps (s : State) (h : HomeId) (b : Nat) : State :=
  match h with
  | .die _ => { s with paging := { s.paging with l2 := s.paging.l2.filter fun l => l.buffer ≠ b } }
  | _ => s

/-- The number and generation of a new entry (R70, R71): the generation rises from the stored value; a number whose generation
cannot rise is retired, and a fresh one starts at 0 (R73). -/
def State.issueNumber (s : State) (h : HomeId) : Option (Nat × BitVec 16 × State) :=
  match s.freshNumber h with
  | none => none
  | some b =>
    match s.entry h b with
    | none => some (b, 1, s.dropStamps h b)
    | some e =>
      if e.generation ≠ 0xFFFF then some (b, e.generation + 1, s.dropStamps h b)
      else
        let s := s.mapEntry h b fun e => { e with retired := true }
        (s.freshNumber h).map fun b' => (b', 0, s.dropStamps h b')

/-- The numbers retired for buffers that a test names return to their pool, with generations from the start (R73, log 74), and so do those of entries
that the home lost (R445). -/
def State.returnNumbers (s : State) (p : DirEntry → Bool) : State :=
  { s with dirs := s.dirs.map fun e =>
      let e := if p e then { e with lost := false } else e
      if e.retired && p e then { e with retired := false, generation := 0 } else e }

/-- Whether a generation can rise, or the number must be retired (R73). -/
def nextGeneration (g : BitVec 16) : Option (BitVec 16) := if g = 0xFFFF then none else some (g + 1)

/-- A transition that raises the generation (R71, R73): the entry with the new values, under a fresh number with generation 0 when
the generation would pass 0xFFFF. A home all of whose numbers are in use keeps the number (log 74). Answers the number and generation. -/
def State.bump (s : State) (h : HomeId) (b : Nat) (f : DirEntry → DirEntry) : Nat × BitVec 16 × State :=
  match s.entry h b with
  | none => (b, 0, s)
  | some e =>
    let s := s.dropChecks h b
    match nextGeneration e.generation with
    | some g => (b, g, s.mapEntry h b fun e => { f e with generation := g, dies := 0 })
    | none =>
      match s.freshNumber h with
      | none => (b, 0, s.mapEntry h b fun e => { f e with generation := 0, dies := 0 })
      | some b' =>
        let e' := { f e with number := b', generation := 0, retired := false, dies := 0 }
        let s := s.mapEntry h b fun e => { e with state := .free, retired := true, count := 0, owner := 0, depth := 0 }
        let s : State := { s with
          dirs := s.dirs.filter (fun o => !(o.home = h && o.number = b')) ++ [e']
          levels := s.levels.map fun l => if l.home = h && l.buffer = b then { l with buffer := b' } else l
          copies := s.copies.map fun c => if c.home = h && c.buffer = b then { c with buffer := b' } else c }
        (b', 0, s.dropStamps h b')

/-- A transition that keeps the generation (R71). -/
def State.change (s : State) (h : HomeId) (b : Nat) (f : DirEntry → DirEntry) : State := (s.dropChecks h b).mapEntry h b f

/-- The entry of a buffer becomes Free (R71, R164): its levels go. -/
def State.endEntry (s : State) (h : HomeId) (b : Nat) : State :=
  ((s.discardLevels h b).bump h b fun e =>
    { e with state := .free, count := 0, owner := 0, quota := 0, poison := 0, link := none, depth := 0 }).2.2

/-- The addresses of a buffer, one for each 4 KiB page that it touches. -/
def DirEntry.pages (e : DirEntry) : List Nat :=
  let first := e.base / 4096
  (List.range ((e.base + e.length + 4095) / 4096 - first)).map fun i => (first + i) * 4096

/-- The offset in a buffer of a byte of its home's memory, if the buffer covers it: a frame of a DMEM buffer by the page tables. -/
def State.offsetIn (s : State) (e : DirEntry) (key : Nat) : Option Nat :=
  let inside (a : Nat) : Option Nat := if e.base ≤ a && a < e.base + e.length then some (a - e.base) else none
  match e.home with
  | .remote _ => none
  | .tile _ | .cluster _ => if e.home.space.base ≤ key then inside (key - e.home.space.base) else none
  | .die _ =>
    if key < hbmKey 0 then none
    else
      let pa := key - hbmKey 0
      (e.pages.find? fun va => (s.frameOf va).any fun f => f / 4096 = pa / 4096).bind fun va => inside (va / 4096 * 4096 + pa % 4096)

/-- Sectors that go out of use until Station firmware has tested them (R437). -/
def State.withhold (s : State) (sectors : List Nat) : State :=
  { s with withheld := s.withheld ++ sectors.filter fun k => !s.withheld.contains k }

/-- Free the entry of a buffer: the marks of its sectors are cleared, each with a record, and the sectors withheld (R71, R437, R439). -/
def State.freeEntry (s : State) (h : HomeId) (b : Nat) : State :=
  match s.entry h b with
  | none => s
  | some e =>
    let hit := s.poison.filterMap fun m => (s.offsetIn e (m.sector * 64)).map fun off => (off, m.sector)
    ((hit.foldl (fun s p => s.clearPoison h b p.1 (64 * p.2)) s).withhold (hit.map (·.2))).endEntry h b

/-- The entry kept here of another device's buffer becomes what the home answers (R71, R78, R483): `b` is the number asked about. Level records
and copies above the depth that it tells are gone. -/
def State.takeFields (s : State) (h : HomeId) (b : Nat) (e : DirEntry) : State :=
  let s : State := { s with
    dirs := s.dirs.filter (fun o => !(o.home = h && (o.number = b || o.number = e.number))) ++ [e]
    levels := s.levels.map fun l => if l.home = h && l.buffer = b then { l with buffer := e.number } else l }
  { s with levels := s.levels.filter fun l => !(l.home = h && l.buffer = e.number && e.depth < l.level) }

/-- Free lists of a heap: whether a run of bytes meets an allocated buffer or a withheld unit (R319, R437). -/
def State.runFree (s : State) (h : HomeId) (base len : Nat) : Bool :=
  !(s.dirs.any fun e => e.home = h && e.state ≠ .free && e.base < base + len && base < e.base + (e.length + 255) / 256 * 256)
  && !(s.withheld.any fun w => h.space.base + base ≤ w * 64 && w * 64 < h.space.base + base + len)

/-- First fit of a run of bytes in 256-byte units: candidates are the start of the heap and the ends of buffers (log 12). -/
def State.firstFit (s : State) (h : HomeId) (lo hi len : Nat) : Option Nat :=
  let ends := (s.dirs.filter fun e => e.home = h && e.state ≠ .free).map fun e => e.base + (e.length + 255) / 256 * 256
  let held := s.withheld.filterMap fun w =>
    if h.space.base ≤ w * 64 then some (((w * 64 - h.space.base) / 256 + 1) * 256) else none
  let fits (b : Nat) : Bool := lo ≤ b && b + len ≤ hi && s.runFree h b len
  (((lo :: ends) ++ held).filter fits).foldl (fun m b => match m with
    | none => some b
    | some a => some (min a b)) none

/-- Clear the cells of a range of keys: it reads 0 (R319, R455). -/
def Memory.zero (m : Memory) (a n : Nat) : Memory := m.filter fun c => !(a ≤ c.1 && c.1 < a + n)

/-- Clear a range of keys (R319, R455): the check bits of its sectors are written with it (R450). -/
def State.zeroRange (s : State) (key n : Nat) : State :=
  { s with mem := s.mem.zero key n
           armed := s.armed.filter fun a => match a.item with
             | .sector k => !(key ≤ k * 64 && k * 64 < key + n)
             | _ => true }

/-- Allocate a buffer at a home for an owner (R71, R319): the entry, with every byte 0. None when no run or number is free. -/
def State.alloc (s : State) (h : HomeId) (len owner : Nat) (domain : BitVec 16) (quota : Nat) : Option (DirEntry × State) :=
  let units := (len + 255) / 256 * 256
  let heap := s.heapOf h
  match s.firstFit h heap.1 heap.2 units, s.issueNumber h with
  | some base, some (b, g, s) =>
    let e : DirEntry := { home := h, number := b, base := base, length := len, state := .exclusive, generation := g,
                          domain := domain, owner := owner, quota := quota }
    let key := h.space.base + base
    let s := s.zeroRange key units
    some (e, { s with
      dirs := s.dirs.filter (fun o => !(o.home = h && o.number = b)) ++ [e]
      poison := s.poison.filter fun m => !(key ≤ m.sector * 64 && m.sector * 64 < key + units) })
  | _, _ => none

/-- The exclusive cap of an entry (R319). -/
def State.capOf (s : State) (e : DirEntry) (kind : CapKind) (loc : Nat) (rights : Rights) (format : BitVec 32) : Cap :=
  s.sign { base := BitVec.ofNat 48 e.base, length := BitVec.ofNat 40 e.length, kind := kind, location := BitVec.ofNat 20 loc,
           rights := rights, z := e.poison ≠ 0, mode := .exclusive, buffer := BitVec.ofNat 24 e.number, generation := e.generation,
           weight := 65536, depth := BitVec.ofNat 3 e.depth, format := format, domain := e.domain }

end Sys2Proof.Machine
end

