-- ==== Sys2Proof/Machine/Access.lean ====
section
/-! DEFINITION. What a tile does to reach a buffer: the checks of R64, lent caps, the L1, loads, stores, folds, drains, grants
and remote stores (R56-R67, R82-R83, R106-R115, R125, R133, R141, R152, R327-R330, R338, R371, R484). -/

namespace Sys2Proof.Machine

open Sys2Proof

/-! ### Traps that name a cap register -/

/-- `mcapinfo` of a trap with cause 24 or 25 (R238). -/
def capInfo (r : Nat) (slot reason : Nat) (home : Bool) : Word :=
  word (r % 32 + slot * 2 ^ 5 + reason * 2 ^ 6 + home.toNat * 2 ^ 10)

/-- Trap on a cap register and write `mcapinfo` (R238). -/
def capTrap {α : Type} (r : Nat) (reason : Nat) (home : Bool) (cause : Nat) (value : Word) : Act α := do
  onTile fun t => { t with mcapinfo := capInfo r 0 reason home }
  trap cause value

/-- A tile-side failure of a cap instruction: cause 24 with the reason code (R318). -/
def capFail {α : Type} (r : Reg) (reason : Nat) : Act α := capTrap r.val reason false 24 (word reason)

/-- A home refusal of a cap instruction: cause 24 with the home's reason (R67). -/
def homeFail {α : Type} (r : Reg) (reason : Nat) : Act α := capTrap r.val reason true 24 (word reason)

/-- Go on under a condition, else fail with a reason. -/
def requireCap (b : Bool) (r : Reg) (reason : Nat) : Act Unit := if b then pure () else capFail r reason

/-- The key of the byte at an offset of a cap, where its home keeps it now. -/
def State.keyOf (s : State) (c : Cap) (off : Nat) : Option Nat :=
  match s.homeOf c with
  | none => none
  | some (.die _) => (s.frameOf (c.base.toNat + off)).map hbmKey
  | some h => some (h.space.base + c.base.toNat + off)

/-- Poison is consumed (R443): a rollback inside a region of the current level, else cause 30. In M-mode it is a trap (R442). The
consumption is recorded (R446) with the buffer, if a cap reached it, and whether the key's sector was poisoned by an injection. -/
def consume {α : Type} (value : Word) (c : Cap := Cap.null) (key : Option Nat := none) : Act α := do
  let s ← get
  let injected := key.any fun k => s.injected.contains (k / 64)
  let off := if c.kind = .null then value.toNat else value.toNat / 64 * 64
  let s := { s with tile := { s.tile with tainted := injected } }
  let s := match s.launchOf s.tile with
    | some l =>
      let s := s.postItem l.record.domain 2 1 injected l.number (poisonPayload c.buffer.toNat c.generation 30 off (s.tile.principal s.device))
      s.mapLaunch l.number fun l => l.summarise
        { body := [word (c.buffer.toNat + c.generation.toNat * 2 ^ 24), word off, 30, 0], source := 1, injected := injected,
          endpoint := s.tile.principal s.device, time := s.clock, device := s.device }
    | none => s
  set s
  if s.tile.mode = .u && s.tile.inRegion then throw (.rollback 30) else trap 30 value

/-- A register file location is no register in the banks of another level. -/
def bankOf (t : Tile) (r : Reg) : Level := if r = 28 || r = 29 then t.level else 0

/-- Read a cap register that an instruction names: a parity error rolls back the region, or nulls the register and raises
cause 25 (R63, R443). -/
def useCap (r : Reg) : Act Cap := do
  let s ← get
  let t := s.tile
  match s.armed.find? fun a => a.item = .cap t.index r with
  | none => return t.rc r
  | some a =>
    if !a.uncorrectable then
      set { s with armed := s.armed.filter fun o => o ≠ a }
      return t.rc r
    else if t.mode = .u && t.inRegion then
      onTile fun t => { t with failing := some (.cap t.index r), tainted := a.injected }
      throw (.rollback 25)
    else
      set { s with armed := s.armed.filter fun o => o ≠ a }
      onTile fun t => { t.setC r Cap.null with tainted := a.injected }
      capTrap r.val 0 false 25 (word r.val)

/-- A lent cap stalls the instruction (R65). -/
def lentStall (r : Reg) (c : Cap) : Act Unit := if c.lent then stall (.lent r) else pure ()

/-- An instruction of another level names a buffer under an open region (R162). -/
def otherRegion (c : Cap) : Act Bool := do
  let s ← get
  let t := s.tile
  match s.homeOf c with
  | none => return false
  | some h =>
    let kept := s.levels.any fun l => l.region && l.home = h && l.buffer = c.buffer.toNat && l.byTile = t.index && l.byLevel ≠ t.level
    let pinned := t.l1.any fun l => l.update.isSome && l.buffer = c.buffer.toNat && l.generation = c.generation &&
      l.pin.any fun p => p.1 ≠ t.level
    return kept || pinned

/-- Refuse under R162 an instruction that names such a cap: cause 24 with reason 12. -/
def guardRegions (r : Reg) (c : Cap) : Act Unit := do
  if (← otherRegion c) then capFail r 12 else pure ()

/-! ### The L1 (R109-R113) -/

/-- Set index of a line (R109). -/
def l1Set (buffer line : Nat) : BitVec 6 := BitVec.ofNat 6 line ^^^ BitVec.ofNat 6 buffer

/-- Whether a line carries the tag of a cap (R109, R113). -/
def L1Line.tagged (l : L1Line) (c : Cap) : Bool :=
  l.kind = c.kind && l.location = c.location.toNat && l.buffer = c.buffer.toNat && l.generation = c.generation && l.base = c.base.toNat

/-- The data line of a cap's line index. -/
def Tile.dataLine (t : Tile) (c : Cap) (line : Nat) : Option L1Line :=
  t.l1.find? fun l => l.tagged c && l.line = line && l.update.isNone

/-- Whether own TMEM holds the buffer of a cap: it is reached by the banks, never the L1 (R106, R109). -/
def State.ownTmem (s : State) (c : Cap) : Bool := c.kind = .tmem && s.relocateTile c.domain c.location.toNat = s.tile.index

/-- Offsets of the set bits of a mask. -/
def maskOffsets (m : BitVec 64) : List Nat := (List.range 64).filter fun i => m.getLsbD i

/-- The cap fields by which a line reaches its home; dirty bytes under a slot cap are a producer's (R344). -/
def L1Line.cap (l : L1Line) (domain : BitVec 16) : Cap :=
  { base := BitVec.ofNat 48 l.base, length := 4352, rights := { r := true, w := true, s := true }, kind := l.kind, location := BitVec.ofNat 20 l.location, buffer := BitVec.ofNat 24 l.buffer, generation := l.generation, domain := domain }

/-- Dirty bytes of a sector that are in no write-back on its way (R110). -/
def Sector.unsent (sec : Sector) : BitVec 64 := sec.dirty &&& ~~~ sec.sent

/-- The write-back of a dirty sector (R110): dirty bytes with their offsets, the sector when it received poison, the clean ones. -/
def L1Line.writeBack (l : L1Line) (i : Nat) (sec : Sector) : ReqKind :=
  let off := 256 * l.line + 64 * i
  let bytes := (maskOffsets sec.unsent).map fun o => (off + o, sec.data.getD o 0)
  .store bytes (if sec.bad then [off / 64] else []) ((maskOffsets (if sec.bad then sec.clean &&& sec.unsent else sec.unsent)).map (off + ·))

/-- A sector whose write-back has been sent: its dirty bytes stay until the home acknowledges (R110). -/
def Sector.posted (sec : Sector) : Sector := { sec with sent := sec.dirty, bad := false, clean := 0 }

/-- The home has acknowledged a write-back of some bytes of a sector (R110): those not stored again are clean. A sector without dirty bytes
stays Valid, or becomes Invalid if it was Partial; so does a poisoned one, whose mark the home may have cleared (R330). -/
def Sector.acked (sec : Sector) (m : BitVec 64) : Sector :=
  let back := m &&& sec.sent
  if back = 0 then sec
  else
    let left := sec.dirty &&& ~~~ back
    if left ≠ 0 then { sec with dirty := left, sent := sec.sent &&& ~~~ back }
    else match sec.state with
      | .valid => if sec.poison then {} else { sec with dirty := 0, sent := 0, clean := 0, bad := false }
      | _ => {}

/-- The mask of the bytes of a sector number among bytes at buffer offsets. -/
def sectorMask (bytes : List (Nat × Byte)) (k : Nat) : BitVec 64 :=
  bytes.foldl (fun m p => if p.1 / 64 = k then m ||| BitVec.ofNat 64 (2 ^ (p.1 % 64)) else m) 0

/-- A data line after the acknowledgement of bytes at buffer offsets (R110). -/
def L1Line.acked (l : L1Line) (bytes : List (Nat × Byte)) : L1Line :=
  { l with sectors := (l.sectors.zipIdx).map fun p => p.1.acked (sectorMask bytes (4 * l.line + p.2)) }

/-- What a line sends to its home when it goes (R112): its dirty bytes or its partial values. -/
def L1Line.traffic (l : L1Line) : List ReqKind :=
  match l.update with
  | some u => if u.words.any (·.isSome) then [.merge u] else []
  | none => (l.sectors.zipIdx.filter fun p => p.1.unsent ≠ 0).map fun p => l.writeBack p.2 p.1

/-- Post requests of the current tile to a home (R72, R422). -/
def State.post (s : State) (h : HomeId) (c : Cap) : List ReqKind → State
  | [] => s
  | k :: ks =>
    let t := s.tile
    let r : Request := { serial := t.serial, tile := t.index, principal := t.principal s.device, home := h, buffer := c.buffer.toNat,
                         generation := c.generation, domain := c.domain, kind := k,
                         ring := if c.kind = .slot then some c else none }
    State.post { s with requests := s.requests ++ [r], tile := { t with serial := t.serial + 1 }.countPacket 5 true } h c ks

/-- Set the refusal bits of store numbers in a tag's summary (R338, R484). -/
def Tile.refuseBatch (t : Tile) (tag : Nat) (numbers : List Nat) : Tile :=
  { t with batches := t.batches.set! tag (
      let b := t.batches.get (Fin.ofNat 4 tag)
      { b with summary := numbers.foldl (fun (m : BitVec 64) n => m ||| BitVec.ofNat 64 (2 ^ (n % 64))) b.summary }) }

/-- Another device refused a remote store or fold, or could not take it (R133, R484): the bits of its numbers, and the sector of a store is
Invalid in the L1. A refused notice leaves nothing at the tile (R74). -/
def Tile.refuseRemote (t : Tile) (m : Remote) : Tile :=
  if m.control ≠ [] then t else
  let t := m.also.foldl (fun t p => t.refuseBatch p.1 [p.2]) (t.refuseBatch m.tag m.numbers)
  let hit (l : L1Line) : Bool := l.update.isNone && l.kind = .remote && l.location = m.device && l.buffer = m.buffer && l.generation = m.generation &&
    l.line = m.sector / 4 && m.fold.isNone
  { t with l1 := t.l1.map fun l => if hit l then { l with sectors := l.sectors.set (m.sector % 4) {} } else l }

/-- A home has acknowledged a posted request of a tile of this device (R110). -/
def State.acked (s : State) (r : Request) : State :=
  match r.kind, r.remote with
  | .store bytes _ _, none =>
    let mine (l : L1Line) : Bool := l.update.isNone && l.buffer = r.buffer && l.generation = r.generation && (match r.ring with
      | some c => l.kind = .slot && l.base = c.base.toNat
      | none => l.kind ≠ .slot && s.homeOf (l.cap r.domain) = some r.home)
    s.mapTile r.tile fun t => { t with l1 := t.l1.map fun l => if mine l then l.acked bytes else l }
  | _, _ => s

/-- The first byte that a remote store or fold carries, as an offset in its buffer (R182). -/
def Remote.firstByte (m : Remote) : Nat := match m.fold with
  | some u => u.firstByte
  | none => (m.bytes.map (·.1)).foldl min (64 * m.sector + 63)

/-- The payload of a WRREQ or FOLDREQ (R483): the mask of store numbers modulo 64, the mask of bytes or of valid words, and the sector's
bytes or the line's partial values. -/
def Remote.words (m : Remote) : List Word :=
  let numbers := m.numbers.foldl (fun (w : Word) n => w ||| word (2 ^ (n % 64))) 0
  match m.fold with
  | some u =>
    let valid := (u.words.zipIdx).foldl (fun (w : Word) v => if v.1.isSome then w ||| word (2 ^ (v.2 % 64)) else w) 0
    numbers :: valid :: u.words.map fun v => v.getD 0
  | none =>
    let mask := m.bytes.foldl (fun (w : Word) b => w ||| word (2 ^ (b.1 % 64))) 0
    let sector := m.bytes.foldl (fun (d : List Byte) b => d.set (b.1 % 64) b.2.2) (List.replicate 64 0)
    numbers :: mask :: (List.range 8).map fun i => word (leNat ((sector.drop (8 * i)).take 8))

/-- Send the packet of a remote store, a fold or a notice (R483). -/
def State.sendRemote (s : State) (m : Remote) : State :=
  if m.control ≠ [] then
    let p := s.request 4 m.device m.buffer 0 32 32 m.serial 0 m.generation m.domain
    s.sendPacket m.device { p with words := m.control.map word }
  else
    let p := s.request (if m.fold.isSome then 3 else 2) m.device m.buffer (64 * m.sector) 80 80 m.serial m.tag m.generation m.domain
    s.sendPacket m.device { p with words := m.words, opfield := (m.fold.map fun u => u.op.setWidth 9).getD (if m.bad then 1 else 0) }

/-- Issue a remote store or fold of the current tile (R484): a device off the roster (R460), absent or unreachable (R475, R485)
refuses it at once, else its packet goes and it awaits the peer's answer. -/
def State.issueRemote (s : State) (m : Remote) : State :=
  let t := s.tile
  if s.offRoster m.domain m.device then
    let s := s.rosterItem m.domain m.principal m.buffer m.generation (64 * m.sector)
    { s with tile := s.tile.refuseRemote m }
  else if s.peerDown m.device then { s with tile := t.refuseRemote m }
  else
    let s := { s with tile := { t with remotes := t.remotes ++ [m], serial := t.serial + 1 }.countPacket 5 true }
    s.sendRemote m

/-- The L1 reads the sectors of a line that hold bytes not yet written back (R435, R450): one that an error has struck is poisoned, and its
write-back carries the poison. -/
def State.strikeLine (s : State) (l : L1Line) : L1Line × State :=
  if l.update.isSome then (l, s)
  else
    let hit (i : Nat) (sec : Sector) (a : ArmedError) : Bool :=
      sec.unsent ≠ 0 && a.item = .l1Sector s.tile.index (l.buffer * 2 ^ 48 + 4 * l.line + i)
    let any (a : ArmedError) : Bool := l.sectors.zipIdx.any fun p => hit p.2 p.1 a
    let strike (p : Sector × Nat) : Sector :=
      if s.armed.any fun a => a.uncorrectable && hit p.2 p.1 a then { p.1 with poison := true, bad := true, clean := 0 } else p.1
    let corrected := (s.armed.filter fun a => !a.uncorrectable && any a).length
    ({ l with sectors := l.sectors.zipIdx.map strike },
     { s with armed := s.armed.filter fun a => !any a, tile := { s.tile with corrected := min (2 ^ 32 - 1) (s.tile.corrected + corrected) } })

/-- Post the traffic of a line; under a kind 4 cap its partial values go as one remote fold (R484). -/
def State.postLine (s : State) (l : L1Line) : State :=
  let (l, s) := s.strikeLine l
  let c := l.cap s.tile.mdomain
  match s.homeOf c with
  | none => s
  | some h =>
    match l.kind, l.update with
    | .remote, some u =>
      let t := s.tile
      let tag := (u.numbers.head?.map (·.1.toNat)).getD 0
      let own := u.numbers.partition fun p => p.1.toNat = tag
      let r : Remote := { tag := tag, numbers := own.1.map (·.2), serial := t.serial,
                          device := l.location, buffer := l.buffer, generation := l.generation, domain := u.domain,
                          principal := u.principal, sector := 4 * l.line, bytes := [], fold := some u,
                          also := own.2.map fun p => (p.1.toNat, p.2) }
      s.issueRemote r
    | .remote, none => s
    | _, _ => s.post h c l.traffic

/-! ### Waits on translations and refused write-backs -/

/-- Whether a Deny answer came for the page that the current tile's instruction waits on (R182). -/
def takeDeny : Act Bool := do return (← curTile).wait.any (·.denied)

/-- Wait on a translation; a Deny answer raises cause 48 at once (R182). -/
def holdOn {α : Type} (off : Nat) (drain : Bool) : Act α := do
  if (← takeDeny) then trap 48 (word off) else stall (if drain then .drain off else .translation off)

/-- Wait on the page of a copy that a store needs; a Deny answer refuses the store as if the pool were empty (R152, R184). -/
def holdCopy {α : Type} (off : Nat) : Act α := do
  if (← takeDeny) then trap 29 (word off) else stall (.copy off)

/-- The address of an update line of a DMEM buffer. -/
def State.lineAddress (s : State) (u : UpdateLine) : Option Nat :=
  match u.home with
  | .die _ => (s.entry u.home u.buffer).map fun e => e.base + 256 * u.line
  | _ => none

/-- Whether the page of an address is migrating (R187). -/
def State.migrating (s : State) (va : Nat) : Bool := match s.walk va with
  | .hold _ _ _ _ => true
  | _ => false

/-- The slice answers "held" (R188): the line is back in the tile's L1, pinned for replacement; another line of its set goes if the set is
full and one can, for the L1 had kept this one. -/
def State.holdMerge (s : State) (r : Request) (u : UpdateLine) : State :=
  match s.tileAt r.tile, s.entry r.home r.buffer with
  | some _, some e =>
    let back := s.tile.index
    let l : L1Line := { kind := .dmem, location := s.device, buffer := r.buffer, generation := r.generation, base := e.base, line := u.line,
                        update := some u, heldMerge := true }
    let at' : State := { s with requests := s.requests.filter fun o => o ≠ r }.switchTo r.tile
    let mates : List L1Line := at'.tile.l1.filter fun o => l1Set o.buffer o.line = l1Set r.buffer u.line
    let keep (s : State) : State := { s with tile := { s.tile with l1 := s.tile.l1 ++ [l] } }.switchTo back
    if mates.length < 4 then keep at'
    else match (mates.filter fun o => o.pin.isNone && !o.heldMerge).getLast? with
      | some v => keep ({ at' with tile := { at'.tile with l1 := at'.tile.l1.filter fun o => o ≠ v } }.postLine v)
      | none => keep at'
  | _, _ => s

/-- The answer "held" to a request, if it is a merge of a tile of this device that passes the slice's check and reaches a migrating page (R172, R188). -/
def State.mergeHeld (s : State) (r : Request) : Option State :=
  match r.kind with
  | .merge u =>
    let base := ((s.entry r.home r.buffer).map (·.base)).getD 0
    if r.remote.isNone && !s.asleep r.home && (s.lineAddress u).any s.migrating &&
        (s.checkAccess r.claim base u.firstByte (foldBytes u.op) 2 u.op).isNone then some (s.holdMerge r u) else none
  | _ => none

/-- The result of serving a posted request of a tile: a refusal is recorded with code 65 (R67); false: it stays outstanding
(R182, R188, R413). -/
def State.complete (s : State) (r : Request) : Bool × State :=
  let off := r.kind.place.2
  let gone (s : State) : State := { s with requests := s.requests.filter fun o => o ≠ r }.acked r
  let record (s : State) : Bool × State :=
    match s.logRecord r.tile 65 off r.buffer r.generation with
    | some s => (true, gone s)
    | none => (false, s)
  match s.mergeHeld r with
  | some s => (false, s)
  | none =>
    match s.serve r with
    | .done s => (true, gone s)
    | .waits s => (false, s)
    | .refused _ s => match r.kind with
      | .notice _ _ => (true, gone s)
      | _ => record s
    | .exhausted s => record s

/-- Serve posted requests in order until one stays outstanding (R72). -/
def State.flush (s : State) : List Request → Bool × State
  | [] => (true, s)
  | r :: rs =>
    match s.complete r with
    | (true, s) => State.flush s rs
    | (false, s) => (false, s)

/-- Send a notice to another device's home, outstanding until it is answered (R72, R483). -/
def State.notify (s : State) (c : Cap) (op : Nat) (args : List Nat) : State :=
  s.issueRemote { tag := 0, numbers := [], serial := s.tile.serial, device := c.location.toNat, buffer := c.buffer.toNat,
                  generation := c.generation, domain := c.domain, principal := s.tile.principal s.device, sector := 0, bytes := [],
                  control := op :: args }

/-- A reply reaches its tile (R67, R110, R115, R484): the answer of a request of a stalled instruction or of a job, the acknowledgement of a remote
store, whose refusal sets the bits of its numbers, or that of a write-back or merge, whose refusal is recorded with code 65. False
while no fault log entry is free for the record (R412). -/
def State.takeReply (s : State) (p : Reply) : Bool × State :=
  let gone : State := { s with replies := s.replies.erase p }
  match (s.tileAt p.tile).map fun t => t.countPacket 6 false with
  | none => (true, gone)
  | some t =>
    let gone := gone.putTile t
    if p.peer then
      let answer (a : Ask) : Ask := match p.kind with
        | .done => { a with done := true }
        | .refused reason _ => { a with done := true, reason := some reason }
        | .data ws bad => { a with done := true, words := ws, bad := bad }
      if t.asks.any fun a => a.serial % 2 ^ 24 = p.serial then
        (true, gone.putTile { t with asks := t.asks.map fun a => if a.serial % 2 ^ 24 = p.serial then answer a else a })
      else if t.jobs.any fun j => j.asks.any fun a => a.serial % 2 ^ 24 = p.serial then
        (true, gone.putTile { t with jobs := t.jobs.map fun j =>
          { j with asks := j.asks.map fun a => if a.serial % 2 ^ 24 = p.serial then answer a else a } })
      else match t.remotes.find? fun m => m.serial % 2 ^ 24 = p.serial, p.kind with
        | some m, .refused _ _ => (true, gone.putTile ({ t with remotes := t.remotes.erase m }.refuseRemote m))
        | some m, _ => (true, gone.putTile { t with remotes := t.remotes.erase m })
        | none, _ => (true, gone)
    else match p.kind with
      | .refused _ off => match gone.logRecord p.tile 65 off p.buffer p.generation with
        | some s => (true, s)
        | none => (false, s)
      | _ => (true, gone)

/-- Serve a tile's requests in order, after the replies of its homes that are on their way. -/
def State.settle (s : State) (mine : List Request) : Bool × State :=
  let q := (s.replies.filter fun p => p.tile = s.tile.index && !p.peer).foldl
    (fun (q : Bool × State) p => if q.1 then q.2.takeReply p else q) (true, s)
  if q.1 then q.2.flush mine else q

/-- The first of some requests that still waits, one of a buffer before the others: the offset that a trap names (R182). -/
def State.blockedAt (s : State) (mine : List Request) (buffer : Option Nat) : Nat :=
  let left := mine.filter s.requests.contains
  let own := left.filter fun r => some r.buffer = buffer
  (((own ++ left).head?).map fun r => r.kind.place.2).getD 0

/-- A home processes the tile's earlier requests first (R72): those still held make the instruction wait. `off`: the offset that a trap names,
else that of the first byte still waiting; a Deny for what a drain waits on raises cause 48 at once (R182). -/
def orderHome (h : HomeId) (buffer : Nat) (off : Option Nat) (drain : Bool) : Act Unit := do
  let s ← get
  if s.asleep h then stall .inject
  let mine := s.requests.filter fun r => r.tile = s.tile.index && r.home = h
  if !mine.isEmpty || (s.tile.wait.any fun w => match w.kind with
      | .drain _ => true
      | _ => false) then
    let waited := match s.tile.wait with
      | some w => (match w.kind with
        | .drain o | .translation o => o
        | _ => 0)
      | none => 0
    if drain && (← takeDeny) then trap 48 (word (off.getD waited))
  let s ← get
  match s.settle mine with
  | (true, s) => set s
  | (false, s) => do
    set s
    if s.tile.freeEntry.isNone then stall .faultLog else holdOn (off.getD (s.blockedAt mine (some buffer))) drain

/-- Requests of the tile to a home about any buffer, in order (R72). -/
def orderAll (h : HomeId) (buffer : Nat) : Act Unit := orderHome h buffer none true

/-! ### Lines of the L1 -/

/-- Allocate a line: the least recently used way that is not pinned goes when the set holds four (R112). False: all are pinned. -/
def allocLine (l : L1Line) : Act Bool := do
  let s ← get
  let t := s.tile
  let inSet (o : L1Line) : Bool := l1Set o.buffer o.line = l1Set l.buffer l.line
  let mates := t.l1.filter inSet
  if mates.length < 4 then
    onTile fun t => { t with l1 := l :: t.l1 }
    return true
  else
    match (mates.filter fun o => o.pin.isNone && !o.heldMerge).getLast? with
    | none => return false
    | some victim =>
      let s := { s with tile := { t with l1 := t.l1.filter fun o => o ≠ victim } }
      set (s.postLine victim)
      onTile fun t => { t with l1 := l :: t.l1 }
      return true

/-- Replace a line and make it the most recently used (R109). -/
def Tile.putLine (t : Tile) (old new : L1Line) : Tile := { t with l1 := new :: t.l1.filter fun o => o ≠ old }

/-- An empty line of a cap. -/
def emptyLine (c : Cap) (line : Nat) : L1Line :=
  { kind := c.kind, location := c.location.toNat, buffer := c.buffer.toNat, generation := c.generation,
    base := c.base.toNat, line := line }

/-- The item key of an L1 sector (R449 target 8). -/
def l1Key (c : Cap) (sec : Nat) : Nat := c.buffer.toNat * 2 ^ 48 + sec

/-- Refusal of an access: cause 24 with the offset, reason in `mcapinfo` (R67). -/
def accessFail {α : Type} (r : Reg) (reason : Nat) (off : Nat) : Act α := capTrap r.val reason true 24 (word off)

/-- The home check of an access by this tile: rings by R344, other homes by R66. -/
def homeCheck (r : Reg) (c : Cap) (h : HomeId) (off n access : Nat) : Act Unit := do
  let s ← get
  if s.asleep h then stall .inject
  match c.kind with
  | .handle | .slot =>
    match s.checkRing h c with
    | none => pure ()
    | some reason =>
      set (s.refuse (s.claim h c s.tile) access off reason)
      accessFail r reason off
  | _ =>
    let q := s.claim h c s.tile
    set (s.sliceCheck q (c.base.toNat + off))
    let s ← get
    match s.checkAccess q c.base.toNat off n access c.foldOp with
    | none => pure ()
    | some reason =>
      set (s.refuse q access off reason)
      accessFail r reason off

/-- Sectors of the tile's outstanding remote stores under a buffer (R133). -/
def Tile.remoteBusy (t : Tile) (c : Cap) (sec : Nat) : Bool :=
  t.remotes.any fun m => m.device = c.location.toNat && m.buffer = c.buffer.toNat && m.generation = c.generation &&
    (m.sector = sec || m.fold.isSome)

/-- A request of the current tile to another device whose answer is awaited (R483, R484). -/
def State.sendAsk (s : State) (c : Cap) (op key : Nat) (words : List Nat) (held : Bool) : State :=
  let a : Ask := { serial := s.tile.serial, device := c.location.toNat, op := op, buffer := c.buffer.toNat, generation := c.generation,
                   key := key, held := held, args := words.map word }
  let p := s.request op a.device a.buffer (if op = 1 then key else 0) (if op = 1 then 64 else 32) (if op = 1 then 0 else 32) a.serial 0
    c.generation c.domain
  { s with tile := { s.tile with serial := s.tile.serial + 1, asks := s.tile.asks ++ [a] }.countPacket 5 true }.sendPacket a.device
    { p with words := a.args }

/-- Ask another device and wait for its answer (R483-R485), a refusal among them: a device off the roster refuses with reason 8 (R460); one
that is absent or unreachable never answers, and the instruction stalls (R182). `key`: the sector's offset, or the operation; `off`: what a
trap names; `held`: asked for an item of the release path. -/
def askAnswer (r : Reg) (c : Cap) (op key off : Nat) (words : List Nat) (wait : WaitKind) (held : Bool := false) : Act Ask := do
  let s ← get
  let d := c.location.toNat
  let pause : Act Ask := match wait with
    | .drain o => holdOn o true
    | .translation o => holdOn o false
    | k => stall k
  match s.tile.asks.find? fun a => a.device = d && a.op = op && a.buffer = c.buffer.toNat && a.generation = c.generation && a.key = key &&
      a.held = held with
  | some a => if a.done then return a else pause
  | none =>
    if s.offRoster c.domain d then
      set (s.rosterItem c.domain (s.tile.principal s.device) c.buffer.toNat c.generation off)
      capTrap r.val 8 true 24 (word (if op = 1 then off else 8))
    else if s.peerDown d then pause
    else
      set (s.sendAsk c op key words held)
      pause

/-- Ask another device: a refusal raises cause 24 with the offset of a read, or with the reason (R67). -/
def askPeer (r : Reg) (c : Cap) (op key off : Nat) (words : List Nat) (wait : WaitKind) : Act Ask := do
  let a ← askAnswer r c op key off words wait
  match a.reason with
  | some reason => capTrap r.val reason true 24 (word (if op = 1 then off else reason))
  | none => return a

/-- Read a sector from its home (R110): the bytes and the poison mark. -/
def fetchSector (r : Reg) (c : Cap) (h : HomeId) (sec off n : Nat) : Act (List Byte × Bool) := do
  let s ← get
  if s.tile.remoteBusy c sec then stall (.drain off)
  if c.kind = .remote then
    let a : Ask ← askPeer r c 1 (64 * sec) off [] (.reply off)
    let s ← get
    onTile fun t => (if a.bad then t.setZ s.device c.kind c.location.toNat c.buffer.toNat c.generation else t).count 3 1
    return (((a.words.flatMap fun (w : Word) => leBytes 8 w.toNat) ++ List.replicate 64 0).take 64, a.bad)
  orderHome h c.buffer.toNat (some off) false
  homeCheck r c h off n 0
  let s ← get
  let q := s.claim h c s.tile
  let len := min 64 (c.length.toNat - 64 * sec)
  match s.locateN q 0 (c.base.toNat + 64 * sec) len with
  | (none, s) => do
    set s
    holdOn off false
  | (some ks, s) =>
    let s := s.detect h c.buffer.toNat (64 * sec) (ks.headD 0)
    let bad := ks.any fun k => s.poisoned (k / 64)
    let s := if bad then { s with tile := s.tile.setZ s.device c.kind c.location.toNat c.buffer.toNat c.generation } else s
    set { s with tile := s.tile.count 3 1 }
    return ((ks.map s.mem.read) ++ List.replicate (64 - len) 0, bad)

/-- Bytes of a filled sector with the dirty bytes kept over them (R110). -/
def overlay (sec : Sector) (fresh : List Byte) : List Byte :=
  fresh.zipIdx.map fun p => if sec.dirty.getLsbD p.2 then sec.data.getD p.2 0 else p.1

/-- The L1's own error check of a sector that it reads (R435, R450): a clean sector becomes Invalid, a dirty one poisoned. -/
def detectL1 (c : Cap) (sec : Nat) : Act Unit := do
  let s ← get
  let item := ErrorItem.l1Sector s.tile.index (l1Key c sec)
  match s.armed.find? fun a => a.item = item, s.tile.dataLine c (sec / 4) with
  | some a, some l =>
    let s := { s with armed := s.armed.filter fun o => o ≠ a }
    if !a.uncorrectable then set { s with tile := { s.tile with corrected := min (2 ^ 32 - 1) (s.tile.corrected + 1) } }
    else
      let old := l.sectors.getD (sec % 4) {}
      let new : Sector := if old.dirty = 0 then {} else { old with poison := true, bad := true, clean := 0 }
      set { s with tile := s.tile.putLine l { l with sectors := l.sectors.set (sec % 4) new } }
  | _, _ => pure ()

/-- Move the dirty bytes and partial values of some lines to requests at their home (R83). A line pinned by an open region
stays (R371), and so does one that a migrating page holds (R188). -/
def State.pushWhere (s : State) (p : L1Line → Bool) : State :=
  let goes (l : L1Line) : Bool := p l && l.pin.isNone && !l.heldMerge
  let before := s
  let mine := s.tile.l1.filter goes
  let s := mine.reverse.foldl (fun s l => s.postLine l) s
  let clean (l : L1Line) : Option L1Line :=
    if goes l then
      (match l.update with
       | some _ => none
       | none => some { l with sectors := (before.strikeLine l).1.sectors.map Sector.posted })
    else some l
  { s with tile := { s.tile with l1 := s.tile.l1.filterMap clean } }

/-- Write the line of a sector back, read the sector again and keep it: what the home has marked then counts, however the stores reached it
(R330). -/
def rereadSector (r : Reg) (c : Cap) (h : HomeId) (sec off n : Nat) : Act (List Byte × Bool) := do
  modify fun s => s.pushWhere fun l => l.tagged c && l.line = sec / 4 && l.update.isNone
  let (fresh, bad) ← fetchSector r c h sec off n
  onTile fun t => match t.dataLine c (sec / 4) with
    | some l => t.putLine l { l with sectors := l.sectors.set (sec % 4) { state := .valid, data := fresh, poison := bad } }
    | none => t
  return (fresh, bad)

/-- Fill a sector of a line that the L1 holds (R110): the dirty bytes stay over the filled ones. -/
def fillSector (r : Reg) (c : Cap) (h : HomeId) (sec off n : Nat) : Act (List Byte × Bool) := do
  let (fresh, bad) ← fetchSector r c h sec off n
  match (← curTile).dataLine c (sec / 4) with
  | none => return (fresh, bad)
  | some l =>
    let old := l.sectors.getD (sec % 4) {}
    if (bad || old.bad) && old.dirty ≠ 0 then rereadSector r c h sec off n
    else
      let new : Sector := { old with state := .valid, data := overlay old fresh, poison := bad || old.bad }
      onTile fun t => t.putLine l { l with sectors := l.sectors.set (sec % 4) new }
      return (new.data, new.poison)

/-- The 64 bytes of a sector as the tile sees them, with its poison bit: a hit, a fill, or a bypass when every way is pinned
(R109, R110, R112). A poisoned sector that holds dirty bytes is written back first, for clean ones may clear the mark (R330). A load
under a kind 4 cap waits for the tile's own stores to the sector (R133). The victim of a new line goes before the line is filled (R112). -/
def viewSector (r : Reg) (c : Cap) (h : HomeId) (sec off n : Nat) : Act (List Byte × Bool) := do
  if c.kind = .remote && (← curTile).remoteBusy c sec then stall (.drain off)
  detectL1 c sec
  let t ← curTile
  match t.dataLine c (sec / 4) with
  | some l =>
    let old := l.sectors.getD (sec % 4) {}
    match old.state with
    | .valid =>
      onTile fun t => t.putLine l l
      if old.poison && old.dirty ≠ 0 then rereadSector r c h sec off n else return (old.data, old.poison)
    | _ => fillSector r c h sec off n
  | none =>
    let _ ← allocLine (emptyLine c (sec / 4))
    fillSector r c h sec off n

/-- Sectors of the `n` bytes at an offset. -/
def sectorsOf (off n : Nat) : List Nat := (List.range ((off + n - 1) / 64 + 1 - off / 64)).map (off / 64 + ·)

/-- Read `n` bytes at an offset under a cap whose tile-side checks have passed (R106, R110): each byte with its poison mark. -/
def loadBytes (r : Reg) (c : Cap) (off n : Nat) : Act (List (Byte × Bool)) := do
  let s ← get
  match s.homeOf c with
  | none => capTrap r.val 0 false 24 (word off)
  | some h =>
    if s.ownTmem c then
      orderHome h c.buffer.toNat (some off) false
      homeCheck r c h off n 0
      let s ← get
      let key := h.space.base + c.base.toNat + off
      let s := (sectorsOf key n).foldl (fun s k => s.detect h c.buffer.toNat off (64 * k)) s
      let out := (List.range n).map fun i => (s.mem.read (key + i), s.poisoned ((key + i) / 64))
      set (if out.any (·.2) then { s with tile := s.tile.setZ s.device c.kind c.location.toNat c.buffer.toNat c.generation } else s)
      return out
    else
      let rec views : List Nat → Act (List (Nat × List Byte × Bool))
        | [] => pure []
        | k :: ks => do
          let lo := max off (64 * k)
          let hi := min (off + n) (64 * k + 64)
          let v ← viewSector r c h k lo (hi - lo)
          let vs ← views ks
          return (k, v) :: vs
      let vs ← views (sectorsOf off n)
      return (List.range n).map fun i =>
        match vs.find? fun v => v.1 = (off + i) / 64 with
        | some v => (v.2.1.getD ((off + i) % 64) 0, v.2.2)
        | none => (0, false)

/-! ### Grants (R152) -/

/-- Whether the tile holds a grant for a line. -/
def Tile.granted (t : Tile) (h : HomeId) (c : Cap) (line : Nat) : Bool :=
  t.grants.any fun g => g.home = h && g.buffer = c.buffer.toNat && g.generation = c.generation && g.line = line

/-- Obtain a grant for a line under a cap with depth above 0: its own TMEM home runs the check before the write, any other home
answers a grant request and the table of 16 keeps it (R152); another device's home answers a CTRL request, and its reason 12 says that the
pool has no unit (log 75). `off`: the first byte of the
instruction, which cause 29 names. -/
def grantLine (r : Reg) (c : Cap) (h : HomeId) (off line : Nat) : Act Unit := do
  let s ← get
  let keep (t : Tile) : Tile := { t with grants := ((⟨h, c.buffer.toNat, c.generation, line⟩ : Grant) :: t.grants).take 16 }
  if s.tile.granted h c line then
    onTile fun t => { t with grants :=
      (t.grants.filter fun g => g.home = h && g.buffer = c.buffer.toNat && g.line = line) ++
      (t.grants.filter fun g => !(g.home = h && g.buffer = c.buffer.toNat && g.line = line)) }
  else if c.kind = .remote then
    let a ← askAnswer r c 4 (32 + line * 256) off [21, line] (.copy off)
    match a.reason with
    | none => onTile keep
    | some reason => if reason = 12 then trap 29 (word off) else accessFail r reason off
  else
    orderHome h c.buffer.toNat (some off) true
    homeCheck r c h (256 * line) (min 256 (c.length.toNat - 256 * line)) 1
    let s ← get
    match s.firstWrite (s.claim h c s.tile) line with
    | .yes s => set { s with tile := if s.ownTmem c then s.tile else keep s.tile }
    | .exhausted s => do
      set s
      trap 29 (word off)
    | .waits s => do
      set s
      holdCopy off

/-- Obtain every grant that the bytes of an instruction need, before any byte is written (R152). -/
def grantLines (r : Reg) (c : Cap) (off : Nat) (lines : List Nat) : Act Unit := do
  let s ← get
  match s.homeOf c with
  | none => pure ()
  | some h =>
    if c.depth = 0 then pure () else
    let rec go : List Nat → Act Unit
      | [] => pure ()
      | l :: ls => do
        grantLine r c h off l
        go ls
    go lines

/-! ### Stores (R110, R327, R330, R484) -/

/-- Write bytes into an L1 sector and set their dirty bits (R110); `bad`: a byte of them comes from a poisoned lane (R330). -/
def Sector.store (sec : Sector) (bytes : List (Nat × Byte)) (bad : Bool) : Sector :=
  let data := if sec.data.isEmpty then List.replicate 64 0 else sec.data
  let mask := bytes.foldl (fun (m : BitVec 64) p => m ||| BitVec.ofNat 64 (2 ^ p.1)) 0
  { sec with state := if sec.state = .valid then .valid else .partl
             sent := sec.sent &&& ~~~ mask
             data := bytes.foldl (fun d p => d.set p.1 p.2) data
             dirty := sec.dirty ||| mask
             poison := sec.poison || bad
             bad := sec.bad || bad
             clean := if bad then 0 else sec.clean ||| mask }

/-- Number a remote store or fold of the current batch tag (R338). -/
def nextNumber (device : Nat) : Act (Nat × Nat) := do
  let t ← curTile
  let tag : Fin 4 := t.btag.toFin
  let b := t.batches.get tag
  let b' : Batch := { b with count := b.count + 1, peers := if b.peers.contains device then b.peers else b.peers ++ [device] }
  onTile fun t => { t with batches := t.batches.set tag.val b' }
  return (tag.val, b.count)

/-- Post the remote store of one sector (R484): the sector number, its bytes by offset in the buffer, whether it receives poison (R330). -/
def postRemote (c : Cap) (sec : Nat) (tag number : Nat) (bytes : List (Nat × Byte)) (bad : Bool) : Act Unit :=
  modify fun s =>
    let t := s.tile
    let m : Remote := { tag := tag, numbers := [number], serial := t.serial, device := c.location.toNat, buffer := c.buffer.toNat,
                        generation := c.generation, domain := c.domain, principal := t.principal s.device, sector := sec,
                        bytes := bytes.map fun p => (p.1, c.base.toNat + p.1, p.2), bad := bad }
    s.issueRemote m

/-- Store the bytes of one sector through the L1 (R110, R112); all ways pinned: a bypassed store is a write-back that is outstanding until
acknowledged. -/
def storeSector (c : Cap) (h : HomeId) (sec : Nat) (bytes : List (Nat × Byte)) (bad : Bool) : Act Unit := do
  let t ← curTile
  let local' := bytes.map fun p => (p.1 % 64, p.2)
  match t.dataLine c (sec / 4) with
  | some l => onTile fun t => t.putLine l { l with sectors := l.sectors.set (sec % 4) ((l.sectors.getD (sec % 4) {}).store local' bad) }
  | none =>
    let l := emptyLine c (sec / 4)
    if (← allocLine { l with sectors := l.sectors.set (sec % 4) (({} : Sector).store local' bad) }) then pure ()
    else
      modify (·.post h c [.store bytes (if bad then [sec] else []) (if bad then [] else bytes.map (·.1))])

/-- Store the bytes of one sector under a kind 4 cap: an L1 sector that it hits is updated, and one request goes (R484).
A poisoned one becomes Invalid, for the store may clear the mark at the home (R330). -/
def storeRemote (c : Cap) (sec : Nat) (bytes : List (Nat × Byte)) (bad : Bool) (tag number : Nat) : Act Unit := do
  let t ← curTile
  match t.dataLine c (sec / 4) with
  | some l =>
    let old := l.sectors.getD (sec % 4) {}
    if old.state = .valid then
      let new := old.store (bytes.map fun p => (p.1 % 64, p.2)) bad
      let kept : Sector := if new.poison then {} else { new with dirty := 0, clean := 0, bad := false }
      onTile fun t => t.putLine l { l with sectors := l.sectors.set (sec % 4) kept }
  | none => pure ()
  postRemote c sec tag number bytes bad

/-- Store bytes at offsets under a cap whose tile-side checks have passed; `bad`: the offsets whose bytes come from poisoned lanes
(R110, R152, R328, R330). -/
def storeBytes (r : Reg) (c : Cap) (bytes : List (Nat × Byte)) (bad : List Nat) : Act Unit := do
  match bytes with
  | [] => pure ()
  | (first, _) :: _ =>
    let s ← get
    match s.homeOf c with
    | none => capTrap r.val 0 false 24 (word first)
    | some h =>
      grantLines r c first (linesOf bytes)
      let sectors := (bytes.map fun p => p.1 / 64).eraseDups
      let badIn (k : Nat) : Bool := bad.any fun o => o / 64 = k
      if s.ownTmem c then
        orderHome h c.buffer.toNat (some first) true
        let s ← get
        match s.applyStore (s.claim h c s.tile) c.base.toNat s.tile.index bytes ((bad.map (· / 64)).eraseDups)
            ((bytes.map (·.1)).filter fun o => !badIn (o / 64)) false with
        | .done s => set s
        | .refused reason s => do
          set s
          accessFail r reason first
        | .exhausted s => do
          set s
          trap 29 (word first)
        | .waits s => do
          set s
          holdOn first true
      else if c.kind = .remote then
        let (tag, number) ← nextNumber c.location.toNat
        let rec goRemote : List Nat → Act Unit
          | [] => pure ()
          | k :: ks => do
            storeRemote c k (bytes.filter fun p => p.1 / 64 = k) (badIn k) tag number
            goRemote ks
        goRemote sectors
      else
        let rec go : List Nat → Act Unit
          | [] => pure ()
          | k :: ks => do
            storeSector c h k (bytes.filter fun p => p.1 / 64 = k) (badIn k)
            go ks
        go sectors
      if !bad.isEmpty then
        let dev := (← get).device
        onTile fun t => t.setZ dev c.kind c.location.toNat c.buffer.toNat c.generation

/-! ### Folds (R82, R111, R371) -/

/-- Pinned update lines of a tile (R371). -/
def Tile.pinnedLines (t : Tile) : Nat := (t.l1.filter fun l => l.pin.isSome).length

/-- The update line of a cap that a fold at the current level would use (R82, R371): the level's own pinned one, else one that is not pinned. -/
def Tile.updateLine (t : Tile) (c : Cap) (line : Nat) : Option L1Line :=
  let mine (l : L1Line) : Bool := l.tagged c && l.line = line && l.update.any fun u => u.op = c.foldOp
  (t.l1.find? fun l => mine l && l.pin.any fun p => p.1 = t.level).or (t.l1.find? fun l => mine l && l.pin.isNone)

/-- Combine an operand into the word of an update line (R82). -/
def UpdateLine.fold (u : UpdateLine) (i : Nat) (v : Word) : UpdateLine :=
  { u with words := u.words.set i (some (match u.words.getD i none with
      | some w => foldWord u.op w v
      | none => v)) }

/-- An empty update line of a cap (R82, R111). -/
def newUpdate (s : State) (c : Cap) (h : HomeId) (line : Nat) (pin : Option (Level × Nat)) : L1Line :=
  let u : UpdateLine := { home := h, buffer := c.buffer.toNat, generation := c.generation, op := c.foldOp, line := line,
                          words := List.replicate (256 / foldBytes c.foldOp) none, domain := c.domain,
                          principal := s.tile.principal s.device }
  { emptyLine c line with update := some u, pin := pin }

/-- Write back and drop the data lines of the buffer and generation of an update line, which never stand beside it: stores made before the
fold split come first (R72, R111, R133). -/
def State.retireData (s : State) (l : L1Line) : State :=
  let old (o : L1Line) : Bool :=
    o.update.isNone && o.kind = l.kind && o.location = l.location && o.buffer = l.buffer && o.generation = l.generation
  (s.tile.l1.filter old).reverse.foldl (fun s o => s.postLine o) { s with tile := { s.tile with l1 := s.tile.l1.filter fun x => !old x } }

/-- Allocate an update line, or stall or trap when the set has no way left (R112, R188, R371). -/
def allocUpdate (l : L1Line) : Act Unit := do
  modify (·.retireData l)
  if (← allocLine l) then pure ()
  else
    let t ← curTile
    let mates := t.l1.filter fun o => l1Set o.buffer o.line = l1Set l.buffer l.line
    if mates.any (·.heldMerge) then stall .foldHeld else trap 28 3

/-- Put the fold of a word into an update line, with its store number under a kind 4 cap (R82, R484). -/
def foldInto (c : Cap) (l : L1Line) (i : Nat) (v : Word) : Act Unit := do
  match l.update with
  | none => pure ()
  | some u =>
    if c.kind = .remote then
      let (tag, n) ← nextNumber c.location.toNat
      onTile fun t => t.putLine l { l with update := some { u.fold i v with numbers := u.numbers ++ [(BitVec.ofNat 2 tag, n)] } }
    else onTile fun t => t.putLine l { l with update := some (u.fold i v) }

/-- A fold of a word at an offset under a fold share whose checks have passed (R82, R371). -/
def foldAt (c : Cap) (off : Nat) (v : Word) : Act Unit := do
  let s ← get
  match s.homeOf c with
  | none => pure ()
  | some h =>
    let line := off / 256
    let i := off % 256 / foldBytes c.foldOp
    let t := s.tile
    let k := t.depth
    match t.updateLine c line with
    | none =>
      if k = 0 then
        let l := newUpdate s c h line none
        allocUpdate l
        foldInto c l i v
      else
        if t.pinnedLines ≥ 16 then trap 28 3
        let l := newUpdate s c h line (some (t.level, k))
        allocUpdate l
        foldInto c l i v
    | some l =>
      if k = 0 then foldInto c l i v
      else match l.pin with
        | none =>
          if t.pinnedLines ≥ 16 then trap 28 3
          modify fun s => { s with tile := { s.tile with l1 := s.tile.l1.filter fun o => o ≠ l } }.postLine l
          let l' := newUpdate s c h line (some (t.level, k))
          allocUpdate l'
          foldInto c l' i v
        | some (lev, d) =>
          if d < k then
            saveValue (.line l)
            let l' := { l with pin := some (lev, k) }
            onTile fun t => t.putLine l l'
            foldInto c l' i v
          else foldInto c l i v

/-! ### Drain (R83 step 3) and dropping lines (R113) -/

/-- Move what the tile's lines of a cap's buffer hold to requests at its home (R83). -/
def State.pushLines (s : State) (c : Cap) : State := s.pushWhere fun l => l.tagged c

/-- Drain the buffer of a cap (R83 step 3): dirty sectors and update lines reach the home, remote stores and notices to it are acknowledged,
earlier requests are processed; a line that a migrating page holds is waited for (R188). -/
def drain (c : Cap) : Act Unit := do
  modify (·.pushLines c)
  let s ← get
  match s.homeOf c with
  | none => pure ()
  | some h =>
    let busy := s.tile.remotes.find? fun m => m.device = c.location.toNat && m.buffer % 4 = c.buffer.toNat % 4
    match c.kind, busy with
    | .remote, some m => stall (.drain m.firstByte)
    | _, _ =>
      orderHome h c.buffer.toNat none true
      match (← curTile).l1.find? fun l => l.heldMerge && l.buffer = c.buffer.toNat && l.generation = c.generation with
      | some l => holdOn (256 * l.line) true
      | none => pure ()

/-- Drop every L1, instruction cache line and grant of a tag (R113, R115, R152). -/
def Tile.dropTag (t : Tile) (c : Cap) : Tile :=
  { t with l1 := t.l1.filter fun l => !l.tagged c
           icache := t.icache.filter fun l => !(l.kind = c.kind && l.location = c.location.toNat && l.buffer = c.buffer.toNat && l.generation = c.generation)
           grants := t.grants.filter fun g => !(g.buffer = c.buffer.toNat && g.generation = c.generation) }

/-- Whether a cap names a tag. -/
def sameTag (a b : Cap) : Bool := a.kind = b.kind && a.location = b.location && a.buffer = b.buffer && a.generation = b.generation && a.base = b.base

/-- Every cap of a tile's cap file, all banks (R113, R454). -/
def Tile.allCaps (t : Tile) : List Cap := t.c.toList ++ (t.cBank.toList.flatMap fun b => b.toList)

/-- After a cap has left the tile: its lines go when no cap names the tag any more (R113). -/
def Tile.forget (t : Tile) (c : Cap) : Tile := if t.allCaps.any (sameTag c) then t else t.dropTag c

/-- Forget the tag of a cap that has left the current tile. -/
def dropIfLast (c : Cap) : Act Unit := onTile (·.forget c)

/-! ### The tile-side checks of an access (R64, R327) -/

/-- Which kind of access (R64). -/
inductive AccessKind where
  | load
  | store
  | fold (n : Nat)
deriving DecidableEq, Repr

/-- Checks 1 to 3 of R64 and the kind test of R27: the cap is not null, has the right, the mode permits the access, a fold has
its op's width. -/
def accessAllowed (c : Cap) (k : AccessKind) : Bool :=
  c.kind ≠ .null &&
    match k with
    | .load => c.eff.r
    | .store => c.eff.w && c.mode ≠ .fold
    | .fold n => c.eff.w && c.mode = .fold && foldBytes c.foldOp = n

/-- Kinds that no tile access reaches: host memory and ring handles (R27, R327). -/
def reachable (c : Cap) : Bool := c.kind ≠ .host && c.kind ≠ .handle

/-- The checks of R64 in order on an access of `n` bytes at `off`, then a lent cap (R65): the cap. -/
def checkedCap (r : Reg) (off : Word) (n : Nat) (k : AccessKind) : Act Cap := do
  let c ← useCap r
  if !accessAllowed c k then capTrap r.val 0 false 24 off
  if off.toNat + n > c.length.toNat then capTrap r.val 0 false 24 off
  if !reachable c then capTrap r.val 0 false 24 off
  lentStall r c
  return c

/-! ### Home requests of cap instructions -/

/-- The part of a request that the home decides (R66, R71): the cap's home and its entry, or the refusal. -/
def homeEntry (r : Reg) (c : Cap) (states : List DirState) (owned : Bool) (bad : Nat) : Act (HomeId × DirEntry) := do
  let s ← get
  match s.homeOf c with
  | none => capFail r 4
  | some h =>
    orderAll h c.buffer.toNat
    modify fun s => s.failLevels h c.buffer.toNat
    let s ← get
    let q := s.claim h c s.tile
    match s.checkControl q states owned bad, s.entry h c.buffer.toNat with
    | none, some e => return (h, e)
    | some reason, _ => do
      set (s.refuse q 3 0 reason)
      homeFail r reason
    | none, none => homeFail r 1

/-- Ask the home of another device for a transition on a buffer (R71, R483): the `n` entries that it answers with, of which the first is the
buffer's own, are kept here. -/
def askEntries (r : Reg) (c : Cap) (op : Nat) (args : List Nat) (n : Nat) : Act (List DirEntry) := do
  let down := (← get).peerDown c.location.toNat
  let a ← askPeer r c 4 op 0 (op :: args) (if op = 10 && !down then .reclaim r else .drain 0)
  let h := HomeId.remote c.location.toNat
  let es := (List.range n).map (DirEntry.ofFields h a.words)
  modify fun s => es.zipIdx.foldl (fun s p => s.takeFields h (if p.2 = 0 then c.buffer.toNat else p.1.number) p.1) s
  return es

/-- Ask it for a transition that one entry answers. -/
def askHome (r : Reg) (c : Cap) (op : Nat) (args : List Nat) : Act DirEntry := do
  return (← askEntries r c op args 1).headD (DirEntry.ofFields (.remote c.location.toNat) [] 0)

/-- A home of this device refuses the current tile's control request (R67, R68). -/
def refuseHome {α : Type} (r : Reg) (c : Cap) (h : HomeId) (reason : Nat) : Act α := do
  modify fun s => s.refuse (s.claim h c s.tile) 3 0 reason
  homeFail r reason

/-- A transition of a buffer at its home (R66, R71): the tile's earlier requests come first; on refusal cause 24 with the home's reason.
`act` is the transition at a home of this device; another device's home answers a CTRL packet, of which `op` and `args` are the operation and
its operands. Answers the entry as the transition leaves it. -/
def homeAct (r : Reg) (c : Cap) (states : List DirState) (owned : Bool) (bad : Nat) (op : Nat) (args : List Nat)
    (act : HomeId → DirEntry → Act DirEntry) : Act (HomeId × DirEntry) := do
  if c.kind = .remote then return (.remote c.location.toNat, ← askHome r c op args)
  else
    let (h, e) ← homeEntry r c states owned bad
    return (h, ← act h e)

/-- The entry of a number at a home, after a transition of it. -/
def entryNow (r : Reg) (h : HomeId) (b : Nat) : Act DirEntry := do
  match (← get).entry h b with
  | some e => return e
  | none => homeFail r 1

/-- Write the issued cap of an entry's new number and generation. -/
def reissue (c : Cap) (e : DirEntry) : Act Cap := do
  let s ← get
  return s.sign { c with base := BitVec.ofNat 48 e.base, length := BitVec.ofNat 40 e.length, buffer := BitVec.ofNat 24 e.number,
                         generation := e.generation, depth := BitVec.ofNat 3 e.depth, z := e.poison ≠ 0 }

end Sys2Proof.Machine
end

