-- ==== Sys2Proof/Machine/Rings.lean ====
section
/-! DEFINITION. The slot transitions of ring records (R345, R347). -/

namespace Sys2Proof.Machine

open Sys2Proof

/-- The slot of a number. -/
def Ring.slot (r : Ring) (i : Nat) : Slot := r.slots.getD i {}

/-- Change a slot. -/
def Ring.mapSlot (r : Ring) (i : Nat) (f : Slot → Slot) : Ring := { r with slots := r.slots.set i (f (r.slot i)) }

/-- The number of the slot after `i`. -/
def Ring.after (r : Ring) (i : Nat) : Nat := if i + 1 ≥ r.slots.length then 0 else i + 1

/-- Tail advance (R345), at most `n` times: Published slots become Visible in slot order. -/
def Ring.advance (r : Ring) : Nat → Ring
  | 0 => r
  | n + 1 =>
    if (r.slot r.tail).state = .published then
      Ring.advance { r.mapSlot r.tail (fun s => { s with state := .visible }) with tail := r.after r.tail, visible := r.visible + 1 } n
    else r

/-- `ring.rsv` at the home (R345): the reserved slot, or none when slot `rsv` is not Free. -/
def Ring.reserve (r : Ring) : Option (Nat × Ring) :=
  if (r.slot r.rsv).state = .free then
    some (r.rsv, { r.mapSlot r.rsv (fun s => { s with state := .reserved, serial := s.serial + 1, region := false }) with
                   rsv := r.after r.rsv })
  else none

/-- `ring.pub` at the home (R345). -/
def Ring.publish (r : Ring) (i : Nat) : Ring := (r.mapSlot i fun s => { s with state := .published }).advance r.slots.length

/-- A take or a pop of slot `head` (R345): none when no slot is Visible. -/
def Ring.receive (r : Ring) (into : SlotState) (region : Bool) : Option (Nat × Ring) :=
  if r.visible = 0 then none
  else some (r.head, { r.mapSlot r.head (fun s => { s with state := into, region := region }) with
                       head := r.after r.head, visible := r.visible - 1 })

/-- `ring.done` of a slot, or a popped slot whose step retires outside a region (R345). -/
def Ring.release (r : Ring) (i : Nat) : Ring := r.mapSlot i fun s => { s with state := .free, region := false }

/-- A popped slot of a region's job is Held when its step retires (R347). -/
def Ring.hold (r : Ring) (i : Nat) : Ring := r.mapSlot i fun s => { s with state := .held, region := true }

/-- The outermost close (R345): Held becomes Free, Taken loses its region bit. -/
def Ring.settle (r : Ring) (i : Nat) : Ring :=
  r.mapSlot i fun s => match s.state with
    | .held => { s with state := .free, region := false }
    | .taken => { s with region := false }
    | _ => s

/-- The rollback of a region (R347): the slots return to Visible and `head` rewinds to the first of them. -/
def Ring.rewind (r : Ring) (mine : List Nat) : Ring :=
  match mine with
  | [] => r
  | first :: _ =>
    let r := mine.foldl (fun r i => r.mapSlot i fun s => { s with state := .visible, region := false }) r
    { r with head := first, visible := r.visible + mine.length }

/-- The rings named in a list of (cluster, buffer, slot). -/
def ringsOf (l : List (Nat × Nat × Nat)) : List (Nat × Nat) := (l.map fun p => (p.1, p.2.1)).eraseDups

/-- The slots of one ring in such a list, in order. -/
def slotsIn (l : List (Nat × Nat × Nat)) (ring : Nat × Nat) : List Nat :=
  (l.filter fun p => p.1 = ring.1 && p.2.1 = ring.2).map fun p => p.2.2

/-- Return slots of a region to Visible (R347). -/
def State.rewindSlots (s : State) (l : List (Nat × Nat × Nat)) : State :=
  (ringsOf l).foldl (fun s k => s.mapRing k.1 k.2 fun r => r.rewind (slotsIn l k)) s

/-- Settle the slots of an outermost region at its close (R345). -/
def State.settleSlots (s : State) (l : List (Nat × Nat × Nat)) : State :=
  l.foldl (fun s p => s.mapRing p.1 p.2.1 fun r => r.settle p.2.2) s

end Sys2Proof.Machine
end

