-- ==== Sys2Proof/Machine/Region.lean ====
section
/-! DEFINITION. Recovery regions: rollback and close (R166, R347, R357, R364, R367-R377, R443-R444), the end of jobs (R354), and
the frame that every instruction of a tile runs in (R231, R239, R266, R268, R521). -/

namespace Sys2Proof.Machine

open Sys2Proof

/-! ### Ending a job (R354, R355) -/

/-- A status that records a pending job error (R355). -/
def JobStatus.isError : JobStatus → Bool
  | .shadowExhausted | .translationFault | .homeRefused | .auditMismatch => true
  | _ => false

/-- The code of a status (R354). -/
def JobStatus.code : JobStatus → Nat
  | .queued => 0
  | .running => 1
  | .auditing => 2
  | .done => 3
  | .cancelled => 4
  | .shadowExhausted => 5
  | .translationFault => 6
  | .homeRefused => 7
  | .auditMismatch => 8
  | .rolledBack => 9

/-- Clear L in the registers that a job lent and no other unended job lends (R65, R354). -/
def Tile.returnLent (t : Tile) (device : Nat) (lent : List (Level × Reg)) : Tile :=
  lent.foldl (fun t p =>
    if t.jobs.any fun j => !j.ended && j.lent.contains p then t
    else t.setCBank p.1 p.2 (Cap.signOn { t.rcBank p.1 p.2 with lent := false } device)) t

/-- End a job of a tile (R354): its caps come back and L clears, unless the tile is parked (R418). -/
def Tile.endJob (t : Tile) (device number : Nat) (status : JobStatus) : Tile :=
  match t.jobs.find? fun j => j.number = number && !j.ended with
  | none => t
  | some j =>
    let t := { t with jobs := t.jobs.map fun o =>
      if o.number = number && !o.ended then
        { o with status := status, ended := true, pending := status.isError, granted := false, held := t.parked,
                 asks := [] } else o }
    let t := j.marked.foldl (fun t b => t.setZ device b.1 b.2.1 b.2.2.1 b.2.2.2) t
    let t := if status = .done && !t.parked then t.count 10 1 else t
    if t.parked then t else t.returnLent device j.lent

/-! ### Rollback (R374) -/

/-- Put an accumulator back (R341, R357). -/
def State.restoreAcc (s : State) (cluster n : Nat) (cells : List Host.Cell) (rows cols : BitVec 64) : State :=
  let s := { s with mem := s.mem.writeCells cells }
  s.mapCluster cluster fun c =>
    { c with engine := { c.engine with rows := Vector.ofFn fun i => if i.val = n then rows else c.engine.rows.get i,
                                       cols := Vector.ofFn fun i => if i.val = n then cols else c.engine.cols.get i } }

/-- A cap as its home last reported it: the depth follows the directory entry while the generation matches (R53, R148). -/
def State.reported (s : State) (c : Cap) : Cap :=
  match (s.homeOf c).bind fun h => s.entry h c.buffer.toNat with
  | some e => if e.generation = c.generation && c.depth ≠ BitVec.ofNat 3 e.depth then s.sign { c with depth := BitVec.ofNat 3 e.depth } else c
  | none => c

/-- The home's answer to an accept or a reject of a close or a rollback reports the new depth in the tile's caps of the buffer
(R53, R154, R166). -/
def State.reportDepth (s : State) (h : HomeId) (b : Nat) : State :=
  let fix (c : Cap) : Cap := if s.homeOf c = some h && c.buffer.toNat = b then s.reported c else c
  { s with tile := { s.tile with c := s.tile.c.map fix, cBank := s.tile.cBank.map fun bank => bank.map fix } }

/-- A cap restored by a rollback: L follows the jobs, Z and the depth follow the home (R368). -/
def State.restoredCap (s : State) (r : Reg) (c : Cap) : Cap :=
  let now := s.tile.rc r
  let lent := (s.tile.jobs.any fun j => !j.ended && j.lent.any fun p => p.2 = r && (r.val < 28 || p.1 = s.tile.level)) ||
    s.tile.phase.any fun p => p.landing = some r
  let c := { c with lent := lent }
  match (s.homeOf c).bind fun h => s.entry h c.buffer.toNat with
  | some e =>
    if e.generation = c.generation then s.sign { c with z := e.poison ≠ 0, depth := BitVec.ofNat 3 e.depth }
    else s.sign c
  | none =>
    if now.kind = c.kind && now.buffer = c.buffer && now.generation = c.generation then s.sign { c with z := now.z, depth := now.depth }
    else s.sign c

/-- Restore one saved item (R368, R371). `k`: the depth rolled back. -/
def State.restore (s : State) (k : Nat) : Saved → State
  | .x r v => { s.rearm (fun i => i = .x s.tile.index s.tile.level r) with tile := s.tile.setX r v }
  | .v r v => { s.rearm (fun i => match i with
      | .vLane t r' _ => t = s.tile.index && r' = r
      | _ => false) with tile := s.tile.setV r v }
  | .c r c => { s.rearm (fun i => i = .cap s.tile.index r) with tile := s.tile.setC r (s.restoredCap r c) }
  | .csr n v => { s with tile := s.tile.setSavedCsr n v }
  | .loop l => { s with tile := { s.tile with loop := l } }
  | .acc n content rows cols => match content with
    | some cells => s.restoreAcc (clusterOf s.tile.index) n cells rows cols
    | none => s
  | .line l =>
    match l.pin with
    | some (lv, d) =>
      if d < k then
        { s with tile := { s.tile with l1 := l :: s.tile.l1.filter fun o =>
            !(o.update.isSome && o.kind = l.kind && o.location = l.location && o.buffer = l.buffer && o.generation = l.generation &&
              o.line = l.line && o.pin.any fun p => p.1 = lv) } }
      else s
    | none => s

/-- Level records of homes whose cluster spore is out, under the names by which they are asked for meanwhile (R428). -/
def State.levelsAway (s : State) : List LevelRecord :=
  (s.spores.filter fun p => p.out && !p.revived && p.kind = 2).flatMap fun p =>
    let k := clusterOf ((p.tiles.head?.map (·.index)).getD 0)
    p.levels.map fun (l : LevelRecord) => { l with home := l.home.move k (awayCluster p.domain ((p.cluster.map (·.homeName)).getD k)) }

/-- The level records that a tile's level created from a number on (R166). -/
def State.levelsSince (s : State) (tile : Nat) (lv : Level) (seq : Nat) : List LevelRecord :=
  (s.levels ++ s.levelsAway).filter fun l => l.byTile = tile && l.byLevel = lv && seq ≤ l.seq

/-- Level records with those that stand above them on their buffers, which a reject of theirs takes first (R157, R166). -/
def State.levelsAbove (s : State) (ls : List LevelRecord) : List LevelRecord :=
  (s.levels ++ s.levelsAway).filter fun l => ls.any fun o => o.home = l.home && o.buffer = l.buffer && o.seq ≤ l.seq

/-- The claim of a home about its own buffer. -/
def State.homeClaim (s : State) (h : HomeId) (b : Nat) : Claim :=
  match s.entry h b with
  | some e => { home := h, buffer := b, generation := e.generation, domain := e.domain, principal := e.owner, site := some (s.tile.index / 512) }
  | none => { home := h, buffer := b, generation := 0, domain := 0, principal := 0 }

/-- Whether a line of the current tile's L1 belongs to a buffer of a home, under its present generation. -/
def State.lineOf (s : State) (h : HomeId) (b : Nat) (l : L1Line) : Bool :=
  l.buffer = b && s.homeOf (l.cap s.tile.mdomain) = some h && (s.entry h b).any fun e => e.generation = l.generation

/-- Drain a buffer before its home rejects a level (R154, R83 step 3): false while a write-back or a remote store is outstanding. -/
def State.drainBuffer (s : State) (h : HomeId) (b : Nat) : Bool × State :=
  let s := s.pushWhere (s.lineOf h b)
  let remote := s.tile.remotes.any fun m => h = .remote m.device && m.buffer = b
  if remote || s.asleep h then (false, s) else s.settle (s.requests.filter fun q => q.tile = s.tile.index && q.home = h)

/-- The sectors of restored lines become Invalid in the tile's L1 (R157): all of the buffer's when its home is another device's,
which alone knows the lines. -/
def State.forgetRestored (s : State) (h : HomeId) (b : Nat) (lines : List Nat) : State :=
  let hit (l : L1Line) : Bool := l.update.isNone && s.lineOf h b l && (lines.contains l.line || (match h with
    | .remote _ => true
    | _ => false))
  { s with tile := { s.tile with l1 := s.tile.l1.map fun l => if hit l then { l with sectors := [{}, {}, {}, {}] } else l } }

/-- Tell another device's home that a close accepts (19) or a rollback rejects (20) the top level of its buffer (R166, R72). -/
def State.tellLevel (s : State) (h : HomeId) (b op : Nat) : State :=
  match h, s.entry h b with
  | .remote d, some e =>
    s.notify { kind := .remote, location := BitVec.ofNat 20 d, buffer := BitVec.ofNat 24 b, generation := e.generation, domain := e.domain } op []
  | _, _ => s

/-- Reject levels, newest first (R166): false when a write-back, a page of a copy or another device's answer must be waited for (R154, R159,
R374). -/
def State.rejectLevels (s : State) : List LevelRecord → Bool × State
  | [] => (!(s.tile.remotes.any fun m => m.control.headD 0 = 20), s)
  | l :: ls =>
    match s.drainBuffer l.home l.buffer with
    | (false, s) => (false, s)
    | (true, s) =>
      let lines := (s.copiesAt l.home l.buffer (((s.entry l.home l.buffer).map (·.depth)).getD 0)).map (·.line)
      let s := s.forgetRestored l.home l.buffer lines
      match s.rejectTop (s.homeClaim l.home l.buffer) with
      | (false, s) => (false, s)
      | (true, s) =>
        let s := (s.reportDepth l.home l.buffer).tellLevel l.home l.buffer 20
        State.rejectLevels { s with tile := { s.tile with grants := [] } } ls

/-- Whether a pair (level, depth) lies in the region at depth `k` of level `lv` or inside it. -/
def within (lv : Level) (k : Nat) (p : Level × Nat) : Bool := p.1 = lv && k ≤ p.2

/-- Return consumed messages to a queue (R370, R374): how many `msgrecv` had counted (R212), and the queue. -/
def requeue (k : Nat) (q : List QMsg) : Nat × List QMsg :=
  ((q.filter fun m => m.msg.counted && m.kept.any fun d => k ≤ d).length,
   q.map fun m => if m.kept.any fun d => k ≤ d then { m with kept := none } else m)

/-- The register that failed is read again after the restore, and may still fail (R444): whether state that no descriptor of R449 places does is a free
value (log 6). -/
def State.stillFails (s : State) : State :=
  match s.tile.failing with
  | none => s
  | some item =>
    let s := { s with tile := { s.tile with failing := none } }
    if s.armed.any fun a => a.item = item then
      let injected := s.armed.any fun a => a.item = item && a.injected
      let s := { s.rearm (fun i => i = item) with tile := { s.tile with tainted := injected } }
      match item with
      | .cap _ r =>
        let s := { s with tile := { s.tile.setC r Cap.null with mcapinfo := capInfo r.val 0 0 false } }
        s.takeTrap 25 (word r.val)
      | _ => s.fatal 64
    else match item with
      | .tileState _ =>
        let s := { s with draws := s.draws + 1 }
        if (Config.freeValue (s.draws - 1)).getLsbD 0 then s.fatal 64 else s
      | _ => s

/-- Whether a read of the undo pool of the current tile meets an error that it cannot correct (R435, R443). -/
def State.undoLost (s : State) : Bool :=
  let lo := tmemKey s.tile.index 0x800 / 64
  let inside (k : Nat) : Bool := lo ≤ k && k < lo + s.tile.undoSize / 64
  (s.armed.any fun a => a.uncorrectable && (match a.item with
    | .sector k => inside k
    | _ => false)) || s.poison.any fun m => inside m.sector

/-- The last part of a rollback, when its jobs have stopped and its levels are gone (R374); `rgncause` keeps three bits of
the depth (R375, log 89). -/
def State.finishRollback (s : State) (lv : Level) (k cause : Nat) (rs : List Region) (r : Region) (outer : List Region) : State :=
  let t := s.tile
  let s := s.rewindSlots (rs.reverse.flatMap (·.slots))
  let keep (o : L1Line) : Bool := !(o.update.isSome && o.pin.any fun p => within lv k p)
  let saved := rs.flatMap (·.saved)
  let lines := saved.filter fun v => match v with
    | .line _ => true
    | _ => false
  let s := lines.foldl (fun s v => s.restore k v) s
  let s := { s with tile := { s.tile with l1 := s.tile.l1.filter keep, siding := t.siding.filter fun h => !(within lv k (h.level, h.depth)) } }
  let q := requeue k (t.queues.get lv)
  let x := if lv = 0 then requeue k t.xqueue else (0, t.xqueue)
  let s := { s with tile := { s.tile with queues := t.queues.set lv.val q.2, xqueue := x.2, msgrecv := t.msgrecv - word (q.1 + x.1) } }
  let s := saved.foldl (fun s v => s.restore k v) s
  let s := { s with tile := { s.tile.setRegions ({ r with saved := [], pinned := 0, slots := [] } :: outer) with
    rgncause := word (cause % 512 + k % 8 * 512 + lv.val * 4096), kpre := none, wait := none, answer := none, asks := s.tile.asks.filter (·.held), rollbacks := s.tile.rollbacks.filter fun p => p.1 ≠ lv,
    pc := r.pc + 4 } }
  let s := { s.rearm (fun i => i = .x s.tile.index s.tile.level r.dest) with tile := s.tile.setX r.dest (word cause) }
  (s.leaveGang).stillFails

/-- Whether a rollback of the current level waits to run (R373). -/
def Tile.rollbackDue (t : Tile) : Bool := t.rollbacks.any fun p => p.1 = t.level

/-- Ask for a rollback of a level (R373): the outer of two regions of one level goes, with the cause that came first for it. -/
def Tile.askRollback (t : Tile) (lv : Level) (k cause : Nat) : Tile :=
  if t.rollbacks.any fun p => p.1 = lv && p.2.1 ≤ k then t
  else { t with rollbacks := (lv, k, cause) :: t.rollbacks.filter fun p => p.1 ≠ lv }

/-- Run the pending rollback of the current tile's level (R374): it cancels the jobs, waits for a granted step and for its homes, and then happens
whole; an error in what it reads of the undo pool is fatal (R443). -/
def State.rollbackRun (s : State) : State :=
  match s.tile.rollbacks.find? fun p => p.1 = s.tile.level with
  | none => s
  | some (lv, k, cause) =>
      let t := s.tile
      let n := t.depth
      let rs := (t.regions.get lv).take (n + 1 - k)
      let outer := (t.regions.get lv).drop (n + 1 - k)
      match rs.getLast? with
      | none => { s with tile := { t with rollbacks := t.rollbacks.filter fun p => p.1 ≠ lv } }
      | some r =>
        let mine (j : Job) : Bool := !j.ended && j.region.any fun p => within lv k p
        let t := (t.jobs.filter fun j => mine j && !j.granted).foldl (fun t j => t.endJob s.device j.number .rolledBack) t
        let t := { t with jobs := t.jobs.map fun j => if mine j then { j with outcome := some .rolledBack } else j }
        let s := { s with tile := t }
        if t.jobs.any mine then s
        else
          match s.rejectLevels (s.levelsAbove (s.levelsSince t.index lv r.levelSeq)).reverse with
          | (false, s) => s
          | (true, s) => if s.undoLost then s.fatal 67 else s.finishRollback lv k cause rs r outer

/-- Roll back the innermost open region of the current level (R373). -/
def State.startRollback (s : State) (cause : Nat) : State :=
  ({ s with tile := { s.tile.askRollback s.tile.level s.tile.depth cause with tainted := false } }).rollbackRun

/-! ### Close (R377) -/

/-- Accept region levels, newest first (R156, R166); the grants go (R152). -/
def State.acceptLevels (s : State) (ls : List LevelRecord) : State :=
  ls.foldl (fun s l =>
    let s := ((s.acceptTop l.home l.buffer).reportDepth l.home l.buffer).tellLevel l.home l.buffer 19
    { s with tile := { s.tile with grants := [] } }) s

/-- What an enclosing region takes over from the region that closes (R377). -/
def Region.absorb (enc r : Region) (j : Nat) : Region :=
  let passes (v : Saved) : Bool := !(enc.saved.any fun o => o.item = v.item) && (match v with
    | .line l => l.pin.any fun p => p.2 < j
    | _ => true)
  { enc with saved := r.saved.filter passes ++ enc.saved, slots := enc.slots ++ r.slots }

/-- Lower depth `k` to `j` in a pair of a level. -/
def lowerDepth (lv : Level) (k j : Nat) (p : Level × Nat) : Level × Nat := if p = (lv, k) then (lv, j) else p

/-- The close of an inner region (R377). -/
def Tile.closeInner (t : Tile) (r enc : Region) (rest : List Region) : Tile :=
  let lv := t.level
  let k := t.depth
  let j := k - 1
  let relabel (q : List QMsg) : List QMsg := q.map fun m => if m.kept = some k then { m with kept := some j } else m
  { t.setRegions (enc.absorb r j :: rest) with
    l1 := t.l1.map fun l => { l with pin := l.pin.map (lowerDepth lv k j) }
    jobs := t.jobs.map fun o => { o with region := o.region.map (lowerDepth lv k j) }
    siding := t.siding.map fun h => if h.level = lv && h.depth = k then { h with depth := j } else h
    queues := t.queues.set lv.val (relabel (t.queues.get lv))
    xqueue := if lv = 0 then relabel t.xqueue else t.xqueue }

/-- The close of the outermost region of a level (R377): the held items go to the release path in issue order. -/
def Tile.closeOuter (t : Tile) : Tile :=
  let lv := t.level
  let q := t.queues.get lv
  let gone (l : List QMsg) : Nat := (l.filter (·.kept.isSome)).length
  let head := Vector.ofFn fun i : Fin 5 =>
    if i.val = lv.val then t.qHead.get i + gone q else if i.val = 4 && lv = 0 then t.qHead.get i + gone t.xqueue else t.qHead.get i
  { t.setRegions [] with
    l1 := t.l1.map fun l => if l.pin.any fun p => p.1 = lv then { l with pin := none } else l
    jobs := t.jobs.map fun o => if o.region.any fun p => p.1 = lv then { o with region := none } else o
    siding := t.siding.filter fun h => h.level ≠ lv
    releasePath := t.releasePath ++ t.siding.filter fun h => h.level = lv
    queues := t.queues.set lv.val (q.filter (·.kept.isNone))
    xqueue := if lv = 0 then t.xqueue.filter (·.kept.isNone) else t.xqueue
    qHead := head }

/-- Close the innermost open region (R377). -/
def closeRegion (i : Instr) : Act Unit := do
  let s ← get
  let t := s.tile
  match t.openRegions with
  | [] => illegal i
  | r :: rest =>
    let lv := t.level
    let k := t.depth
    let waited (j : Job) : Bool := !j.ended && (j.region.any fun p => within lv k p) && (j.audited || k = 1)
    match t.jobs.find? waited with
    | some j => stall (.jobTable j.number)
    | none =>
      let ls := s.levelsSince t.index lv r.levelSeq
      if ls.any fun l => !l.region then capTrap 0 12 false 24 12
      else if ls.any fun l => s.asleep l.home then stall .inject
      else if s.undoLost then throw (.fatal 67)
      else
        let s := s.acceptLevels ls.reverse
        match rest with
        | enc :: outer => set { s with tile := s.tile.closeInner r enc outer }
        | [] =>
          let s := s.settleSlots r.slots
          set { s with tile := s.tile.closeOuter }

/-! ### The frame of an instruction -/

/-- What the common rules need to know of a form. -/
structure Form where
  /-- The integer rs2 operand of R230, if the form has one. -/
  rs2 : Option Reg := none
  /-- A branch, jump or other instruction of R268. -/
  jump : Bool := false
  /-- An instruction that acts on a launch (R521). -/
  launch : Bool := false
deriving DecidableEq, Repr

/-- The word of an instruction is illegal where it stands: a `kpre` before a form without an integer rs2 operand or with a
non-zero rs2 field (R231), a jump at the end of an active loop (R268), a launch instruction on a tile of no launch (R521). -/
def Tile.misplaced (t : Tile) (f : Form) : Bool :=
  (t.kpre.isSome && f.rs2 ≠ some 0) || (t.atLoopEnd && f.jump) || (f.launch && t.launch.isNone)

/-- What follows when an instruction begun in a state ends (R239, R266, R373, R413, R415). -/
def finish (before : State) : EStateM.Result Stop State Unit → Host.Outcome State Fault Refusal
  | .ok _ s => .next { s with tile := s.tile.retire }
  | .error (.trap c v) s => .next (before.trapFrom s c v)
  | .error (.wait k) s => .next (s.stallOn k)
  | .error (.rollback c) s => .next (s.startRollback c)
  | .error .leave s => .next s
  | .error (.fatal c) s => .next (s.fatal c)

/-- An instruction at the end of a loop in a region: the loop registers that the loop-back test will write are saved (R368) when the instruction
completes; one that does not leaves no save, and the trap 28 of a full pool comes after its own traps (R239, R241). -/
def savingLoop (a : Act Unit) : Act Unit := fun s =>
  match EStateM.run (do saveItems [.loop]; a) s with
  | .ok x t => .ok x t
  | .error .leave t => .error .leave t
  | .error _ _ => match EStateM.run a s with
    | .ok _ _ | .error .leave _ => .error (.trap 28 0) s
    | r => r

/-- Run the action of an instruction on the current tile: the checks that come before it, the save of the loop registers that the
loop-back test would write in a region (R368), the action, and what follows. -/
def run (f : Form) (i : Instr) (a : Act Unit) (s : State) : Host.Outcome State Fault Refusal :=
  if s.tile.misplaced f then finish s (EStateM.run (illegal i) s)
  else if s.tile.atLoopEnd && s.tile.inRegion then finish s (EStateM.run (savingLoop a) s)
  else finish s (EStateM.run a s)

/-- Run an event of an agent: the state when the action ends, whatever ends it; a disabled event changes nothing. -/
def event (a : Act Unit) (s : State) : Host.Outcome State Fault Refusal :=
  match EStateM.run a s with
  | .ok _ s => .next s
  | .error _ s => .next s

end Sys2Proof.Machine
end

