-- ==== Sys2Proof/Machine/Operands.lean ====
section
/-! DEFINITION. The operand forms of the base instructions: immediates (R216, R251-R253), PMP (R235, R457) and the private area
(R34, R36, R257, R442). -/

namespace Sys2Proof.Machine

open Sys2Proof

/-- The offset of a B word from its twelve immediate bits as they stand: bits 31:25, then 11:7 (R216). -/
def branchOffset (imm : BitVec 12) : Word :=
  sext ((imm.extractLsb' 11 1 ++ imm.extractLsb' 0 1 ++ imm.extractLsb' 5 6 ++ imm.extractLsb' 1 4 ++ (0 : BitVec 1) : BitVec 13))

/-- The offset of a J word from its twenty immediate bits as they stand (R216). -/
def jumpOffset (imm : BitVec 20) : Word :=
  sext ((imm.extractLsb' 19 1 ++ imm.extractLsb' 0 8 ++ imm.extractLsb' 8 1 ++ imm.extractLsb' 9 10 ++ (0 : BitVec 1) : BitVec 21))

/-- The value of a U word's immediate (R216). -/
def upperImm (imm : BitVec 20) : Word := sext (imm ++ (0 : BitVec 12))

/-! ### Physical memory protection (R235) -/

/-- Configuration byte of a PMP entry. -/
def Tile.pmpByte (t : Tile) (i : Nat) : Nat := (t.pmpcfg.toList.getD (i / 8) 0).toNat / 2 ^ (8 * (i % 8)) % 256

/-- Address register of a PMP entry. -/
def Tile.pmpAddr (t : Tile) (i : Nat) : Nat := (t.pmpaddr.toList.getD i 0).toNat

/-- The trailing ones of a number, at most `n` (NAPOT). -/
def trailingOnes (v : Nat) : Nat → Nat
  | 0 => 0
  | n + 1 => if v % 2 = 1 then trailingOnes (v / 2) n + 1 else 0

/-- The bytes that a PMP entry covers: first and one past the last; a grain is 256 bytes (R235). -/
def Tile.pmpRange (t : Tile) (i : Nat) : Nat × Nat :=
  let mode := t.pmpByte i / 8 % 4
  let tor (k : Nat) : Nat := t.pmpAddr k / 64 * 256
  if mode = 1 then (if i = 0 then 0 else tor (i - 1), tor i)
  else if mode = 3 then
    let k := max 5 (trailingOnes (t.pmpAddr i) 54)
    let size := 2 ^ (k + 3)
    (t.pmpAddr i * 4 / size * size, t.pmpAddr i * 4 / size * size + size)
  else (0, 0)

/-- Whether PMP permits an access of a tile in its mode: the lowest entry that matches decides, a locked entry in M-mode too; an
access that matches none goes on (log 13). -/
def Tile.pmpAllows (t : Tile) (addr : Nat) (store : Bool) : Bool :=
  match (List.range 16).find? fun i => (t.pmpRange i).1 ≤ addr && addr < (t.pmpRange i).2 with
  | none => true
  | some i =>
    let b := t.pmpByte i
    (t.mode = .m && b / 128 % 2 = 0) || (if store then b / 2 % 2 = 1 else b % 2 = 1)

/-! ### The private area (R34, R36) -/

/-- The regions of the private area: start, end, and whether U-mode may load and store (R34). -/
def Tile.privateRegions (t : Tile) : List (Nat × Nat × Bool × Bool) :=
  let undo := 0x800 + t.undoSize
  let shadow := undo + t.tshadowSize
  let h := t.hstackSize
  [(0, 0x800, true, false), (0x800, undo, false, false), (undo, shadow, false, false),
   (shadow, shadow + h, true, true), (shadow + h, shadow + 2 * h, true, true), (shadow + 2 * h, shadow + 3 * h, true, true),
   (shadow + 3 * h, t.privateSize, true, true)]

/-- Whether an ordinary access of `n` bytes at an address is permitted (R36): it lies whole in one region of the private area that
permits it, and in M-mode in any region. -/
def Tile.privateAllows (t : Tile) (addr n : Nat) (store : Bool) : Bool :=
  addr < t.privateSize &&
    (t.privateRegions.any fun r => r.1 ≤ addr && addr + n ≤ r.2.1 && (t.mode = .m || (if store then r.2.2.2 else r.2.2.1))) &&
    t.pmpAllows addr store

/-- The checks of an ordinary access (R36): misalignment, then the region. -/
def checkPrivate (addr : Word) (n : Nat) (store : Bool) : Act Unit := do
  let t ← curTile
  if addr.toNat % n ≠ 0 then trap (if store then 6 else 4) addr
  if !t.privateAllows addr.toNat n store then trap (if store then 7 else 5) addr

/-- The TMEM home reads the sector of an address of the private area, which no buffer covers (R435). -/
def readPrivate (addr : Word) : Act Unit :=
  modify fun s => s.detect (.tile s.tile.index) (2 ^ 24) addr.toNat (tmemKey s.tile.index addr.toNat)

/-- An ordinary load of `n` bytes as a number (R257); a poisoned sector is consumed (R442). -/
def loadPrivate (addr : Word) (n : Nat) : Act Nat := do
  checkPrivate addr n false
  readPrivate addr
  let s ← get
  let key := tmemKey s.tile.index addr.toNat
  if s.poisoned (key / 64) then consume addr Cap.null (some key)
  return leNat (s.mem.readN key n)

/-- An ordinary store of the low `n` bytes of a value (R257): the bytes are clean ones of their sector (R330), and a clearing waits for a free entry
of the fault log (R413). -/
def storePrivate (addr : Word) (n : Nat) (v : Word) : Act Unit := do
  checkPrivate addr n true
  readPrivate addr
  let s ← get
  let key := tmemKey s.tile.index addr.toNat
  match { s with mem := s.mem.writeN key (leBytes n v.toNat) }.cleanBytes (.tile s.tile.index) (2 ^ 24) 0 s.tile.index
      ((List.range n).map fun i => (addr.toNat + i, key + i)) with
  | some s => set s
  | none => stall .faultLog

end Sys2Proof.Machine
end

