-- ==== Sys2Proof/Machine/Flags.lean ====
section
/-! DEFINITION. The status words of the machine, as CSRs: which exist, what each reads, and what a write does (R204, R233-R238, R267,
R278, R289-R290, R342, R375, R411-R414, R425, R430, R449-R450, R454). The part has no condition flags. -/

namespace Sys2Proof.Machine

open Sys2Proof

/-- Whether a CSR number exists (R233, R235). -/
def csrExists (n : Nat) : Bool :=
  (0x800 ≤ n && n ≤ 0x809) || (0xCC0 ≤ n && n ≤ 0xCC9) || (0x7C0 ≤ n && n ≤ 0x7C6) || n = 0xB00 || (0xB02 ≤ n && n ≤ 0xB12)
  || (0x323 ≤ n && n ≤ 0x332) || n = 0x3A0 || n = 0x3A2 || (0x3B0 ≤ n && n ≤ 0x3BF)
  || (0xF11 ≤ n && n ≤ 0xF14) || n = 0x300 || n = 0x301 || n = 0x304 || n = 0x305 || (0x340 ≤ n && n ≤ 0x344)

/-- An M-mode CSR: number bits 9:8 are 0b11 (R233-R235). -/
def csrMachine (n : Nat) : Bool := n / 256 % 4 = 3

/-- A read-only CSR: number bits 11:10 are 0b11 (R234). -/
def csrReadOnly (n : Nat) : Bool := n / 1024 = 3

/-- Whether a value sets a bit of an RSV field of a CSR's map (R13, R234): most maps end in one; `minject` has two inside (R449,
log 63). -/
def csrReserved (n : Nat) (v : Word) : Bool :=
  let above (k : Nat) : Bool := v.toNat / 2 ^ k ≠ 0
  if n = 0x800 then above 9
  else if n = 0x801 then above 32
  else if n = 0x802 then above 4
  else if n = 0x804 then above 5
  else if n = 0x805 then above 2
  else if n = 0x809 then above 48
  else if n = 0x7C0 then above 11
  else if n = 0x7C1 then above 7
  else if n = 0x7C2 then above 16
  else if n = 0x7C3 then above 33
  else if n = 0x7C4 then v.toNat / 2 ^ 6 % 4 ≠ 0 || v.toNat / 2 ^ 13 % 8 ≠ 0
  else if n = 0x7C5 then above 56
  else false

/-- `gstat` (R204). -/
def Gang.word (g : Gang) : Word :=
  zext g.mask ||| (zext g.left <<< 8) ||| Sys2Proof.word (g.leader * 2 ^ 16 + g.position * 2 ^ 19 + g.member.toNat * 2 ^ 22)

/-- Word `w` of a fault log entry (R411). -/
def FaultEntry.wordAt (e : FaultEntry) (w : Nat) : Word :=
  if w = 0 then word (e.code + e.cls * 2 ^ 8 + e.level * 2 ^ 10 + e.acked.toNat * 2 ^ 12 + e.trap.toNat * 2 ^ 13 + e.sequence * 2 ^ 16)
  else if w = 1 then e.place else if w = 2 then e.what else e.time

/-- `xchcycle` (R209, R233). -/
def State.xchCycle (s : State) : Nat :=
  match s.tile.phase with
  | some p => s.clock - p.release
  | none => 0

/-- `mstatus` (R235): MPP at bits 12:11, UXL = 2 at bits 33:32. -/
def Tile.mstatus (t : Tile) : Word := word ((if t.mpp = .m then 3 * 2 ^ 11 else 0) + 2 * 2 ^ 32)

/-- `pmpaddr` as read: below the grain the low bits read 0, or 1 in NAPOT mode (log 13). -/
def Tile.readPmpAddr (t : Tile) (i : Nat) : Word :=
  if t.pmpByte i / 8 % 4 = 3 then word (t.pmpAddr i / 32 * 32 + 31) else word (t.pmpAddr i / 64 * 64)

/-- The part of an event counter that is not kept in `pmc`: a counter of cycles (code 1) counts with `mcycle` (R235). -/
def Tile.pmcBase (t : Tile) (clock i : Nat) : Word := if t.pmcsel.toList.getD i 0 = 1 then word clock + t.cycleOff else 0

/-- An event counter as read (R233, R235). -/
def Tile.readPmc (t : Tile) (clock i : Nat) : Word := t.pmc.toList.getD i 0 + t.pmcBase clock i

/-- A write to an event counter. -/
def Tile.writePmc (t : Tile) (clock i : Nat) (v : Word) : Tile := { t with pmc := t.pmc.set! i (v - t.pmcBase clock i) }

/-- A write to an event select: the counter goes on from its value (R235). -/
def Tile.writeSelect (t : Tile) (clock i code : Nat) : Tile :=
  ({ t with pmcsel := t.pmcsel.set! i code } : Tile).writePmc clock i (t.readPmc clock i)

/-- A write to `mcycle` (R233): the counters of cycles keep their values. -/
def Tile.writeCycle (t : Tile) (clock : Nat) (v : Word) : Tile :=
  let d := v - word clock - t.cycleOff
  { t with cycleOff := v - word clock, pmc := Vector.ofFn fun i => if t.pmcsel.get i = 1 then t.pmc.get i - d else t.pmc.get i }

/-- The value of a CSR (R233, R235). `featroot` holds its value from reset on, before boot firmware has written the feature block (log 4). -/
def State.csrRead (s : State) (n : Nat) : Word :=
  let t := s.tile
  if 0x800 ≤ n && n ≤ 0x805 then t.savedCsr (BitVec.ofNat 12 n)
  else if n = 0x806 then t.loop.start
  else if n = 0x807 then t.loop.stop
  else if n = 0x808 then t.loop.count
  else if n = 0x809 then t.savedCsr 0x809
  else if n = 0xCC0 then word t.rank
  else if n = 0xCC1 then word t.level.val
  else if n = 0xCC2 then t.msgsent
  else if n = 0xCC3 then t.msgrecv
  else if n = 0xCC4 then word t.depth
  else if n = 0xCC5 then t.gang.word
  else if n = 0xCC6 then t.waitinfo
  else if n = 0xCC7 then word s.xchCycle
  else if n = 0xCC8 then t.rgncause
  else if n = 0xCC9 then word Config.systemWindow
  else if n = 0x7C0 then t.mcapinfo
  else if n = 0x7C1 then (t.faultLog.get (Fin.ofNat 16 t.logSelect.toNat)).wordAt (t.logSelect.toNat / 16)
  else if n = 0x7C2 then zext t.mdomain
  else if n = 0x7C3 then zext t.mhaltgrp
  else if n = 0x7C4 then 0
  else if n = 0x7C5 then word (t.sporeArea.toNat + t.sporeStatus.toNat * 2 ^ 48)
  else if n = 0x7C6 then word t.mauditf
  else if n = 0xB00 then s.mcycle t
  else if n = 0xB02 then t.minstret
  else if 0xB03 ≤ n && n ≤ 0xB12 then t.readPmc s.clock (n - 0xB03)
  else if 0x323 ≤ n && n ≤ 0x332 then word (t.pmcsel.toList.getD (n - 0x323) 0)
  else if n = 0x3A0 then t.pmpcfg.get 0
  else if n = 0x3A2 then t.pmpcfg.get 1
  else if 0x3B0 ≤ n && n ≤ 0x3BF then t.readPmpAddr (n - 0x3B0)
  else if n = 0xF12 then 0x9416
  else if n = 0xF13 then zext revision
  else if n = 0xF14 then word (tileEndpoint s.device t.index)
  else if n = 0x300 then t.mstatus
  else if n = 0x301 then 0x8000000000901100
  else if n = 0x305 then t.mtvec
  else if n = 0x340 then t.mscratch
  else if n = 0x341 then t.mepc
  else if n = 0x342 then t.mcause
  else if n = 0x343 then t.mtval
  else 0

/-! ### Writes -/

/-- `vl` after a write (R289). -/
def Tile.writeVl (t : Tile) (v : Word) : Tile := { t with vlen := min 128 (v.toNat % 256), vmk := v.getLsbD 8 }

/-- `rmode` after a write (R278). -/
def Tile.writeRmode (t : Tile) (v : Word) : Tile :=
  { t with rmode := if v.toNat % 8 > 5 then 0 else v.setWidth 3, rsat := v.getLsbD 3 }

/-- A write to a hardware-loop CSR (R267): at once in an inactive loop, else pending until the next loop-back test. -/
def Tile.writeLoop (t : Tile) (which : Nat) (v : Word) : Tile :=
  let l := t.loop
  if l.count = 0 then
    if which = 0 then { t with loop := { l with start := v } }
    else if which = 1 then { t with loop := { l with stop := v } }
    else { t with loop := { l with count := v, level := if v ≠ 0 then t.level else l.level } }
  else if which = 0 then { t with loop := { l with pendStart := some v } }
  else if which = 1 then { t with loop := { l with pendStop := some v } }
  else { t with loop := { l with pendCount := some v } }

/-- Whether a tile holds nothing that keeps its `mdomain` (R454). -/
def State.domainFree (s : State) : Bool :=
  let t := s.tile
  t.c.toList.all (fun c => c.kind = .null) && t.cBank.toList.all (fun b => b.toList.all fun c => c.kind = .null) &&
    t.queues.toList.all (·.isEmpty) && t.xqueue.isEmpty && t.siding.isEmpty && t.releasePath.isEmpty &&
    !(s.dirs.any fun e => e.home = .tile t.index && e.state ≠ .free)

/-- A write to `mdomain` (R454): no change unless the tile is empty. -/
def State.writeDomain (s : State) (v : Word) : State :=
  if s.domainFree then { s with tile := { s.tile with mdomain := v.setWidth 16 } } else s

/-- A write to `mfaultlog` without release (R414). -/
def Tile.selectLog (t : Tile) (v : Word) : Tile := { t with logSelect := v.setWidth 6 }

/-- Release an entry of the fault log (R412, R414): entry 15 becomes free; another is marked released, and is free once it is
acknowledged. -/
def Tile.releaseLog (t : Tile) (i : Fin 16) : Tile :=
  let e := t.faultLog.get i
  if i = 15 then { t with faultLog := t.faultLog.set 15 {} }
  else if e.cls = 0 then t
  else if e.acked then { t with faultLog := t.faultLog.set i.val {} }
  else { t with faultLog := t.faultLog.set i.val { e with released := true } }

/-- The PMP configuration byte that a write leaves: a locked entry keeps its byte; mode NA4 leaves OFF (R235). -/
def pmpByteWrite (old new : Nat) : Nat :=
  if old / 128 % 2 = 1 then old
  else
    let b := new % 32 + new / 128 % 2 * 128
    if b / 8 % 4 = 2 then b - 16 else b

/-- `pmpcfg0` or `pmpcfg2` after a write. -/
def pmpCfgWrite (old new : Word) : Word :=
  word (((List.range 8).map fun i => pmpByteWrite (old.toNat / 2 ^ (8 * i) % 256) (new.toNat / 2 ^ (8 * i) % 256) * 2 ^ (8 * i)).sum)

/-- A write to a `pmpaddr` register: nothing when the entry, or a TOR entry above it, is locked (log 13). -/
def Tile.writePmpAddr (t : Tile) (i : Nat) (v : Word) : Tile :=
  let locked (k : Nat) : Bool := t.pmpByte k / 128 % 2 = 1
  if locked i || (i < 15 && locked (i + 1) && t.pmpByte (i + 1) / 8 % 4 = 1) then t
  else { t with pmpaddr := t.pmpaddr.set! i (word (v.toNat % 2 ^ 54)) }

/-! ### Error injection (R449, R450) -/

/-- Fields of an injection descriptor (R449). -/
structure Injection where
  target : Nat
  uncorrectable : Bool
  reg : Reg
  offset : Nat
deriving DecidableEq, Repr

/-- The descriptor of a word: none for a reserved value, a reserved bit or an operand outside its limits (R449). -/
def Injection.ofWord (v : Word) : Option Injection :=
  let n := v.toNat
  let target := n % 16
  let offset := n / 2 ^ 16
  if target > 10 || n / 16 % 4 > 1 || n / 64 % 4 ≠ 0 || n / 2 ^ 13 % 8 ≠ 0 then none
  else if target = 5 && offset > 15 then none
  else if target = 7 && offset > 63 then none
  else if target = 9 && offset ≥ 2 ^ 48 then none
  else some ⟨target, n / 16 % 4 = 1, Fin.ofNat 32 (n / 2 ^ 8), offset⟩

/-- The kind of cap that a sector target needs (R450). -/
def Injection.kindOk (j : Injection) (c : Cap) : Bool :=
  (j.target = 1 && c.kind = .tmem) || (j.target = 2 && c.kind = .cmem) || (j.target = 3 && c.kind = .dmem) ||
    (j.target = 8 && (c.kind = .tmem || c.kind = .cmem || c.kind = .dmem || c.kind = .remote || c.kind = .slot))

/-- Whether the cap of a sector target passes the checks of a store, is not lent, and is of the kind (R450). -/
def Injection.capOk (j : Injection) (c : Cap) : Bool :=
  accessAllowed c .store && j.offset + 1 ≤ c.length.toNat && !c.lent && j.kindOk c

/-- Arm an error in an item (R450): the session log records the injection itself (R464). -/
def State.arm (s : State) (item : ErrorItem) (unc : Bool) (v : Word) : State :=
  let s := { s with armed := ⟨item, unc, true⟩ :: s.armed.filter fun a => a.item ≠ item }
  let l := s.launchOf s.tile
  s.postItem s.tile.mdomain 5 1 true ((l.map (·.number)).getD 0) [v.toNat, s.tile.rank]

/-- An injection of the current tile (R449, R450): no effect for a bad operand. -/
def State.inject (s : State) (v : Word) : State :=
  match Injection.ofWord v with
  | none => s
  | some j =>
    let t := s.tile
    let c := t.rc j.reg
    if j.target = 0 then s
    else if j.target = 4 then s.arm (.x t.index t.level j.reg) j.uncorrectable v
    else if j.target = 5 then s.arm (.vLane t.index j.reg j.offset) j.uncorrectable v
    else if j.target = 6 then s.arm (.cap t.index j.reg) j.uncorrectable v
    else if j.target = 7 then s.arm (.accRow (clusterOf t.index) j.reg.val j.offset) j.uncorrectable v
    else if j.target = 9 then s.arm (.tlb (sliceOf (t.index / 512) j.offset) j.offset) j.uncorrectable v
    else if j.target = 10 then s.arm (.auditSignature t.index) j.uncorrectable v
    else if !j.capOk c then s
    else if j.target = 8 then
      match t.dataLine c (j.offset / 256) with
      | some l => if (l.sectors.getD (j.offset / 64 % 4) {}).state = .invalid then s
        else s.arm (.l1Sector t.index (l1Key c (j.offset / 64))) j.uncorrectable v
      | none => s
    else
      match s.homeOf c with
      | none => s
      | some h =>
        let q := s.claim h c t
        match s.checkAccess q c.base.toNat j.offset 1 1 0 with
        | some r => s.refuse q 1 j.offset r
        | none =>
          match s.locate q 1 (c.base.toNat + j.offset) with
          | (some key, s) => s.arm (.sector (key / 64)) j.uncorrectable v
          | (none, s) => s

/-- A write to a CSR that has no behaviour of its own (R233, R235). -/
def State.csrStore (s : State) (n : Nat) (v : Word) : State :=
  let t := s.tile
  let put (t : Tile) : State := { s with tile := t }
  if n = 0x800 then put (t.writeVl v)
  else if n = 0x801 then put { t with vfmt := v.setWidth 32 }
  else if n = 0x802 then put (t.writeRmode v)
  else if n = 0x803 then put { t with srseed := v }
  else if n = 0x804 then put { t with mxmode := v.setWidth 5 }
  else if n = 0x805 then put { t with btag := v.setWidth 2 }
  else if n = 0x809 then put { t with wlimit := v.setWidth 48 }
  else if n = 0x7C3 then put { t with mhaltgrp := v.setWidth 33 }
  else if n = 0x7C5 then put { t with sporeArea := v.setWidth 48 }
  else if n = 0x7C6 then put { t with mauditf := min 16 v.toNat }
  else if n = 0xB00 then put (t.writeCycle s.clock v)
  else if n = 0xB02 then put { t with minstret := v }
  else if 0xB03 ≤ n && n ≤ 0xB12 then put (t.writePmc s.clock (n - 0xB03) v)
  else if 0x323 ≤ n && n ≤ 0x332 then put (t.writeSelect s.clock (n - 0x323) (if v.toNat ≤ 11 then v.toNat else 0))
  else if n = 0x3A0 then put { t with pmpcfg := t.pmpcfg.set 0 (pmpCfgWrite (t.pmpcfg.get 0) v) }
  else if n = 0x3A2 then put { t with pmpcfg := t.pmpcfg.set 1 (pmpCfgWrite (t.pmpcfg.get 1) v) }
  else if 0x3B0 ≤ n && n ≤ 0x3BF then put (t.writePmpAddr (n - 0x3B0) v)
  else if n = 0x300 then put { t with mpp := if v.toNat / 2 ^ 11 % 4 = 3 then .m else .u }
  else if n = 0x305 then put { t with mtvec := v &&& ~~~ 3 }
  else if n = 0x340 then put { t with mscratch := v }
  else if n = 0x341 then put { t with mepc := alignPc v }
  else if n = 0x342 then put { t with mcause := word (v.toNat % 2 ^ 63) }
  else if n = 0x343 then put { t with mtval := v }
  else s

/-- Write a CSR (R233-R235): the ones with a behaviour of their own by their own rule. -/
def State.csrWrite (s : State) (n : Nat) (v : Word) : State :=
  if n = 0x806 || n = 0x807 || n = 0x808 then { s with tile := s.tile.writeLoop (n - 0x806) v }
  else if n = 0x7C1 then
    let t := s.tile.selectLog v
    { s with tile := if v.getLsbD 6 then t.releaseLog (Fin.ofNat 16 v.toNat) else t }
  else if n = 0x7C2 then s.writeDomain v
  else if n = 0x7C4 then s.inject v
  else s.csrStore n v

/-- The item that a region saves before a CSR is written (R368). -/
def csrItem (n : Nat) : List Item :=
  if n = 0x806 || n = 0x807 || n = 0x808 then [.loop]
  else if (0x800 ≤ n && n ≤ 0x805) || n = 0x809 then [.csr (BitVec.ofNat 12 n)]
  else []

/-- The value to put into a count that the writing instruction's own retirement raises: the next instruction reads what was
written (R259). -/
def Tile.beforeRetire (t : Tile) (n : Nat) (v : Word) : Word :=
  if n = 0xB02 then v - 1
  else if 0xB03 ≤ n && n ≤ 0xB12 && t.pmcsel.toList.getD (n - 0xB03) 0 = 2 then v - 1
  else v

/-- A counter whose select a write turns to or from code 2 counts by its new select from the next instruction on (R259): the
retirement of the writing instruction itself is set against it. -/
def Tile.afterSelect (t old : Tile) (n : Nat) : Tile :=
  if 0x323 ≤ n && n ≤ 0x332 then
    let i := n - 0x323
    let was := old.pmcsel.toList.getD i 0 = 2
    let now := t.pmcsel.toList.getD i 0 = 2
    if now && !was then { t with pmc := t.pmc.set! i (t.pmc.toList.getD i 0 - 1) }
    else if was && !now then { t with pmc := t.pmc.set! i (t.pmc.toList.getD i 0 + 1) }
    else t
  else t

/-- Save and write a CSR of the current tile. -/
def setCsr (n : Nat) (v : Word) : Act Unit := do
  saveItems (csrItem n)
  modify fun s =>
    let u := s.csrWrite n (s.tile.beforeRetire n v)
    { u with tile := u.tile.afterSelect s.tile n }

end Sys2Proof.Machine
end

