-- ==== Sys2Proof/Machine/Base.lean ====
section
/-! DEFINITION. The base integer instructions: arithmetic, carry-less multiplication, jumps and branches, ordinary loads and stores,
the hardware loop, the prefix and the system instructions (R224, R230-R232, R250-R268). -/

namespace Sys2Proof.Machine

open Sys2Proof

/-! ### Arithmetic (R254, R255) -/

/-- A register-immediate instruction: `x[d] := f x[a] imm`. -/
def aluImm (i : Instr) (d a : Reg) (f : Word → Word) : State → Host.Outcome State Fault Refusal :=
  run {} i do setX d (f (← getX a))

/-- A register-register instruction with an integer rs2 operand (R230): `x[d] := f x[a] rs2`. -/
def aluReg (i : Instr) (d a b : Reg) (f : Word → Word → Word) : State → Host.Outcome State Fault Refusal :=
  run { rs2 := some b } i do
    let x ← getX a
    let y ← rs2 b
    setX d (f x y)

/-- A W form: the operation on the low 32 bits, sign-extended (R254). -/
def onLow (f : BitVec 32 → BitVec 32 → BitVec 32) (x y : Word) : Word := sext (f (lo32 x) (lo32 y))

/-- `div` for any width (R254): division by zero gives all ones, the most negative number by -1 gives itself. -/
def divS {n : Nat} (a b : BitVec n) : BitVec n := if b = 0 then BitVec.allOnes n else a.sdiv b

/-- `divu` for any width (R254). -/
def divU {n : Nat} (a b : BitVec n) : BitVec n := if b = 0 then BitVec.allOnes n else a / b

/-- `rem` for any width (R254): the remainder by zero is the dividend. -/
def remS {n : Nat} (a b : BitVec n) : BitVec n := if b = 0 then a else a.srem b

/-- `remu` for any width (R254). -/
def remU {n : Nat} (a b : BitVec n) : BitVec n := if b = 0 then a else a % b

/-- Bits 127:64 of a product (R254). -/
def mulHigh (p : Int) : Word := BitVec.ofInt 64 (p / 2 ^ 64)

/-- The 127-bit carry-less product of two numbers, bit by bit of the second (R255). -/
def clProduct (a b : Nat) : Nat → Nat
  | 0 => 0
  | i + 1 => (clProduct a b i) ^^^ (if b.testBit i then a <<< i else 0)

/-- `addi`: add a sign-extended immediate (R254). -/
def execAddi (d a : Reg) (imm : BitVec 12) (s : State) : Host.Outcome State Fault Refusal :=
  aluImm (.addi d a imm) d a (fun x => x + sext imm) s

/-- `slti`: signed compare with an immediate (R254). -/
def execSlti (d a : Reg) (imm : BitVec 12) (s : State) : Host.Outcome State Fault Refusal :=
  aluImm (.slti d a imm) d a (fun x => boolWord (x.slt (sext imm))) s

/-- `sltiu`: unsigned compare with the sign-extended immediate (R254). -/
def execSltiu (d a : Reg) (imm : BitVec 12) (s : State) : Host.Outcome State Fault Refusal :=
  aluImm (.sltiu d a imm) d a (fun x => boolWord (x.ult (sext imm))) s

/-- `xori` (R254). -/
def execXori (d a : Reg) (imm : BitVec 12) (s : State) : Host.Outcome State Fault Refusal :=
  aluImm (.xori d a imm) d a (fun x => x ^^^ sext imm) s

/-- `ori` (R254). -/
def execOri (d a : Reg) (imm : BitVec 12) (s : State) : Host.Outcome State Fault Refusal :=
  aluImm (.ori d a imm) d a (fun x => x ||| sext imm) s

/-- `andi` (R254). -/
def execAndi (d a : Reg) (imm : BitVec 12) (s : State) : Host.Outcome State Fault Refusal :=
  aluImm (.andi d a imm) d a (fun x => x &&& sext imm) s

/-- `slli`: shift by 0-63 (R254). -/
def execSlli (d a : Reg) (h : BitVec 6) (s : State) : Host.Outcome State Fault Refusal :=
  aluImm (.slli d a h) d a (fun x => x <<< h.toNat) s

/-- `srli`: shift by 0-63 (R254). -/
def execSrli (d a : Reg) (h : BitVec 6) (s : State) : Host.Outcome State Fault Refusal :=
  aluImm (.srli d a h) d a (fun x => x >>> h.toNat) s

/-- `srai`: shift by 0-63 (R254). -/
def execSrai (d a : Reg) (h : BitVec 6) (s : State) : Host.Outcome State Fault Refusal :=
  aluImm (.srai d a h) d a (fun x => x.sshiftRight h.toNat) s

/-- `addiw`: 32-bit add of an immediate, sign-extended (R254). -/
def execAddiw (d a : Reg) (imm : BitVec 12) (s : State) : Host.Outcome State Fault Refusal :=
  aluImm (.addiw d a imm) d a (fun x => sext (lo32 (x + sext imm))) s

/-- `slliw`: 32-bit shift by 0-31, sign-extended (R254). -/
def execSlliw (d a : Reg) (sh : BitVec 5) (s : State) : Host.Outcome State Fault Refusal :=
  aluImm (.slliw d a sh) d a (fun x => sext (lo32 x <<< sh.toNat)) s

/-- `srliw`: 32-bit shift by 0-31, sign-extended (R254). -/
def execSrliw (d a : Reg) (sh : BitVec 5) (s : State) : Host.Outcome State Fault Refusal :=
  aluImm (.srliw d a sh) d a (fun x => sext (lo32 x >>> sh.toNat)) s

/-- `sraiw`: 32-bit shift by 0-31, sign-extended (R254). -/
def execSraiw (d a : Reg) (sh : BitVec 5) (s : State) : Host.Outcome State Fault Refusal :=
  aluImm (.sraiw d a sh) d a (fun x => sext ((lo32 x).sshiftRight sh.toNat)) s

/-- `add` (R254). -/
def execAdd (d a b : Reg) (s : State) : Host.Outcome State Fault Refusal :=
  aluReg (.add d a b) d a b (fun x y => x + y) s

/-- `sll` (R254). -/
def execSll (d a b : Reg) (s : State) : Host.Outcome State Fault Refusal :=
  aluReg (.sll d a b) d a b (fun x y => x <<< (y.toNat % 64)) s

/-- `slt` (R254). -/
def execSlt (d a b : Reg) (s : State) : Host.Outcome State Fault Refusal :=
  aluReg (.slt d a b) d a b (fun x y => boolWord (x.slt y)) s

/-- `sltu` (R254). -/
def execSltu (d a b : Reg) (s : State) : Host.Outcome State Fault Refusal :=
  aluReg (.sltu d a b) d a b (fun x y => boolWord (x.ult y)) s

/-- `xor` (R254). -/
def execXor (d a b : Reg) (s : State) : Host.Outcome State Fault Refusal :=
  aluReg (.xor d a b) d a b (fun x y => x ^^^ y) s

/-- `srl` (R254). -/
def execSrl (d a b : Reg) (s : State) : Host.Outcome State Fault Refusal :=
  aluReg (.srl d a b) d a b (fun x y => x >>> (y.toNat % 64)) s

/-- `or` (R254). -/
def execOr (d a b : Reg) (s : State) : Host.Outcome State Fault Refusal :=
  aluReg (.or d a b) d a b (fun x y => x ||| y) s

/-- `and` (R254). -/
def execAnd (d a b : Reg) (s : State) : Host.Outcome State Fault Refusal :=
  aluReg (.and d a b) d a b (fun x y => x &&& y) s

/-- `sub` (R254). -/
def execSub (d a b : Reg) (s : State) : Host.Outcome State Fault Refusal :=
  aluReg (.sub d a b) d a b (fun x y => x - y) s

/-- `sra` (R254). -/
def execSra (d a b : Reg) (s : State) : Host.Outcome State Fault Refusal :=
  aluReg (.sra d a b) d a b (fun x y => x.sshiftRight (y.toNat % 64)) s

/-- `mul` (R254). -/
def execMul (d a b : Reg) (s : State) : Host.Outcome State Fault Refusal :=
  aluReg (.mul d a b) d a b (fun x y => x * y) s

/-- `mulh` (R254). -/
def execMulh (d a b : Reg) (s : State) : Host.Outcome State Fault Refusal :=
  aluReg (.mulh d a b) d a b (fun x y => mulHigh (x.toInt * y.toInt)) s

/-- `mulhsu` (R254). -/
def execMulhsu (d a b : Reg) (s : State) : Host.Outcome State Fault Refusal :=
  aluReg (.mulhsu d a b) d a b (fun x y => mulHigh (x.toInt * y.toNat)) s

/-- `mulhu` (R254). -/
def execMulhu (d a b : Reg) (s : State) : Host.Outcome State Fault Refusal :=
  aluReg (.mulhu d a b) d a b (fun x y => mulHigh ((x.toNat : Int) * y.toNat)) s

/-- `div` (R254). -/
def execDiv (d a b : Reg) (s : State) : Host.Outcome State Fault Refusal :=
  aluReg (.div d a b) d a b (fun x y => divS x y) s

/-- `divu` (R254). -/
def execDivu (d a b : Reg) (s : State) : Host.Outcome State Fault Refusal :=
  aluReg (.divu d a b) d a b (fun x y => divU x y) s

/-- `rem` (R254). -/
def execRem (d a b : Reg) (s : State) : Host.Outcome State Fault Refusal :=
  aluReg (.rem d a b) d a b (fun x y => remS x y) s

/-- `remu` (R254). -/
def execRemu (d a b : Reg) (s : State) : Host.Outcome State Fault Refusal :=
  aluReg (.remu d a b) d a b (fun x y => remU x y) s

/-- `clmul` (R255). -/
def execClmul (d a b : Reg) (s : State) : Host.Outcome State Fault Refusal :=
  aluReg (.clmul d a b) d a b (fun x y => let p := clProduct x.toNat y.toNat 64; word p) s

/-- `clmulr` (R255). -/
def execClmulr (d a b : Reg) (s : State) : Host.Outcome State Fault Refusal :=
  aluReg (.clmulr d a b) d a b (fun x y => let p := clProduct x.toNat y.toNat 64; word (p / 2 ^ 63)) s

/-- `clmulh` (R255). -/
def execClmulh (d a b : Reg) (s : State) : Host.Outcome State Fault Refusal :=
  aluReg (.clmulh d a b) d a b (fun x y => let p := clProduct x.toNat y.toNat 64; word (p / 2 ^ 64)) s

/-- `addw` (R254). -/
def execAddw (d a b : Reg) (s : State) : Host.Outcome State Fault Refusal :=
  aluReg (.addw d a b) d a b (onLow fun x y => x + y) s

/-- `sllw` (R254). -/
def execSllw (d a b : Reg) (s : State) : Host.Outcome State Fault Refusal :=
  aluReg (.sllw d a b) d a b (onLow fun x y => x <<< (y.toNat % 32)) s

/-- `srlw` (R254). -/
def execSrlw (d a b : Reg) (s : State) : Host.Outcome State Fault Refusal :=
  aluReg (.srlw d a b) d a b (onLow fun x y => x >>> (y.toNat % 32)) s

/-- `subw` (R254). -/
def execSubw (d a b : Reg) (s : State) : Host.Outcome State Fault Refusal :=
  aluReg (.subw d a b) d a b (onLow fun x y => x - y) s

/-- `sraw` (R254). -/
def execSraw (d a b : Reg) (s : State) : Host.Outcome State Fault Refusal :=
  aluReg (.sraw d a b) d a b (onLow fun x y => x.sshiftRight (y.toNat % 32)) s

/-- `mulw` (R254). -/
def execMulw (d a b : Reg) (s : State) : Host.Outcome State Fault Refusal :=
  aluReg (.mulw d a b) d a b (onLow fun x y => x * y) s

/-- `divw` (R254). -/
def execDivw (d a b : Reg) (s : State) : Host.Outcome State Fault Refusal :=
  aluReg (.divw d a b) d a b (onLow fun x y => divS x y) s

/-- `divuw` (R254). -/
def execDivuw (d a b : Reg) (s : State) : Host.Outcome State Fault Refusal :=
  aluReg (.divuw d a b) d a b (onLow fun x y => divU x y) s

/-- `remw` (R254). -/
def execRemw (d a b : Reg) (s : State) : Host.Outcome State Fault Refusal :=
  aluReg (.remw d a b) d a b (onLow fun x y => remS x y) s

/-- `remuw` (R254). -/
def execRemuw (d a b : Reg) (s : State) : Host.Outcome State Fault Refusal :=
  aluReg (.remuw d a b) d a b (onLow fun x y => remU x y) s

/-- `lui` (R251, R254). -/
def execLui (d : Reg) (imm : BitVec 20) (s : State) : Host.Outcome State Fault Refusal :=
  run {} (.lui d imm) (setX d (upperImm imm)) s

/-- `auipc`: `pc` plus the immediate (R251). -/
def execAuipc (d : Reg) (imm : BitVec 20) (s : State) : Host.Outcome State Fault Refusal :=
  run {} (.auipc d imm) (do setX d ((← curTile).pc + upperImm imm)) s

/-! ### Jumps and branches (R224, R251) -/

/-- Jump: cause 0 when the target is not a multiple of 4 (R224), else write the link and go (R251). -/
def jump (d : Reg) (target : Word) : Act Unit := do
  if target.toNat % 4 ≠ 0 then trap 0 target
  setX d ((← curTile).pc + 4)
  jumpTo target

/-- `jal` (R251). -/
def execJal (d : Reg) (imm : BitVec 20) (s : State) : Host.Outcome State Fault Refusal :=
  run { jump := true } (.jal d imm) (do jump d ((← curTile).pc + jumpOffset imm)) s

/-- `jalr` (R251): the target is computed before `x[d]` is written. -/
def execJalr (d a : Reg) (imm : BitVec 12) (s : State) : Host.Outcome State Fault Refusal :=
  run { jump := true } (.jalr d a imm) (do jump d (((← getX a) + sext imm) &&& ~~~ 1)) s

/-- A conditional branch (R224, R252). -/
def branch (i : Instr) (a b : Reg) (imm : BitVec 12) (f : Word → Word → Bool) : State → Host.Outcome State Fault Refusal :=
  run { rs2 := some b, jump := true } i do
    let x ← getX a
    let y ← rs2 b
    if f x y then
      let target := (← curTile).pc + branchOffset imm
      if target.toNat % 4 ≠ 0 then trap 0 target
      jumpTo target

/-- How a conditional branch or a `jalr` resolves in a state (R201): taken or not, or the target. -/
def State.resolution (s : State) (i : Instr) : Option Word :=
  let value (m : Act Word) : Option Word := match EStateM.run m s with
    | .ok v _ => some v
    | .error _ _ => none
  let test (a b : Reg) (f : Word → Word → Bool) : Option Word := value do
    let x ← getX a
    let y ← rs2 b
    return if f x y then 1 else 0
  match i with
  | .jalr _ a imm => value do return ((← getX a) + sext imm) &&& ~~~ 1
  | .beq a b _ => test a b fun x y => x == y
  | .bne a b _ => test a b fun x y => x != y
  | .blt a b _ => test a b fun x y => x.slt y
  | .bge a b _ => test a b fun x y => !x.slt y
  | .bltu a b _ => test a b fun x y => x.ult y
  | .bgeu a b _ => test a b fun x y => !x.ult y
  | _ => none

/-- `beq` (R252). -/
def execBeq (a b : Reg) (imm : BitVec 12) (s : State) : Host.Outcome State Fault Refusal :=
  branch (.beq a b imm) a b imm (fun x y => x == y) s

/-- `bne` (R252). -/
def execBne (a b : Reg) (imm : BitVec 12) (s : State) : Host.Outcome State Fault Refusal :=
  branch (.bne a b imm) a b imm (fun x y => x != y) s

/-- `blt` (R252). -/
def execBlt (a b : Reg) (imm : BitVec 12) (s : State) : Host.Outcome State Fault Refusal :=
  branch (.blt a b imm) a b imm (fun x y => x.slt y) s

/-- `bge` (R252). -/
def execBge (a b : Reg) (imm : BitVec 12) (s : State) : Host.Outcome State Fault Refusal :=
  branch (.bge a b imm) a b imm (fun x y => !x.slt y) s

/-- `bltu` (R252). -/
def execBltu (a b : Reg) (imm : BitVec 12) (s : State) : Host.Outcome State Fault Refusal :=
  branch (.bltu a b imm) a b imm (fun x y => x.ult y) s

/-- `bgeu` (R252). -/
def execBgeu (a b : Reg) (imm : BitVec 12) (s : State) : Host.Outcome State Fault Refusal :=
  branch (.bgeu a b imm) a b imm (fun x y => !x.ult y) s

/-! ### Ordinary loads and stores (R257) -/

/-- An ordinary load of `n` bytes into `x[d]` (R257). -/
def load (i : Instr) (d a : Reg) (imm : BitVec 12) (n : Nat) (f : Nat → Word) : State → Host.Outcome State Fault Refusal :=
  run {} i do
    let v ← loadPrivate ((← getX a) + sext imm) n
    setX d (f v)

/-- An ordinary store of the low `n` bytes of the rs2 operand (R257). -/
def store (i : Instr) (a b : Reg) (imm : BitVec 12) (n : Nat) : State → Host.Outcome State Fault Refusal :=
  run { rs2 := some b } i do
    let x ← getX a
    let y ← rs2 b
    storePrivate (x + sext imm) n y

/-- `lb` (R257). -/
def execLb (d a : Reg) (imm : BitVec 12) (s : State) : Host.Outcome State Fault Refusal :=
  load (.lb d a imm) d a imm 1 (fun v => sext (BitVec.ofNat 8 v)) s

/-- `lh` (R257). -/
def execLh (d a : Reg) (imm : BitVec 12) (s : State) : Host.Outcome State Fault Refusal :=
  load (.lh d a imm) d a imm 2 (fun v => sext (BitVec.ofNat 16 v)) s

/-- `lw` (R257). -/
def execLw (d a : Reg) (imm : BitVec 12) (s : State) : Host.Outcome State Fault Refusal :=
  load (.lw d a imm) d a imm 4 (fun v => sext (BitVec.ofNat 32 v)) s

/-- `ld` (R257). -/
def execLd (d a : Reg) (imm : BitVec 12) (s : State) : Host.Outcome State Fault Refusal :=
  load (.ld d a imm) d a imm 8 (fun v => word v) s

/-- `lbu` (R257). -/
def execLbu (d a : Reg) (imm : BitVec 12) (s : State) : Host.Outcome State Fault Refusal :=
  load (.lbu d a imm) d a imm 1 (fun v => word v) s

/-- `lhu` (R257). -/
def execLhu (d a : Reg) (imm : BitVec 12) (s : State) : Host.Outcome State Fault Refusal :=
  load (.lhu d a imm) d a imm 2 (fun v => word v) s

/-- `lwu` (R257). -/
def execLwu (d a : Reg) (imm : BitVec 12) (s : State) : Host.Outcome State Fault Refusal :=
  load (.lwu d a imm) d a imm 4 (fun v => word v) s

/-- `sb` (R257). -/
def execSb (a b : Reg) (imm : BitVec 12) (s : State) : Host.Outcome State Fault Refusal :=
  store (.sb a b imm) a b imm 1 s

/-- `sh` (R257). -/
def execSh (a b : Reg) (imm : BitVec 12) (s : State) : Host.Outcome State Fault Refusal :=
  store (.sh a b imm) a b imm 2 s

/-- `sw` (R257). -/
def execSw (a b : Reg) (imm : BitVec 12) (s : State) : Host.Outcome State Fault Refusal :=
  store (.sw a b imm) a b imm 4 s

/-- `sd` (R257). -/
def execSd (a b : Reg) (imm : BitVec 12) (s : State) : Host.Outcome State Fault Refusal :=
  store (.sd a b imm) a b imm 8 s

/-! ### CSR instructions (R234, R259) -/

/-- A CSR instruction (R259): `write` says whether it writes, `f` what. The undo pool is asked for the CSR and the destination
together, so that a trap leaves both (R14, R368). -/
def csrOp (i : Instr) (d : Reg) (csr : BitVec 12) (write : Bool) (src : Act Word) (f : Word → Word → Word) :
    State → Host.Outcome State Fault Refusal :=
  run {} i do
    let n := csr.toNat
    let t ← curTile
    if !csrExists n || (csrMachine n && t.mode = .u) || (write && csrReadOnly n) then illegal i
    let old := (← get).csrRead n
    let x ← src
    let new := f old x
    if write && csrReserved n new then illegal i
    saveItems ((if write then csrItem n else []) ++ [.x d])
    if write then setCsr n new
    setX d old

/-- `csrrw` (R259). -/
def execCsrrw (d a : Reg) (csr : BitVec 12) (s : State) : Host.Outcome State Fault Refusal :=
  csrOp (.csrrw d a csr) d csr true (getX a) (fun _ x => x) s

/-- `csrrs` (R259): no write with `rs1` = `x0` (R234). -/
def execCsrrs (d a : Reg) (csr : BitVec 12) (s : State) : Host.Outcome State Fault Refusal :=
  csrOp (.csrrs d a csr) d csr (a ≠ 0) (getX a) (fun t x => t ||| x) s

/-- `csrrc` (R259). -/
def execCsrrc (d a : Reg) (csr : BitVec 12) (s : State) : Host.Outcome State Fault Refusal :=
  csrOp (.csrrc d a csr) d csr (a ≠ 0) (getX a) (fun t x => t &&& ~~~ x) s

/-- `csrrwi` (R259). -/
def execCsrrwi (d : Reg) (u : BitVec 5) (csr : BitVec 12) (s : State) : Host.Outcome State Fault Refusal :=
  csrOp (.csrrwi d u csr) d csr true (pure (zext u)) (fun _ x => x) s

/-- `csrrsi` (R259): no write with a zero immediate (R234). -/
def execCsrrsi (d : Reg) (u : BitVec 5) (csr : BitVec 12) (s : State) : Host.Outcome State Fault Refusal :=
  csrOp (.csrrsi d u csr) d csr (u ≠ 0) (pure (zext u)) (fun t x => t ||| x) s

/-- `csrrci` (R259). -/
def execCsrrci (d : Reg) (u : BitVec 5) (csr : BitVec 12) (s : State) : Host.Outcome State Fault Refusal :=
  csrOp (.csrrci d u csr) d csr (u ≠ 0) (pure (zext u)) (fun t x => t &&& ~~~ x) s

/-! ### System instructions (R260-R264) -/

/-- `ecall` (R260): cause 8 from U-mode, 11 from M-mode. -/
def execEcall (s : State) : Host.Outcome State Fault Refusal :=
  run { jump := true } .ecall (do trap (if (← curTile).mode = .u then 8 else 11) 0) s

/-- `ebreak` (R260): cause 3 with `mtval` = `pc`. -/
def execEbreak (s : State) : Host.Outcome State Fault Refusal :=
  run { jump := true } .ebreak (do trap 3 (← curTile).pc) s

/-- Whether any of the five queues holds a message (R264), also one that an open region has consumed and keeps (R370, log 68). -/
def Tile.anyQueued (t : Tile) : Bool := t.queues.toList.any (fun q => !q.isEmpty) || !t.xqueue.isEmpty

/-- Whether a tile is a member of a formed gang, follower or leader (R204, R264). -/
def Tile.inGang (t : Tile) : Bool := t.gang.member

/-- `wfi` (R264): stalls until a queue holds a message; illegal for a gang member. -/
def execWfi (s : State) : Host.Outcome State Fault Refusal :=
  run {} .wfi (do
    let t ← curTile
    if t.inGang then illegal .wfi
    if !t.anyQueued then stall .wfi) s

/-- `mret` (R263): illegal in U-mode. -/
def execMret (s : State) : Host.Outcome State Fault Refusal :=
  run { jump := true } .mret (do
    if (← curTile).mode = .u then illegal .mret
    onTile fun t => ({ t.retire with pc := t.pc }).mret
    throw .leave) s

/-! ### The hardware loop and the prefix (R230-R232, R265) -/

/-- `lp.set` (R265): the body is `pc` + 4 to `pc` + 4 L; L = 0 is illegal. -/
def execLpSet (a : Reg) (l : BitVec 8) (s : State) : Host.Outcome State Fault Refusal :=
  run { jump := true } (.lpSet a l) (do
    if l = 0 then illegal (.lpSet a l)
    let n ← getX a
    saveItems [.loop]
    let t ← curTile
    let stop := t.pc + 4 * zext l
    onTile fun t =>
      ({ t.retire with loop := { start := t.pc + 4, stop := stop, count := n, level := t.level },
                       pc := if n = 0 then stop + 4 else t.pc + 4 } : Tile)
    throw .leave) s

/-- A word that is no instruction (R221, R223): cause 2 with `mtval` = the word. -/
def execIllegalInstruction (w : BitVec 32) (s : State) : Host.Outcome State Fault Refusal :=
  finish s (EStateM.run (trap 2 (zext w)) s)

/-! ### CSR writes as steps of their own (R233, R267, R414, R450, R454) -/

/-- A CSR write as a step: nothing for a value that sets an RSV bit of the CSR's map (R13, R234, log 63). -/
def csrStep (n : Nat) (v : Word) (a : Act Unit) : State → Host.Outcome State Fault Refusal :=
  event (if csrReserved n v then pure () else a)

/-- A write to `lpstart`, `lpend` or `lpcount` (R267). -/
def execLoopCsrWrite (which : Fin 3) (value : Word) (s : State) : Host.Outcome State Fault Refusal :=
  csrStep (0x806 + which.val) value (setCsr (0x806 + which.val) value) s

/-- A write to `mdomain` (R454). -/
def execMdomainWrite (value : Word) (s : State) : Host.Outcome State Fault Refusal :=
  csrStep 0x7C2 value (modify (·.writeDomain value)) s

/-- A write of an injection descriptor to `minject` (R449, R450). -/
def execMinjectWrite (value : Word) (s : State) : Host.Outcome State Fault Refusal :=
  csrStep 0x7C4 value (modify (·.inject value)) s

/-- A write to `mfaultlog` that selects (R414). -/
def execMfaultlogSelect (value : Word) (s : State) : Host.Outcome State Fault Refusal :=
  csrStep 0x7C1 value (onTile (·.selectLog value)) s

/-- A write to `mfaultlog` with release set (R414). -/
def execMfaultlogRelease (value : Word) (s : State) : Host.Outcome State Fault Refusal :=
  csrStep 0x7C1 value (onTile fun t => (t.selectLog value).releaseLog (Fin.ofNat 16 value.toNat)) s

/-- A write to a CSR that has no behaviour of its own (R233, R235). -/
def execCsrRegisterWrite (csr : BitVec 12) (value : Word) (s : State) : Host.Outcome State Fault Refusal :=
  csrStep csr.toNat value (do saveItems (csrItem csr.toNat); modify (·.csrStore csr.toNat value)) s

end Sys2Proof.Machine
end

