-- ==== Sys2Proof/Machine/Caps.lean ====
section
/-! DEFINITION. Cap management: allocation, freeing, carving, narrowing, shares, sealing and moves (R71, R74-R79, R162, R318-R326,
R369). -/

namespace Sys2Proof.Machine

open Sys2Proof

/-! ### What the instructions of the group share (R318) -/

/-- Naming `c30` where the instruction writes, nulls, changes or lends it is illegal (R223). -/
def guardC30 (i : Instr) (rs : List Reg) : Act Unit := if rs.contains 30 then illegal i else pure ()

/-- An instruction that no region admits (R369). -/
def outsideRegions (i : Instr) : Act Unit := do if (← curTile).inRegion then illegal i

/-- Kinds that the group refuses with reason 4: ring caps, and host caps where the instruction does not admit them (R318). -/
def guardKind (r : Reg) (c : Cap) (host : Bool) : Act Unit :=
  requireCap (c.kind ≠ .handle && c.kind ≠ .slot && (host || c.kind ≠ .host)) r 4

/-- A source that must be a cap (R54, R318). -/
def sourceCap (r : Reg) (host : Bool) : Act Cap := do
  let c ← useCap r
  requireCap (c.kind ≠ .null) r 4
  guardKind r c host
  return c

/-- A destination register that holds a lent cap stalls the instruction too (R65, log 16). -/
def freeDest (r : Reg) : Act Unit := do lentStall r (← getC r)

/-- Write several cap registers, all saved first (R368). -/
def putCaps (rs : List (Reg × Cap)) : Act Unit := do
  saveItems (rs.map fun p => .c p.1)
  modify fun s => rs.foldl (fun s p =>
    { s.rearm (fun i => i = .cap s.tile.index p.1) with tile := s.tile.setC p.1 p.2 }) s

/-- An exclusive cap issued from an entry, with the other fields of a cap (R75, R78, R79, R440). -/
def State.issue (s : State) (c : Cap) (e : DirEntry) : Cap :=
  s.sign { c with base := BitVec.ofNat 48 e.base, length := BitVec.ofNat 40 e.length, mode := .exclusive, weight := 65536, foldOp := 0,
                  lent := false, z := e.poison ≠ 0, buffer := BitVec.ofNat 24 e.number, generation := e.generation,
                  depth := BitVec.ofNat 3 e.depth }

/-! ### Homes: free, carve and merge (R71, R77-R79) -/

/-- Free a buffer; a freed child counts its Carved parent down, and the last one frees it (R71). `n` bounds the chain of parents. -/
def State.freeBuffer (s : State) (h : HomeId) : Nat → Nat → State
  | 0, b => s.freeEntry h b
  | n + 1, b =>
    let link := (s.entry h b).bind (·.link)
    let s := s.freeEntry h b
    match link with
    | none => s
    | some p =>
      match s.entry h p with
      | none => s
      | some e =>
        if e.state ≠ .carved then s
        else if e.count ≤ 1 then State.freeBuffer s h n p
        else s.change h p fun e => { e with count := e.count - 1 }

/-- Whether the home counts what a cap would give back (R71): a share's weight is no more than the count. -/
def DirEntry.owes (e : DirEntry) (c : Cap) : Bool :=
  match c.mode with
  | .exclusive => true
  | .exec => 1 ≤ e.count
  | _ => c.weight.toNat ≤ e.count

/-- What a cap gives back at its home (R71, R77): the buffer, a weight or a count. -/
def State.giveBack (s : State) (h : HomeId) (e : DirEntry) (c : Cap) : State :=
  match c.mode with
  | .exclusive => s.freeBuffer h s.dirs.length e.number
  | .exec => if e.count ≤ 1 then s.freeBuffer h s.dirs.length e.number else s.change h e.number fun e => { e with count := e.count - 1 }
  | _ => if e.count ≤ c.weight.toNat then s.freeBuffer h s.dirs.length e.number
         else s.change h e.number fun e => { e with count := e.count - c.weight.toNat }

/-- The state that an entry must have for a cap of a mode. -/
def CapMode.state : CapMode → DirState
  | .exclusive => .exclusive
  | .read => .readShared
  | .fold => .foldShared
  | .exec => .execShared

/-- Poisoned sectors of a range of a home. -/
def State.poisonIn (s : State) (h : HomeId) (base len : Nat) : Nat :=
  ((List.range (len / 64)).filter fun i =>
    match h with
    | .die _ => (s.frameOf (base + 64 * i)).any fun pa => s.poisoned (hbmKey pa / 64)
    | _ => s.poisoned ((h.space.base + base + 64 * i) / 64)).length

/-- A new entry of a home with a range of a parent (R78). -/
def State.addChild (s : State) (h : HomeId) (p : DirEntry) (base len owner parent : Nat) : Option (DirEntry × State) :=
  match s.issueNumber h with
  | none => none
  | some (b, g, s) =>
    let e : DirEntry :=
      { home := h, number := b, base := base, length := len, state := .exclusive, link := some parent, generation := g,
        poison := if p.poison = 0 then 0 else min 65535 (s.poisonIn h base len), domain := p.domain, owner := owner }
    some (e, { s with dirs := s.dirs.filter (fun o => !(o.home = h && o.number = b)) ++ [e] })

/-- The carve of an entry (R78): the parent becomes Carved with count 2, and two children hold the parts. -/
def State.carve (s : State) (h : HomeId) (e : DirEntry) (at' owner : Nat) : Option (DirEntry × DirEntry × State) :=
  let (p, _, s) := s.bump h e.number fun e => { e with state := .carved, count := 2, owner := owner }
  match s.addChild h e e.base at' owner p with
  | none => none
  | some (lo, s) =>
    match s.addChild h e (e.base + at') (e.length - at') owner p with
    | none => none
    | some (hi, s) => some (lo, hi, s)

/-- The merge of two children (R79): the parent becomes Exclusive, both children Free. Answers the parent's number. -/
def State.mergeInto (s : State) (h : HomeId) (a b : DirEntry) (p owner : Nat) : Nat × State :=
  let (p, _, s) := s.bump h p fun e => { e with state := .exclusive, count := 0, owner := owner, poison := min 65535 (a.poison + b.poison) }
  (p, (s.endEntry h a.number).endEntry h b.number)

/-! ### The instructions -/

/-- `cap.alloc` (R319): a zeroed buffer of the tile's own TMEM heap (k = 1) or of its cluster's heap (k = 2); the null cap when the
home has none. -/
def execCapAlloc (d a : Reg) (k : BitVec 5) (s : State) : Host.Outcome State Fault Refusal :=
  run {} (.capAlloc d a k) (do
    guardC30 (.capAlloc d a k) [d]
    if k ≠ 1 && k ≠ 2 then illegal (.capAlloc d a k)
    outsideRegions (.capAlloc d a k)
    let n := (← getX a).toNat
    requireCap (n ≠ 0 && n < 2 ^ 40) d 9
    freeDest d
    let s ← get
    let t := s.tile
    let h := if k = 1 then HomeId.tile t.index else .cluster (clusterOf t.index)
    match s.alloc h n (t.principal s.device) t.mdomain 0 with
    | none => putCaps [(d, Cap.null)]
    | some (e, s) =>
      set s
      let all : Rights := ⟨true, true, true, true, true, true⟩
      putCaps [(d, s.capOf e (if k = 1 then .tmem else .cmem) (if k = 1 then t.homeName else clusterOf t.homeName) all 0)]) s

/-- `cap.free` (R320, R77): the buffer or share goes back to its home and the register is nulled. A share's dirty bytes and partial
values reach the home first, and remote stores are complete (R113, R141). -/
def execCapFree (a : Reg) (s : State) : Host.Outcome State Fault Refusal :=
  run {} (.capFree a) (do
    guardC30 (.capFree a) [a]
    outsideRegions (.capFree a)
    let c ← sourceCap a true
    if c.kind ≠ .host then guardRegions a c
    lentStall a c
    if c.kind ≠ .host then
      if c.mode ≠ .exclusive || c.kind = .remote then drain c
      let _ ← homeAct a c [c.mode.state] (c.mode = .exclusive) (if c.mode = .exclusive then 3 else 2) 0 [c.weight.toNat, c.mode.code]
        fun h e => do
          if !e.owes c then refuseHome a c h 2
          modify fun s => s.giveBack h e c
          return e
    putCaps [(a, Cap.null)]
    dropIfLast c) s

/-- `cap.carve` (R78, R321): the low child goes to `c[d]`, the high child to `c[a]`. -/
def execCapCarve (d a b : Reg) (s : State) : Host.Outcome State Fault Refusal :=
  run { rs2 := some b } (.capCarve d a b) (do
    guardC30 (.capCarve d a b) [d, a]
    outsideRegions (.capCarve d a b)
    let c ← sourceCap a false
    requireCap (c.eff.p && c.mode = .exclusive && (c.kind = .dmem || c.kind = .remote)) a 4
    let n := (← rs2 b).toNat
    requireCap (d ≠ a && c.depth = 0 && n % 256 = 0 && 0 < n && n < c.length.toNat) a 10
    guardRegions a c
    lentStall a c
    freeDest d
    drain c
    if c.kind = .remote then
      match ← askEntries a c 11 [n, c.base.toNat, c.length.toNat] 3 with
      | [_, lo, hi] =>
        let s ← get
        putCaps [(d, s.issue c lo), (a, s.issue c hi)]
      | _ => pure ()
    else
      let (h, e) ← homeEntry a c [.exclusive] true 10
      let s ← get
      let owner := s.tile.principal s.device
      if c.base.toNat ≠ e.base || c.length.toNat ≠ e.length || e.depth ≠ 0 then refuseHome a c h 10
      match s.carve h e n owner with
      | none => homeFail a 10
      | some (lo, hi, s) =>
        set s
        putCaps [(d, s.issue c lo), (a, s.issue c hi)]
    dropIfLast c) s

/-- Whether two entries of a home can be merged for a principal (R79): both exclusive and its own, adjacent children of one Carved parent, at
depth 0. Answers the parent's number. -/
def State.mergeable (s : State) (h : HomeId) (a b : DirEntry) (principal : Nat) : Option Nat :=
  a.link.bind fun p =>
    let parent := (s.entry h p).any fun e => e.state = .carved
    let own (e : DirEntry) : Bool := e.state = .exclusive && e.owner = principal && e.depth = 0
    let adjacent := a.base + a.length = b.base || b.base + b.length = a.base
    if parent && b.link = some p && a.number ≠ b.number && own a && own b && adjacent then some p else none

/-- `cap.merge` (R79, R321): two children back into their Carved parent. -/
def execCapMerge (d a b : Reg) (s : State) : Host.Outcome State Fault Refusal :=
  run {} (.capMerge d a b) (do
    guardC30 (.capMerge d a b) [d, a, b]
    outsideRegions (.capMerge d a b)
    let ca ← useCap a
    let cb ← useCap b
    requireCap (ca.kind ≠ .null) a 4
    guardKind a ca false
    requireCap (cb.kind ≠ .null) b 4
    guardKind b cb false
    requireCap (a ≠ b) a 10
    guardRegions a ca
    guardRegions b cb
    lentStall a ca
    lentStall b cb
    freeDest d
    requireCap (ca.mode = .exclusive && cb.mode = .exclusive && ca.kind = cb.kind && ca.location = cb.location &&
      ca.depth = 0 && cb.depth = 0) a 10
    drain ca
    drain cb
    let result := { ca with rights := ca.rights.and cb.rights }
    if ca.kind = .remote then
      match ← askEntries a ca 12 [cb.buffer.toNat, cb.generation.toNat] 3 with
      | [_, _, e] => putCaps [(a, Cap.null), (b, Cap.null), (d, (← get).issue result e)]
      | _ => pure ()
    else
      let (h, ea) ← homeEntry a ca [.exclusive] false 10
      let (h', eb) ← homeEntry b cb [.exclusive] false 10
      let s ← get
      let owner := s.tile.principal s.device
      match (if h = h' then s.mergeable h ea eb owner else none) with
      | none => refuseHome a ca h 10
      | some p =>
        let (p, s) := s.mergeInto h ea eb p owner
        set s
        let e ← entryNow a h p
        putCaps [(a, Cap.null), (b, Cap.null), (d, s.issue result e)]
    dropIfLast ca
    dropIfLast cb) s

/-- `cap.narrow` (R322): a shorter length and fewer rights; no home is involved. -/
def execCapNarrow (d a b : Reg) (s : State) : Host.Outcome State Fault Refusal :=
  run { rs2 := some b } (.capNarrow d a b) (do
    guardC30 (.capNarrow d a b) [d, a]
    let c ← sourceCap a true
    let v := (← rs2 b).toNat
    requireCap (v / 2 ^ 46 = 0) a 9
    let n := v % 2 ^ 40
    requireCap (n ≠ 0 && n ≤ c.length.toNat) a 5
    lentStall a c
    freeDest d
    let s ← get
    let c' := s.sign { c with length := BitVec.ofNat 40 n, rights := c.rights.and (Rights.ofCode (v / 2 ^ 40 % 64)) }
    putCaps (if d = a then [(d, c')] else [(a, Cap.null), (d, c')])) s

/-- The notice of a split that a tile posts to the cap's home (R72, R74). -/
def postSplit (c : Cap) (m : CapMode) (op : BitVec 5) (w : Nat) : Act Unit := do
  let s ← get
  match s.homeOf c with
  | none => pure ()
  | some h =>
    if c.kind = .remote then
      modify fun s => (s.notify c (if m = .fold then 5 else 4) [w, op.toNat]).mapEntry h c.buffer.toNat fun e =>
        { e with state := m.state, count := 65536, foldOp := op }
    else modify fun s => s.post h c [.notice m.state op]

/-- The split of a share or of an exclusive cap (R74, R323), its checks in the order of R74; the source of an exec split may be `c30`, which
it does not change (R223). `fold`: `cap.split.f`. -/
def split (i : Instr) (fold : Bool) (d a b : Reg) : Act Unit := do
  let mode := (← getC a).mode
  guardC30 i (if mode = .exec then [d] else [d, a])
  if (mode = .exclusive || mode = .exec) && (← getC a).kind ≠ .null then outsideRegions i
  let c ← sourceCap a false
  requireCap (c.eff.p && d ≠ a) a 4
  let v := (← rs2 b).toNat
  let w := v % 2 ^ 17
  let f := BitVec.ofNat 5 (v / 2 ^ 32)
  requireCap (if fold then v / 2 ^ 17 % 2 ^ 15 = 0 && v / 2 ^ 37 = 0 else v / 2 ^ 17 = 0) a 9
  match c.mode with
  | .exec =>
    requireCap (!fold) a 4
    lentStall a c
    freeDest d
    let _ ← homeAct a c [.execShared] false 2 7 [] fun h e => do
      if e.count ≥ 2 ^ 24 - 1 then refuseHome a c h 9
      modify fun s => s.change h e.number fun e => { e with count := e.count + 1 }
      return e
    putCaps [(d, (← get).sign c)]
  | .exclusive =>
    guardRegions a c
    if fold then
      requireCap (c.depth = 0) a 12
      requireCap (validFoldOp f) a 11
    requireCap (1 ≤ w && w + 1 ≤ c.weight.toNat) a 9
    lentStall a c
    freeDest d
    let m : CapMode := if fold then .fold else .read
    let op : BitVec 5 := if fold then f else 0
    postSplit c m op w
    let s ← get
    putCaps [(a, s.sign { c with mode := m, foldOp := op, weight := c.weight - BitVec.ofNat 17 w }),
             (d, s.sign { c with mode := m, foldOp := op, weight := BitVec.ofNat 17 w })]
  | m =>
    requireCap (m = (if fold then CapMode.fold else .read)) a 4
    requireCap (!fold || f = 0) a 11
    requireCap (1 ≤ w && w + 1 ≤ c.weight.toNat) a 9
    lentStall a c
    freeDest d
    let s ← get
    putCaps [(a, s.sign { c with weight := c.weight - BitVec.ofNat 17 w }), (d, s.sign { c with weight := BitVec.ofNat 17 w })]

/-- `cap.split.r` (R74, R323). -/
def execCapSplitR (d a b : Reg) (s : State) : Host.Outcome State Fault Refusal :=
  run { rs2 := some b } (.capSplitR d a b) (split (.capSplitR d a b) false d a b) s

/-- `cap.split.f` (R74, R323). -/
def execCapSplitF (d a b : Reg) (s : State) : Host.Outcome State Fault Refusal :=
  run { rs2 := some b } (.capSplitF d a b) (split (.capSplitF d a b) true d a b) s

/-- The home makes a shared buffer Exclusive for the current tile (R71): the new entry. -/
def makeExclusive (r : Reg) (h : HomeId) (e : DirEntry) : Act DirEntry := do
  let s ← get
  let (b, _, s) := s.bump h e.number fun e => { e with state := .exclusive, count := 0, foldOp := 0, owner := s.tile.principal s.device }
  set s
  entryNow r h b

/-- `cap.join` of two shares (R75, R323). -/
def execCapJoin (d a b : Reg) (s : State) : Host.Outcome State Fault Refusal :=
  run {} (.capJoin d a b) (do
    guardC30 (.capJoin d a b) [d, a, b]
    let x ← getC a
    let y ← getC b
    if x.kind ≠ .null && y.kind ≠ .null && ((x.mode = .exec && y.mode = .exec) ||
        ((x.mode = .read || x.mode = .fold) && y.mode = x.mode && x.weight.toNat + y.weight.toNat = 65536)) then
      outsideRegions (.capJoin d a b)
    let ca ← useCap a
    let cb ← useCap b
    let sum := ca.weight.toNat + cb.weight.toNat
    requireCap (a ≠ b) a 4
    requireCap (ca.kind ≠ .null) a 4
    guardKind a ca false
    requireCap (ca.mode ≠ .exclusive && ca.mode = cb.mode && ca.kind = cb.kind && ca.location = cb.location &&
      ca.buffer = cb.buffer && ca.domain = cb.domain) a 4
    requireCap (ca.generation = cb.generation) a 2
    requireCap (ca.mode ≠ .fold || ca.foldOp = cb.foldOp) a 11
    requireCap (ca.mode = .exec || sum ≤ 65536) a 9
    if ca.mode ≠ .exec && sum = 65536 then
      guardRegions a ca
      guardRegions b cb
    lentStall a ca
    lentStall b cb
    freeDest d
    let j := { ca with rights := ca.rights.and cb.rights, z := ca.z || cb.z }
    match ca.mode with
    | .exec =>
      let _ ← homeAct a ca [.execShared] false 2 8 [] fun h e => do
        if e.count ≤ 1 then refuseHome a ca h 2
        modify fun s => s.change h e.number fun e => { e with count := e.count - 1 }
        return e
      putCaps [(a, Cap.null), (b, Cap.null), (d, (← get).sign j)]
    | _ =>
      if sum = 65536 then
        drain ca
        let (_, e) ← homeAct a ca [ca.mode.state] false 2 9 [] fun h e => do
          if e.count ≠ 65536 then refuseHome a ca h 2
          makeExclusive a h e
        putCaps [(a, Cap.null), (b, Cap.null), (d, (← get).issue j e)]
        dropIfLast ca
      else putCaps [(a, Cap.null), (b, Cap.null), (d, (← get).sign { j with weight := BitVec.ofNat 17 sum })]) s

/-- Whether the home would grant a reclaim of a share now (R76). -/
def reclaimable (e : DirEntry) (c : Cap) : Bool := if c.mode = .exec then e.count = 1 else e.count = c.weight.toNat

/-- `cap.join cd, cs1, c0`: the reclaim (R76, R323): it waits until the home's count leaves only this share. -/
def execCapReclaim (d a : Reg) (s : State) : Host.Outcome State Fault Refusal :=
  run {} (.capReclaim d a) (do
    guardC30 (.capReclaim d a) [d, a]
    outsideRegions (.capReclaim d a)
    let c ← sourceCap a false
    requireCap (c.mode ≠ .exclusive) a 4
    guardRegions a c
    lentStall a c
    freeDest d
    drain c
    let (_, e) ← homeAct a c [c.mode.state] false 2 10 [c.weight.toNat, c.mode.code] fun h e => do
      if !reclaimable e c then stall (.reclaim a)
      makeExclusive a h e
    putCaps [(a, Cap.null), (d, (← get).issue c e)]
    dropIfLast c) s

/-- `cap.seal.x` (R324): an exclusive cap becomes an exec share of the same generation. -/
def execCapSealX (d a : Reg) (s : State) : Host.Outcome State Fault Refusal :=
  run {} (.capSealX d a) (do
    guardC30 (.capSealX d a) [d, a]
    outsideRegions (.capSealX d a)
    let c ← sourceCap a false
    requireCap (c.eff.p && c.mode = .exclusive) a 4
    guardRegions a c
    lentStall a c
    freeDest d
    drain c
    let _ ← homeAct a c [.exclusive] true 3 6 [] fun h e => do
      modify fun s => s.change h e.number fun e => { e with state := .execShared, count := 1, owner := s.tile.principal s.device }
      return e
    let s ← get
    let c' := s.sign { c with mode := .exec, weight := 0 }
    putCaps (if d = a then [(d, c')] else [(a, Cap.null), (d, c')])) s

/-- `cap.mov` (R325): the source is nulled; with `cd` = `cs` nothing changes. -/
def execCapMov (d a : Reg) (s : State) : Host.Outcome State Fault Refusal :=
  run {} (.capMov d a) (do
    guardC30 (.capMov d a) [d, a]
    let c ← useCap a
    lentStall a c
    freeDest d
    if d ≠ a then putCaps [(d, c), (a, Cap.null)]) s

/-- `cap.get` (R325): a word of a cap; the check code reads 0 in U-mode (R53). A lent cap does not stall it. -/
def execCapGet (d a b : Reg) (s : State) : Host.Outcome State Fault Refusal :=
  run { rs2 := some b } (.capGet d a b) (do
    let c ← useCap a
    let i := (← rs2 b).toNat
    requireCap (i ≤ 3) a 9
    let w := c.words.getD i 0
    setX d (word (if i = 3 && (← curTile).mode = .u then w % 2 ^ 48 else w))) s

/-- `cap.fmt` (R326): a new format descriptor; bits 31:30 must be 0. -/
def execCapFmt (d a b : Reg) (s : State) : Host.Outcome State Fault Refusal :=
  run { rs2 := some b } (.capFmt d a b) (do
    guardC30 (.capFmt d a b) [d, a]
    let c ← sourceCap a true
    let f := lo32 (← rs2 b)
    requireCap (f.toNat / 2 ^ 30 = 0) a 4
    lentStall a c
    freeDest d
    let s ← get
    let c' := s.sign { c with format := f }
    putCaps (if d = a then [(d, c')] else [(a, Cap.null), (d, c')])) s

end Sys2Proof.Machine
end

