-- ==== Sys2Proof/Machine/Vector.lean ====
section
/-! DEFINITION. The vector instructions (R288-R314) and the scalar conversions (R284-R287). -/

namespace Sys2Proof.Machine

open Sys2Proof

/-! ### Elements and the active set (R288, R291) -/

/-- Width in bits of a type field (R292, I and W). -/
def intWidth (t : BitVec 2) : Nat := 2 ^ (3 + t.toNat)

/-- Elements of a width in a register (R288). -/
def elemCount (w : Nat) : Nat := 1024 / w

/-- Element `i` of width `w` at bit `w * i` (R288). -/
def VReg.el (v : VReg) (w i : Nat) : Nat := v.bits.toNat / 2 ^ (w * i) % 2 ^ w

/-- Bit `i` of a register. -/
def VReg.bit (v : VReg) (i : Nat) : Bool := v.bits.getLsbD i

/-- Whether a lane that bits `pos` to `pos + w - 1` touch is poisoned (R313). -/
def VReg.bad (v : VReg) (pos w : Nat) : Bool := v.poison.getLsbD (pos / 64) || v.poison.getLsbD ((pos + w - 1) / 64)

/-- Whether element `i` of width `w` lies in a poisoned lane. -/
def VReg.badEl (v : VReg) (w i : Nat) : Bool := v.bad (w * i) w

/-- Read a v register; an armed error in a lane poisons it, with origin 0xFFFF_FFFF_FFFF (R435). -/
def getV (r : Reg) : Act VReg := do
  let s ← get
  let here (a : ArmedError) : Bool := match a.item with
    | .vLane t r' _ => t = s.tile.index && r' = r
    | _ => false
  let mine := s.armed.filter here
  if mine.isEmpty then return s.tile.v.get r
  else
    let v := s.tile.v.get r
    let lanes := mine.filterMap fun a => match a.item with
      | .vLane _ _ l => if a.uncorrectable then some l else none
      | _ => none
    let v' : VReg := { v with poison := lanes.foldl (fun (p : BitVec 16) l => p ||| BitVec.ofNat 16 (2 ^ l)) v.poison
                              origin := if lanes.isEmpty then v.origin else BitVec.allOnes 48 }
    set { s with armed := s.armed.filter (fun a => !here a), tile := s.tile.setV r v' }
    return v'

/-- The number of elements below the length (R291). -/
def Tile.vcount (t : Tile) (w : Nat) : Nat := min t.vlen (elemCount w)

/-- Whether element `i` is active (R291). -/
def Tile.active (t : Tile) (w i : Nat) : Bool := i < t.vcount w && (!t.vmk || (t.v.get 0).bit i)

/-- The active elements in ascending order (R291). -/
def Tile.activeSet (t : Tile) (w : Nat) : List Nat := (List.range (elemCount w)).filter (t.active w)

/-- Consume the mask when it is read from a poisoned lane (R314). -/
def readMask (count : Nat) (uses : Bool) : Act Unit := do
  if uses then
    let v ← getV 0
    if (List.range count).any fun i => v.badEl 1 i then consume (zext v.origin)

/-- Consume the mask of an element-wise instruction of a width (R314). -/
def readActive (w : Nat) : Act Unit := do
  let t ← curTile
  readMask (t.vcount w) t.vmk

/-! ### Writing elements (R218, R313) -/

/-- A field that an instruction writes: its place, its value and which sources in poisoned lanes it read. -/
structure Field where
  pos : Nat
  width : Nat
  value : Nat
  pa : Bool := false
  pb : Bool := false
  pd : Bool := false
deriving DecidableEq, Repr

/-- Whether a field is poisoned. -/
def Field.bad (f : Field) : Bool := f.pa || f.pb || f.pd

/-- A mask of `w` bits at a place. -/
def fieldMask (pos w : Nat) : BitVec 1024 := BitVec.ofNat 1024 ((2 ^ w - 1) * 2 ^ pos)

/-- Put the value of a field. -/
def Field.put (f : Field) (b : BitVec 1024) : BitVec 1024 :=
  (b &&& ~~~ fieldMask f.pos f.width) ||| BitVec.ofNat 1024 (f.value % 2 ^ f.width * 2 ^ f.pos)

/-- The bits of the fields that pass a test. -/
def coverage (fs : List Field) (p : Field → Bool) : BitVec 1024 :=
  (fs.filter p).foldl (fun m f => m ||| fieldMask f.pos f.width) 0

/-- Lane `j` of a mask. -/
def laneOf (m : BitVec 1024) (j : Nat) : BitVec 64 := m.extractLsb' (64 * j) 64

/-- The lanes that a test on lane numbers picks. -/
def laneBits (p : Nat → Bool) : BitVec 16 :=
  (List.range 16).foldl (fun (b : BitVec 16) j => if p j then b ||| BitVec.ofNat 16 (2 ^ j) else b) 0

/-- The lane poison after fields are written (R313). -/
def poisonAfter (old : BitVec 16) (fs : List Field) : BitVec 16 :=
  let dirty := coverage fs Field.bad
  let clean := coverage fs fun f => !f.bad
  laneBits fun j => if laneOf dirty j ≠ 0 then true else if laneOf clean j = BitVec.allOnes 64 then false else old.getLsbD j

/-- A register after fields are written (R291, R313): the origin is that of the first source that contributed poison. -/
def VReg.write (d a b : VReg) (fs : List Field) : VReg :=
  { bits := fs.foldl (fun m f => f.put m) d.bits
    poison := poisonAfter d.poison fs
    origin := if fs.any (·.pa) then a.origin else if fs.any (·.pb) then b.origin else d.origin }

/-- Write a v register: a lane written whole loses an armed error (R450). -/
def putV (r : Reg) (v : VReg) (fs : List Field) : Act Unit := do
  saveItems [.v r]
  let all := coverage fs fun _ => true
  modify fun s => s.rearm fun i => match i with
    | .vLane t r' l => t = s.tile.index && r' = r && laneOf all l = BitVec.allOnes 64
    | _ => false
  onTile (·.setV r v)

/-- Write fields made from `v[a]` and `v[b]` into `v[d]`. -/
def writeFields (d : Reg) (a b : VReg) (fs : List Field) : Act Unit := do
  let old ← getV d
  if fs.isEmpty then pure () else putV d (old.write a b fs) fs

/-! ### Integer operations (R296) -/

/-- A number of `w` bits as a signed integer. -/
def signedOf (w n : Nat) : Int := if n ≥ 2 ^ (w - 1) then (n : Int) - 2 ^ w else n

/-- The low `w` bits of an integer. -/
def truncInt (w : Nat) (x : Int) : Nat := (x % 2 ^ w).toNat

/-- The element results of the integer operations (R296). -/
inductive IntOp where
  | add | sub | mul | mulh | mulhu | and | or | xor | sll | srl | sra | min | max | minu | maxu
deriving DecidableEq, Repr

/-- The result of an integer operation on two elements of width `w` (R296). -/
def IntOp.eval (o : IntOp) (w a b : Nat) : Nat :=
  let sa := signedOf w a
  let sb := signedOf w b
  match o with
  | .add => (a + b) % 2 ^ w
  | .sub => truncInt w ((a : Int) - b)
  | .mul => a * b % 2 ^ w
  | .mulh => truncInt w (sa * sb / 2 ^ w)
  | .mulhu => a * b / 2 ^ w
  | .and => a &&& b
  | .or => a ||| b
  | .xor => a ^^^ b
  | .sll => a * 2 ^ (b % w) % 2 ^ w
  | .srl => a / 2 ^ (b % w)
  | .sra => truncInt w (sa / 2 ^ (b % w))
  | .min => if sa ≤ sb then a else b
  | .max => if sa ≤ sb then b else a
  | .minu => if a ≤ b then a else b
  | .maxu => if a ≤ b then b else a

/-- A vector-vector element-wise instruction: `f` gives element `i` from the elements of `v[a]`, `v[b]` and the old `v[d]`; `fused`
says whether the old element is read. -/
def vecVV (i : Instr) (d a b : Reg) (w : Nat) (fused : Bool) (f : Nat → Nat → Nat → Nat) : State → Host.Outcome State Fault Refusal :=
  run {} i do
    readActive w
    let va ← getV a
    let vb ← getV b
    let vd ← getV d
    let fs := ((← curTile).activeSet w).map fun k =>
      { pos := w * k, width := w, value := f (va.el w k) (vb.el w k) (vd.el w k), pa := va.badEl w k, pb := vb.badEl w k,
        pd := fused && vd.badEl w k : Field }
    writeFields d va vb fs

/-- A vector-scalar element-wise instruction: the scalar is the low `w` bits of the rs2 operand (R230, R296). -/
def vecVX (i : Instr) (d a b : Reg) (w : Nat) (fused : Bool) (f : Nat → Nat → Nat → Nat) : State → Host.Outcome State Fault Refusal :=
  run { rs2 := some b } i do
    readActive w
    let va ← getV a
    let x := (← rs2 b).toNat % 2 ^ w
    let vd ← getV d
    let fs := ((← curTile).activeSet w).map fun k =>
      { pos := w * k, width := w, value := f (va.el w k) x (vd.el w k), pa := va.badEl w k, pd := fused && vd.badEl w k : Field }
    writeFields d va {} fs

/-- A vector-vector compare into mask bits (R296, R299). -/
def cmpVV (i : Instr) (d a b : Reg) (w : Nat) (f : Nat → Nat → Bool) : State → Host.Outcome State Fault Refusal :=
  run {} i do
    readActive w
    let va ← getV a
    let vb ← getV b
    let fs := ((← curTile).activeSet w).map fun k =>
      { pos := k, width := 1, value := (f (va.el w k) (vb.el w k)).toNat, pa := va.badEl w k, pb := vb.badEl w k : Field }
    writeFields d va vb fs

/-- A vector-scalar compare into mask bits (R296, R299). -/
def cmpVX (i : Instr) (d a b : Reg) (w : Nat) (f : Nat → Nat → Bool) : State → Host.Outcome State Fault Refusal :=
  run { rs2 := some b } i do
    readActive w
    let va ← getV a
    let x := (← rs2 b).toNat % 2 ^ w
    let fs := ((← curTile).activeSet w).map fun k =>
      { pos := k, width := 1, value := (f (va.el w k) x).toNat, pa := va.badEl w k : Field }
    writeFields d va {} fs

/-- An element-wise instruction of one vector operand. -/
def vecV (i : Instr) (d a : Reg) (w : Nat) (f : Nat → Nat) : State → Host.Outcome State Fault Refusal :=
  run {} i do
    readActive w
    let va ← getV a
    let fs := ((← curTile).activeSet w).map fun k =>
      { pos := w * k, width := w, value := f (va.el w k), pa := va.badEl w k : Field }
    writeFields d va {} fs


/-- `vadd`, vector-vector (R296). -/
def execVaddVv (d a b : Reg) (t : BitVec 2) (s : State) : Host.Outcome State Fault Refusal :=
  vecVV (.vaddVv d a b t) d a b (intWidth t) false (fun x y _ => IntOp.add.eval (intWidth t) x y) s

/-- `vadd`, vector-scalar (R296). -/
def execVaddVx (d a b : Reg) (t : BitVec 2) (s : State) : Host.Outcome State Fault Refusal :=
  vecVX (.vaddVx d a b t) d a b (intWidth t) false (fun x y _ => IntOp.add.eval (intWidth t) x y) s

/-- `vsub`, vector-vector (R296). -/
def execVsubVv (d a b : Reg) (t : BitVec 2) (s : State) : Host.Outcome State Fault Refusal :=
  vecVV (.vsubVv d a b t) d a b (intWidth t) false (fun x y _ => IntOp.sub.eval (intWidth t) x y) s

/-- `vsub`, vector-scalar (R296). -/
def execVsubVx (d a b : Reg) (t : BitVec 2) (s : State) : Host.Outcome State Fault Refusal :=
  vecVX (.vsubVx d a b t) d a b (intWidth t) false (fun x y _ => IntOp.sub.eval (intWidth t) x y) s

/-- `vmul`, vector-vector (R296). -/
def execVmulVv (d a b : Reg) (t : BitVec 2) (s : State) : Host.Outcome State Fault Refusal :=
  vecVV (.vmulVv d a b t) d a b (intWidth t) false (fun x y _ => IntOp.mul.eval (intWidth t) x y) s

/-- `vmul`, vector-scalar (R296). -/
def execVmulVx (d a b : Reg) (t : BitVec 2) (s : State) : Host.Outcome State Fault Refusal :=
  vecVX (.vmulVx d a b t) d a b (intWidth t) false (fun x y _ => IntOp.mul.eval (intWidth t) x y) s

/-- `vmulh`, vector-vector (R296). -/
def execVmulhVv (d a b : Reg) (t : BitVec 2) (s : State) : Host.Outcome State Fault Refusal :=
  vecVV (.vmulhVv d a b t) d a b (intWidth t) false (fun x y _ => IntOp.mulh.eval (intWidth t) x y) s

/-- `vmulh`, vector-scalar (R296). -/
def execVmulhVx (d a b : Reg) (t : BitVec 2) (s : State) : Host.Outcome State Fault Refusal :=
  vecVX (.vmulhVx d a b t) d a b (intWidth t) false (fun x y _ => IntOp.mulh.eval (intWidth t) x y) s

/-- `vmulhu`, vector-vector (R296). -/
def execVmulhuVv (d a b : Reg) (t : BitVec 2) (s : State) : Host.Outcome State Fault Refusal :=
  vecVV (.vmulhuVv d a b t) d a b (intWidth t) false (fun x y _ => IntOp.mulhu.eval (intWidth t) x y) s

/-- `vmulhu`, vector-scalar (R296). -/
def execVmulhuVx (d a b : Reg) (t : BitVec 2) (s : State) : Host.Outcome State Fault Refusal :=
  vecVX (.vmulhuVx d a b t) d a b (intWidth t) false (fun x y _ => IntOp.mulhu.eval (intWidth t) x y) s

/-- `vand`, vector-vector (R296). -/
def execVandVv (d a b : Reg) (t : BitVec 2) (s : State) : Host.Outcome State Fault Refusal :=
  vecVV (.vandVv d a b t) d a b (intWidth t) false (fun x y _ => IntOp.and.eval (intWidth t) x y) s

/-- `vand`, vector-scalar (R296). -/
def execVandVx (d a b : Reg) (t : BitVec 2) (s : State) : Host.Outcome State Fault Refusal :=
  vecVX (.vandVx d a b t) d a b (intWidth t) false (fun x y _ => IntOp.and.eval (intWidth t) x y) s

/-- `vor`, vector-vector (R296). -/
def execVorVv (d a b : Reg) (t : BitVec 2) (s : State) : Host.Outcome State Fault Refusal :=
  vecVV (.vorVv d a b t) d a b (intWidth t) false (fun x y _ => IntOp.or.eval (intWidth t) x y) s

/-- `vor`, vector-scalar (R296). -/
def execVorVx (d a b : Reg) (t : BitVec 2) (s : State) : Host.Outcome State Fault Refusal :=
  vecVX (.vorVx d a b t) d a b (intWidth t) false (fun x y _ => IntOp.or.eval (intWidth t) x y) s

/-- `vxor`, vector-vector (R296). -/
def execVxorVv (d a b : Reg) (t : BitVec 2) (s : State) : Host.Outcome State Fault Refusal :=
  vecVV (.vxorVv d a b t) d a b (intWidth t) false (fun x y _ => IntOp.xor.eval (intWidth t) x y) s

/-- `vxor`, vector-scalar (R296). -/
def execVxorVx (d a b : Reg) (t : BitVec 2) (s : State) : Host.Outcome State Fault Refusal :=
  vecVX (.vxorVx d a b t) d a b (intWidth t) false (fun x y _ => IntOp.xor.eval (intWidth t) x y) s

/-- `vsll`, vector-vector (R296). -/
def execVsllVv (d a b : Reg) (t : BitVec 2) (s : State) : Host.Outcome State Fault Refusal :=
  vecVV (.vsllVv d a b t) d a b (intWidth t) false (fun x y _ => IntOp.sll.eval (intWidth t) x y) s

/-- `vsll`, vector-scalar (R296). -/
def execVsllVx (d a b : Reg) (t : BitVec 2) (s : State) : Host.Outcome State Fault Refusal :=
  vecVX (.vsllVx d a b t) d a b (intWidth t) false (fun x y _ => IntOp.sll.eval (intWidth t) x y) s

/-- `vsrl`, vector-vector (R296). -/
def execVsrlVv (d a b : Reg) (t : BitVec 2) (s : State) : Host.Outcome State Fault Refusal :=
  vecVV (.vsrlVv d a b t) d a b (intWidth t) false (fun x y _ => IntOp.srl.eval (intWidth t) x y) s

/-- `vsrl`, vector-scalar (R296). -/
def execVsrlVx (d a b : Reg) (t : BitVec 2) (s : State) : Host.Outcome State Fault Refusal :=
  vecVX (.vsrlVx d a b t) d a b (intWidth t) false (fun x y _ => IntOp.srl.eval (intWidth t) x y) s

/-- `vsra`, vector-vector (R296). -/
def execVsraVv (d a b : Reg) (t : BitVec 2) (s : State) : Host.Outcome State Fault Refusal :=
  vecVV (.vsraVv d a b t) d a b (intWidth t) false (fun x y _ => IntOp.sra.eval (intWidth t) x y) s

/-- `vsra`, vector-scalar (R296). -/
def execVsraVx (d a b : Reg) (t : BitVec 2) (s : State) : Host.Outcome State Fault Refusal :=
  vecVX (.vsraVx d a b t) d a b (intWidth t) false (fun x y _ => IntOp.sra.eval (intWidth t) x y) s

/-- `vmin`, vector-vector (R296). -/
def execVminVv (d a b : Reg) (t : BitVec 2) (s : State) : Host.Outcome State Fault Refusal :=
  vecVV (.vminVv d a b t) d a b (intWidth t) false (fun x y _ => IntOp.min.eval (intWidth t) x y) s

/-- `vmin`, vector-scalar (R296). -/
def execVminVx (d a b : Reg) (t : BitVec 2) (s : State) : Host.Outcome State Fault Refusal :=
  vecVX (.vminVx d a b t) d a b (intWidth t) false (fun x y _ => IntOp.min.eval (intWidth t) x y) s

/-- `vmax`, vector-vector (R296). -/
def execVmaxVv (d a b : Reg) (t : BitVec 2) (s : State) : Host.Outcome State Fault Refusal :=
  vecVV (.vmaxVv d a b t) d a b (intWidth t) false (fun x y _ => IntOp.max.eval (intWidth t) x y) s

/-- `vmax`, vector-scalar (R296). -/
def execVmaxVx (d a b : Reg) (t : BitVec 2) (s : State) : Host.Outcome State Fault Refusal :=
  vecVX (.vmaxVx d a b t) d a b (intWidth t) false (fun x y _ => IntOp.max.eval (intWidth t) x y) s

/-- `vminu`, vector-vector (R296). -/
def execVminuVv (d a b : Reg) (t : BitVec 2) (s : State) : Host.Outcome State Fault Refusal :=
  vecVV (.vminuVv d a b t) d a b (intWidth t) false (fun x y _ => IntOp.minu.eval (intWidth t) x y) s

/-- `vminu`, vector-scalar (R296). -/
def execVminuVx (d a b : Reg) (t : BitVec 2) (s : State) : Host.Outcome State Fault Refusal :=
  vecVX (.vminuVx d a b t) d a b (intWidth t) false (fun x y _ => IntOp.minu.eval (intWidth t) x y) s

/-- `vmaxu`, vector-vector (R296). -/
def execVmaxuVv (d a b : Reg) (t : BitVec 2) (s : State) : Host.Outcome State Fault Refusal :=
  vecVV (.vmaxuVv d a b t) d a b (intWidth t) false (fun x y _ => IntOp.maxu.eval (intWidth t) x y) s

/-- `vmaxu`, vector-scalar (R296). -/
def execVmaxuVx (d a b : Reg) (t : BitVec 2) (s : State) : Host.Outcome State Fault Refusal :=
  vecVX (.vmaxuVx d a b t) d a b (intWidth t) false (fun x y _ => IntOp.maxu.eval (intWidth t) x y) s

/-- `vseq`, vector-vector (R296). -/
def execVseqVv (d a b : Reg) (t : BitVec 2) (s : State) : Host.Outcome State Fault Refusal :=
  cmpVV (.vseqVv d a b t) d a b (intWidth t) (fun x y => decide (x = y)) s

/-- `vseq`, vector-scalar (R296). -/
def execVseqVx (d a b : Reg) (t : BitVec 2) (s : State) : Host.Outcome State Fault Refusal :=
  cmpVX (.vseqVx d a b t) d a b (intWidth t) (fun x y => decide (x = y)) s

/-- `vslt`, vector-vector (R296). -/
def execVsltVv (d a b : Reg) (t : BitVec 2) (s : State) : Host.Outcome State Fault Refusal :=
  cmpVV (.vsltVv d a b t) d a b (intWidth t) (fun x y => decide (signedOf (intWidth t) x < signedOf (intWidth t) y)) s

/-- `vslt`, vector-scalar (R296). -/
def execVsltVx (d a b : Reg) (t : BitVec 2) (s : State) : Host.Outcome State Fault Refusal :=
  cmpVX (.vsltVx d a b t) d a b (intWidth t) (fun x y => decide (signedOf (intWidth t) x < signedOf (intWidth t) y)) s

/-- `vsltu`, vector-vector (R296). -/
def execVsltuVv (d a b : Reg) (t : BitVec 2) (s : State) : Host.Outcome State Fault Refusal :=
  cmpVV (.vsltuVv d a b t) d a b (intWidth t) (fun x y => decide (x < y)) s

/-- `vsltu`, vector-scalar (R296). -/
def execVsltuVx (d a b : Reg) (t : BitVec 2) (s : State) : Host.Outcome State Fault Refusal :=
  cmpVX (.vsltuVx d a b t) d a b (intWidth t) (fun x y => decide (x < y)) s

/-- `vsel` (R296): for every element below the length, whatever `mk`, the mask bit picks `v[a]` or `v[b]`. -/
def execVsel (d a b : Reg) (t : BitVec 2) (s : State) : Host.Outcome State Fault Refusal :=
  run {} (.vsel d a b t) (do
    let w := intWidth t
    let n := (← curTile).vcount w
    readMask n true
    let va ← getV a
    let vb ← getV b
    let m ← getV 0
    let fs := (List.range n).map fun k =>
      if m.bit k then { pos := w * k, width := w, value := va.el w k, pa := va.badEl w k : Field }
      else { pos := w * k, width := w, value := vb.el w k, pb := vb.badEl w k : Field }
    writeFields d va vb fs) s

/-! ### Floating point (R297-R302) -/

/-- The float format of a type field (R292). -/
def floatOf (t : BitVec 2) : Elem := if t = 0 then bf16 else if t = 1 then fp16 else if t = 2 then fp32 else fp64

/-- The width of a float type field (R292). -/
def floatWidth (t : BitVec 2) : Nat := if t = 0 then 16 else if t = 1 then 16 else if t = 2 then 32 else 64

/-- The canonical NaN where an operand is a NaN or the result is one, else the value rounded once (R297). -/
def floatResult (f : Elem) (x : Num) : Nat := f.nearest x

/-- The order key of a float pattern of width `w`: -0 below +0 (R81, R299). -/
def floatKey (w n : Nat) : Int := if n ≥ 2 ^ (w - 1) then -((n : Int) - 2 ^ (w - 1)) - 1 else n

/-- `vfmin` on two patterns (R299). -/
def floatMin (f : Elem) (w a b : Nat) : Nat :=
  if f.value a = .nan || f.value b = .nan then f.canonicalNan else if floatKey w a ≤ floatKey w b then a else b

/-- `vfmax` on two patterns (R299). -/
def floatMax (f : Elem) (w a b : Nat) : Nat :=
  if f.value a = .nan || f.value b = .nan then f.canonicalNan else if floatKey w a ≤ floatKey w b then b else a

/-- `vfsgnj` on two patterns (R299). -/
def signInject (w a b : Nat) : Nat := a % 2 ^ (w - 1) + b / 2 ^ (w - 1) * 2 ^ (w - 1)

/-- `vfclass` of a pattern (R299). -/
def floatClass (f : Elem) (n : Nat) : Nat :=
  match f with
  | .int _ _ _ => 0
  | .float _ e m _ _ =>
    let neg := n / 2 ^ (e + m) % 2 = 1
    let ex := n / 2 ^ m % 2 ^ e
    let ma := n % 2 ^ m
    if ex = 2 ^ e - 1 then
      (if ma = 0 then (if neg then 2 ^ 0 else 2 ^ 7) else if ma / 2 ^ (m - 1) = 0 then 2 ^ 8 else 2 ^ 9)
    else if ex = 0 then
      (if ma = 0 then (if neg then 2 ^ 3 else 2 ^ 4) else if neg then 2 ^ 2 else 2 ^ 5)
    else if neg then 2 ^ 1 else 2 ^ 6

/-- `vfadd`, vector-vector (R298). -/
def execVfaddVv (d a b : Reg) (t : BitVec 2) (s : State) : Host.Outcome State Fault Refusal :=
  vecVV (.vfaddVv d a b t) d a b (floatWidth t) false (fun x y _ => let f := floatOf t; floatResult f ((f.value x).add (f.value y))) s

/-- `vfadd`, vector-scalar (R298). -/
def execVfaddVx (d a b : Reg) (t : BitVec 2) (s : State) : Host.Outcome State Fault Refusal :=
  vecVX (.vfaddVx d a b t) d a b (floatWidth t) false (fun x y _ => let f := floatOf t; floatResult f ((f.value x).add (f.value y))) s

/-- `vfsub`, vector-vector (R298). -/
def execVfsubVv (d a b : Reg) (t : BitVec 2) (s : State) : Host.Outcome State Fault Refusal :=
  vecVV (.vfsubVv d a b t) d a b (floatWidth t) false (fun x y _ => let f := floatOf t; floatResult f ((f.value x).add (f.value y).neg)) s

/-- `vfsub`, vector-scalar (R298). -/
def execVfsubVx (d a b : Reg) (t : BitVec 2) (s : State) : Host.Outcome State Fault Refusal :=
  vecVX (.vfsubVx d a b t) d a b (floatWidth t) false (fun x y _ => let f := floatOf t; floatResult f ((f.value x).add (f.value y).neg)) s

/-- `vfmul`, vector-vector (R298). -/
def execVfmulVv (d a b : Reg) (t : BitVec 2) (s : State) : Host.Outcome State Fault Refusal :=
  vecVV (.vfmulVv d a b t) d a b (floatWidth t) false (fun x y _ => let f := floatOf t; floatResult f ((f.value x).mul (f.value y))) s

/-- `vfmul`, vector-scalar (R298). -/
def execVfmulVx (d a b : Reg) (t : BitVec 2) (s : State) : Host.Outcome State Fault Refusal :=
  vecVX (.vfmulVx d a b t) d a b (floatWidth t) false (fun x y _ => let f := floatOf t; floatResult f ((f.value x).mul (f.value y))) s

/-- `vfma`, vector-vector (R298). -/
def execVfmaVv (d a b : Reg) (t : BitVec 2) (s : State) : Host.Outcome State Fault Refusal :=
  vecVV (.vfmaVv d a b t) d a b (floatWidth t) true (fun x y z => let f := floatOf t; floatResult f (((f.value x).mul (f.value y)).add (f.value z))) s

/-- `vfma`, vector-scalar (R298). -/
def execVfmaVx (d a b : Reg) (t : BitVec 2) (s : State) : Host.Outcome State Fault Refusal :=
  vecVX (.vfmaVx d a b t) d a b (floatWidth t) true (fun x y z => let f := floatOf t; floatResult f (((f.value x).mul (f.value y)).add (f.value z))) s

/-- `vfms`, vector-vector (R298). -/
def execVfmsVv (d a b : Reg) (t : BitVec 2) (s : State) : Host.Outcome State Fault Refusal :=
  vecVV (.vfmsVv d a b t) d a b (floatWidth t) true (fun x y z => let f := floatOf t; floatResult f (((f.value x).mul (f.value y)).add (f.value z).neg)) s

/-- `vfms`, vector-scalar (R298). -/
def execVfmsVx (d a b : Reg) (t : BitVec 2) (s : State) : Host.Outcome State Fault Refusal :=
  vecVX (.vfmsVx d a b t) d a b (floatWidth t) true (fun x y z => let f := floatOf t; floatResult f (((f.value x).mul (f.value y)).add (f.value z).neg)) s

/-- `vfnma`, vector-vector (R298). -/
def execVfnmaVv (d a b : Reg) (t : BitVec 2) (s : State) : Host.Outcome State Fault Refusal :=
  vecVV (.vfnmaVv d a b t) d a b (floatWidth t) true (fun x y z => let f := floatOf t; floatResult f (((f.value x).mul (f.value y)).neg.add (f.value z))) s

/-- `vfnma`, vector-scalar (R298). -/
def execVfnmaVx (d a b : Reg) (t : BitVec 2) (s : State) : Host.Outcome State Fault Refusal :=
  vecVX (.vfnmaVx d a b t) d a b (floatWidth t) true (fun x y z => let f := floatOf t; floatResult f (((f.value x).mul (f.value y)).neg.add (f.value z))) s

/-- `vfmin` (R299). -/
def execVfminVv (d a b : Reg) (t : BitVec 2) (s : State) : Host.Outcome State Fault Refusal :=
  vecVV (.vfminVv d a b t) d a b (floatWidth t) false (fun x y _ => floatMin (floatOf t) (floatWidth t) x y) s

/-- `vfmin` (R299). -/
def execVfminVx (d a b : Reg) (t : BitVec 2) (s : State) : Host.Outcome State Fault Refusal :=
  vecVX (.vfminVx d a b t) d a b (floatWidth t) false (fun x y _ => floatMin (floatOf t) (floatWidth t) x y) s

/-- `vfmax` (R299). -/
def execVfmaxVv (d a b : Reg) (t : BitVec 2) (s : State) : Host.Outcome State Fault Refusal :=
  vecVV (.vfmaxVv d a b t) d a b (floatWidth t) false (fun x y _ => floatMax (floatOf t) (floatWidth t) x y) s

/-- `vfmax` (R299). -/
def execVfmaxVx (d a b : Reg) (t : BitVec 2) (s : State) : Host.Outcome State Fault Refusal :=
  vecVX (.vfmaxVx d a b t) d a b (floatWidth t) false (fun x y _ => floatMax (floatOf t) (floatWidth t) x y) s

/-- `vfsgnj` (R299). -/
def execVfsgnjVv (d a b : Reg) (t : BitVec 2) (s : State) : Host.Outcome State Fault Refusal :=
  vecVV (.vfsgnjVv d a b t) d a b (floatWidth t) false (fun x y _ => signInject (floatWidth t) x y) s

/-- `vfsgnj` (R299). -/
def execVfsgnjVx (d a b : Reg) (t : BitVec 2) (s : State) : Host.Outcome State Fault Refusal :=
  vecVX (.vfsgnjVx d a b t) d a b (floatWidth t) false (fun x y _ => signInject (floatWidth t) x y) s

/-- `vfeq`: the bit is 0 if an operand is a NaN (R299). -/
def execVfeqVv (d a b : Reg) (t : BitVec 2) (s : State) : Host.Outcome State Fault Refusal :=
  cmpVV (.vfeqVv d a b t) d a b (floatWidth t) (fun x y => let c := ((floatOf t).value x).cmp ((floatOf t).value y); c = some .eq) s

/-- `vfeq`: the bit is 0 if an operand is a NaN (R299). -/
def execVfeqVx (d a b : Reg) (t : BitVec 2) (s : State) : Host.Outcome State Fault Refusal :=
  cmpVX (.vfeqVx d a b t) d a b (floatWidth t) (fun x y => let c := ((floatOf t).value x).cmp ((floatOf t).value y); c = some .eq) s

/-- `vflt`: the bit is 0 if an operand is a NaN (R299). -/
def execVfltVv (d a b : Reg) (t : BitVec 2) (s : State) : Host.Outcome State Fault Refusal :=
  cmpVV (.vfltVv d a b t) d a b (floatWidth t) (fun x y => let c := ((floatOf t).value x).cmp ((floatOf t).value y); c = some .lt) s

/-- `vflt`: the bit is 0 if an operand is a NaN (R299). -/
def execVfltVx (d a b : Reg) (t : BitVec 2) (s : State) : Host.Outcome State Fault Refusal :=
  cmpVX (.vfltVx d a b t) d a b (floatWidth t) (fun x y => let c := ((floatOf t).value x).cmp ((floatOf t).value y); c = some .lt) s

/-- `vfle`: the bit is 0 if an operand is a NaN (R299). -/
def execVfleVv (d a b : Reg) (t : BitVec 2) (s : State) : Host.Outcome State Fault Refusal :=
  cmpVV (.vfleVv d a b t) d a b (floatWidth t) (fun x y => let c := ((floatOf t).value x).cmp ((floatOf t).value y); c = some .lt || c = some .eq) s

/-- `vfle`: the bit is 0 if an operand is a NaN (R299). -/
def execVfleVx (d a b : Reg) (t : BitVec 2) (s : State) : Host.Outcome State Fault Refusal :=
  cmpVX (.vfleVx d a b t) d a b (floatWidth t) (fun x y => let c := ((floatOf t).value x).cmp ((floatOf t).value y); c = some .lt || c = some .eq) s

/-- `vfclass` (R299). -/
def execVfclass (d a : Reg) (t : BitVec 2) (s : State) : Host.Outcome State Fault Refusal :=
  vecV (.vfclass d a t) d a (floatWidth t) (floatClass (floatOf t)) s

/-- FP32 for 0 and FP64 for 1 (R293, funct3 110). -/
def wideFloat (t : BitVec 1) : Elem := if t = 0 then fp32 else fp64

/-- Width of that type. -/
def wideWidth (t : BitVec 1) : Nat := if t = 0 then 32 else 64

/-- `vfdiv` (R300). -/
def execVfdiv (d a b : Reg) (t : BitVec 1) (s : State) : Host.Outcome State Fault Refusal :=
  vecVV (.vfdiv d a b t) d a b (wideWidth t) false (fun x y _ => let f := wideFloat t; floatResult f ((f.value x).div (f.value y))) s

/-- `vfsqrt` (R300). -/
def execVfsqrt (d a : Reg) (t : BitVec 1) (s : State) : Host.Outcome State Fault Refusal :=
  vecV (.vfsqrt d a t) d a (wideWidth t) (fun x => let f := wideFloat t; floatResult f (f.value x).sqrt) s

/-- `vfrcp` (R301). -/
def execVfrcp (d a : Reg) (s : State) : Host.Outcome State Fault Refusal :=
  vecV (.vfrcp d a) d a 32 (fun x => rcpFp32 (fp32.value x)) s

/-- `vfexp2` (R302). -/
def execVfexp2 (d a : Reg) (s : State) : Host.Outcome State Fault Refusal :=
  vecV (.vfexp2 d a) d a 32 (fun x => exp2Fp32 (fp32.value x)) s

/-- `vclmul` (R303). -/
def execVclmul (d a b : Reg) (s : State) : Host.Outcome State Fault Refusal :=
  vecVV (.vclmul d a b) d a b 64 false (fun x y _ => clProduct x y 64 % 2 ^ 64) s

/-- `vclmulh` (R303). -/
def execVclmulh (d a b : Reg) (s : State) : Host.Outcome State Fault Refusal :=
  vecVV (.vclmulh d a b) d a b 64 false (fun x y _ => clProduct x y 64 / 2 ^ 64) s

/-! ### Conversions (R304-R306) -/

/-- Round values under `rmode`, one draw each under SR, in order (R280, R306): the elements and the generator's state. -/
def roundAll (f : Elem) (mode : Nat) (sat : Bool) : List Num → BitVec 64 → List Nat × BitVec 64
  | [], seed => ([], seed)
  | x :: xs, seed =>
    let p := if mode = 5 then draw seed else (0, seed)
    let rest := roundAll f mode sat xs p.2
    (f.round mode sat p.1 x :: rest.1, rest.2)

/-- Round values under the tile's `rmode` and keep the generator's state. -/
def roundList (f : Elem) (xs : List Num) : Act (List Nat) := do
  let t ← curTile
  let r := roundAll f t.rmode.toNat t.rsat xs t.srseed
  if t.rmode = 5 then
    saveItems [.csr 0x803]
    onTile fun t => { t with srseed := r.2 }
  return r.1

/-- `vfcvt.if` (R304). -/
def execVfcvtIf (d a : Reg) (t : BitVec 2) (s : State) : Host.Outcome State Fault Refusal :=
  run {} (.vfcvtIf d a t) (do
    let w := floatWidth t
    readActive w
    let va ← getV a
    let ks := (← curTile).activeSet w
    if !ks.isEmpty then saveItems [.v d]
    let vs ← roundList (floatOf t) (ks.map fun k => (Elem.int true w 0).value (va.el w k))
    writeFields d va {} ((ks.zip vs).map fun p => { pos := w * p.1, width := w, value := p.2, pa := va.badEl w p.1 })) s

/-- `vfcvt.fi` (R304): clamps; a NaN gives 0. -/
def execVfcvtFi (d a : Reg) (t : BitVec 2) (s : State) : Host.Outcome State Fault Refusal :=
  run {} (.vfcvtFi d a t) (do
    let w := floatWidth t
    readActive w
    let va ← getV a
    let ks := (← curTile).activeSet w
    if !ks.isEmpty then saveItems [.v d]
    let vs ← roundList (.int true w 0) (ks.map fun k => (floatOf t).value (va.el w k))
    writeFields d va {} ((ks.zip vs).map fun p => { pos := w * p.1, width := w, value := p.2, pa := va.badEl w p.1 })) s

/-- A descriptor that the conversions accept (R285, R286, R305). -/
def Descr.narrow (f : Descr) : Bool := f.valid && f.cls ≠ 3 && f.cls ≠ 4 && f.cls ≠ 7 && f.width ≠ 32 && f.width ≠ 64

/-- `vncvt` (R305): pack part `p` in the format of `vfmt`. -/
def execVncvt (d a : Reg) (p : BitVec 5) (s : State) : Host.Outcome State Fault Refusal :=
  run {} (.vncvt d a p) (do
    let f := Descr.ofBits (← curTile).vfmt
    let c := f.width
    if !f.narrow || 32 * (p.toNat + 1) * c > 1024 then illegal (.vncvt d a p)
    readActive 32
    let va ← getV a
    let ks := (← curTile).activeSet 32
    if !ks.isEmpty then saveItems [.v d]
    let vs ← roundList f.elem (ks.map fun k => fp32.value (va.el 32 k))
    writeFields d va {} ((ks.zip vs).map fun q =>
      { pos := c * (32 * p.toNat + q.1), width := c, value := q.2, pa := va.badEl 32 q.1 })) s

/-- `vwcvt` (R305): unpack part `p` in the format of `vfmt`. -/
def execVwcvt (d a : Reg) (p : BitVec 5) (s : State) : Host.Outcome State Fault Refusal :=
  run {} (.vwcvt d a p) (do
    let f := Descr.ofBits (← curTile).vfmt
    let c := f.width
    if !f.narrow || 32 * (p.toNat + 1) * c > 1024 then illegal (.vwcvt d a p)
    readActive 32
    let va ← getV a
    let fs := ((← curTile).activeSet 32).map fun k =>
      { pos := 32 * k, width := 32, value := toFp32 (f.elem.value (va.el c (32 * p.toNat + k))),
        pa := va.bad (c * (32 * p.toNat + k)) c : Field }
    writeFields d va {} fs) s

/-! ### Reductions (R307, R308) -/

/-- An integer reduction (R307): element 0 combines `v[b].e[0]` with every active element of `v[a]`. -/
def reduceInt (i : Instr) (d a b : Reg) (w : Nat) (o : IntOp) : State → Host.Outcome State Fault Refusal :=
  run {} i do
    readActive w
    let va ← getV a
    let vb ← getV b
    let ks := (← curTile).activeSet w
    let v := ks.foldl (fun acc k => o.eval w acc (va.el w k)) (vb.el w 0)
    writeFields d va vb [{ pos := 0, width := w, value := v, pa := ks.any (va.badEl w), pb := vb.badEl w 0 }]

/-- One level of the tree: neighbours combined (R308). -/
def combinePairs (f : Nat → Nat → Nat) : List Nat → List Nat
  | x :: y :: rest => f x y :: combinePairs f rest
  | l => l

/-- The tree over `2 ^ k` leaves (R308). -/
def reduceTree (f : Nat → Nat → Nat) : Nat → List Nat → Nat
  | 0, l => l.headD 0
  | k + 1, l => reduceTree f k (combinePairs f l)

/-- A float reduction in the fixed order of R308. -/
def reduceFloat (i : Instr) (d a b : Reg) (t : BitVec 2) (ident : Nat) (f : Nat → Nat → Nat) : State → Host.Outcome State Fault Refusal :=
  run {} i do
    let w := floatWidth t
    readActive w
    let va ← getV a
    let vb ← getV b
    let t ← curTile
    let leaves := (List.range (elemCount w)).map fun k => if t.active w k then va.el w k else ident
    let v := f (vb.el w 0) (reduceTree f (elemCount w).log2 leaves)
    writeFields d va vb [{ pos := 0, width := w, value := v, pa := (t.activeSet w).any (va.badEl w), pb := vb.badEl w 0 }]

/-- `vredsum` (R307). -/
def execVredsum (d a b : Reg) (t : BitVec 2) (s : State) : Host.Outcome State Fault Refusal :=
  reduceInt (.vredsum d a b t) d a b (intWidth t) .add s

/-- `vredmax` (R307). -/
def execVredmax (d a b : Reg) (t : BitVec 2) (s : State) : Host.Outcome State Fault Refusal :=
  reduceInt (.vredmax d a b t) d a b (intWidth t) .max s

/-- `vredmin` (R307). -/
def execVredmin (d a b : Reg) (t : BitVec 2) (s : State) : Host.Outcome State Fault Refusal :=
  reduceInt (.vredmin d a b t) d a b (intWidth t) .min s

/-- `vfredsum`: every node is one rounded sum (R308). -/
def execVfredsum (d a b : Reg) (t : BitVec 2) (s : State) : Host.Outcome State Fault Refusal :=
  reduceFloat (.vfredsum d a b t) d a b t (2 ^ (floatWidth t - 1)) (fun x y => let f := floatOf t; floatResult f ((f.value x).add (f.value y))) s

/-- `vfredmax` (R308). -/
def execVfredmax (d a b : Reg) (t : BitVec 2) (s : State) : Host.Outcome State Fault Refusal :=
  reduceFloat (.vfredmax d a b t) d a b t ((floatOf t).nearest (.inf true)) (floatMax (floatOf t) (floatWidth t)) s

/-- `vfredmin` (R308). -/
def execVfredmin (d a b : Reg) (t : BitVec 2) (s : State) : Host.Outcome State Fault Refusal :=
  reduceFloat (.vfredmin d a b t) d a b t ((floatOf t).nearest (.inf false)) (floatMin (floatOf t) (floatWidth t)) s

/-! ### Permutes and mask scans (R309, R310) -/

/-- `vslideup` (R309). -/
def execVslideup (d a b : Reg) (t : BitVec 2) (s : State) : Host.Outcome State Fault Refusal :=
  run { rs2 := some b } (.vslideup d a b t) (do
    let w := intWidth t
    readActive w
    let va ← getV a
    let k := (← rs2 b).toNat
    let fs := (((← curTile).activeSet w).filter fun i => i ≥ k).map fun i =>
      { pos := w * i, width := w, value := va.el w (i - k), pa := va.badEl w (i - k) : Field }
    writeFields d va {} fs) s

/-- `vslidedn` (R309): 0 beyond the end. -/
def execVslidedn (d a b : Reg) (t : BitVec 2) (s : State) : Host.Outcome State Fault Refusal :=
  run { rs2 := some b } (.vslidedn d a b t) (do
    let w := intWidth t
    readActive w
    let va ← getV a
    let k := (← rs2 b).toNat
    let fs := ((← curTile).activeSet w).map fun i =>
      if i + k < elemCount w then { pos := w * i, width := w, value := va.el w (i + k), pa := va.badEl w (i + k) : Field }
      else { pos := w * i, width := w, value := 0 : Field }
    writeFields d va {} fs) s

/-- `vgather` (R309): 0 for an index beyond the end; the index element counts for poison. -/
def execVgather (d a b : Reg) (t : BitVec 2) (s : State) : Host.Outcome State Fault Refusal :=
  run {} (.vgather d a b t) (do
    let w := intWidth t
    readActive w
    let va ← getV a
    let vb ← getV b
    let fs := ((← curTile).activeSet w).map fun i =>
      let k := vb.el w i
      if k < elemCount w then { pos := w * i, width := w, value := va.el w k, pa := va.badEl w k, pb := vb.badEl w i : Field }
      else { pos := w * i, width := w, value := 0, pb := vb.badEl w i : Field }
    writeFields d va vb fs) s

/-- The mask bits that a scan reads (R310), with the consumption of R314: the register first, then `v0`. -/
def scanBits (a : Reg) : Act (List Bool) := do
  let t ← curTile
  let n := min t.vlen 128
  let va ← getV a
  if (List.range n).any fun i => va.badEl 1 i then consume (zext va.origin)
  readMask n t.vmk
  let m ← getV 0
  return (List.range n).map fun i => va.bit i && (!t.vmk || m.bit i)

/-- `vpopc` (R310). -/
def execVpopc (d a : Reg) (s : State) : Host.Outcome State Fault Refusal :=
  run {} (.vpopc d a) (do setX d (word ((← scanBits a).filter id).length)) s

/-- `vfirst` (R310): all ones when no bit is set. -/
def execVfirst (d a : Reg) (s : State) : Host.Outcome State Fault Refusal :=
  run {} (.vfirst d a) (do
    let q ← scanBits a
    setX d (if q.any id then word (q.idxOf true) else BitVec.allOnes 64)) s

/-! ### Configuration and moves (R311, R312) -/

/-- `vcfg` (R311). -/
def execVcfg (d a : Reg) (m : BitVec 1) (t : BitVec 2) (s : State) : Host.Outcome State Fault Refusal :=
  run {} (.vcfg d a m t) (do
    let n := elemCount (intWidth t)
    let len := min (← getX a).toNat n
    saveItems [.csr 0x800, .x d]
    onTile fun t => { t with vlen := len, vmk := m = 1 }
    setX d (word len)) s

/-- Write one value to every active element (R312). -/
def splat (d : Reg) (w v : Nat) : Act Unit := do
  readActive w
  writeFields d {} {} (((← curTile).activeSet w).map fun k => { pos := w * k, width := w, value := v })

/-- `vmv.vx` (R312). -/
def execVmvVx (d b : Reg) (t : BitVec 2) (s : State) : Host.Outcome State Fault Refusal :=
  run { rs2 := some b } (.vmvVx d b t) (do splat d (intWidth t) (← rs2 b).toNat) s

/-- `vmv.vk` (R229, R312). -/
def execVmvVk (d : Reg) (n : BitVec 8) (w : BitVec 2) (s : State) : Host.Outcome State Fault Refusal :=
  run {} (.vmvVk d n w) (do
    let s ← get
    splat d (intWidth w) (s.window s.tile.index n.toNat).toNat) s

/-- `vmv.vv` (R312). -/
def execVmvVv (d a : Reg) (t : BitVec 2) (s : State) : Host.Outcome State Fault Refusal :=
  vecV (.vmvVv d a t) d a (intWidth t) id s

/-- `vid` (R312). -/
def execVid (d : Reg) (t : BitVec 2) (s : State) : Host.Outcome State Fault Refusal :=
  run {} (.vid d t) (do
    let w := intWidth t
    readActive w
    writeFields d {} {} (((← curTile).activeSet w).map fun k => { pos := w * k, width := w, value := k })) s

/-- `vmv.xv` (R312, R314): the element sign-extended, or 0 beyond the end. -/
def execVmvXv (d a b : Reg) (t : BitVec 2) (s : State) : Host.Outcome State Fault Refusal :=
  run { rs2 := some b } (.vmvXv d a b t) (do
    let w := intWidth t
    let k := (← rs2 b).toNat
    let va ← getV a
    if k < elemCount w then
      if va.badEl w k then consume (zext va.origin)
      setX d (BitVec.ofInt 64 (signedOf w (va.el w k)))
    else setX d 0) s

/-! ### Scalar conversions (R284-R287) -/

/-- `fcvt.n` (R285). -/
def execFcvtN (d a b : Reg) (s : State) : Host.Outcome State Fault Refusal :=
  run { rs2 := some b } (.fcvtN d a b) (do
    let f := Descr.ofBits (lo32 (← rs2 b))
    if !f.narrow then illegal (.fcvtN d a b)
    let x := fp32.value (lo32 (← getX a)).toNat
    saveItems [.x d]
    let vs ← roundList f.elem [x]
    setX d (word (vs.headD 0))) s

/-- `fcvt.w` (R286). -/
def execFcvtW (d a b : Reg) (s : State) : Host.Outcome State Fault Refusal :=
  run { rs2 := some b } (.fcvtW d a b) (do
    let f := Descr.ofBits (lo32 (← rs2 b))
    if !f.narrow then illegal (.fcvtW d a b)
    let x := (← getX a).toNat % 2 ^ f.width
    setX d (word (toFp32 (f.elem.value x)))) s

end Sys2Proof.Machine
end

