-- ==== Sys2Proof/Machine/CapMem.lean ====
section
/-! DEFINITION. Loads, stores and folds under caps, scalar and vector (R64, R80-R82, R219-R220, R327-R330, R442). -/

namespace Sys2Proof.Machine

open Sys2Proof

/-! ### Scalar forms (R327) -/

/-- The offset of a PM form: `x[rs1]` + imm4 × n (R219). -/
def pmOffset (x : Word) (imm : BitVec 4) (n : Nat) : Word := x + zext imm * word n

/-- A scalar load of `n` bytes under `c[cs]` (R327); a poisoned sector is consumed with the offset (R330). -/
def capLoad (i : Instr) (d rs cs : Reg) (imm : BitVec 4) (n : Nat) (f : Nat → Word) : State → Host.Outcome State Fault Refusal :=
  run {} i do
    let off := pmOffset (← getX rs) imm n
    let c ← checkedCap cs off n .load
    let bytes ← loadBytes cs c off.toNat n
    if bytes.any (·.2) then
      let s ← get
      consume off c (s.keyOf c (off.toNat + ((bytes.findIdx? (·.2)).getD 0)))
    setX d (f (leNat (bytes.map (·.1))))

/-- A scalar store of the low `n` bytes of `x[d]` under `c[cs]` (R327). -/
def capStore (i : Instr) (d rs cs : Reg) (imm : BitVec 4) (n : Nat) : State → Host.Outcome State Fault Refusal :=
  run {} i do
    let off := pmOffset (← getX rs) imm n
    let v ← getX d
    let c ← checkedCap cs off n .store
    storeBytes cs c ((leBytes n v.toNat).zipIdx.map fun p => (off.toNat + p.2, p.1)) []

/-- A fold of the low `n` bytes of `x[d]` under the fold share `c[cs]` (R327). -/
def capFold (i : Instr) (d rs cs : Reg) (imm : BitVec 4) (n : Nat) : State → Host.Outcome State Fault Refusal :=
  run {} i do
    let off := pmOffset (← getX rs) imm n
    if off.toNat % n ≠ 0 then trap 6 off
    let v ← getX d
    let c ← checkedCap cs off n (.fold n)
    foldAt c off.toNat (if n = 4 then zext (lo32 v) else v)

/-- `cld.b` (R327). -/
def execCldB (d rs cs : Reg) (imm : BitVec 4) (s : State) : Host.Outcome State Fault Refusal :=
  capLoad (.cldB d rs cs imm) d rs cs imm 1 (fun v => sext (BitVec.ofNat 8 v)) s

/-- `cld.h` (R327). -/
def execCldH (d rs cs : Reg) (imm : BitVec 4) (s : State) : Host.Outcome State Fault Refusal :=
  capLoad (.cldH d rs cs imm) d rs cs imm 2 (fun v => sext (BitVec.ofNat 16 v)) s

/-- `cld.w` (R327). -/
def execCldW (d rs cs : Reg) (imm : BitVec 4) (s : State) : Host.Outcome State Fault Refusal :=
  capLoad (.cldW d rs cs imm) d rs cs imm 4 (fun v => sext (BitVec.ofNat 32 v)) s

/-- `cld.d` (R327). -/
def execCldD (d rs cs : Reg) (imm : BitVec 4) (s : State) : Host.Outcome State Fault Refusal :=
  capLoad (.cldD d rs cs imm) d rs cs imm 8 (fun v => word v) s

/-- `cld.bu` (R327). -/
def execCldBu (d rs cs : Reg) (imm : BitVec 4) (s : State) : Host.Outcome State Fault Refusal :=
  capLoad (.cldBu d rs cs imm) d rs cs imm 1 (fun v => word v) s

/-- `cld.hu` (R327). -/
def execCldHu (d rs cs : Reg) (imm : BitVec 4) (s : State) : Host.Outcome State Fault Refusal :=
  capLoad (.cldHu d rs cs imm) d rs cs imm 2 (fun v => word v) s

/-- `cld.wu` (R327). -/
def execCldWu (d rs cs : Reg) (imm : BitVec 4) (s : State) : Host.Outcome State Fault Refusal :=
  capLoad (.cldWu d rs cs imm) d rs cs imm 4 (fun v => word v) s

/-- `cst.b` (R327). -/
def execCstB (d rs cs : Reg) (imm : BitVec 4) (s : State) : Host.Outcome State Fault Refusal :=
  capStore (.cstB d rs cs imm) d rs cs imm 1 s

/-- `cst.h` (R327). -/
def execCstH (d rs cs : Reg) (imm : BitVec 4) (s : State) : Host.Outcome State Fault Refusal :=
  capStore (.cstH d rs cs imm) d rs cs imm 2 s

/-- `cst.w` (R327). -/
def execCstW (d rs cs : Reg) (imm : BitVec 4) (s : State) : Host.Outcome State Fault Refusal :=
  capStore (.cstW d rs cs imm) d rs cs imm 4 s

/-- `cst.d` (R327). -/
def execCstD (d rs cs : Reg) (imm : BitVec 4) (s : State) : Host.Outcome State Fault Refusal :=
  capStore (.cstD d rs cs imm) d rs cs imm 8 s

/-- `cfold.w` (R327). -/
def execCfoldW (d rs cs : Reg) (imm : BitVec 4) (s : State) : Host.Outcome State Fault Refusal :=
  capFold (.cfoldW d rs cs imm) d rs cs imm 4 s

/-- `cfold.d` (R327). -/
def execCfoldD (d rs cs : Reg) (imm : BitVec 4) (s : State) : Host.Outcome State Fault Refusal :=
  capFold (.cfoldD d rs cs imm) d rs cs imm 8 s

/-! ### Vector forms (R329) -/

/-- Element width of a PV form: the container width of the cap's format when it is 8, 16, 32 or 64 bits, else 8 (R329). -/
def pvWidth (c : Cap) : Nat :=
  let k := (Descr.ofBits c.format).container
  if c.format = 0 then 8 else if k = 3 then 16 else if k = 4 then 32 else if k = 5 then 64 else 8

/-- Where the offsets of the elements come from (R220). -/
inductive PvMode where
  | unit
  | stride
  | index
deriving DecidableEq, Repr

/-- The offset of element `i` (R329). -/
def pvOffset (m : PvMode) (x : Word) (e : BitVec 5) (stride : Word) (idx : VReg) (w i : Nat) : Word :=
  match m with
  | .unit => x + zext e * 128 + word (i * w / 8)
  | .stride => x + word i * stride
  | .index => x + word (idx.el w i)

/-- The checks of R64 on the active elements in ascending order; with none, only those of the cap and the right (R329). -/
def checkElements (cs : Reg) (c : Cap) (n : Nat) (k : AccessKind) (base : Word) (offs : List Word) : Act Unit := do
  if offs.isEmpty && !accessAllowed c k then capTrap cs.val 0 false 24 base
  let rec go : List Word → Act Unit
    | [] => pure ()
    | o :: os => do
      if !accessAllowed c k || o.toNat + n > c.length.toNat then capTrap cs.val 0 false 24 o
      go os
  go offs
  if !reachable c then capTrap cs.val 0 false 24 (offs.headD base)
  lentStall cs c

/-- What a PV form reads before it moves a byte: the cap, the element width, and the active elements with their offsets. -/
def pvElements (m : PvMode) (rs cs : Reg) (e : BitVec 5) (k : AccessKind) : Act (Cap × Nat × List (Nat × Word)) := do
  let c ← useCap cs
  let w := pvWidth c
  let x ← getX rs
  let stride ← (if m = .stride then getX (Fin.ofNat 32 e.toNat) else pure 0)
  let t ← curTile
  let idx := t.v.get (Fin.ofNat 32 e.toNat)
  let els := (t.activeSet w).map fun i => (i, pvOffset m x e stride idx w i)
  checkElements cs c (w / 8) k (pvOffset m x e stride idx w 0) (els.map (·.2))
  return (c, w, els)

/-- Consume a poisoned mask, or an active index element in a poisoned lane (R314, R442). -/
def pvConsume (m : PvMode) (e : BitVec 5) (w : Nat) (els : List (Nat × Word)) : Act Unit := do
  if m = .index then
    let v ← getV (Fin.ofNat 32 e.toNat)
    if els.any fun p => v.badEl w p.1 then consume (zext v.origin)
  readActive w

/-- A vector load under `c[cs]` (R329); elements from poisoned sectors poison their lanes (R330). -/
def vecLoad (i : Instr) (m : PvMode) (d rs cs : Reg) (e : BitVec 5) : State → Host.Outcome State Fault Refusal :=
  run {} i do
    let (c, w, els) ← pvElements m rs cs e .load
    let rec go : List (Nat × Word) → Act (List (Nat × Field))
      | [] => pure []
      | (i, off) :: rest => do
        let bytes ← loadBytes cs c off.toNat (w / 8)
        let fs ← go rest
        return (off.toNat, { pos := w * i, width := w, value := leNat (bytes.map (·.1)), pa := bytes.any (·.2) }) :: fs
    let fs ← go els
    pvConsume m e w els
    let origin := ((fs.find? fun p => p.2.pa).map (·.1)).getD 0
    let src : VReg := { origin := BitVec.ofNat 48 origin }
    writeFields d src src (fs.map (·.2))

/-- A vector store under `c[cs]` (R329): every grant first, then the bytes in ascending element order. -/
def vecStore (i : Instr) (m : PvMode) (d rs cs : Reg) (e : BitVec 5) : State → Host.Outcome State Fault Refusal :=
  run {} i do
    let (c, w, els) ← pvElements m rs cs e .store
    let n := w / 8
    let offs := els.flatMap fun p => (List.range n).map fun j => p.2.toNat + j
    grantLines cs c ((els.head?.map fun p => p.2.toNat).getD 0) ((offs.map (· / 256)).eraseDups)
    pvConsume m e w els
    let v ← getV d
    let bytes := els.flatMap fun p => (leBytes n (v.el w p.1)).zipIdx.map fun b => (p.2.toNat + b.2, b.1)
    let bad := (els.filter fun p => v.badEl w p.1).flatMap fun p => (List.range n).map fun j => p.2.toNat + j
    storeBytes cs c bytes bad

/-- `vcld` (R329). -/
def execVcld (d rs cs : Reg) (e : BitVec 5) (s : State) : Host.Outcome State Fault Refusal :=
  vecLoad (.vcld d rs cs e) .unit d rs cs e s

/-- `vclds` (R329). -/
def execVclds (d rs cs : Reg) (e : BitVec 5) (s : State) : Host.Outcome State Fault Refusal :=
  vecLoad (.vclds d rs cs e) .stride d rs cs e s

/-- `vcldx` (R329). -/
def execVcldx (d rs cs : Reg) (e : BitVec 5) (s : State) : Host.Outcome State Fault Refusal :=
  vecLoad (.vcldx d rs cs e) .index d rs cs e s

/-- `vcst` (R329). -/
def execVcst (d rs cs : Reg) (e : BitVec 5) (s : State) : Host.Outcome State Fault Refusal :=
  vecStore (.vcst d rs cs e) .unit d rs cs e s

/-- `vcsts` (R329). -/
def execVcsts (d rs cs : Reg) (e : BitVec 5) (s : State) : Host.Outcome State Fault Refusal :=
  vecStore (.vcsts d rs cs e) .stride d rs cs e s

/-- `vcstx` (R329). -/
def execVcstx (d rs cs : Reg) (e : BitVec 5) (s : State) : Host.Outcome State Fault Refusal :=
  vecStore (.vcstx d rs cs e) .index d rs cs e s

end Sys2Proof.Machine
end

