-- ==== Sys2Proof/Machine/Msg.lean ====
section
/-! DEFINITION. Messages: the send instructions, returns, receives, handler activation and batches (R50-R51, R61, R83-R87, R100,
R142, R192-R198, R208, R212, R331-R338, R370, R382). -/

namespace Sys2Proof.Machine

open Sys2Proof

/-! ### Ranks, types and the network -/

/-- The dispatch entry of a type; a type that the table does not list is at level 0 (R192). -/
def Tile.dispatchOf (t : Tile) (type : BitVec 8) : DispatchEntry :=
  ((t.dispatch.find? fun p => p.1 = type.toNat).map (·.2)).getD ⟨0, 0⟩

/-- The device and tile index of a rank of a launch (R50, R51). -/
def State.place (s : State) (launch r : Nat) : Option (Nat × Nat) :=
  (s.launchAt launch).bind fun l => (l.groups[r / 8]?).map fun g => (g.device, g.cluster * 8 + r % 8)

/-- The device that a destination lies on. -/
def State.destDevice (s : State) : Dest → Option Nat
  | .rank l r => (s.place l r).map (·.1)
  | .endpoint e => some (e / 2 ^ 13)

/-- The tile of this device that a destination names. -/
def State.destTile (s : State) : Dest → Option Nat
  | .rank l r => (s.place l r).bind fun p => if p.1 = s.device then some p.2 else none
  | .endpoint e => if e / 2 ^ 13 = s.device then endpointTile e else none

/-- The virtual network of a message at a tile (R194, R421): its type's level, or 4 for an exchange message. -/
def Tile.networkOf (t : Tile) (m : Msg) : Nat := if m.landing.isSome then 4 else (t.dispatchOf m.type).level.val

/-- Whether the queue of a message is full at a tile (R194). -/
def Tile.queueFull (t : Tile) (m : Msg) : Bool :=
  if m.landing.isSome then t.xqueue.length ≥ 32 else (t.queues.get (t.dispatchOf m.type).level).length ≥ 32

/-- Whether a message in the network cannot go on: its queue, or the transfer queue of its Shunter, is full (R103, R194). -/
def State.blocked (s : State) (m : Msg) : Bool :=
  match (s.destTile m.dest).bind s.tileAt with
  | none => false
  | some t =>
    if t.parked then false
    else if m.placed then t.queueFull m
    else ((s.clusterAt (clusterOf t.index)).map fun c => decide (c.transfers.length ≥ 64)).getD false

/-- Whether a new message of the tile stalls behind an earlier one of its class that waits in the network (R194). -/
def State.heldBack (s : State) (m : Msg) : Bool :=
  s.net.any fun o => o.senderEp = m.senderEp && o.landing.isNone && s.tile.networkOf o = s.tile.networkOf m && s.blocked o

/-- The packet of a message to another device (R482, R483): the checks of its caps are zero (R487). -/
def State.msgPacket (s : State) (m : Msg) (peer : Nat) (domain : BitVec 16) : Packet :=
  let m := { m with caps := m.caps.map fun c => { c with check := 0 } }
  let payload := 8 * m.payload.length + 32 * m.caps.length
  { op := 0, vn := s.tile.networkOf m, bytes := payload, source := m.senderEp,
    flits := flitsOf payload (s.sealed domain || !m.caps.isEmpty),
    destination := (match m.dest with
      | .endpoint e => e
      | .rank l r => ((s.place l r).map fun p => tileEndpoint p.1 p.2).getD 0),
    domain := domain, words := m.payload ++ m.caps.flatMap (fun c => c.words.map word), msg := some m,
    serial := ((s.fabric.sendSeq.find? fun p => p.1 = peer).map (·.2)).getD 0 }

/-- The next message sequence to a device (R479, R482). -/
def Fabric.nextSeq (f : Fabric) (peer : Nat) : Fabric :=
  { f with sendSeq := (peer, ((f.sendSeq.find? fun p => p.1 = peer).map (·.2)).getD 0 + 1) :: f.sendSeq.filter fun p => p.1 ≠ peer }

/-- Put a message into the network (R332), or send its packet when its destination is on another device. -/
def State.carry (s : State) (m : Msg) (domain : BitVec 16) : State :=
  let m := { m with seq := s.msgSeq }
  let s := { s with msgSeq := s.msgSeq + 1 }
  match s.destDevice m.dest with
  | none => { s with net := s.net ++ [m] }
  | some d =>
    if d = s.device then { s with net := s.net ++ [m] }
    else { s.sendPacket d (s.msgPacket m d domain) with fabric := (s.sendPacket d (s.msgPacket m d domain)).fabric.nextSeq d }

/-! ### Undeliverable returns (R71, R84, R100) -/

/-- Whether a buffer is on its way: In transit, or in the hands of a Shunter that copies it (R94). -/
def DirEntry.onTheWay (e : DirEntry) : Bool := e.state = .inTransit || (e.state = .exclusive && (endpointShunter e.owner).isSome)

/-- The Undeliverable return of an exclusive cap: its entry goes back to an owner, and the cap names what the home records (R71). A TMEM or
CMEM buffer of another device is returned where the message enters that device (R100). -/
def State.undeliver (s : State) (c : Cap) (owner : Nat) : Cap × State :=
  match s.homeOf c, c.mode, c.kind with
  | some h, .exclusive, .tmem | some h, .exclusive, .cmem | some h, .exclusive, .dmem | some h, .exclusive, .remote =>
    match s.entry h c.buffer.toNat with
    | none => (c, s)
    | some e =>
      if !e.onTheWay || e.generation ≠ c.generation then (c, s)
      else (s.sign { c with generation := e.generation },
            (s.tellPeer c 3 [owner]).change h e.number fun e => { e with state := .exclusive, owner := owner })
  | _, _, _ => (c, s)

/-- Return every cap of a list. -/
def State.undeliverAll (s : State) (owner : Nat) : List Cap → List Cap × State
  | [] => ([], s)
  | c :: cs =>
    let (c, s) := s.undeliver c owner
    let (cs, s) := State.undeliverAll s owner cs
    (c :: cs, s)

/-- The rank number that a return names as its destination (R100). -/
def Dest.rankOf : Dest → Nat
  | .rank _ r => r
  | .endpoint e => e

/-- The message of type 0xFD that returns another (R100); with caps it goes through the Shunter of its receiver, as every message with caps (R88). -/
def Msg.returned (m : Msg) (reason : Nat) (caps : List Cap) : Msg :=
  let n := m.payload.length
  let w := m.dest.rankOf % 2 ^ 30 + reason * 2 ^ 32 + m.type.toNat * 2 ^ 40 + n * 2 ^ 48
  { sender := m.sender, senderEp := m.senderEp, senderLaunch := m.senderLaunch,
    dest := if (endpointTile m.senderEp).isSome then .rank m.senderLaunch m.sender else .endpoint m.senderEp,
    type := 0xFD, payload := word w :: m.payload.take 6, caps := caps, places := caps.map fun _ => 0, placed := caps.isEmpty }

/-- The domain of the launch that a destination names. -/
def State.domainOf (s : State) (launch : Nat) : BitVec 16 := ((s.launchAt launch).map (·.record.domain)).getD 0

/-- Return every cap of a message whose buffers this device knows: those of its DMEM, and for a message of this device all (R100). -/
def State.undeliverMsg (s : State) (m : Msg) : List Cap → List Cap × State
  | [] => ([], s)
  | c :: cs =>
    let away := m.senderEp / 2 ^ 13 ≠ s.device && (c.kind = .tmem || c.kind = .cmem)
    let (c, s) := if away then (c, s) else s.undeliver c m.senderEp
    let (cs, s) := State.undeliverMsg s m cs
    (c :: cs, s)

/-- Return a message to its sender (R100). -/
def State.returnMsg (s : State) (m : Msg) (reason : Nat) : State :=
  let (caps, s) := s.undeliverMsg m m.caps
  s.carry (m.returned reason caps) (s.domainOf m.senderLaunch)

/-- Send a message (R332): one to a device that is absent or unreachable returns with reason 6 (R475, R485). -/
def State.sendMsg (s : State) (m : Msg) (domain : BitVec 16) : State :=
  match s.destDevice m.dest with
  | some d => if d ≠ s.device && s.peerDown d then s.returnMsg m 6 else s.carry m domain
  | none => s.carry m domain

/-- The network interface resolves a destination rank: its cache of 256 entries takes the rank map entry that a miss reads (R51, log 77). -/
def State.resolveRank (s : State) (t : Tile) : Dest → Tile
  | .rank l r => match s.place l r with
    | some p =>
      let e := (r / 8, p.2 / 8)
      if t.rankCache.contains e then t
      else { t with rankCache := (if t.rankCache.length < 256 then t.rankCache else t.rankCache.drop 1) ++ [e] }
    | none => t
  | .endpoint _ => t

/-- The current tile injects a message (R51, R212, R332, R421): `msgsent` counts a send that was issued in U-mode. -/
def State.injectMsg (s : State) (m : Msg) : State :=
  let t := s.resolveRank (s.tile.countPacket (s.tile.networkOf m) true) m.dest
  let s := { s with tile := { t with msgsent := if m.counted then t.msgsent + 1 else t.msgsent } }
  s.sendMsg m s.tile.mdomain

/-! ### Sends (R83, R84, R331-R333) -/

/-- The fields of a control word (R331). -/
structure SendWord where
  rank : Nat
  type : BitVec 8
  n : Nat
  k : Nat
  /-- Every reserved bit is 0. -/
  clean : Bool
deriving DecidableEq, Repr

/-- Read a control word (R331). -/
def SendWord.ofWord (v : Word) : SendWord :=
  { rank := v.toNat % 2 ^ 30, type := v.extractLsb' 32 8, n := v.toNat / 2 ^ 40 % 8, k := v.toNat / 2 ^ 43 % 4,
    clean := v.toNat / 2 ^ 30 % 4 = 0 && v.toNat / 2 ^ 45 = 0 }

/-- Trap on the rank of a send (R51). -/
def rankTrap {α : Type} (rank : Nat) : Act α := capTrap 0 0 false 24 (word rank)

/-- The checks of R331 on the control word: reserved bits and ranges, the type, the rank; the place of the rank. -/
def checkSend (w : SendWord) (fits : Bool) : Act (Nat × Nat) := do
  requireCap (w.clean && fits) 0 9
  let s ← get
  requireCap (w.type.toNat < 0xF0 || s.tile.mode = .m) 0 4
  match s.place (s.tile.launch.getD 0) w.rank with
  | some p => return p
  | none => rankTrap w.rank

/-- The cap registers that a send names: a parity error comes before every check of the send (R241). -/
def readCaps : List Reg → Act (List (Reg × Cap))
  | [] => pure []
  | r :: rs => do
    let c ← useCap r
    return (r, c) :: (← readCaps rs)

/-- Step 1 of R83 on the caps of a send, in slot order: not null, the right S, and no region of another level (R162). -/
def checkCaps : List (Reg × Cap) → Act Unit
  | [] => pure ()
  | (r, c) :: cs => do
    requireCap (c.kind ≠ .null && c.eff.s) r 4
    guardRegions r c
    checkCaps cs

/-- A lent cap stalls (R65, R83). -/
def stallLent : List (Reg × Cap) → Act Unit
  | [] => pure ()
  | (r, c) :: cs => do
    lentStall r c
    stallLent cs

/-- Whether a send of a cap to a device passes the check of E and that of the roster (R98, R460). -/
def State.mayLeave (s : State) (device : Nat) (c : Cap) : Bool := device = s.device || (c.eff.e && !s.offRoster s.tile.mdomain device)

/-- A cap may not go to a device (R98): a home-side refusal with reason 8, which the violation log of its home records (R68); of a destination off the roster
the domain's log does (R460). -/
def refuseDest {α : Type} (r : Reg) (c : Cap) : Act α := do
  let s ← get
  if c.eff.e then
    set (s.rosterItem s.tile.mdomain (s.tile.principal s.device) c.buffer.toNat c.generation 0)
  else
    set ((s.homeOf c).elim s fun h => s.refuse (s.claim h c s.tile) 3 0 8)
  homeFail r 8

/-- The checks of a destination that are made at issue: those of a message without caps (R460), and of every send inside a region (R333). -/
def checkDest (device : Nat) (inRegion : Bool) (cs : List (Reg × Cap)) : Act Unit := do
  let s ← get
  if cs.isEmpty then
    if device ≠ s.device && s.offRoster s.tile.mdomain device then refuseDest 0 { rights := { e := true } }
  else if inRegion then
    match cs.find? fun p => !s.mayLeave device p.2 with
    | some p => refuseDest p.1 p.2
    | none => pure ()

/-- Step 4 of R83 for one cap: the Send transition of an exclusive cap of kind 1-4, the check of a ring cap (R344) and of the heap of a kind 2
share (R43), after that of its destination (R98); the cap as sent. -/
def sendCap (device : Nat) (r : Reg) (c : Cap) : Act Cap := do
  if !(← get).mayLeave device c then refuseDest r c
  match c.kind with
  | .handle | .slot =>
    let s ← get
    match s.homeOf c with
    | none => capFail r 4
    | some h =>
      match s.checkRing h c with
      | none => return c
      | some reason => refuseHome r c h reason
  | .tmem | .cmem | .dmem | .remote =>
    if c.mode = .exclusive then
      let (_, e) ← homeAct r c [.exclusive] true 3 1 [] fun h e => do
        let s ← get
        let (b, _, s) := s.bump h e.number fun e => { e with state := .inTransit, owner := s.tile.principal s.device }
        set s
        entryNow r h b
      return (← get).sign { c with buffer := BitVec.ofNat 24 e.number, generation := e.generation, depth := BitVec.ofNat 3 e.depth }
    else
      let s ← get
      match s.homeOf c with
      | some h =>
        if c.kind = .cmem && (s.entry h c.buffer.toNat).any (s.rangeLeaves (s.claim h c s.tile)) then refuseHome r c h 5
      | none => pure ()
      return c
  | .null | .host | .reserved _ => return c

/-- Steps 2 to 4 of R83 for the slots that are left, in slot order: the register is nulled, the buffer drained, the Send transition made. The
send buffer says which slots are done, so that a step which must wait goes on where it stopped. -/
def sendSlots (device : Nat) : List (Reg × Cap) → Act Unit
  | [] => pure ()
  | (r, c) :: rest => do
    onTile fun t => t.setC r Cap.null
    drain c
    let c' ← sendCap device r c
    onTile fun t => { t with sending := t.sending.map fun b => { b with done := b.done ++ [c'] } }
    sendSlots device rest

/-- A send that cannot go on (R84, R182): its registers hold their caps as at issue; the Undeliverable return undoes a Send already made, and that
register's cap has what the home records of it. -/
def State.unsend (s : State) : State :=
  match s.tile.sending with
  | none => s
  | some b =>
    let put (s : State) (p : (Reg × Cap) × Nat) : State :=
      let c := p.1.2
      match b.done[p.2]? with
      | none => { s with tile := s.tile.setC p.1.1 c }
      | some d =>
        let (back, s) := s.undeliver d (s.tile.principal s.device)
        { s with tile := s.tile.setC p.1.1 (if c.mode = .exclusive then s.sign { c with buffer := back.buffer, generation := back.generation } else c) }
    let s := ((b.regs.zip b.msg.caps).zipIdx).foldl put s
    { s with tile := { s.tile with sending := none } }

/-- Drop the lines of caps that have left the tile (R113). -/
def dropAll : List Cap → Act Unit
  | [] => pure ()
  | c :: cs => do
    dropIfLast c
    dropAll cs

/-- Steps 2 to 4 of R83 from the send buffer; a refusal restores the registers (R84). -/
def sendSteps (b : Sending) : Act Unit := do
  let s ← get
  tryCatch (sendSlots ((s.destDevice b.msg.dest).getD s.device) ((b.regs.zip b.msg.caps).drop b.done.length)) fun e =>
    match e with
    | .wait k => throw (.wait k)
    | e => do
      modify (·.unsend)
      throw e

/-- The send buffer empties (R83): the caps as sent, whose tags have left the tile. -/
def emptyBuffer (b : Sending) : Act (List Cap) := do
  let sent := (((← curTile).sending).map (·.done)).getD []
  onTile fun t => { t with sending := none }
  dropAll b.msg.caps
  return sent

/-- Steps 2 to 4 of R83, and the send buffer empties: the caps as sent. -/
def sendAll (b : Sending) : Act (List Cap) := do
  sendSteps b
  emptyBuffer b

/-- Steps 2 to 4 of R83 and the injection (R332), which stalls behind an earlier message of its class that waits in the network (R194). -/
def sendBuffered (b : Sending) : Act Unit := do
  sendSteps b
  if (← get).heldBack b.msg then stall .inject
  let sent ← emptyBuffer b
  modify (·.injectMsg { b.msg with caps := sent })

/-- A send whose control word has passed: it waits behind the release path (R377); inside a region it goes to the Siding (R333),
outside one its caps enter the send buffer (R83). -/
def sendMessage (w : SendWord) (device : Nat) (cs : List (Reg × Cap)) (payload : List Word) (hint : BitVec 2) : Act Unit := do
  checkCaps cs
  stallLent cs
  let s ← get
  let t := s.tile
  checkDest device t.inRegion cs
  let rs := cs.map (·.1)
  let m : Msg := { sender := t.rank, senderEp := t.principal s.device, senderLaunch := t.launch.getD 0,
                   dest := .rank (t.launch.getD 0) w.rank, type := w.type, payload := payload, caps := cs.map (·.2), hint := hint,
                   places := cs.map fun _ => 0, placed := cs.isEmpty, counted := t.mode = Mode.u }
  if !t.releasePath.isEmpty then stall .release
  if t.inRegion then
    if t.siding.length ≥ 32 then trap 28 1
    putCaps (rs.map fun r => (r, Cap.null))
    onTile fun t => { t with siding := t.siding ++ [⟨.msg m 0, t.level, t.depth⟩] }
  else
    if cs.isEmpty && s.heldBack m then stall .inject
    let b : Sending := { msg := m, regs := rs }
    onTile fun t => { t with sending := some b }
    sendBuffered b

/-- A send instruction: one that has begun goes on from its send buffer; else `begin` makes its checks. -/
def sendOr (begin : Act Unit) : Act Unit := do
  match (← curTile).sending with
  | some b => sendBuffered b
  | none => begin

/-- Registers from one on. -/
def regsFrom (r : Reg) (n : Nat) : List Reg := (List.range n).map fun i => Fin.ofNat 32 (r.val + i)

/-- Read registers in order. -/
def getXs : List Reg → Act (List Word)
  | [] => pure []
  | r :: rs => do
    let v ← getX r
    let vs ← getXs rs
    return v :: vs

/-- `msg.send` (R331, R332). -/
def execMsgSend (a b : Reg) (s : State) : Host.Outcome State Fault Refusal :=
  run { launch := true } (.msgSend a b) (do
    let w := SendWord.ofWord (← getX a)
    let (device, _) ← checkSend w (w.k = 0 && b.val + w.n ≤ 32)
    sendMessage w device [] (← getXs (regsFrom b w.n)) 0) s

/-- `msg.sendc` (R331, R332). -/
def execMsgSendc (d a b : Reg) (h : BitVec 2) (s : State) : Host.Outcome State Fault Refusal :=
  run { launch := true } (.msgSendc d a b h) (sendOr do
    let w := SendWord.ofWord (← getX a)
    if d = 30 || (d = 29 && w.k = 2) then illegal (.msgSendc d a b h)
    let fits := (w.k = 1 || w.k = 2) && b.val + w.n ≤ 32 && d.val + w.k ≤ 32
    let cs ← readCaps (if fits then regsFrom d w.k else [])
    let (device, _) ← checkSend w fits
    sendMessage w device cs (← getXs (regsFrom b w.n)) h) s

/-- `xfer` (R332): one cap and no payload; a control word with n other than 0 breaks reason 9 of R331 (log 89). -/
def execXfer (a b : Reg) (h : BitVec 2) (s : State) : Host.Outcome State Fault Refusal :=
  run { launch := true } (.xfer a b h) (sendOr do
    guardC30 (.xfer a b h) [b]
    let w := SendWord.ofWord (← getX a)
    let cs ← readCaps [b]
    let (device, _) ← checkSend w (w.k = 0 && w.n = 0)
    sendMessage w device cs [] h) s

/-! ### Receives (R61, R334-R336, R370) -/

/-- The header word of a queued message (R334). -/
def QMsg.header (q : QMsg) : Word :=
  let m := q.msg
  word (m.sender % 2 ^ 30 + m.type.toNat * 2 ^ 32 + m.payload.length * 2 ^ 40 + m.caps.length * 2 ^ 43
    + (m.places.getD 0 0).toNat * 2 ^ 45 + (m.places.getD 1 0).toNat * 2 ^ 47 + (if m.landing.isSome then 2 ^ 49 else 0) + 2 ^ 63)

/-- The first message of a queue that a region has not consumed (R370). -/
def freshHead (q : List QMsg) : Option QMsg := q.find? fun m => m.kept.isNone

/-- The message that `msg.recv` takes (R208, R335, R382): at level 0 one of the exchange queue (true) whose payload has landed comes
first. -/
def Tile.nextMsg (t : Tile) : Option (Bool × QMsg) :=
  let mine := (freshHead (t.queues.get t.level)).map fun m => (false, m)
  if t.level = 0 then
    match freshHead t.xqueue with
    | some m => if m.landed then some (true, m) else mine
    | none => mine
  else mine

/-- Change or remove the first fresh message of a queue. -/
def editHead (f : QMsg → Option QMsg) : List QMsg → List QMsg
  | [] => []
  | m :: ms => if m.kept.isNone then (f m).toList ++ ms else m :: editHead f ms

/-- Change or remove the first fresh message of the exchange queue (true) or the current level's queue. -/
def Tile.editQueue (t : Tile) (x : Bool) (f : QMsg → Option QMsg) : Tile :=
  if x then { t with xqueue := editHead f t.xqueue }
  else { t with queues := t.queues.set t.level.val (editHead f (t.queues.get t.level)) }

/-- Count a message that leaves a queue (R237). -/
def Tile.countOut (t : Tile) (i : Nat) : Tile :=
  { t with qHead := Vector.ofFn fun j => if j.val = i then t.qHead.get j + 1 else t.qHead.get j }

/-- Take the message at the head of a queue: kept while a region of the level is open (R370), else removed; `msgrecv` and the event counters
count it (R212, R235). -/
def Tile.consumeMsg (t : Tile) (x : Bool) : Tile :=
  let t := t.count 8 1
  let head := freshHead (if x then t.xqueue else t.queues.get t.level)
  let t := if head.any fun m => m.msg.counted then { t with msgrecv := t.msgrecv + 1 } else t
  if t.inRegion then t.editQueue x fun m => some { m with kept := some t.depth }
  else (t.editQueue x fun _ => none).countOut (if x then 4 else t.level.val)

/-- Write the header, the payload and the caps of a message into the current bank (R335). -/
def Tile.putMsg (t : Tile) (q : QMsg) : Tile :=
  let t := t.setX 10 q.header
  let t := (List.range 7).foldl (fun t i => t.setX (Fin.ofNat 32 (11 + i)) (q.msg.payload.getD i 0)) t
  match q.msg.caps with
  | [] => t
  | [c] => t.setC 28 c
  | c :: c' :: _ => (t.setC 28 c).setC 29 c'

/-- The registers that a delivery writes. -/
def deliverItems (k : Nat) : List Item :=
  ((List.range 8).map fun i => .x (Fin.ofNat 32 (10 + i))) ++ (if k ≥ 1 then [.c 28] else []) ++ (if k ≥ 2 then [.c 29] else [])

/-- Deliver a message (R335): `c28` and `c29` must be free for its caps; a slot whose cap failed its check traps with cause 25 once
(R61). -/
def deliver (x : Bool) (q : QMsg) : Act Unit := do
  let t ← curTile
  let k := q.msg.caps.length
  requireCap (k = 0 || (t.rc 28).kind = .null) 28 4
  requireCap (k < 2 || (t.rc 29).kind = .null) 29 4
  match q.failed with
  | slot :: rest =>
    onTile fun t => { t.editQueue x (fun m => some { m with failed := rest }) with mcapinfo := capInfo 0 slot 0 false }
    trap 25 (word slot)
  | [] =>
    saveItems (deliverItems k)
    modify fun s => s.rearm fun i => match i with
      | .x n b r => n = s.tile.index && b = s.tile.level && 10 ≤ r.val && r.val ≤ 17
      | _ => false
    onTile fun t => (t.putMsg q).consumeMsg x

/-- `msg.recv` (R335). -/
def execMsgRecv (s : State) : Host.Outcome State Fault Refusal :=
  run {} .msgRecv (do
    let t ← curTile
    match t.nextMsg with
    | none => stall (.queue t.level.val)
    | some (x, q) => deliver x q) s

/-- `msg.peek` (R336). -/
def execMsgPeek (d : Reg) (s : State) : Host.Outcome State Fault Refusal :=
  run {} (.msgPeek d) (do
    let t ← curTile
    setX d (match t.nextMsg with
      | some (_, q) => q.header
      | none => 0)) s

/-- The trap of the next delivered cap that failed its check, at a handler's entry (R61); it waits while no fault log entry is free (R413). -/
def State.takeSlotTrap (s : State) : State :=
  match s.tile.slotTraps, s.tile.freeEntry with
  | slot :: rest, some _ =>
    ({ s with tile := { s.tile with slotTraps := rest, mcapinfo := capInfo 0 slot 0 false } }).takeTrap 25 (word slot)
  | _, _ => s

/-- `hret` (R196, R336): the next message of the level, or the return to the level that was pre-empted. The loop-back test follows that
effect (R266). -/
def execHret (s : State) : Host.Outcome State Fault Refusal :=
  run {} .hret (do
    let t ← curTile
    if t.level = 0 || t.inRegion then illegal .hret
    requireCap ((t.rc 28).kind = .null) 28 4
    requireCap ((t.rc 29).kind = .null) 29 4
    match freshHead (t.queues.get t.level) with
    | none => onTile fun t => { t.retireTo (t.retPc.get t.level) with level := t.prev.get t.level }
    | some q =>
      onTile fun t => { (({ t.count 9 1 with kpre := none }.putMsg q).consumeMsg false).retireTo (word (t.dispatchOf q.msg.type).entry) with
        slotTraps := q.failed }
      modify (·.takeSlotTrap)
    throw .leave) s

/-! ### Handler activation (R195, R197) -/

/-- Waits that are boundaries (R197). -/
def WaitKind.boundary : WaitKind → Bool
  | .queue _ | .job _ | .barrier _ | .gangForm _ | .gangJoin | .early | .lent _ | .translation _ => true
  | .reclaim _ | .wfi | .reply _ | .drain _ | .copy _ | .inject | .answer | .park | .xchBegin | .xchEnd | .release | .batch | .foldHeld | .faultLog
  | .jobTable _ => false

/-- Whether the tile is at an instruction boundary (R195, R197): not in a send that has begun (R83); a prefix and its instruction are one unit, inside which only a stall is one
(R232). -/
def Tile.atBoundary (t : Tile) : Bool :=
  t.mode = .u && t.lichen.isNone && t.hold = .free && !t.halted && !t.parked && !t.gated && !t.rollbackDue && t.slotTraps.isEmpty && t.sending.isNone &&
  (match t.wait with
   | none => t.kpre.isNone
   | some w => w.kind.boundary)

/-- The level whose handler is due (R195): the highest above the current one whose queue is not empty. -/
def Tile.dueLevel (t : Tile) : Option Level := [3, 2, 1].find? fun l => t.level < l && (freshHead (t.queues.get l)).isSome

/-- Whether a handler is due at a boundary. -/
def Tile.handlerDue (t : Tile) : Bool := t.atBoundary && t.dueLevel.isSome

/-- Activate the handler of a level for a message (R195): the pre-empted level resumes at its unit (R197, R232), and the tile leaves its gang
(R201). -/
def State.activate (s : State) (l : Level) (q : QMsg) : State :=
  let s := s.leaveGang
  let t := s.tile.count 9 1
  let t := { t with retPc := t.retPc.set l.val t.unitPc, prev := t.prev.set l.val t.level, level := l, kpre := none, wait := none,
                    answer := none, asks := t.asks.filter (·.held), slotTraps := q.failed }
  { s with tile := { (t.putMsg q).consumeMsg false with pc := word (t.dispatchOf q.msg.type).entry } }

/-- A handler activation (R195); caps that failed their check trap at the handler's entry, one after the other (R61). -/
def execHandlerActivation (s : State) : Host.Outcome State Fault Refusal :=
  match s.tile.atBoundary, s.tile.dueLevel with
  | true, some l =>
    match freshHead (s.tile.queues.get l) with
    | none => .next s
    | some q => .next (s.activate l q).takeSlotTrap
  | _, _ => .next s

/-! ### Batches (R338, R486) -/

/-- Ask the reachable peers of a tag for their refusals; an unreachable peer contributes all ones (R486). -/
def State.askPeers (s : State) (tag : Fin 4) : List Nat → State
  | [] => s
  | d :: ds =>
    if s.peerDown d then
      let b := s.tile.batches.get tag
      let b' : Batch := { b with summary := BitVec.allOnes 64, peers := b.peers.filter (· ≠ d) }
      State.askPeers { s with tile := { s.tile with batches := s.tile.batches.set tag.val b' } } tag ds
    else
      let a : Ask := { serial := s.tile.serial, device := d, op := 4, buffer := 0, generation := 0, key := 22, args := [22, word tag.val] }
      let p := { s.request 4 d 0 0 32 32 a.serial tag.val 0 s.tile.mdomain with words := a.args }
      State.askPeers ({ s with tile := { s.tile with serial := s.tile.serial + 1, asks := s.tile.asks ++ [a] }.countPacket 5 true }.sendPacket d p) tag ds

/-- `batch.close` (R338): it sends the folds of the tag that the L1 still gathers and waits for every remote store of the tag (R141, R484), then
for the peers' summaries, and clears the tag. -/
def execBatchClose (d : Reg) (t : BitVec 2) (s : State) : Host.Outcome State Fault Refusal :=
  run {} (.batchClose d t) (do
    let tag : Fin 4 := t.toFin
    let s ← get
    if (s.tile.batches.get tag).count = 0 then
      setX d 0
      onTile fun u => { u with batches := u.batches.set tag.val {} }
    else
      let here (l : L1Line) : Bool := l.kind = .remote && l.update.any fun u => u.numbers.any fun p => p.1.toNat = tag.val
      modify fun s => s.pushWhere here
      let t ← curTile
      if t.remotes.any fun r => r.control.isEmpty && (r.tag = tag.val || r.also.any fun p => p.1 = tag.val) then stall .batch
      if t.l1.any here then stall .batch
      if s.tile.answer.isNone then
        modify fun s => s.askPeers tag (s.tile.batches.get tag).peers
        onTile fun u => { u with answer := some 0 }
      let b := (← curTile).batches.get tag
      if !b.peers.isEmpty then stall .batch
      setX d b.summary
      onTile fun u => { u with batches := u.batches.set tag.val {} }) s

end Sys2Proof.Machine
end

