-- ==== Sys2Proof/Machine/Deliver.lean ====
section
/-! DEFINITION. Arrival of messages and the Shunter's placements and copies (R26, R31, R37, R58-R61, R71, R87-R102, R194, R403,
R408, R419, R429, R438-R441). -/

namespace Sys2Proof.Machine

open Sys2Proof

/-! ### Entering caps (R58, R60) -/

/-- Whether the location of a cap is in range for its kind (R60). -/
def Cap.locationOk (c : Cap) : Bool :=
  match c.kind with
  | .tmem => c.location.toNat < 2048
  | .cmem | .handle | .slot => c.location.toNat < 256
  | .dmem | .remote | .host => c.location.toNat < 2 ^ 19
  | .null | .reserved _ => true

/-- The mode, weight and fold op agree (R60). -/
def Cap.modeOk (c : Cap) : Bool :=
  match c.mode with
  | .exclusive => c.weight = 65536 && c.foldOp = 0
  | .read => 1 ≤ c.weight.toNat && c.weight.toNat ≤ 65535 && c.foldOp = 0
  | .fold => 1 ≤ c.weight.toNat && c.weight.toNat ≤ 65535 && validFoldOp c.foldOp
  | .exec => c.weight = 0 && c.foldOp = 0

/-- P of the tile of a home name (R33, R37), also while its spore is out. -/
def State.privateOf (s : State) (domain : BitVec 16) (i : Nat) : Nat :=
  match s.tileAt (s.relocateTile domain i) with
  | some t => t.privateSize
  | none => ((s.spores.findSome? fun p =>
      if p.domain = domain && p.out && !p.revived then p.tiles.find? fun u => u.homeName = i else none).map (·.privateSize)).getD 0

/-- Whether a cap that enters a tile passes its check (R58, R60, R26, R37); `msg`: it comes in a message. -/
def State.capPasses (s : State) (t : Tile) (c : Cap) (msg : Bool) : Bool :=
  if c.kind = .null then c = Cap.null
  else
    c.check = s.checkOf { c with check := 0 } && c.rsv127 = 0 && c.rsv188 = 0 && c.kind.code < 8 && c.length ≠ 0 && c.locationOk &&
    (c.kind ≠ .dmem || c.location.toNat = s.device) && (c.kind ≠ .remote || c.location.toNat ≠ s.device) &&
    (c.kind ≠ .tmem || s.privateOf c.domain c.location.toNat ≤ c.base.toNat) &&
    c.modeOk && !(msg && c.lent) && c.domain = t.mdomain

/-- The Delivery transition of an exclusive cap (R71): the receiver owns the buffer. -/
def State.deliverCap (s : State) (c : Cap) (owner : Nat) : State :=
  if c.mode ≠ .exclusive then s
  else match s.homeOf c with
    | none => s
    | some h => match s.entry h c.buffer.toNat with
      | none => s
      | some e => if e.state = .inTransit && e.generation = c.generation
                  then (s.tellPeer c 2 [owner]).change h e.number fun e => { e with state := .exclusive, owner := owner } else s

/-- Take the caps of a message into a tile: those that fail are replaced by null, with their slots (R61). -/
def State.acceptCaps (s : State) (t : Tile) (slot : Nat) : List Cap → List Cap × List Nat × State
  | [] => ([], [], s)
  | c :: cs =>
    let s := s.deliverCap c (t.principal s.device)
    let r := State.acceptCaps s t (slot + 1) cs
    if s.capPasses t c true then (c :: r.1, r.2.1, r.2.2) else (Cap.null :: r.1, slot :: r.2.1, r.2.2)

/-- A message wakes a tile that Lichen holds under Retry, unless it is the tile's own fault record (R408). -/
def Tile.wake (t : Tile) (m : Msg) : Tile :=
  if t.hold = .retry false && !(m.type = 0xFE && m.sender = t.rank && m.senderLaunch = t.launch.getD 0)
  then { t with hold := .retry true } else t

/-- Put a message into the receive queue of its level (R194). -/
def Tile.enqueue (t : Tile) (q : QMsg) : Tile :=
  let l := (t.dispatchOf q.msg.type).level
  { t with queues := t.queues.set l.val (t.queues.get l ++ [q])
           qTail := Vector.ofFn fun j => if j.val = l.val then t.qTail.get j + 1 else t.qTail.get j }

/-- A message enters the queue of a tile: Delivery of its caps, their check, the count of its network (R60, R61, R71, R86, R421). -/
def State.receive (s : State) (t : Tile) (m : Msg) : State :=
  let r := s.acceptCaps t 0 m.caps
  r.2.2.putTile (((t.countPacket (t.networkOf m) false).enqueue { msg := { m with caps := r.1 }, failed := r.2.1 }).wake m)

/-! ### Messages that cannot be delivered (R101, R403) -/

/-- Give back what a message carries (R77, R101, R403). -/
def State.discardCaps (s : State) : List Cap → State
  | [] => s
  | c :: cs =>
    match s.homeOf c, c.kind with
    | some h, .tmem | some h, .cmem | some h, .dmem | some h, .remote =>
      match s.entry h c.buffer.toNat with
      | none => State.discardCaps s cs
      | some e => State.discardCaps (if e.generation = c.generation then (s.tellPeer c 0 [c.weight.toNat, c.mode.code, e.owner]).giveBack h e c else s) cs
    | _, _ => State.discardCaps s cs

/-- Record the buffers lost when a return finds its sender reset or gated (R101, R468). -/
def State.lose (s : State) (m : Msg) : State :=
  let body (c : Cap) : Summary :=
    { body := [word (c.buffer.toNat + c.generation.toNat * 2 ^ 24), 0, 0, 0], source := 2, injected := false,
      endpoint := m.senderEp, time := s.clock, device := s.device }
  let gone := m.caps.filter fun c => c.mode = .exclusive && c.kind ≠ .null
  s.mapLaunch m.senderLaunch fun l =>
    gone.foldl (fun l c => l.summarise (body c)) { l with lost := l.lost + gone.length }

/-- A message to a tile that is reset or power-gated (R101). -/
def State.refuseGated (s : State) (m : Msg) : State :=
  if m.type = 0xFD then (s.lose m).discardCaps m.caps else s.returnMsg m 0

/-- A message to a launch that runs no more (R403): one of the launch itself is discarded, another returns with reason 5. -/
def State.refuseEnded (s : State) (launch : Nat) (m : Msg) : State :=
  if ((endpointTile m.senderEp).isSome && m.senderLaunch = launch) || m.type = 0xFD then s.discardCaps m.caps else s.returnMsg m 5

/-! ### Arrival (R87, R194, R419, R429) -/

/-- Whether two messages go from one sender to one destination in one order (R87). -/
def Msg.sameStream (a b : Msg) : Bool :=
  a.senderEp = b.senderEp && a.sender = b.sender && a.senderLaunch = b.senderLaunch && a.dest = b.dest &&
    (a.type = 0xFD) = (b.type = 0xFD) && a.landing.isSome = b.landing.isSome

/-- Every message on its way, also those that a Shunter holds. -/
def State.onTheWay (s : State) : List Msg := s.net ++ s.clusters.flatMap fun c => c.transfers.map (·.msg)

/-- Whether a message that waited for the same rank while it was parked is still to enter its queues before this one (R427, R429): they go in their order
of arrival. `held`: those that a Shunter holds count too. -/
def State.replayAhead (s : State) (m : Msg) (held : Bool) : Bool :=
  let before (o : Msg) : Bool := o.replay && o.dest = m.dest
  ((if m.replay then s.net.takeWhile fun o => o ≠ m else s.net).any before) ||
  (held && s.clusters.any fun c => ((if m.replay then c.transfers.takeWhile fun x => x.msg ≠ m else c.transfers).map (·.msg)).any before)

/-- Whether a message must wait for an earlier one of its stream (R87), or for one that waited for the parked rank (R429). -/
def State.mustWait (s : State) (m : Msg) : Bool :=
  (s.onTheWay.any fun o => o.sameStream m && o.seq < m.seq) || s.replayAhead m true

/-- Take a message out of the network. -/
def State.dropNet (s : State) (m : Msg) : State := { s with net := s.net.filter fun o => o ≠ m }

/-- Whether the spore of a parked tile is out (R420): one of its launch whose context is still parked. -/
def State.sporeIsOut (s : State) (t : Tile) : Bool :=
  s.spores.any fun p => p.out && !p.revived && p.launch = t.launch.getD 0 && p.tiles.any fun u => u.index = t.index && u.rank = t.rank

/-- A message for a rank whose spore is out: the overflow queue of 4,096 messages (R429). -/
def State.holdOut (s : State) (launch rank : Nat) (m : Msg) : State :=
  let mine (o : Overflow) : Bool := o.launch = launch && o.rank = rank
  match s.overflows.find? mine with
  | none => { s.dropNet m with overflows := s.overflows ++ [⟨launch, rank, [m]⟩] }
  | some o =>
    if o.msgs.length ≥ 4096 then s
    else { s.dropNet m with overflows := s.overflows.map fun o => if mine o then { o with msgs := o.msgs ++ [m] } else o }

/-- A message for a parked tile: the park buffer until the spore is out, then the overflow queue of 4,096 messages (R419, R429). -/
def State.hold (s : State) (t : Tile) (m : Msg) : State :=
  if !s.sporeIsOut t then (s.dropNet m).putTile { t with parkBuffer := t.parkBuffer ++ [m] }
  else s.holdOut (t.launch.getD 0) t.rank m

/-- A message with caps enters the transfer queue of a Shunter (R88, R103): it waits in the network while 64 transfers are held. -/
def State.enterShunter (s : State) (k : Nat) (m : Msg) : State :=
  if (s.clusterAt k).any fun c => !c.stopped && c.transfers.length < 64 then
    (s.dropNet m).mapCluster k fun c => { c with transfers := c.transfers ++ [{ msg := m }] }
  else s

/-- A message reaches a tile (R88, R101, R102, R194, R419). -/
def State.arriveAt (s : State) (t : Tile) (m : Msg) : State :=
  if t.parked then s.hold t m
  else if t.gated then (s.dropNet m).refuseGated m
  else if !m.placed then s.enterShunter (clusterOf t.index) m
  else if t.queueFull m then s
  else (s.dropNet m).receive t m

/-- Whether an earlier message of a stream is still in the network (R87): the Shunter takes them in order. -/
def State.behind (s : State) (m : Msg) : Bool := (s.net.any fun o => o.sameStream m && o.seq < m.seq) || s.replayAhead m false

/-- Whether the cluster spore of a rank's group is out (R52, R429). -/
def State.groupOut (s : State) (launch r : Nat) : Bool :=
  ((s.launchAt launch).bind fun l => l.groups[r / 8]?).any fun g => g.parked && g.device = s.device

/-- Whether a launch still takes messages (R403). -/
def State.takesMsgs (s : State) (launch : Nat) : Bool :=
  (s.launchAt launch).any fun l => l.state ≠ .ended && !l.cleaned && l.state ≠ .waiting && l.state ≠ .ready

/-- Whether the homes that must make a transition for the exclusive caps of a message run (R71, R417): one that is parked or out in a spore is waited for. -/
def State.homesAwake (s : State) (m : Msg) : Bool :=
  m.caps.all fun c => c.mode ≠ .exclusive || (m.senderEp / 2 ^ 13 ≠ s.device && (c.kind = .tmem || c.kind = .cmem)) || !(s.homeOf c).any s.asleep

/-- Whether a message goes to a rank that is parked (R102, R429). -/
def State.toParked (s : State) (m : Msg) : Bool :=
  (match m.dest with
   | .rank l r => s.takesMsgs l && s.groupOut l r
   | .endpoint _ => false) || ((s.destTile m.dest).bind s.tileAt).any (·.parked)

/-- A message arrives where it goes (R31, R102, R194, R403). -/
def State.arrive (s : State) (m : Msg) : State :=
  if m.landing.isSome || (if m.placed then s.mustWait m else s.behind m) then s
  else if !s.toParked m && !s.homesAwake m then s
  else match m.dest with
    | .rank l r =>
      if !s.takesMsgs l then (s.dropNet m).refuseEnded l m
      else if s.groupOut l r then s.holdOut l r m
      else match (s.destTile m.dest).bind s.tileAt with
        | some t => s.arriveAt t m
        | none => (s.dropNet m).refuseEnded l m
    | .endpoint e =>
      if !endpointValid e then (s.dropNet m).returnMsg m 1
      else if e = hostEndpoint s.device then s
      else match (endpointTile e).bind s.tileAt with
        | some t => s.arriveAt t m
        | none =>
          let s := m.caps.foldl (fun s c => s.deliverCap c e) (s.dropNet m)
          { s with stationMsgs := s.stationMsgs ++ [m] }

/-- The n-th message of the network arrives (R194); one that must wait stays. -/
def execMessageArrival (n : Nat) (s : State) : Host.Outcome State Fault Refusal :=
  match s.net[n]? with
  | none => .next s
  | some m => .next (s.arrive m)

/-! ### Placement (R88-R96) -/

/-- A choice of the table of R91. -/
inductive Choice where
  | rights
  | tmem
  | cmem
  | back
deriving DecidableEq, Repr

/-- Where the receiver is, seen from the buffer (R91). -/
inductive Where where
  | here
  | device
  | away
deriving DecidableEq, Repr

/-- The cell of R91 for a kind 1 buffer; `hint` as R89 numbers it. -/
def choices1 (w : Where) (hint len : Nat) : List Choice :=
  match w with
  | .here => [.rights]
  | .device =>
    if hint = 0 then [.rights] else if hint = 1 then [.tmem, .rights] else if hint = 2 then [.cmem, .rights]
    else (if len ≤ 2 ^ 16 then [.tmem] else []) ++ (if len ≤ 2 ^ 22 then [.cmem] else []) ++ [.rights]
  | .away =>
    if hint = 1 then [.tmem, .cmem, .back] else if hint = 3 && len ≤ 2 ^ 16 then [.tmem, .cmem, .back] else [.cmem, .back]

/-- The cell of R91 for a kind 2 buffer. -/
def choices2 (w : Where) (hint len : Nat) : List Choice :=
  match w with
  | .here => if hint = 1 then [.tmem, .rights] else [.rights]
  | .device =>
    if hint = 0 then [.rights] else if hint = 1 then [.tmem, .rights] else if hint = 2 then [.cmem, .rights]
    else (if len ≤ 2 ^ 18 then [.cmem] else []) ++ [.rights]
  | .away => if hint = 1 then [.tmem, .cmem, .back] else [.cmem, .back]

/-- Where a cap's buffer lies, for a message of a device to a tile (R91). -/
def State.whereIs (s : State) (m : Msg) (c : Cap) (t : Tile) : Where :=
  if m.senderEp / 2 ^ 13 ≠ s.device then .away
  else match c.kind with
    | .tmem => if s.relocateTile c.domain c.location.toNat = t.index then .here else .device
    | _ => if s.relocate c.domain c.location.toNat = clusterOf t.index then .here else .device

/-- The choices for a cap (R91, R92): the list, and the reason of a return. A share of a buffer with levels is a share: reason 4 (log 76). -/
def State.choicesFor (s : State) (m : Msg) (c : Cap) (t : Tile) : List Choice × Nat :=
  let w := s.whereIs m c t
  let fixed := c.mode ≠ .exclusive || c.depth ≠ 0
  let whyFixed := if c.mode ≠ .exclusive then 4 else 3
  match c.kind with
  | .tmem => if fixed then (if w = .away then ([.back], whyFixed) else ([.rights], 0)) else (choices1 w m.hint.toNat c.length.toNat, 2)
  | .cmem => if fixed then (if w = .away then ([.back], whyFixed) else ([.rights], 0)) else (choices2 w m.hint.toNat c.length.toNat, 2)
  | .handle | .slot => if w = .away then ([.back], 4) else ([.rights], 0)
  | _ => ([.rights], 0)

/-- TMEM receive quota in use at a tile (R90). -/
def State.quotaUse (s : State) (i : Nat) : Nat :=
  ((s.dirs.filter fun e => e.home = .tile i && e.state ≠ .free).map (·.quota)).sum

/-- Bytes rounded up to 256. -/
def round256 (n : Nat) : Nat := (n + 255) / 256 * 256

/-- What the Shunter decides for a cap (R96): the outcome, and the new buffer's cap when it is to be copied. -/
inductive Placed where
  | keep (outcome : BitVec 2)
  | copy (outcome : BitVec 2) (c : Cap)
  | back (reason : Nat)
deriving DecidableEq, Repr

/-- Allocate the destination of a copy, with the Shunter as owner (R90, R94): the cap that the receiver gets. -/
def State.allocCopy (s : State) (t : Tile) (c : Cap) (tmem : Bool) : Option (Cap × State) :=
  let k := clusterOf t.index
  let len := round256 c.length.toNat
  let h := if tmem then HomeId.tile t.index else .cluster k
  if tmem && len + s.quotaUse t.index > t.quota then none
  else match s.alloc h c.length.toNat (clusterEndpoint s.device k 8) c.domain (if tmem then len else 0) with
    | none => none
    | some (e, s) =>
      some (s.capOf e (if tmem then .tmem else .cmem) (if tmem then t.homeName else clusterOf t.homeName) c.rights c.format, s)

/-- Take the first choice that fits (R91); `tried`: an earlier one did not. -/
def State.choose (s : State) (t : Tile) (c : Cap) (reason : Nat) (tried : Bool) : List Choice → Placed × State
  | [] => (.back reason, s)
  | .rights :: _ => (.keep (if tried then 3 else 0), s)
  | .back :: _ => (.back reason, s)
  | .tmem :: rest => match s.allocCopy t c true with
    | some (c', s) => (.copy 1 c', s)
    | none => State.choose s t c reason true rest
  | .cmem :: rest => match s.allocCopy t c false with
    | some (c', s) => (.copy 2 c', s)
    | none => State.choose s t c reason true rest

/-- Decide every cap of a message (R93). -/
def State.decideAll (s : State) (m : Msg) (t : Tile) : List Cap → List Placed × State
  | [] => ([], s)
  | c :: cs =>
    let q := s.choicesFor m c t
    let (p, s) := s.choose t c q.2 false q.1
    let (ps, s) := State.decideAll s m t cs
    (p :: ps, s)

/-- The reason of a return that a decision asks for. -/
def Placed.reason : Placed → Option Nat
  | .back r => some r
  | _ => none

/-- The outcome code of R96. -/
def Placed.outcome : Placed → BitVec 2
  | .keep o => o
  | .copy o _ => o
  | .back _ => 0

/-- The new buffer's cap of a decision, null without a copy. -/
def Placed.newCap : Placed → Cap
  | .copy _ c => c
  | _ => Cap.null

/-- Free the buffers that a decision allocated. -/
def State.dropCopies (s : State) : List Cap → State
  | [] => s
  | c :: cs =>
    match s.homeOf c with
    | some h => State.dropCopies (s.freeBuffer h s.dirs.length c.buffer.toNat) cs
    | none => State.dropCopies s cs

/-- A Shunter's transfer leaves its queue. -/
def State.dropTransfer (s : State) (k : Nat) (m : Msg) : State :=
  s.mapCluster k fun c => { c with transfers := c.transfers.filter fun x => x.msg ≠ m }

/-- A transfer goes back to the network undecided, ahead of what came later: its rank is parked, and waits for it with the rank's others (R102). -/
def State.backToNet (s : State) (k : Nat) (old new : Msg) : State :=
  let s := s.dropTransfer k old
  { s with net := { new with placed := false, places := new.caps.map fun _ => 0 } :: s.net }

/-- Allocate the copies that a decision asks for, in slot order (R94 step 2); none where one does not fit. -/
def State.allocAll (s : State) (t : Tile) : List (Cap × BitVec 2) → Option (List Cap × State)
  | [] => some ([], s)
  | (c, o) :: rest =>
    if o = 1 || o = 2 then
      (s.allocCopy t c (o = 1)).bind fun p => (State.allocAll p.2 t rest).map fun q => (p.1 :: q.1, q.2)
    else (State.allocAll s t rest).map fun q => (Cap.null :: q.1, q.2)

/-- Decide the placement of a transfer (R91-R93, R101): its message is returned, goes on by rights only, or is copied. A source of this
device is delivered to the Shunter, then its destination allocated (R94 steps 1 and 2); that of another device is asked for first. Of two returns with
different reasons the message carries slot 0's (log 76). -/
def State.place' (s : State) (k : Nat) (t : Tile) (m : Msg) : State :=
  if t.gated then (s.dropTransfer k m).refuseGated m
  else
    let ps := (s.decideAll m t m.caps).1
    let places := ps.map Placed.outcome
    match ps.findSome? Placed.reason with
    | some reason => (s.dropTransfer k m).returnMsg m reason
    | none =>
      if ps.all fun p => p.newCap.kind = .null then
        let s := s.dropTransfer k m
        let m' := { m with placed := true, places := places }
        { s with net := if m.replay then m' :: s.net else s.net ++ [m'] }
      else
        let shunter := clusterEndpoint s.device k 8
        let put (copies : List Cap) (s : State) : State := s.mapCluster k fun c => { c with transfers := c.transfers.map fun x =>
          if x.msg = m then { x with decided := true, places := places, copies := copies, turn := c.turn } else x }
        if m.senderEp / 2 ^ 13 ≠ s.device then put [] s
        else
          let s := (m.caps.zip places).foldl (fun s p => if p.2 = 1 || p.2 = 2 then s.deliverCap p.1 shunter else s) s
          match s.allocAll t (m.caps.zip places) with
          | none => s
          | some q => put q.1 q.2

/-- The Shunter of a cluster decides its oldest undecided transfer (R88, R103); for a rank that is parked by now it decides nothing, and the
message waits with the rank's others (R102). -/
def execShunterPlacement (cluster : Nat) (s : State) : Host.Outcome State Fault Refusal :=
  match s.clusterAt cluster with
  | none => .next s
  | some c =>
    if c.stopped then .next s
    else match c.transfers.find? fun x => !x.decided with
      | none => .next s
      | some x =>
        let m := x.msg
        let out := s.dropTransfer cluster m
        if s.toParked m then .next (s.backToNet cluster m m)
        else if !s.homesAwake m then .next s
        else match m.dest with
        | .rank l _ =>
          if !s.takesMsgs l then .next (out.refuseEnded l m)
          else match (s.destTile m.dest).bind s.tileAt with
            | none => .next (out.refuseEnded l m)
            | some t => .next (s.place' cluster t m)
        | .endpoint _ => match (s.destTile m.dest).bind s.tileAt with
            | none => .next (out.returnMsg m 1)
            | some t => .next (s.place' cluster t m)

/-! ### Copies (R94) -/

/-- Copy one sector with its poison (R94, R438): the source is read, and checked, by its home. -/
def State.copySector (s : State) (hs : HomeId) (source src : Nat) (hd : HomeId) (dst : Nat) (nd len i : Nat) : State :=
  let n := min 64 (len - 64 * i)
  let s := s.detect hs source (64 * i) (src + 64 * i)
  let s := { s with mem := s.mem.writeN (dst + 64 * i) (s.mem.readN (src + 64 * i) n) }
  if s.poisoned ((src + 64 * i) / 64) then s.markPoison hd nd (64 * i) (dst + 64 * i) 70 false else s

/-- The sectors of a 256-byte unit of a buffer of some length. -/
def unitSectors (len u : Nat) : List Nat := ((List.range 4).map (4 * u + ·)).filter fun i => 64 * i < len

/-- Copy a 256-byte unit of a buffer of this device (R94, R97, R103). -/
def State.copyLocal (s : State) (src dst : Cap) (u : Nat) : State :=
  match s.homeOf src, s.homeOf dst with
  | some hs, some hd => (unitSectors src.length.toNat u).foldl (fun s i =>
      s.copySector hs src.buffer.toNat (hs.space.base + src.base.toNat) hd (hd.space.base + dst.base.toNat) dst.buffer.toNat src.length.toNat i) s
  | _, _ => s

/-- The endpoint of the home of a TMEM or CMEM buffer of another device, by the name that its cap gives (R25, R30). -/
def peerHome (device : Nat) (c : Cap) : Nat :=
  if c.kind = .tmem then tileEndpoint device c.location.toNat else clusterEndpoint device c.location.toNat 10

/-- Send a Shunter's request about a cap of a message to its device (R98, R483). -/
def State.shunterSend (s : State) (k : Nat) (c : Cap) (a : Ask) : State :=
  s.sendPacket a.device
    { op := a.op, vn := 5, bytes := if a.op = 1 then 64 else 32, flits := flitsOf (if a.op = 1 then 0 else 32) false,
      source := clusterEndpoint s.device k 8, destination := peerHome a.device c, buffer := a.buffer, generation := a.generation,
      offset := if a.op = 1 then a.key else 0, domain := c.domain, serial := a.serial % 2 ^ 24, words := a.args }

/-- Ask the home of a transfer's source on another device (R98, R483), once for each key. -/
def State.shunterAsk (s : State) (k : Nat) (m : Msg) (c : Cap) (op key : Nat) (words : List Nat) : State :=
  match s.clusterAt k with
  | none => s
  | some cl =>
    let d := m.senderEp / 2 ^ 13
    let a : Ask := { serial := cl.serial, device := d, op := op, buffer := c.buffer.toNat, generation := c.generation, key := key,
                     args := words.map word, home := peerHome d c }
    if cl.transfers.any fun x => x.msg = m && x.asks.any fun o => o.op = op && o.key = key && o.buffer = a.buffer && o.home = a.home then s
    else
      let put (x : Transfer) : Transfer := if x.msg = m then { x with asks := x.asks ++ [a] } else x
      (s.mapCluster k fun cl => { cl with serial := cl.serial + 1, transfers := cl.transfers.map put }).shunterSend k c a

/-- The answer that a transfer has had. -/
def Transfer.answer (x : Transfer) (c : Cap) (op key : Nat) : Option Ask :=
  x.asks.find? fun a => a.op = op && a.key = key && a.buffer = c.buffer.toNat && a.home = peerHome a.device c && a.done

/-- A reply to a Shunter (R98, R484). -/
def State.shunterReply (s : State) (k serial : Nat) (answer : Ask → Ask) : State :=
  s.mapCluster k fun c => { c with transfers := c.transfers.map fun x =>
    { x with asks := x.asks.map fun a => if a.serial % 2 ^ 24 = serial then answer { a with done := true } else a } }

/-- Write the sectors of a unit that another device's home has sent (R94, R98); one that it refused is poisoned (log 76). -/
def State.writeUnit (s : State) (x : Transfer) (src dst : Cap) : State :=
  match s.homeOf dst with
  | none => s
  | some hd =>
    let to' := hd.space.base + dst.base.toNat
    let len := src.length.toNat
    (unitSectors len x.units).foldl (fun s i =>
      match x.answer src 1 (64 * i) with
      | none => s
      | some a =>
        let bytes := ((a.words.flatMap fun (w : Word) => leBytes 8 w.toNat) ++ List.replicate 64 0).take (min 64 (len - 64 * i))
        let s := { s with mem := s.mem.writeN (to' + 64 * i) bytes }
        if a.bad || a.reason.isSome then s.markPoison hd dst.buffer.toNat (64 * i) (to' + 64 * i) 70 false else s) s

/-- The slot of a transfer whose copy is next, with its source and destination. -/
def Transfer.current (x : Transfer) : Option (Nat × Cap × Cap) :=
  (((x.msg.caps.zip x.copies).zipIdx).find? fun p => x.slot ≤ p.2 && p.1.2.kind ≠ .null).map fun p => (p.2, p.1.1, p.1.2)

/-- Whether the unit that a transfer copies next has reached its Shunter: at once on this device while its home runs, else when the source's
home has answered the reads (R94, R98, R417). -/
def State.unitHere (s : State) (x : Transfer) : Bool :=
  match x.current with
  | none => false
  | some (_, src, dst) => !(s.homeOf dst).any s.asleep && (if x.msg.senderEp / 2 ^ 13 = s.device then !(s.homeOf src).any s.asleep
      else (unitSectors src.length.toNat x.units).all fun i => (x.answer src 1 (64 * i)).isSome)

/-- Ask for the sectors of the unit that a transfer of another device needs next. -/
def State.fetchUnit (s : State) (k : Nat) (x : Transfer) : State :=
  match x.current with
  | none => s
  | some (_, src, _) => (unitSectors src.length.toNat x.units).foldl (fun s i => s.shunterAsk k x.msg src 1 (64 * i) []) s

/-- The element that has gone unserved longest, the first of equals: service round robin (R103, R105). -/
def leastServed {α : Type} (turn : α → Nat) : List α → Option α
  | [] => none
  | x :: xs => match leastServed turn xs with
    | none => some x
    | some y => some (if turn y < turn x then y else x)

/-- The transfers of a cluster in flight: the four oldest that copy (R103), each with its copies one after the other (log 88). -/
def Cluster.inFlight (c : Cluster) : List Transfer := (c.transfers.filter (·.decided)).take 4

/-- The copy jobs of a cluster's Shunter that could move a unit now (R105): not ended, and waiting on no translation. -/
def State.copyJobs (s : State) (k : Nat) : List Job :=
  s.allTiles.flatMap fun t => t.jobs.filter fun j => j.cluster = k && !j.ended && j.outcome.isNone && j.since.isNone && (match j.kind with
    | .copy _ _ _ => true
    | _ => false)

/-- The transfer whose unit comes next (R103): round robin among those in flight whose unit is there. -/
def State.unitTurn (s : State) (c : Cluster) : Option Nat := (leastServed Transfer.turn (c.inFlight.filter s.unitHere)).map (·.msg.seq)

/-- Copy a unit of a transfer (R94, R103). -/
def State.copyTransfer (s : State) (k : Nat) (x : Transfer) : State :=
  match x.current with
  | none => s
  | some (slot, src, dst) =>
    let s := if x.msg.senderEp / 2 ^ 13 = s.device then s.copyLocal src dst x.units else s.writeUnit x src dst
    let ends := src.length.toNat ≤ 256 * (x.units + 1)
    let on (y : Transfer) : Transfer := if ends then { y with slot := slot + 1, units := 0 } else { y with slot := slot, units := y.units + 1 }
    s.mapCluster k fun c => { c with turn := c.turn + 1, burst := min 4 (c.burst + 1), transfers := c.transfers.map fun y =>
      if y.msg = x.msg then { on y with turn := c.turn + 1 } else y }

/-- Free the source of a copy of this device (R94 step 4). -/
def State.freeSource (s : State) (m : Msg) (c : Cap) : State :=
  if m.senderEp / 2 ^ 13 ≠ s.device then s
  else match s.homeOf c with
    | some h => s.freeBuffer h s.dirs.length c.buffer.toNat
    | none => s

/-- Send the new buffer to the receiver (R94 step 5, R95): In transit, with the generation and poison that its home records. -/
def State.sendCopy (s : State) (c : Cap) : Cap × State :=
  match s.homeOf c with
  | none => (c, s)
  | some h =>
    let (b, g, s) := s.bump h c.buffer.toNat fun e => { e with state := .inTransit }
    let z := ((s.entry h b).map fun e => decide (e.poison ≠ 0)).getD false
    (s.sign { c with buffer := BitVec.ofNat 24 b, generation := g, z := z }, s)

/-- Finish every copy of a transfer (R94 steps 4 and 5): the caps of the message as the receiver gets them. The home of another device has freed its source. -/
def State.finishCopies (s : State) (m : Msg) : List (Cap × Cap) → List Cap × State
  | [] => ([], s)
  | (src, dst) :: rest =>
    if dst.kind = .null then
      let (cs, s) := State.finishCopies s m rest
      (src :: cs, s)
    else
      let s := s.freeSource m src
      let (c, s) := s.sendCopy dst
      let (cs, s) := State.finishCopies s m rest
      (c :: cs, s)

/-- The sources of a transfer that are to be copied. -/
def Transfer.sources (x : Transfer) : List Cap := (x.msg.caps.zip x.places).filterMap fun p => if p.2 = 1 || p.2 = 2 then some p.1 else none

/-- Ask the homes of a transfer's sources on another device for a directory event (R94, R98). -/
def State.askSources (s : State) (k : Nat) (x : Transfer) (op : Nat) (words : Cap → List Nat) : State :=
  x.sources.foldl (fun s c => s.shunterAsk k x.msg c 4 op (op :: words c)) s

/-- Whether every home has answered such an event; at once for sources of this device. -/
def State.sourcesAnswered (s : State) (x : Transfer) (op : Nat) : Bool :=
  x.msg.senderEp / 2 ^ 13 = s.device || x.sources.all fun c => (x.answer c 4 op).isSome

/-- A transfer that is not to be completed (R91, R101): the copies are freed, and the message returns with the original buffers. -/
def State.abandonTransfer (s : State) (k : Nat) (x : Transfer) (reason : Nat) : State :=
  let away := x.msg.senderEp / 2 ^ 13 ≠ s.device
  let s := if away then s.askSources k x 3 (fun _ => [x.msg.senderEp]) else s
  let s := (s.dropCopies x.copies).dropTransfer k x.msg
  if reason = 0 then s.refuseGated x.msg else s.returnMsg x.msg reason

/-- The sources of another device come into the Shunter's hands (R94 step 1), then their destinations are allocated (step 2). Room that is gone by
then returns the message (R91, log 76). -/
def State.takeSources (s : State) (k : Nat) (t : Tile) (x : Transfer) : State :=
  if !s.sourcesAnswered x 2 then s.askSources k x 2 fun _ => [clusterEndpoint s.device k 8]
  else if x.sources.any fun c => (x.answer c 4 2).any (·.reason.isSome) then s.abandonTransfer k x 2
  else match s.allocAll t (x.msg.caps.zip x.places) with
    | none => s.abandonTransfer k x 2
    | some (copies, s) => s.mapCluster k fun c => { c with transfers := c.transfers.map fun y => if y.msg = x.msg then { y with copies := copies } else y }

/-- The receiver of a transfer is parked (R102): nothing of its placement stands. The copies are freed, the sources are In transit again, and the message
waits for its rank undecided (log 76). -/
def State.undoTransfer (s : State) (k : Nat) (x : Transfer) : State :=
  if x.msg.senderEp / 2 ^ 13 = s.device then
    let s := s.dropCopies x.copies
    let again := (x.msg.caps.zip x.places).foldl (fun (p : List Cap × State) q =>
      if q.2 = 1 || q.2 = 2 then
        let r := p.2.sendCopy q.1
        (p.1 ++ [r.1], r.2)
      else (p.1 ++ [q.1], p.2)) ([], s)
    again.2.backToNet k x.msg { x.msg with caps := again.1 }
  else if x.copies.isEmpty && !(x.asks.any fun a => a.op = 4) then s.backToNet k x.msg x.msg
  else if !s.sourcesAnswered x 1 then s.askSources k x 1 fun _ => [clusterEndpoint s.device k 8]
  else
    let renew (c : Cap) : Cap := match x.answer c 4 1 with
      | some a => if a.reason.isSome then c else
          let e := DirEntry.ofFields (.remote a.device) a.words 0
          { c with buffer := BitVec.ofNat 24 e.number, generation := e.generation }
      | none => c
    (s.dropCopies x.copies).backToNet k x.msg { x.msg with caps := (x.msg.caps.zip x.places).map fun p => if p.2 = 1 || p.2 = 2 then s.sign (renew p.1) else p.1 }

/-- A transfer whose copies are made hands its message to the destination (R88, R93, R101): it waits for earlier messages of its stream
and for a place in the queue, then for the sources of another device to be freed (R94 step 4). -/
def State.handOver (s : State) (k : Nat) (t : Tile) (x : Transfer) : State :=
  if s.mustWait x.msg || t.queueFull x.msg || !s.homesAwake x.msg then s
  else if !s.sourcesAnswered x 0 then s.askSources k x 0 fun c => [c.weight.toNat, c.mode.code]
  else
    let (caps, s) := s.finishCopies x.msg (x.msg.caps.zip x.copies)
    (s.dropTransfer k x.msg).receive ((s.tileAt t.index).getD t) { x.msg with caps := caps, places := x.places, placed := true }

/-- The n-th transfer in flight at a cluster's Shunter goes on (R94, R101, R103): it copies a 256-byte unit in its turn, or asks another device
for one, and at the end hands its message over. Copy jobs get a unit after at most four of transfers (R105). -/
def execTransferCopy (cluster : Nat) (n : Nat) (s : State) : Host.Outcome State Fault Refusal :=
  match s.clusterAt cluster with
  | none => .next s
  | some c =>
    match c.inFlight[n]? with
    | none => .next s
    | some x =>
      if c.stopped then .next s
      else if s.toParked x.msg then .next (s.undoTransfer cluster x)
      else match (s.destTile x.msg.dest).bind s.tileAt with
        | none => .next (s.abandonTransfer cluster x 0)
        | some t =>
          if t.gated then .next (s.abandonTransfer cluster x 0)
          else if x.copies.isEmpty then .next (s.takeSources cluster t x)
          else if x.current.isNone then .next (s.handOver cluster t x)
          else if !s.unitHere x then .next (if x.msg.senderEp / 2 ^ 13 = s.device then s else s.fetchUnit cluster x)
          else if s.unitTurn c = some x.msg.seq && (c.burst < 4 || (s.copyJobs cluster).isEmpty) then .next (s.copyTransfer cluster x)
          else .next s

end Sys2Proof.Machine
end

