-- ==== Sys2Proof/Machine/RingOps.lean ====
section
/-! DEFINITION. The ring instructions (R343-R347). -/

namespace Sys2Proof.Machine

open Sys2Proof

/-- The ring that a handle or slot cap names, after the home's check of R344. -/
def ringOf (r : Reg) (c : Cap) : Act (Nat × Ring) := do
  let s ← get
  match s.homeOf c with
  | none => capFail r 4
  | some h =>
    if s.asleep h then stall .inject
    match s.checkRing h c, s.ring h.clusterIx c.buffer.toNat with
    | none, some g => return (h.clusterIx, g)
    | some reason, _ => do
      set (s.refuse (s.claim h c s.tile) 3 0 reason)
      homeFail r reason
    | none, none => homeFail r 4

/-- A handle (R344): the producer's carries W, the consumer's R. -/
def Cap.isHandle (c : Cap) (producer : Bool) : Bool :=
  c.kind = .handle && c.mode = .exclusive && (if producer then c.rights.w else c.rights.r && !c.rights.w)

/-- A slot cap (R344): the producer's carries W. -/
def Cap.isSlot (c : Cap) (producer : Bool) : Bool := c.kind = .slot && c.mode = .exclusive && c.rights.w = producer

/-- The cap of a slot (R344). -/
def State.slotCap (s : State) (handle : Cap) (g : Ring) (i : Nat) (producer : Bool) : Cap :=
  s.sign { base := BitVec.ofNat 48 (g.base + 4352 * i), length := 4352, kind := .slot, location := handle.location,
           rights := { r := true, w := producer, s := true }, mode := .exclusive, buffer := handle.buffer,
           generation := (g.slot i).serial, weight := 65536, format := g.format, domain := handle.domain }

/-- Wait for the release path to empty (R142, R377). -/
def afterRelease : Act Unit := do if !(← curTile).releasePath.isEmpty then stall .release

/-- `ring.init` (R346): an exclusive CMEM buffer of the tile's cluster becomes a ring with two handles. -/
def execRingInit (d a b : Reg) (s : State) : Host.Outcome State Fault Refusal :=
  run { rs2 := some b } (.ringInit d a b) (do
    guardC30 (.ringInit d a b) [d, a]
    outsideRegions (.ringInit d a b)
    let c ← useCap a
    let n := (← rs2 b).toNat
    let s ← get
    let k := clusterOf s.tile.index
    requireCap (c.kind = .cmem && c.mode = .exclusive && c.eff.r && c.eff.w && c.eff.p && c.depth = 0 && c.base.toNat % 256 = 0 &&
      s.homeOf c = some (.cluster k)) a 4
    requireCap (2 ≤ n && n ≤ 256) a 9
    requireCap (n * 4352 ≤ c.length.toNat) a 5
    requireCap (d ≠ a) a 4
    lentStall a c
    freeDest d
    afterRelease
    drain c
    let (h, e) ← homeEntry a c [.exclusive] true 3
    let s ← get
    let (num, g, s) := s.bump h e.number fun e => { e with owner := s.homeEndpoint h }
    let r : Ring := { cluster := k, rights := c.rights, buffer := num, generation := g, base := c.base.toNat, format := c.format,
                      domain := c.domain, slots := List.replicate n {} }
    let s := { s with rings := s.rings.filter (fun (o : Ring) => !(o.cluster = k && o.buffer = num)) ++ [r] }
    set s
    let handle : Cap := { base := c.base, length := BitVec.ofNat 40 (n * 4352), kind := .handle, location := c.location, mode := .exclusive,
                          buffer := BitVec.ofNat 24 num, generation := g, weight := 65536, format := c.format, domain := c.domain }
    putCaps [(d, s.sign { handle with rights := { r := true, s := true } }), (a, s.sign { handle with rights := { w := true, s := true } })]
    dropIfLast c) s

/-- `ring.rsv` (R345, R346): the producer slot cap of slot `rsv`, or the null cap when that slot is not Free. -/
def execRingRsv (d a : Reg) (s : State) : Host.Outcome State Fault Refusal :=
  run {} (.ringRsv d a) (do
    guardC30 (.ringRsv d a) [d]
    outsideRegions (.ringRsv d a)
    let c ← useCap a
    requireCap (c.isHandle true) a 4
    lentStall a c
    freeDest d
    afterRelease
    let (k, g) ← ringOf a c
    match g.reserve with
    | none => putCaps [(d, Cap.null)]
    | some (i, g') =>
      modify fun s => s.mapRing k g.buffer fun _ => g'
      putCaps [(d, (← get).slotCap c g' i true)]) s

/-- Hold a ring operation of a region in the Siding (R333, R347): its cap leaves its register. -/
def holdRing (a : Reg) (k : HeldKind) : Act Unit := do
  afterRelease
  if (← curTile).siding.length ≥ 32 then trap 28 1
  putCaps [(a, Cap.null)]
  onTile fun t => { t with siding := t.siding ++ [⟨k, t.level, t.depth⟩] }

/-- The home publishes the slot of a producer slot cap (R345). -/
def State.publishSlot (s : State) (c : Cap) : State :=
  match s.homeOf c with
  | none => s
  | some h => s.mapRing h.clusterIx c.buffer.toNat fun g => g.publish (g.slotOf c)

/-- The home frees the slot of a consumer slot cap (R345). -/
def State.releaseSlot (s : State) (c : Cap) : State :=
  match s.homeOf c with
  | none => s
  | some h => s.mapRing h.clusterIx c.buffer.toNat fun g => g.release (g.slotOf c)

/-- `ring.pub` (R345-R347): the drain, the home's transition, and the cap is nulled; in a region it is held. -/
def execRingPub (a : Reg) (s : State) : Host.Outcome State Fault Refusal :=
  run {} (.ringPub a) (do
    guardC30 (.ringPub a) [a]
    let c ← useCap a
    requireCap (c.isSlot true) a 4
    lentStall a c
    if (← curTile).inRegion then holdRing a (.ringPub c)
    else
      afterRelease
      drain c
      let _ ← ringOf a c
      modify (·.publishSlot c)
      putCaps [(a, Cap.null)]
      dropIfLast c) s

/-- `ring.take` (R345-R347): the consumer slot cap of slot `head`, or the null cap when no slot is Visible. -/
def execRingTake (d a : Reg) (s : State) : Host.Outcome State Fault Refusal :=
  run {} (.ringTake d a) (do
    guardC30 (.ringTake d a) [d]
    let c ← useCap a
    requireCap (c.isHandle false) a 4
    lentStall a c
    freeDest d
    afterRelease
    let (k, g) ← ringOf a c
    let t ← curTile
    match g.receive .taken t.inRegion with
    | none => putCaps [(d, Cap.null)]
    | some (i, g') =>
      saveItems [.c d]
      modify fun s => s.mapRing k g.buffer fun _ => g'
      onTile fun t => match t.openRegions with
        | [] => t
        | r :: rest => t.setRegions ({ r with slots := r.slots ++ [(k, g.buffer, i)] } :: rest)
      putCaps [(d, (← get).slotCap c g' i false)]) s

/-- `ring.done` of a slot cap (R345-R347): the slot is Free and the cap is nulled; in a region it is held. -/
def doneSlot (d a b : Reg) : Act Unit := do
  let c ← useCap a
  requireCap (c.isSlot false && d = 0 && b = 0) a 4
  lentStall a c
  if (← curTile).inRegion then holdRing a (.ringDone c)
  else
    afterRelease
    let _ ← ringOf a c
    modify (·.releaseSlot c)
    putCaps [(a, Cap.null)]
    dropIfLast c

/-- `ring.done` of both handles (R346): the whole buffer goes back to the tile as an exclusive cap. -/
def doneHandles (i : Instr) (d a b : Reg) : Act Unit := do
  outsideRegions i
  let ca ← useCap a
  let cb ← useCap b
  requireCap (ca.isHandle true) a 4
  requireCap (cb.isHandle false && cb.buffer = ca.buffer && cb.generation = ca.generation && cb.location = ca.location &&
    cb.domain = ca.domain) b 4
  lentStall a ca
  lentStall b cb
  freeDest d
  afterRelease
  let (k, g) ← ringOf a ca
  requireCap (g.slots.all fun x => x.state = .free) a 12
  let s ← get
  let (num, _, s) := s.bump (.cluster k) g.buffer fun e => { e with owner := s.tile.principal s.device }
  let s := { s with rings := s.rings.filter fun (o : Ring) => !(o.cluster = k && o.buffer = g.buffer) }
  set s
  match s.entry (.cluster k) num with
  | none => homeFail a 1
  | some e =>
    let c := s.capOf e .cmem ca.location.toNat g.rights g.format
    putCaps [(a, Cap.null), (b, Cap.null), (d, c)]

/-- The two forms of `ring.done` are told apart by the kind of `c[a]` (R346): a handle asks for the dismantling. -/
def ringDone (i : Instr) (d a b : Reg) : Act Unit := do
  guardC30 i [d, a, b]
  if (← getC a).kind = .handle then doneHandles i d a b else doneSlot d a b

/-- `ring.done` with one operand, written as the slot form (R346). -/
def execRingDoneSlot (a : Reg) (s : State) : Host.Outcome State Fault Refusal :=
  run {} (.ringDoneSlot a) (ringDone (.ringDoneSlot a) 0 a 0) s

/-- `ring.done` with three operands, written as the dismantling form (R346). -/
def execRingDoneDismantle (d a b : Reg) (s : State) : Host.Outcome State Fault Refusal :=
  run {} (.ringDoneDismantle d a b) (ringDone (.ringDoneDismantle d a b) d a b) s

end Sys2Proof.Machine
end

