-- ==== Sys2Proof/Machine/Matrix.lean ====
section
/-! DEFINITION. Job submission: `xfer.cp`, the `mx` instructions, polling and cancelling (R114, R137, R337, R339-R342, R350-R357,
R362, R448, R459). -/

namespace Sys2Proof.Machine

open Sys2Proof

/-! ### Job numbers and the poll word (R353-R356) -/

/-- The number of the next job (R353). -/
def Tile.nextJob (t : Tile) : Nat := t.rank % 2 ^ 30 * 2 ^ 18 + t.jobSerial % 2 ^ 18

/-- The status that a poll reports (R354): a job stays Running or Auditing until it ends. -/
def Job.code (j : Job) : Nat := j.status.code

/-- The poll word of a number (R356). -/
def Tile.pollWord (t : Tile) (n : Nat) : Word :=
  if n / 2 ^ 48 ≠ 0 || n / 2 ^ 18 ≠ t.rank % 2 ^ 30 then 15
  else match t.jobs.find? fun j => j.number = n with
    | some j => word (j.code + j.steps % 2 ^ 32 * 256)
    | none => if n % 2 ^ 18 < t.jobSerial then 3 else 15

/-- Clear the pending error of a job (R355). -/
def Tile.clearPending (t : Tile) (n : Nat) : Tile :=
  { t with jobs := t.jobs.map fun j => if j.number = n then { j with pending := false } else j }

/-- The trap of a pending job error (R355). -/
def Job.errorCause (j : Job) : Nat := if j.status = .auditMismatch then 51 else 31

/-- The oldest pending job error (R355). -/
def Tile.pendingError (t : Tile) : Option Job := t.jobs.find? fun j => j.pending

/-- The job table after its oldest recyclable entry has gone, when 64 are in use (R353, R356). -/
def Tile.recycle (t : Tile) : Tile :=
  if t.jobs.length < 64 then t
  else match t.jobs.find? fun j => j.ended && !j.pending && !j.held with
    | some j => { t with jobs := t.jobs.erase j }
    | none => t

/-! ### Submission -/

/-- What a submission saves, then the oldest pending job error (R241, R355), which leaves nothing else changed. -/
def submitChecks (saves : Act Unit) : Act Unit := do
  let s0 ← get
  whole saves
  match (← curTile).pendingError with
  | none => pure ()
  | some j =>
    set { s0 with tile := s0.tile.clearPending j.number }
    trap j.errorCause (word j.number)

/-- A submission stalls while 64 jobs are unended (R353). -/
def jobRoom : Act Unit := do
  let t ← curTile
  if (t.jobs.filter fun j => !j.ended).length ≥ 64 then
    stall (.jobTable ((t.jobs.find? fun j => !j.ended).map (·.number) |>.getD 0))

/-- Whether a line holds bytes of the buffer of a cap (R114): of a ring, the lines under its slot caps and its handles alike. -/
def L1Line.under (l : L1Line) (c : Cap) : Bool :=
  let ring (k : CapKind) : Bool := k = .handle || k = .slot
  if ring c.kind || ring l.kind then
    ring c.kind && ring l.kind && l.location = c.location.toNat && l.buffer = c.buffer.toNat
  else l.kind = c.kind && l.location = c.location.toNat && l.buffer = c.buffer.toNat && l.generation = c.generation

/-- Write back and drop every line of a buffer that a job is about to reach (R114). -/
def lendDrain : List (Reg × Cap) → Act Unit
  | [] => pure ()
  | (_, c) :: cs => do
    modify fun s => s.pushWhere (·.under c)
    drain c
    modify fun s => { s with tile := { s.tile.dropTag c with l1 := (s.tile.dropTag c).l1.filter fun l => !l.under c } }
    lendDrain cs

/-- Set L in the registers of a job's caps (R114, R137). -/
def Tile.lend (t : Tile) (device : Nat) (rs : List Reg) : Tile :=
  rs.foldl (fun t r => t.setC r (Cap.signOn { t.rc r with lent := true } device)) t

/-- Accept a job (R353): its number goes to `x[d]`. -/
def submit (d : Reg) (kind : JobKind) (audited : Bool) (cs : List (Reg × Cap)) : Act Unit := do
  let s ← get
  let t := s.tile
  let k := clusterOf t.index
  let order := ((s.clusterAt k).map (·.engine.accepted)).getD 0
  let j : Job := { number := t.nextJob, kind := kind, status := .queued, tile := t.index, cluster := k, audited := audited,
                   region := if t.inRegion then some (t.level, t.depth) else none, accepted := order, turn := ((s.clusterAt k).map (·.turn)).getD 0,
                   lent := cs.map fun p => (bankOf t p.1, p.1) }
  let t := t.recycle
  let t := { t.lend s.device (cs.map (·.1)) with jobs := t.jobs ++ [j], jobSerial := t.jobSerial + 1 }
  let s := { s with tile := t }
  set (s.mapCluster k fun c => { c with engine := { c.engine with accepted := order + 1 } })
  setX d (word j.number)

/-! ### Accumulators (R339, R340, R357) -/

/-- Gang indices of a mask in ascending order. -/
def maskMembers (m : BitVec 8) : List Nat := (List.range 8).filter fun i => m.getLsbD i

/-- Whether a tile sees its gang's accumulators (R339). -/
def Tile.gangView (t : Tile) : Bool := t.gang.mask ≠ 0 && t.gang.member

/-- The accumulator tile that `mN` names in a tile's view, if it lies there (R339). -/
def Tile.accOf (t : Tile) (n : Nat) : Option Nat :=
  if t.gangView then ((maskMembers t.gang.mask)[n / 4]?).map fun u => 4 * u + n % 4
  else if n < 4 then some (4 * t.gangIndex + n) else none

/-- The accumulator of an instruction, an even one for a pair (R340): else cause 2. -/
def viewAcc (i : Instr) (n : Nat) (pair : Bool) : Act Nat := do
  match (← curTile).accOf n with
  | none => illegal i
  | some a => if pair && n % 2 ≠ 0 then illegal i else return a

/-- Reserve the save of an accumulator in the innermost region (R357, log 21): its content is taken when the job begins. -/
def saveAcc (a : Nat) (pair : Bool) : Act Unit := do
  saveValue (.acc a none 0 0)
  if pair then saveValue (.acc (a + 1) none 0 0)

/-! ### The instructions -/

/-- `xfer.cp` (R337): a copy job of the cluster's Shunter. -/
def execXferCp (d a b : Reg) (s : State) : Host.Outcome State Fault Refusal :=
  run {} (.xferCp d a b) (do
    guardC30 (.xferCp d a b) [a, b]
    let ca ← useCap a
    let cb ← useCap b
    let s ← get
    requireCap (s.hostClear s.tile.mdomain || ca.kind ≠ .host) a 8
    requireCap (s.hostClear s.tile.mdomain || cb.kind ≠ .host) b 8
    requireCap (ca.kind ≠ .null && ca.mode = .exclusive && ca.eff.w) a 4
    requireCap (cb.kind ≠ .null && cb.eff.r) b 4
    requireCap (a ≠ b && ca.kind ≠ .handle && cb.kind ≠ .handle && !(ca.kind = .host && cb.kind = .host)) a 4
    let n := (← getX d).toNat
    requireCap (1 ≤ n && n < 2 ^ 40) a 9
    requireCap (n ≤ ca.length.toNat) a 5
    requireCap (n ≤ cb.length.toNat) b 5
    lentStall a ca
    lentStall b cb
    jobRoom
    lendDrain [(a, ca), (b, cb)]
    submitChecks (saveItems [.x d])
    submit d (.copy ca cb n) false [(a, ca), (b, cb)]) s

/-- Block size of a descriptor: 0 without scales (R269). -/
def Descr.blockSize (f : Descr) : Nat := if f.scale = 1 then 4 * 2 ^ f.block else 0

/-- K indices of a step for a container width (R348). -/
def stepK (width : Nat) : Nat := if width = 4 then 128 else if width ≤ 8 then 64 else 512 / width

/-- Step slots that a step takes (R348, R358). -/
def stepSlots (width : Nat) : Nat := if width ≤ 16 then 1 else width / 32 * 2

/-- The formats of a job's two rings (R350). -/
def formatsOk (a b : Descr) : Bool :=
  let scaleOk (f : Descr) : Bool := f.blockSize = 0 || stepK f.width / f.blockSize ≤ 4
  let narrow (f : Descr) : Bool := f.cls = 0 || f.cls = 5 || f.cls = 6
  a.valid && b.valid && a.cls ≠ 7 && b.cls ≠ 7 && a.width = b.width && scaleOk a && scaleOk b &&
    (if a.width = 16 then (a.cls = 1 || a.cls = 2) && (b.cls = 1 || b.cls = 2)
     else if a.width ≥ 32 then (a.cls = 3 && b.cls = 3) || (a.cls = 4 && b.cls = 4)
     else narrow a && narrow b)

/-- Whether the audit unit selects a job (R362), or its engine is on probation (R448). -/
def State.selects (s : State) (t : Tile) : Bool :=
  let launch := t.launch.getD 0
  let h := (BitVec.ofNat 64 (t.nextJob ^^^ launch) * 0x9E3779B97F4A7C15).toNat / 2 ^ 48
  h % 2 ^ t.mauditf = 0 || (s.clusterAt (clusterOf t.index)).any fun c => c.engine.probation.isSome

/-- `mx.mma` (R351): a matrix job on two rings. -/
def execMxMma (d a ca cb : Reg) (m : BitVec 2) (s : State) : Host.Outcome State Fault Refusal :=
  run {} (.mxMma d a ca cb m) (do
    guardC30 (.mxMma d a ca cb m) [ca, cb]
    let ha ← useCap ca
    let hb ← useCap cb
    let s ← get
    let here (c : Cap) : Bool := s.homeOf c = some (.cluster (clusterOf s.tile.index))
    requireCap (ha.isHandle false && here ha) ca 4
    requireCap (hb.isHandle false && here hb && hb.buffer ≠ ha.buffer) cb 4
    let fa := Descr.ofBits ha.format
    let fb := Descr.ofBits hb.format
    if !formatsOk fa fb then illegal (.mxMma d a ca cb m)
    let fp64 := fa.cls = 4
    let mode := s.tile.mxmode
    let acc ← viewAcc (.mxMma d a ca cb m) (4 * (mode.toNat % 8) + m.toNat) fp64
    let n := (← getX a).toNat
    requireCap (n < 2 ^ 32) 0 9
    lentStall ca ha
    lentStall cb hb
    jobRoom
    lendDrain [(ca, ha), (cb, hb)]
    submitChecks (do
      saveItems [.x d]
      saveAcc acc fp64)
    let s ← get
    submit d (.mma acc fp64 n (mode.getLsbD 3) ha hb) (s.selects s.tile) [(ca, ha), (cb, hb)]) s

/-- `mx.zero` (R352). -/
def execMxZero (d : Reg) (n : BitVec 5) (s : State) : Host.Outcome State Fault Refusal :=
  run {} (.mxZero d n) (do
    let acc ← viewAcc (.mxZero d n) n.toNat false
    jobRoom
    submitChecks (do
      saveItems [.x d]
      saveAcc acc false)
    submit d (.zero acc) false []) s

/-- `fmt.f32` and `fmt.f64` (R274). -/
def fmtF32 : BitVec 32 := 0x03800000
/-- `fmt.f64` (R274). -/
def fmtF64 : BitVec 32 := 0x04A00000

/-- The bounds of an accumulator job (R352): cause 24 with the offset. -/
def jobBounds (r : Reg) (c : Cap) (off : Word) (size : Nat) : Act Unit :=
  if off.toNat + size > c.length.toNat then capTrap r.val 0 false 24 off else pure ()

/-- `mx.load` (R352). -/
def execMxLoad (d a b : Reg) (n : BitVec 5) (s : State) : Host.Outcome State Fault Refusal :=
  run { rs2 := some b } (.mxLoad d a b n) (do
    guardC30 (.mxLoad d a b n) [a]
    let c ← useCap a
    if c.format ≠ fmtF32 && c.format ≠ fmtF64 then illegal (.mxLoad d a b n)
    let fp64 := c.format = fmtF64
    let acc ← viewAcc (.mxLoad d a b n) n.toNat fp64
    requireCap (c.kind ≠ .null && c.kind ≠ .host && c.kind ≠ .handle && c.eff.r) a 4
    let off ← rs2 b
    jobBounds a c off (64 * (if fp64 then 512 else 256))
    lentStall a c
    jobRoom
    lendDrain [(a, c)]
    submitChecks (do
      saveItems [.x d]
      saveAcc acc fp64)
    submit d (.load acc fp64 c off.toNat) false [(a, c)]) s

/-- Bytes that `mx.out` writes in a format (R352). -/
def outSize (f : Descr) : Nat := 512 * f.width + (if f.blockSize = 0 then 0 else 64 * (64 / f.blockSize))

/-- The stochastic state after `n` draws (R280). -/
def drawN : Nat → Word → Word
  | 0, s => s
  | n + 1, s => drawN n (draw s).2

/-- `mx.out` (R352): under SR the tile takes the 4,096 draws at issue. -/
def execMxOut (d a b : Reg) (n : BitVec 5) (s : State) : Host.Outcome State Fault Refusal :=
  run { rs2 := some b } (.mxOut d a b n) (do
    guardC30 (.mxOut d a b n) [a]
    let f := Descr.ofBits (← getC a).format
    if !(f.valid && f.cls ≠ 7 && (f.layout = 0 || f.layout = 2)) then illegal (.mxOut d a b n)
    let t ← curTile
    let fp64 := t.mxmode.getLsbD 4
    let acc ← viewAcc (.mxOut d a b n) n.toNat fp64
    let c ← useCap a
    requireCap (c.kind ≠ .null && c.kind ≠ .host && c.kind ≠ .handle && c.mode = .exclusive && c.eff.w) a 4
    let off ← rs2 b
    jobBounds a c off (outSize f)
    lentStall a c
    jobRoom
    lendDrain [(a, c)]
    let sr := t.rmode.toNat = 5
    submitChecks (saveItems (.x d :: (if sr then [.csr 0x803] else [])))
    let t ← curTile
    let rm : BitVec 4 := BitVec.ofNat 4 (t.rmode.toNat + (if t.rsat then 8 else 0))
    let seed := t.srseed
    if sr then onTile fun t => { t with srseed := drawN 4096 seed }
    submit d (.out acc fp64 c off.toNat rm seed) false [(a, c)]) s

/-- `mx.poll` (R355, R356): it clears a pending error without a trap. -/
def execMxPoll (d a : Reg) (s : State) : Host.Outcome State Fault Refusal :=
  run {} (.mxPoll d a) (do
    let n := (← getX a).toNat
    let w := (← curTile).pollWord n
    setX d w
    if w ≠ 15 then onTile (·.clearPending n)) s

/-- Cancel a job that is Queued or Running (R356): a step or unit already granted completes first. -/
def Tile.cancel (t : Tile) (device n : Nat) : Tile :=
  match t.jobs.find? fun j => j.number = n && !j.ended && j.outcome ≠ some .rolledBack && (j.status = .queued || j.status = .running) with
  | none => t
  | some j =>
    if j.granted then { t with jobs := t.jobs.map fun o => if o.number = n then { o with outcome := some .cancelled } else o }
    else t.endJob device n .cancelled

/-- `mx.cancel` (R356). -/
def execMxCancel (d a : Reg) (s : State) : Host.Outcome State Fault Refusal :=
  run {} (.mxCancel d a) (do
    let n := (← getX a).toNat
    saveItems [.x d]
    let s ← get
    if s.tile.pollWord n ≠ 15 then onTile (·.cancel s.device n)
    setX d ((← curTile).pollWord n)) s

end Sys2Proof.Machine
end

