-- ==== Sys2Proof/Machine/Engine.lean ====
section
/-! DEFINITION. The matrix engine, its jobs, and the copy jobs of the Shunter as events: grants, steps, accumulator jobs and the end
of jobs (R153, R184, R282, R337, R339-R361). -/

namespace Sys2Proof.Machine

open Sys2Proof

/-- Act for a tile as an event and come back to the tile that was current, whatever ends the action. -/
def eventAs (i : Nat) (a : Act Unit) (s : State) : Host.Outcome State Fault Refusal :=
  match event a (s.switchTo i) with
  | .next t => .next (t.switchTo s.tile.index)
  | o => o

/-! ### Jobs -/

/-- Whether a job is a Shunter copy. -/
def JobKind.isCopy : JobKind → Bool
  | .copy _ _ _ => true
  | _ => false

/-- An accumulator and, for a pair, the next one (R340). -/
def accSpan (acc : Nat) (pair : Bool) : List Nat := if pair then [acc, acc + 1] else [acc]

/-- The accumulators that a job names (R339, R340). -/
def JobKind.accs : JobKind → List Nat
  | .mma acc fp64 _ _ _ _ => accSpan acc fp64
  | .zero acc => [acc]
  | .load acc fp64 _ _ => accSpan acc fp64
  | .out acc fp64 _ _ _ _ => accSpan acc fp64
  | .copy _ _ _ => []

/-- Change the unended job of a number. -/
def Tile.mapJob (t : Tile) (n : Nat) (f : Job → Job) : Tile :=
  { t with jobs := t.jobs.map fun j => if j.number = n && !j.ended then f j else j }

/-- The unended job of a number. -/
def Tile.liveJob (t : Tile) (n : Nat) : Option Job := t.jobs.find? fun j => j.number = n && !j.ended

/-- The head matrix job of a tile (R353): the first that has not ended. -/
def Tile.headJob (t : Tile) : Option Job := t.jobs.find? fun j => !j.ended && !j.kind.isCopy

/-- Tiles of a cluster. -/
def State.tilesOf (s : State) (k : Nat) : List Tile := s.allTiles.filter fun t => clusterOf t.index = k

/-- Whether no earlier-accepted job of another tile names an accumulator of a job (R353). -/
def State.accFree (s : State) (j : Job) : Bool :=
  !(s.tilesOf j.cluster).any fun t => t.jobs.any fun o =>
    !o.ended && o.tile ≠ j.tile && o.accepted < j.accepted && o.kind.accs.any j.kind.accs.contains

/-- Whether a park has stopped a cluster with its engine and audit area (R418). -/
def State.stoppedAt (s : State) (k : Nat) : Bool := (s.clusterAt k).any (·.stopped)

/-- Change a job of a tile. -/
def State.mapJob (s : State) (j : Job) (f : Job → Job) : State := s.mapTile j.tile fun t => t.mapJob j.number f

/-- The final status that a job has reached; it ends by `JOB_END`. -/
def State.conclude (s : State) (j : Job) (st : JobStatus) : State :=
  s.mapJob j fun o => { o with outcome := some st, status := if o.status = .queued then .running else o.status, since := none, copying := false, asks := [] }

/-- Record on a job that it met a poisoned sector of a cap's buffer (R440). -/
def Job.met (j : Job) (c : Cap) : Job :=
  { j with marked := (c.kind, c.location.toNat, c.buffer.toNat, c.generation) :: j.marked }

/-! ### Accesses of a job (R66, R153, R184, R337) -/

/-- What a job's access gives; `copy`: the wait is that of a home's copy before a write (R184); `asleep`: the home is stopped by a park, which no limit
of R182 counts. -/
inductive JobAccess where
  | ok (bytes : List (Byte × Bool)) (s : State)
  | stopped (status : JobStatus) (s : State)
  | waits (copy : Bool) (s : State)
  | asleep (s : State)

/-- The fault-wait limit F of a tile's launch in cycles (R182): the default of the record for a tile of no launch. -/
def State.faultWait (s : State) (t : Tile) : Nat := 2500 * ((s.launchOf t).map (·.record.faultwait)).getD 10000

/-- The principal of a job: the tile that lent its caps (R29, R66). -/
def State.jobPrincipal (s : State) (j : Job) : Nat := ((s.tileAt j.tile).map fun t => t.principal s.device).getD 0

/-- Whether a home can be asked: none when it can, a status when a sealed domain's roster forbids it (R460) or a write meets a device that is
down, a wait when a read does (R485). -/
def State.jobReach (s : State) (j : Job) (c : Cap) (off : Nat) (write : Bool) : Option JobAccess :=
  match c.kind with
  | .remote =>
    let d := c.location.toNat
    if s.offRoster c.domain d then
      some (.stopped .homeRefused (s.rosterItem c.domain (s.jobPrincipal j) c.buffer.toNat c.generation off))
    else if s.peerDown d then some (if write then .stopped .homeRefused s else .waits false s) else none
  | _ => if (s.homeOf c).any s.asleep then some (.asleep s) else none

/-- The claim of a job under a cap (R66, R184, R344), with the start of the range its offsets count from. -/
def State.jobClaim (s : State) (j : Job) (h : HomeId) (c : Cap) : Claim :=
  let q : Claim := { home := h, buffer := c.buffer.toNat, generation := c.generation, domain := c.domain, principal := s.jobPrincipal j,
                     range := c.range, site := some (j.cluster / 64), who := .job j.tile j.number }
  if c.kind = .slot then s.ringClaim q else q

/-- The request that a job has made of another device, if it has (R484). -/
def State.jobAsked (s : State) (j : Job) (c : Cap) (op key : Nat) : Option Ask :=
  ((s.tileAt j.tile).bind fun t => t.liveJob j.number).bind fun o => o.asks.find? fun a =>
    a.device = c.location.toNat && a.op = op && a.buffer = c.buffer.toNat && a.generation = c.generation && a.key = key

/-- A job asks another device for a sector or to store one, once each (R483, R484): the lending tile is the principal (R66); `mark`: the sector receives
poison (R441). -/
def State.jobAsk (s : State) (j : Job) (c : Cap) (op key : Nat) (words : List Word) (mark : Bool) : State :=
  match s.jobAsked j c op key, s.tileAt j.tile with
  | none, some t =>
    let a : Ask := { serial := t.serial, device := c.location.toNat, op := op, buffer := c.buffer.toNat, generation := c.generation, key := key,
                     args := words, mark := mark }
    let p := s.requestOf (s.jobPrincipal j) op a.device a.buffer key (if op = 1 then 64 else 80) (8 * words.length) a.serial 0 c.generation c.domain
    ((s.mapTile j.tile fun t => { t with serial := t.serial + 1 }).mapJob j fun o => { o with asks := o.asks ++ [a] }).sendPacket a.device
      { p with words := words, opfield := if mark then 1 else 0 }
  | _, _ => s

/-- The status of a job that another device refuses (R153, R184, R337): reason 12 is an exhausted shadow pool and reason 0 a translation that
was denied (log 75). -/
def refusedStatus (reason : Nat) : JobStatus :=
  if reason = 12 then .shadowExhausted else if reason = 0 then .translationFault else .homeRefused

/-- Requests of a job to another device, each a key with its payload: what they give when every one is answered (R484). -/
def State.jobAsks (s : State) (j : Job) (c : Cap) (op : Nat) (qs : List (Nat × List Word × Bool)) (give : State → JobAccess) : JobAccess :=
  let had := qs.filterMap fun q => s.jobAsked j c op q.1
  match had.findSome? (·.reason) with
  | some reason => .stopped (refusedStatus reason) s
  | none =>
    if had.length = qs.length && had.all (·.done) then give s
    else .waits false (qs.foldl (fun s q => s.jobAsk j c op q.1 q.2.1 q.2.2) s)

/-- The bytes of the sectors that a job has read from another device, each with its poison mark. -/
def State.jobBytes (s : State) (j : Job) (c : Cap) (off n : Nat) : List (Byte × Bool) :=
  (List.range n).map fun i => match s.jobAsked j c 1 ((off + i) / 64 * 64) with
    | some a => ((a.words.getD ((off + i) % 64 / 8) 0).extractLsb' (8 * ((off + i) % 8)) 8, a.bad)
    | none => (0, false)

/-- Read `n` bytes at an offset under a lent cap: each byte with its poison mark. Of another device the job reads whole sectors (R484); host
memory is reached through this device's host port (R49, log 26). -/
def State.jobRead (s : State) (j : Job) (c : Cap) (off n : Nat) : JobAccess :=
  match c.kind with
  | .host =>
    if c.location.toNat ≠ s.device then .stopped .homeRefused s
    else .ok ((s.mem.readN (Space.host.base + c.base.toNat + off) n).map fun b => (b, false)) s
  | _ =>
    match s.homeOf c, s.jobReach j c off false with
    | none, _ => .stopped .homeRefused s
    | _, some a => a
    | some h, none =>
      if c.kind = .remote then
        s.jobAsks j c 1 ((sectorsOf off n).map fun k => (64 * k, [], false)) fun s => .ok (s.jobBytes j c off n) s
      else
        let q := s.jobClaim j h c
        let s := s.sliceCheck q (c.base.toNat + off)
        match (if c.kind = .slot then s.checkRing h c else none).or (s.checkAccess q c.base.toNat off n 0 0) with
        | some reason => .stopped .homeRefused (s.refuse q 0 off reason)
        | none => match s.locateN q 0 (c.base.toNat + off) n with
          | (none, s) => .waits false s
          | (some ks, s) =>
            let s := ((ks.map (· / 64)).eraseDups).foldl (fun s k => s.detect h c.buffer.toNat off (64 * k)) s
            .ok (ks.map fun k => (s.mem.read k, s.poisoned (k / 64))) s

/-- The payload of the store of a sector under a kind 4 cap by a job (R483): it has no store number (R338). -/
def sectorWords (sec : Nat) (bytes : List (Nat × Byte)) : List Word :=
  let mine := bytes.filter fun p => p.1 / 64 = sec
  let data := mine.foldl (fun (d : List Byte) p => d.set (p.1 % 64) p.2) (List.replicate 64 0)
  0 :: (sectorMask bytes sec) :: (List.range 8).map fun i => word (leNat ((data.drop (8 * i)).take 8))

/-- Whether the copies that the first writes of some lines need are what a store waits for (R151, R184). -/
def State.copyWaits (s : State) (q : Claim) (bytes : List (Nat × Byte)) : Bool :=
  match s.firstWrites q (linesOf bytes) with
  | .waits _ => true
  | _ => false

/-- Write bytes at offsets under a lent cap; `bad`: the 64-byte pieces of the buffer that receive poison (R153, R330, R341). -/
def State.jobWrite (s : State) (j : Job) (c : Cap) (bytes : List (Nat × Byte)) (bad : List Nat) : JobAccess :=
  match c.kind with
  | .host =>
    if c.location.toNat ≠ s.device then .stopped .homeRefused s
    else .ok [] { s with mem := s.mem.writeCells (bytes.map fun p => (Space.host.base + c.base.toNat + p.1, p.2)) }
  | _ =>
    let off := (bytes.map (·.1)).headD 0
    match s.homeOf c, s.jobReach j c off true with
    | none, _ => .stopped .homeRefused s
    | _, some a => a
    | some h, none =>
      if c.kind = .remote then
        s.jobAsks j c 2 (((bytes.map fun p => p.1 / 64).eraseDups).map fun k => (64 * k, sectorWords k bytes, bad.contains k)) fun s => .ok [] s
      else
        let q := s.jobClaim j h c
        let clean := (bytes.map (·.1)).filter fun o => !bad.contains (o / 64)
        let s := s.sliceCheck q (c.base.toNat + off)
        match (if c.kind = .slot then s.checkRing h c else none).or (s.checkAccess q c.base.toNat off 1 1 0) with
        | some reason => .stopped .homeRefused (s.refuse q 1 off reason)
        | none => match s.applyStore q c.base.toNat j.tile bytes bad clean false with
          | .done s => .ok [] s
          | .refused _ s => .stopped .homeRefused s
          | .exhausted s => .stopped .shadowExhausted s
          | .waits t => .waits (s.copyWaits q bytes) t

/-- A job waits for a home that a park has stopped: nothing is counted (R182, R184). -/
def State.jobSleeps (s : State) (j : Job) : State := s.mapJob j fun o => { o with since := none, copying := false }

/-- A job waits on a translation or on another device: the count of F starts, and past F the job stops (R184). -/
def State.jobWaits (s : State) (j : Job) (copy : Bool) : State :=
  let limit := ((s.tileAt j.tile).map s.faultWait).getD 0
  match j.since with
  | none => s.mapJob j fun o => { o with since := some s.clock, copying := copy, status := .running }
  | some c => if c + limit ≤ s.clock then s.conclude j (if copy then .shadowExhausted else .translationFault)
              else s.mapJob j fun o => { o with copying := copy }

/-! ### Accumulators (R339-R341) -/

/-- The key of an accumulator's byte 0. -/
def accKey (cluster n : Nat) : Nat := (Space.acc cluster).base + 16384 * n

/-- The cells of an accumulator, zeros included. -/
def State.accCells (s : State) (cluster n : Nat) : List Host.Cell :=
  (List.range 16384).map fun i => (accKey cluster n + i, s.mem.read (accKey cluster n + i))

/-- Element `x` = 64 i + j of an accumulator or a pair (R340). -/
def State.accElem (s : State) (cluster acc : Nat) (pair : Bool) (x : Nat) : Nat :=
  let half (n : Nat) : Nat := leNat (s.mem.readN (accKey cluster n + 4 * x) 4)
  half acc + (if pair then 2 ^ 32 * half (acc + 1) else 0)

/-- Write every element of an accumulator or a pair (R340). -/
def State.setAcc (s : State) (cluster acc : Nat) (pair : Bool) (xs : List Nat) : State :=
  let low := s.mem.writeN (accKey cluster acc) (xs.flatMap fun v => leBytes 4 v)
  { s with mem := if pair then low.writeN (accKey cluster (acc + 1)) (xs.flatMap fun v => leBytes 4 (v / 2 ^ 32)) else low }

/-- Change the masks of accumulators (R341). -/
def State.mapMasks (s : State) (cluster : Nat) (accs : List Nat) (f : BitVec 64 × BitVec 64 → BitVec 64 × BitVec 64) : State :=
  s.mapCluster cluster fun c =>
    let e := c.engine
    { c with engine := { e with
        rows := Vector.ofFn fun i => if accs.contains i.val then (f (e.rows.get i, e.cols.get i)).1 else e.rows.get i
        cols := Vector.ofFn fun i => if accs.contains i.val then (f (e.rows.get i, e.cols.get i)).2 else e.cols.get i } }

/-- The masks of an accumulator. -/
def State.masks (s : State) (cluster n : Nat) : BitVec 64 × BitVec 64 :=
  match s.clusterAt cluster with
  | some c => (c.engine.rows.toList.getD n 0, c.engine.cols.toList.getD n 0)
  | none => (0, 0)

/-- A mask with the bits of a list of numbers. -/
def maskOf (l : List Nat) : BitVec 64 := l.foldl (fun m i => m ||| BitVec.ofNat 64 (2 ^ i)) 0

/-- A read of accumulators detects their armed errors (R435, R450): an uncorrectable one sets its row bit. -/
def State.detectAcc (s : State) (cluster : Nat) (accs : List Nat) : State :=
  let hits := s.armed.filter fun a => match a.item with
    | .accRow k n _ => k = cluster && accs.contains n
    | _ => false
  hits.foldl (fun s a =>
    let s := { s with armed := s.armed.filter fun o => o ≠ a }
    match a.item with
    | .accRow _ n row => if a.uncorrectable then s.mapMasks cluster [n] fun m => (m.1 ||| maskOf [row], m.2)
                         else { s with corrected := bumpCount (clusterEndpoint s.device cluster 9) s.corrected }
    | _ => s) s

/-- A write of every element replaces the check bits (R450). -/
def State.disarmAcc (s : State) (cluster : Nat) (accs : List Nat) : State :=
  s.rearm fun i => match i with
    | .accRow k n _ => k = cluster && accs.contains n
    | _ => false

/-- Set every element of accumulators to +0. -/
def State.zeroAcc (s : State) (cluster : Nat) (accs : List Nat) : State :=
  accs.foldl (fun s n => { s with mem := s.mem.zero (accKey cluster n) 16384 }) (s.disarmAcc cluster accs)

/-- Change the region at a depth of a level (R198). -/
def Tile.mapRegion (t : Tile) (lv : Level) (d : Nat) (f : Region → Region) : Tile :=
  let l := t.regions.get lv
  { t with regions := t.regions.set lv.val (l.zipIdx.map fun p => if l.length - p.2 = d then f p.1 else p.1) }

/-- The saves of an accumulator that a region and those around it reserved take its content when the region's first job on it begins (R357, log 21):
an outer one is still empty when the job that it was reserved for was cancelled before it began. -/
def State.fillSave (s : State) (j : Job) (n : Nat) : State :=
  match j.region with
  | none => s
  | some (lv, d) =>
    let m := s.masks j.cluster n
    let cells := s.accCells j.cluster n
    let fill (r : Region) : Region := { r with saved := r.saved.map fun v => match v with
      | .acc k none rows cols => if k = n then .acc n (some cells) m.1 m.2 else .acc k none rows cols
      | _ => v }
    s.mapTile j.tile fun t => (List.range d).foldl (fun t i => t.mapRegion lv (i + 1) fill) t

/-- What happens when a job reaches its accumulators first: the region's saves. -/
def State.beginJob (s : State) (j : Job) : State := j.kind.accs.foldl (fun s n => s.fillSave j n) s

/-! ### Steps (R282, R348, R349) -/

/-- Element `k` of width `w` of packed bytes (R276). -/
def packed (row : Nat) (w k : Nat) : Nat := row / 2 ^ (w * k) % 2 ^ w

/-- The value of a scale byte (R277). -/
def scaleValue (x : Nat) : Num := if x = 255 then .nan else .fin false 1 ((x : Int) - 127)

/-- The values of row `r` of a slot (R276, R277, R348, R349): K elements, each with the scale of its block. -/
def rowValues (f : Descr) (slot : List Byte) (r : Nat) : List Num :=
  let row := leNat ((slot.drop (64 * r)).take 64)
  let n := stepK f.width
  (List.range n).map fun k =>
    let x := f.elem.value (packed row f.width k)
    if f.blockSize = 0 then x
    else x.mul (scaleValue ((slot.getD (4096 + r * (n / f.blockSize) + k / f.blockSize) 0).toNat))

/-- The K indices of a dot-product block (R282). -/
def dotBlock (f : Descr) : Nat := if f.width ≤ 16 then 32 else if f.width = 32 then 16 else 8

/-- One block: the exact sum of the products added to the accumulator with one rounding (R282). -/
def addBlock (out : Elem) (a : Nat) : List Num → Nat
  | [] => a
  | p :: ps => out.nearest ((out.value a).add (ps.foldl Num.add p))

/-- The blocks of a step for one element (R282). -/
def dotBlocks (out : Elem) (size : Nat) (a : Nat) (xs ys : List Num) : Nat :=
  let ps := List.zipWith Num.mul xs ys
  (List.range (ps.length / size)).foldl (fun a b => addBlock out a ((ps.drop (b * size)).take size)) a

/-- The 4,096 elements after a step (R282, R351). -/
def stepElems (fa fb : Descr) (a b : List Byte) (cur : List Nat) : List Nat :=
  let out := if fa.cls = 4 then fp64 else fp32
  let rows := (List.range 64).map fun i => rowValues fa a i
  let cols := (List.range 64).map fun j => rowValues fb b j
  let grid := rows.flatMap fun x => cols.map fun y => (x, y)
  List.zipWith (fun c p => dotBlocks out (dotBlock fa) c p.1 p.2) cur grid

/-- Strip bytes of each row of a slot (R349): none without block scales. -/
def Descr.rowScales (f : Descr) : Nat := if f.blockSize = 0 then 0 else stepK f.width / f.blockSize

/-- The rows of a slot whose bytes or scale bytes lie in a poisoned sector (R341). -/
def State.badRows (s : State) (f : Descr) (key : Nat) : List Nat :=
  (List.range 64).filter fun r =>
    s.poisoned ((key + 64 * r) / 64) || ((List.range f.rowScales).any fun p => s.poisoned ((key + 4096 + r * f.rowScales + p) / 64))

/-- The key of a slot's first byte. -/
def State.slotKey (s : State) (cluster buffer i : Nat) : Nat :=
  (Space.cmem cluster).base + ((s.ring cluster buffer).map (·.base)).getD 0 + 4352 * i

/-- The bytes of a slot that a step reads, checked by the home (R20, R343, R349, R435): 64 rows, and the whole strip of a format with
block scales. -/
def State.readSlot (s : State) (f : Descr) (cluster buffer i : Nat) : List Byte × State :=
  let key := s.slotKey cluster buffer i
  let s := (List.range (if f.rowScales = 0 then 64 else 68)).foldl (fun s k => s.detect (.cluster cluster) buffer (4352 * i + 64 * k) (key + 64 * k)) s
  (s.mem.readN key 4352, s)

/-! ### Grants (R358, R359) -/

/-- Most steps of an audit segment (R362). -/
def segmentSteps (fp64 : Bool) : Nat := if fp64 then 11 else 12

/-- Whether a segment's steps are complete: its original waits for the signature and the verdict (R362). -/
def Segment.full (g : Segment) : Bool := g.steps.length ≥ segmentSteps g.fp64

/-- Whether the audit area of a cluster lets a step of a job go (R362): the job is not audited, its own segment has room, or the
area is free. -/
def State.auditReady (s : State) (j : Job) : Bool :=
  !j.audited || match s.segments.find? fun g => g.cluster = j.cluster with
    | none => true
    | some g => g.tile = j.tile && g.job = j.number && !g.full && g.sign.isNone

/-- Whether the engine can pop a ring under a lent handle (R344, R351). -/
def State.ringReady (s : State) (j : Job) (c : Cap) : Bool :=
  (s.checkRing (.cluster j.cluster) c).isNone && ((s.ring j.cluster c.buffer.toNat).map fun g => decide (g.visible > 0)).getD false

/-- The runnable step of a tile (R359). A job whose region waits to be rolled back takes no further step. -/
def State.runnable (s : State) (t : Tile) : Option Job :=
  match t.headJob with
  | none => none
  | some j => match j.kind with
    | .mma _ _ steps _ ca cb =>
      if j.outcome.isNone && !j.granted && j.steps < steps && s.accFree j && s.ringReady j ca && s.ringReady j cb && s.auditReady j &&
        !(j.region.any fun p => t.rollbacks.any fun q => within q.1 q.2.1 p)
      then some j else none
    | _ => none

/-- The runnable step of a gang index in a cluster. -/
def State.runnableAt (s : State) (k u : Nat) : Option Job := (s.tilesOf k).findSome? fun t => if t.gangIndex = u then s.runnable t else none

/-- Weight of a rank (R358): 1 and the entries that name it. -/
def weights (table : List Nat) : List Nat := (List.range 8).map fun u => 1 + (table.filter fun e => e = u).length

/-- The next runnable rank with credit from the pointer on (R359). -/
def Engine.pick (e : Engine) (runs : Nat → Bool) : Option (Nat × Engine) :=
  (((List.range 8).map fun i => (e.pointer + i) % 8).find? fun u => runs u && e.credits.getD u 0 > 0).map fun u =>
    (u, { e with credits := e.credits.set u (e.credits.getD u 0 - 1), pointer := (u + 1) % 8 })

/-- Weighted round robin (R359): when no runnable rank has credit, every credit is reset and the pick retried. -/
def Engine.robin (e : Engine) (runs : Nat → Bool) : Option (Nat × Engine) :=
  match e.pick runs with
  | some p => some p
  | none => { e with credits := weights e.table }.pick runs

/-- Whom a grant goes to. -/
inductive Grantee where
  | rank (u : Nat)
  | audit
deriving DecidableEq, Repr

/-- The choice of R359: none when no step can start. `replay`: a replay step is ready. -/
def Engine.choose (e : Engine) (runs : Nat → Bool) (replay : Bool) : Option (Grantee × Engine) :=
  let entry := e.table.getD (e.counter % 64) 9
  let e := { e with debt := e.debt.filter runs }
  match e.debt with
  | u :: rest => some (.rank u, { e with debt := rest })
  | [] =>
    if entry < 8 && runs entry then some (.rank entry, e)
    else if entry = 8 && replay then some (.audit, e)
    else
      match { e with debt := if entry < 8 then [entry] else [] }.robin runs with
      | some (u, e) => some (.rank u, e)
      | none => none

/-- A step takes its slots (R358, R359): entries inside the consumed ones that name a rank become debt. -/
def Engine.consume (e : Engine) (slots : Nat) : Engine :=
  let inside := (List.range (slots - 1)).map fun i => e.table.getD ((e.counter + 1 + i) % 64) 9
  { e with counter := e.counter + slots, debt := e.debt ++ inside.filter (· < 8), busy := slots }

/-- The formats of a matrix job. -/
def JobKind.formats : JobKind → Descr × Descr
  | .mma _ _ _ _ ca cb => (Descr.ofBits ca.format, Descr.ofBits cb.format)
  | _ => (Descr.ofBits 0, Descr.ofBits 0)

/-- Pop the next slot of a ring for a job (R345, R347): its place, remembered by the job's region. -/
def State.popSlot (s : State) (j : Job) (c : Cap) : Option ((Nat × Nat × Nat) × State) :=
  match s.ring j.cluster c.buffer.toNat with
  | none => none
  | some g => (g.receive .popped j.region.isSome).map fun p =>
      let place := (j.cluster, c.buffer.toNat, p.1)
      let s := s.mapRing j.cluster c.buffer.toNat fun _ => p.2
      (place, match j.region with
        | none => s
        | some (lv, d) => s.mapTile j.tile fun t => t.mapRegion lv d fun r => { r with slots := r.slots ++ [place] })

/-- Open an audit segment at the start of a job's segment (R362). -/
def State.openSegment (s : State) (j : Job) (acc : Nat) (fp64 : Bool) (ca cb : Cap) : State :=
  if !j.audited || (s.segments.any fun g => g.cluster = j.cluster) then s
  else
    let accs := accSpan acc fp64
    let g : Segment :=
      { cluster := j.cluster, tile := j.tile, job := j.number, acc := acc, fp64 := fp64, steps := [],
        start := accs.flatMap fun n => s.accCells j.cluster n, startMasks := accs.map fun n => s.masks j.cluster n,
        formats := (ca.format, cb.format) }
    { s with segments := s.segments ++ [g] }

/-- Grant a step of a job (R351, R359): the first step begins the job, the two slots are popped. -/
def State.grantStep (s : State) (j : Job) : State :=
  match j.kind with
  | .mma acc fp64 _ az ca cb =>
    let accs := accSpan acc fp64
    let s := if j.steps = 0 then
        (let s := s.beginJob j
         if az then s.zeroAcc j.cluster accs else s)
      else s
    let s := s.detectAcc j.cluster accs
    let s := s.openSegment j acc fp64 ca cb
    match s.popSlot j ca with
    | none => s
    | some (a, s) => match s.popSlot j cb with
      | none => s
      | some (b, s) => s.mapJob j fun o => { o with granted := true, status := .running, popped := [a, b] }
  | _ => s

/-- Head matrix jobs of a cluster whose rings their home refuses stop (R344, R354, R445). -/
def State.stopRefused (s : State) (k : Nat) : State :=
  (s.tilesOf k).foldl (fun s t => match t.headJob with
    | none => s
    | some j => match j.kind with
      | .mma _ _ _ _ ca cb =>
        (if j.outcome.isSome || j.granted then s
         else match s.checkRing (.cluster k) ca, s.checkRing (.cluster k) cb with
         | some r, _ => (s.refuse (s.jobClaim j (.cluster k) ca) 0 0 r).conclude j .homeRefused
         | none, some r => (s.refuse (s.jobClaim j (.cluster k) cb) 0 0 r).conclude j .homeRefused
         | none, none => s)
      | _ => s) s

/-- The replay whose next step the engine of a cluster could run (R363). -/
def State.replayAt (s : State) (k : Nat) : Option Segment := s.segments.find? fun g => g.replaying.any fun p => p.1 = k && p.2 > 0

/-- The engine of a cluster grants the next step (R358, R359). -/
def execStepGrant (cluster : Nat) (s : State) : Host.Outcome State Fault Refusal :=
  match s.clusterAt cluster with
  | none => .next s
  | some c =>
    if c.stopped || c.engine.busy ≠ 0 then .next s
    else
      let s := s.stopRefused cluster
      match c.engine.choose (fun u => (s.runnableAt cluster u).isSome) (s.replayAt cluster).isSome with
      | none => .next s
      | some (.audit, e) =>
        let slots := ((s.replayAt cluster).map fun g => stepSlots (Descr.ofBits g.formats.1).width).getD 1
        let s := s.mapCluster cluster fun c => { c with engine := e.consume slots }
        .next { s with segments := match s.replayAt cluster with
          | none => s.segments
          | some g => s.segments.map fun o =>
              if o = g then { o with replaying := o.replaying.map fun p => (p.1, p.2 - 1) } else o }
      | some (.rank u, e) => match s.runnableAt cluster u with
        | none => .next s
        | some j =>
          let s := s.mapCluster cluster fun c => { c with engine := e.consume (stepSlots j.kind.formats.1.width) }
          .next (s.grantStep j)

/-- While the engine is idle, with no step that it could start, its slot counter advances (R358, R359). -/
def execSlotCounterAdvance (cluster : Nat) (s : State) : Host.Outcome State Fault Refusal :=
  let t := s.stopRefused cluster
  .next (s.mapCluster cluster fun c =>
    if c.engine.busy = 0 && !c.stopped && (c.engine.choose (fun u => (t.runnableAt cluster u).isSome) (t.replayAt cluster).isSome).isNone then
      { c with engine := { c.engine with counter := c.engine.counter + 1 } } else c)

/-- A popped slot at the retirement of its step (R345, R347). -/
def State.retireSlot (s : State) (p : Nat × Nat × Nat) (region : Bool) : State :=
  s.mapRing p.1 p.2.1 fun g => if region then g.hold p.2.2 else g.release p.2.2

/-- The result of a granted step (R282, R341, R345, R351, R362). -/
def State.retireStep (s : State) (j : Job) : State :=
  match j.kind, j.popped with
  | .mma acc fp64 steps _ ca cb, [a, b] =>
    let accs := accSpan acc fp64
    let fa := Descr.ofBits ca.format
    let fb := Descr.ofBits cb.format
    let (xa, s) := s.readSlot fa a.1 a.2.1 a.2.2
    let (xb, s) := s.readSlot fb b.1 b.2.1 b.2.2
    let cur := (List.range 4096).map fun x => s.accElem j.cluster acc fp64 x
    let rows := s.badRows fa (s.slotKey a.1 a.2.1 a.2.2)
    let cols := s.badRows fb (s.slotKey b.1 b.2.1 b.2.2)
    let s := s.setAcc j.cluster acc fp64 (stepElems fa fb xa xb cur)
    let s := s.mapMasks j.cluster accs fun m => (m.1 ||| maskOf rows, m.2 ||| maskOf cols)
    let s := { s with segments := s.segments.map fun (g : Segment) =>
      if (g.tile = j.tile && g.job = j.number && g.sign.isNone) then { g with steps := g.steps ++ [(xa, xb)] } else g }
    let s := (s.retireSlot a j.region.isSome).retireSlot b j.region.isSome
    let last := j.steps + 1 ≥ steps
    s.mapJob j fun o =>
      let o := { o with steps := o.steps + 1, granted := false, popped := [] }
      let o := if rows.isEmpty then o else o.met ca
      let o := if cols.isEmpty then o else o.met cb
      if last && o.outcome.isNone then { o with outcome := some .done, status := if o.audited then .auditing else .running } else o
  | _, _ => s.mapJob j fun o => { o with granted := false, popped := [] }

/-- The step that holds the engine of a cluster retires (R361). -/
def execStepRetire (cluster : Nat) (s : State) : Host.Outcome State Fault Refusal :=
  match s.clusterAt cluster with
  | none => .next s
  | some c =>
    if c.engine.busy = 0 || c.stopped then .next s
    else
      let s := s.mapCluster cluster fun c => { c with engine := { c.engine with busy := 0 } }
      match (s.tilesOf cluster).findSome? fun t => t.jobs.find? fun j => j.granted with
      | none => .next s
      | some j => .next (s.retireStep j)

/-! ### Accumulator jobs (R341, R352) -/

/-- The row of an `mx.load` job from its bytes: the elements, and whether a source byte is poisoned. -/
def loadRow (w : Nat) (bytes : List (Byte × Bool)) : List Nat × Bool :=
  ((List.range 64).map fun k => leNat (((bytes.map (·.1)).drop (w * k)).take w), bytes.any (·.2))

/-- Run an `mx.load` (R352). -/
def State.loadJob (s : State) (j : Job) (acc : Nat) (fp64 : Bool) (c : Cap) (off : Nat) : State :=
  let w := if fp64 then 8 else 4
  match s.jobRead j c off (4096 * w) with
  | .waits copy s => s.jobWaits j copy
  | .asleep s => s.jobSleeps j
  | .stopped st s => s.conclude j st
  | .ok bytes s =>
    let s := s.beginJob j
    let accs := accSpan acc fp64
    let rows := (List.range 64).map fun i => loadRow w ((bytes.drop (64 * w * i)).take (64 * w))
    let bad := (rows.zipIdx.filter fun p => p.1.2).map (·.2)
    let s := (s.disarmAcc j.cluster accs).setAcc j.cluster acc fp64 (rows.flatMap (·.1))
    let s := s.mapMasks j.cluster accs fun _ => (maskOf bad, 0)
    let s := if bad.isEmpty then s else s.mapJob j fun o => o.met c
    s.conclude j .done

/-- The magnitude's floor of log2 of a value that is not zero. -/
def Num.log2 : Num → Option Int
  | .fin _ m e => if m = 0 then none else some ((m.log2 : Int) + e)
  | _ => none

/-- The scale byte of a block (R352). -/
def outScale (f : Descr) (xs : List Num) : Nat :=
  if xs.any fun x => match x with
    | .fin _ _ _ => false
    | _ => true
  then 255
  else match (xs.filterMap Num.log2).max? with
    | none => 0
    | some l =>
      let top := ((f.elem.value (f.elem.encode false (f.elem.maxIndex false))).log2).getD 0
      (max 0 (min 254 (127 + l - top))).toNat

/-- Draws in ascending element order, one per element (R280, R352). -/
def drawList : Nat → Word → List Nat
  | 0, _ => []
  | n + 1, s => (draw s).1 :: drawList n (draw s).2

/-- Multiply by a power of two. -/
def Num.scaleBy (k : Int) : Num → Num
  | .fin n m e => .fin n m (e + k)
  | x => x

/-- One row of an `mx.out` (R352): the packed elements and the scale bytes. `xs`: value and draw of each element. -/
def outRow (f : Descr) (mode : Nat) (sat : Bool) (xs : List (Num × Nat)) : List Byte × List Byte :=
  let b := f.blockSize
  let scales := if b = 0 then [] else (List.range (64 / b)).map fun p => outScale f (((xs.drop (b * p)).take b).map (·.1))
  let enc := xs.zipIdx.map fun p =>
    let v := if b = 0 then p.1.1 else p.1.1.scaleBy (127 - (scales.getD (p.2 / b) 127 : Int))
    f.elem.round mode (sat || b ≠ 0) p.1.2 v
  let packedRow := (enc.zipIdx.map fun p => p.1 * 2 ^ (f.width * p.2)).sum
  (leBytes (8 * f.width) packedRow, scales.map fun x => BitVec.ofNat 8 x)

/-- Write the rows of an `mx.out` that are left one by one, then the scale bytes: a write that is refused stops the job, and earlier writes stand
(R153, R354). Each row: its offset, its bytes, and the 64-byte pieces it poisons. -/
def State.outRows (s : State) (j : Job) (c : Cap) : List (Nat × List Byte × List Nat) → State
  | [] => s.conclude j .done
  | (off, bytes, bad) :: rest =>
    match s.jobWrite j c (bytes.zipIdx.map fun p => (off + p.2, p.1)) bad with
    | .waits copy s => s.jobWaits j copy
    | .asleep s => s.jobSleeps j
    | .stopped st s => s.conclude j st
    | .ok _ s => State.outRows (s.mapJob j fun o =>
        let o := { o with rows := o.rows + 1, since := none, copying := false, asks := [] }
        if bad.isEmpty then o else o.met c) j c rest

/-- Run an `mx.out` (R341, R352). -/
def State.outJob (s : State) (j : Job) (acc : Nat) (fp64 : Bool) (c : Cap) (off : Nat) (rmode : BitVec 4) (seed : Word) : State :=
  let f := Descr.ofBits c.format
  let accs := accSpan acc fp64
  let s := s.detectAcc j.cluster accs
  let out := if fp64 then Sys2Proof.Machine.fp64 else fp32
  let mode := rmode.toNat % 8
  let draws := if mode = 5 then drawList 4096 seed else []
  let poisoned (x : Nat) : Bool := accs.any fun n => (s.masks j.cluster n).1.getLsbD (x / 64) || (s.masks j.cluster n).2.getLsbD (x % 64)
  let place (r q : Nat) : Nat := if f.layout = 0 then 64 * r + q else 64 * q + r
  let width := 8 * f.width
  let rows := (List.range 64).map fun r =>
    let xs := (List.range 64).map fun q => (out.value (s.accElem j.cluster acc fp64 (place r q)), draws.getD (place r q) 0)
    let bad := ((List.range 64).filter fun q => poisoned (place r q)).flatMap fun q =>
      [(off + width * r + f.width * q / 8) / 64, (off + width * r + (f.width * q + f.width - 1) / 8) / 64]
    (off + width * r, outRow f mode (rmode.getLsbD 3) xs, bad.eraseDups)
  let scales := rows.flatMap fun p => p.2.1.2
  let data := rows.map fun p => (p.1, p.2.1.1, p.2.2)
  let strip := off + 512 * f.width
  let blocks := 64 / max 1 f.blockSize
  let badScales := (List.range scales.length).filterMap fun i =>
    if (List.range f.blockSize).any fun q => poisoned (place (i / blocks) (i % blocks * f.blockSize + q)) then some ((strip + i) / 64) else none
  s.outRows j c ((data ++ (if scales.isEmpty then [] else [(strip, scales, badScales.eraseDups)])).drop j.rows)

/-- The accumulator job at the head of a tile's queue runs (R352, R353). -/
def execAccumulatorJobRun (tile : Nat) (s : State) : Host.Outcome State Fault Refusal :=
  match (s.tileAt tile).bind Tile.headJob with
  | none => .next s
  | some j =>
    if j.outcome.isSome || !s.accFree j || ((s.clusterAt j.cluster).any (·.stopped)) then .next s
    else match j.kind with
      | .zero acc =>
        .next (((((s.beginJob j).zeroAcc j.cluster [acc]).mapMasks j.cluster [acc] fun _ => (0, 0))).conclude j .done)
      | .load acc fp64 c off => .next (s.loadJob j acc fp64 c off)
      | .out acc fp64 c off rmode seed => .next (s.outJob j acc fp64 c off rmode seed)
      | .mma _ _ _ _ _ _ => .next s
      | .copy _ _ _ => .next s

/-! ### Copy jobs (R105, R337) -/

/-- Copy the next 256-byte unit of a copy job (R337); the Shunter notes whose unit it was (R105). -/
def State.copyUnit (s : State) (j : Job) (dst src : Cap) (len : Nat) : State :=
  let off := 256 * j.steps
  let n := min 256 (len - off)
  match s.jobRead j src off n with
  | .waits copy s => s.jobWaits j copy
  | .asleep s => s.jobSleeps j
  | .stopped st s => s.conclude j st
  | .ok bytes s =>
    let bad := (bytes.zipIdx.filterMap fun p => if p.1.2 then some ((off + p.2) / 64) else none).eraseDups
    match s.jobWrite j dst (bytes.zipIdx.map fun p => (off + p.2, p.1.1)) bad with
    | .waits copy s => s.jobWaits j copy
    | .asleep s => s.jobSleeps j
    | .stopped st s => s.conclude j st
    | .ok _ s =>
      let turn := ((s.clusterAt j.cluster).map (·.turn)).getD 0 + 1
      let s := s.mapCluster j.cluster fun c => { c with burst := 0, turn := turn }
      s.mapJob j fun o =>
        let o := { o with turn := turn, steps := o.steps + 1, status := .running, since := none, copying := false, asks := [] }
        let o := if bad.isEmpty then o else (o.met src).met dst
        if off + n ≥ len && o.outcome.isNone then { o with outcome := some .done } else o

/-- Whether a copy job's unit may go now (R105): its turn among the cluster's jobs has come, or came when its unit began to wait, and no transfer
unit is ready, or four have gone since the last unit of a job. -/
def State.jobTurn (s : State) (c : Cluster) (j : Job) : Bool :=
  ((s.unitTurn c).isNone || c.burst ≥ 4) &&
    (j.since.isSome || (leastServed Job.turn (s.copyJobs c.index)).any fun o => o.tile = j.tile && o.number = j.number)

/-- A copy job of a tile copies one 256-byte unit (R105, R337). -/
def execShunterCopyJob (tile : Nat) (job : Nat) (s : State) : Host.Outcome State Fault Refusal :=
  match (s.tileAt tile).bind fun t => t.liveJob job with
  | none => .next s
  | some j => match j.kind, s.clusterAt j.cluster with
    | .copy dst src len, some c =>
      if j.outcome.isSome || c.stopped || !s.jobTurn c j then .next s else .next (s.copyUnit j dst src len)
    | _, _ => .next s

/-! ### The end of a job (R354) -/

/-- Whether an audited job still waits for a verdict (R362). -/
def State.awaitsVerdict (s : State) (j : Job) : Bool := s.segments.any fun g => g.tile = j.tile && g.job = j.number

/-- The status with which a job can end now (R351, R354). -/
def State.endStatus (s : State) (j : Job) : Option JobStatus :=
  if j.granted then none
  else match j.outcome with
    | some st => if st = .done && j.audited && s.awaitsVerdict j then none else some st
    | none => match j.kind with
      | .mma _ _ steps _ _ _ =>
        if steps = 0 && s.accFree j && ((s.tileAt j.tile).bind Tile.headJob).any fun h => h.number = j.number then some .done else none
      | _ => none

/-- A matrix job of no steps leaves every element +0 when az is set (R351). -/
def State.emptyJob (s : State) (j : Job) : State :=
  match j.kind, j.outcome with
  | .mma acc fp64 0 true _ _, none => (s.beginJob j).zeroAcc j.cluster (accSpan acc fp64)
  | _, _ => s

/-- A job ends (R354): its segments go, its caps come back. -/
def execJobEnd (tile : Nat) (job : Nat) (s : State) : Host.Outcome State Fault Refusal :=
  match (s.tileAt tile).bind fun t => t.liveJob job with
  | none => .next s
  | some j => match if s.stoppedAt j.cluster then none else s.endStatus j with
    | none => .next s
    | some st =>
      let s := s.emptyJob j
      let s := { s with segments := s.segments.filter fun g => !(g.tile = j.tile && g.job = j.number) }
      .next (s.mapTile tile fun t => t.endJob s.device job st)

end Sys2Proof.Machine
end

