-- ==== Sys2Proof/Machine/Audit.lean ====
section
/-! DEFINITION. The audit of matrix jobs: signatures, replays, verdicts, suspects and quarantine (R362-R364, R448). -/

namespace Sys2Proof.Machine

open Sys2Proof

/-- The polynomial of the signature (R362). -/
def crcPoly : BitVec 64 := 0x42F0E1EBA9EA3693

/-- `n` bit steps of the CRC (R362). -/
def crcBits : Nat → BitVec 64 → BitVec 64
  | 0, c => c
  | n + 1, c => crcBits n (if c.getLsbD 63 then (c <<< 1) ^^^ crcPoly else c <<< 1)

/-- The CRC-64 of bytes, unreflected, from a register on (R362). -/
def crc64 : BitVec 64 → List Byte → BitVec 64
  | c, [] => c
  | c, b :: bs => crc64 (crcBits 8 (c ^^^ (b.zeroExtend 64 <<< 56))) bs

/-- The bytes of 4,096 elements in row-major order (R362, log 20). -/
def elemBytes (pair : Bool) (xs : List Nat) : List Byte := xs.flatMap fun v => leBytes (if pair then 8 else 4) v

/-- The elements that a segment started from. -/
def Segment.startElems (g : Segment) : List Nat :=
  let bytes := g.start.map (·.2)
  (List.range 4096).map fun x =>
    leNat ((bytes.drop (4 * x)).take 4) + (if g.fp64 then 2 ^ 32 * leNat ((bytes.drop (16384 + 4 * x)).take 4) else 0)

/-- The signature that a replay of a segment gives (R283, R363). -/
def Segment.replaySign (g : Segment) : BitVec 64 :=
  let fa := Descr.ofBits g.formats.1
  let fb := Descr.ofBits g.formats.2
  crc64 0 (elemBytes g.fp64 (g.steps.foldl (fun cur p => stepElems fa fb p.1 p.2 cur) g.startElems))

/-- Replace a segment. -/
def State.putSegment (s : State) (old new : Segment) : State :=
  { s with segments := s.segments.map fun g => if g = old then new else g }

/-- Remove a segment: the audit area of its cluster is free (R362). -/
def State.dropSegment (s : State) (g : Segment) : State := { s with segments := s.segments.filter fun o => o ≠ g }

/-- The job of a segment, while it has not ended. -/
def State.segmentJob (s : State) (g : Segment) : Option Job := (s.tileAt g.tile).bind fun t => t.liveJob g.job

/-- The engine signs a segment that is complete: its steps are full, or its job has no step left (R362). An armed error inverts the
signature (R450). -/
def execAuditSegmentSign (tile : Nat) (s : State) : Host.Outcome State Fault Refusal :=
  match s.segments.find? fun g => g.tile = tile && g.sign.isNone with
  | none => .next s
  | some g =>
    match s.segmentJob g with
    | none => if s.stoppedAt g.cluster then .next s else .next (s.dropSegment g)
    | some j =>
      if j.granted || s.stoppedAt g.cluster || !(g.full || j.outcome.isSome) then .next s
      else
        let s := s.detectAcc g.cluster (accSpan g.acc g.fp64)
        let sign := crc64 0 (elemBytes g.fp64 ((List.range 4096).map fun x => s.accElem g.cluster g.acc g.fp64 x))
        let inverts (a : ArmedError) : Bool := a.item = .auditSignature tile
        if s.armed.any inverts then
          .next ((({ s with armed := s.armed.filter fun a => !inverts a }).putSegment g { g with sign := some (~~~sign), injected := true }))
        else .next (s.putSegment g { g with sign := some sign })

/-- The clusters that can replay a segment, in order of preference (R363, R448, R454): same domain, audit entries, another engine than those
already involved, not on probation; those of another compute die first. -/
def State.replayers (s : State) (g : Segment) : List Nat :=
  let domain (k : Nat) : Option (BitVec 16) := ((s.tilesOf k).head?).map (·.mdomain)
  let fit (c : Cluster) : Bool := c.index ≠ g.cluster && !(g.replays.any fun r => r.1 = c.index) &&
    (domain g.cluster).any (fun d => (s.tilesOf c.index).all fun t => t.mdomain = d) && c.engine.table.contains 8 && c.engine.probation.isNone && !c.quarantined && !c.stopped
  let all := (s.clusters.filter fit).map (·.index)
  (all.filter fun k => k / 64 ≠ g.cluster / 64) ++ (all.filter fun k => k / 64 = g.cluster / 64)

/-- A segment passes without an audit (R363, R468): the launch counts it. -/
def State.passUnaudited (s : State) (g : Segment) : State :=
  let s := s.dropSegment g
  match (s.tileAt g.tile).bind (·.launch) with
  | none => s
  | some n => s.mapLaunch n fun l => ({ l with unaudited := l.unaudited + 1 }).summarise
      { body := [0, 0, 0, 0], source := 4, injected := g.injected, endpoint := clusterEndpoint s.device g.cluster 9,
        time := s.clock, device := s.device }

/-- Whether a segment needs another replay (R363): none made, or one that differs. -/
def Segment.wantsReplay (g : Segment) : Bool :=
  match g.sign, g.replays with
  | some _, [] => true
  | some x, [r] => r.2 ≠ x
  | _, _ => false

/-- The replay scheduler takes up the n-th segment (R363): it picks a cluster, whose engine then runs the steps in its audit slots, and
signs when the last has run. Without a cluster a first replay is not made and the segment passes unaudited. -/
def execAuditReplay (n : Nat) (s : State) : Host.Outcome State Fault Refusal :=
  match s.segments[n]? with
  | none => .next s
  | some g =>
    if s.stoppedAt g.cluster then .next s
    else if (s.segmentJob g).isNone then .next (s.dropSegment g)
    else if !g.wantsReplay then .next s
    else match g.replaying with
      | some (k, 0) => .next (s.putSegment g { g with replaying := none, replays := g.replays ++ [(k, g.replaySign)] })
      | some _ => .next s
      | none => match s.replayers g with
        | k :: _ => .next (s.putSegment g { g with replaying := some (k, g.steps.length) })
        | [] => if g.replays.isEmpty then .next (s.passUnaudited g) else .next s

/-- What a segment's signatures say (R363): pass or mismatch, with the clusters recorded as suspect; none while one is still to come. -/
def Segment.verdict (g : Segment) (third : Bool) : Option (Bool × List Nat) :=
  match g.sign, g.replays with
  | some x, [(k, y)] => if x = y then some (true, []) else if third then none else some (false, [g.cluster, k])
  | some x, (k, y) :: (m, z) :: _ =>
    if z = x then some (true, [k]) else if z = y then some (false, [g.cluster]) else some (false, [g.cluster, k, m])
  | _, _ => none

/-- A suspect record (R448): probation, and under probation the quarantine of the cluster. -/
def State.suspect (s : State) (k : Nat) : State :=
  s.mapCluster k fun c =>
    let e := { c.engine with suspects := c.engine.suspects + 1 }
    if c.engine.probation.isSome then { c with engine := e, quarantined := true }
    else { c with engine := { e with probation := some 4096 } }

/-- A segment of an engine passes: one step towards the end of its probation (R448). -/
def State.passed (s : State) (g : Segment) : State :=
  let left (n : Nat) : Option Nat := if n ≤ 1 then none else some (n - 1)
  let s := s.mapCluster g.cluster fun c => { c with engine := { c.engine with probation := c.engine.probation.bind left } }
  match (s.tileAt g.tile).bind (·.launch) with
  | none => s
  | some n => s.mapLaunch n fun l => { l with audited := l.audited + 1 }

/-- A mismatch (R364): the region that issued the job rolls back, and the job ends with code 9; outside a region every row is poisoned and the job ends with
code 8. -/
def State.mismatch (s : State) (g : Segment) (j : Job) : State :=
  match j.region with
  | some (lv, d) => (s.conclude j .rolledBack).mapTile g.tile fun t => t.askRollback lv d 51
  | none => (s.mapMasks g.cluster (accSpan g.acc g.fp64) fun m => (BitVec.allOnes 64, m.2)).conclude j .auditMismatch

/-- The verdict on the n-th segment (R363, R364, R448): consecutive passes count under probation, an injected error makes no
suspect. -/
def execAuditVerdict (n : Nat) (s : State) : Host.Outcome State Fault Refusal :=
  match s.segments[n]? with
  | none => .next s
  | some g => if s.stoppedAt g.cluster then .next s else match s.segmentJob g with
    | none => .next (s.dropSegment g)
    | some j => match g.verdict (!(s.replayers g).isEmpty || g.replaying.isSome) with
      | none => .next s
      | some (ok, suspects) =>
        let s := s.dropSegment g
        let s := if g.injected then s else suspects.foldl State.suspect s
        if ok then .next (s.passed g)
        else
          let s := s.mapCluster g.cluster fun c => { c with engine := { c.engine with probation := c.engine.probation.map fun _ => 4096 } }
          .next (s.mismatch g j)

/-- Domain-0 firmware has run its self-test and releases a quarantined cluster (R448). -/
def execQuarantineRelease (cluster : Nat) (s : State) : Host.Outcome State Fault Refusal :=
  .next (s.mapCluster cluster fun c => { c with quarantined := false, fatal := false, engine := { c.engine with probation := none } })

end Sys2Proof.Machine
end

