-- ==== Sys2Proof/Machine/Control.lean ====
section
/-! DEFINITION. Regions, snapshots, barriers, exchange phases, gangs, waits and the release path (R142, R154-R157, R199-R210,
R333, R365-R386). -/

namespace Sys2Proof.Machine

open Sys2Proof

/-! ### Regions (R367, R372, R376, R377) -/

/-- `rgn.open` (R367): at most 8 regions over all levels, 64 bytes of the undo pool; `x[d]` is 0 in the region. -/
def execRgnOpen (d : Reg) (s : State) : Host.Outcome State Fault Refusal :=
  run {} (.rgnOpen d) (whole do
    let t ← curTile
    if (t.regions.toList.map List.length).sum ≥ 8 then trap 28 2
    saveItems [.x d]
    let t ← curTile
    if t.undoUsed + 64 > t.undoSize then trap 28 0
    modify fun s => s.rearm fun i => i = .x s.tile.index s.tile.level d
    modify fun s =>
      let t := s.tile.setX d 0
      let r : Region := { dest := d, pc := t.pc, jobSerial := t.jobSerial, msgrecv := t.msgrecv, sidingFill := t.siding.length,
                          levelSeq := s.levelSeq }
      { s with tile := t.setRegions (r :: t.openRegions) }) s

/-- The cap of a snapshot or keep instruction: exclusive, of kind 1-4 (R372, R378), with a right more. -/
def levelCap (r : Reg) (right : Rights → Bool) : Act Cap := do
  let c ← useCap r
  requireCap (c.kind ≠ .null && c.mode = .exclusive && right c.eff && c.kind ≠ .host && c.kind ≠ .handle && c.kind ≠ .slot) r 4
  return c

/-- Write the depth that the home answers into the cap's register (R154). -/
def putDepth (r : Reg) (c : Cap) (h : HomeId) : Act Unit := do
  let s ← get
  let d := ((s.entry h c.buffer.toNat).map (·.depth)).getD 0
  putCaps [(r, s.sign { c with depth := BitVec.ofNat 3 d })]

/-- The value of a cause 29 that names no offset (R155, R165). -/
def noOffset : Word := 0xFFFFFFFFFFFFFFFF

/-- The error of an action, none of whose effects stand. -/
def probe (a : Act Unit) : Act Unit := fun s =>
  match a s with
  | .ok x _ => .ok x s
  | .error e _ => .error e s

/-- Ask another device's home to push a level (R154, R155, R165): `full` is what a depth of 7 raises; an exhausted pool is cause 29 (log 75).
Room for the save of the cap's register comes first. -/
def askLevel (r : Reg) (c : Cap) (op : Nat) (args : List Nat) (full : Act Unit) : Act DirEntry := do
  probe (saveItems [.c r])
  let a ← askAnswer r c 4 op 0 (op :: args) (.drain 0)
  match a.reason with
  | none => pure ()
  | some 12 => trap 29 noOffset
  | some 9 => full
  | some reason => homeFail r reason
  askHome r c op args

/-- `rgn.keep` (R165, R372): a region level over the lines that a range touches. -/
def execRgnKeep (d a b : Reg) (s : State) : Host.Outcome State Fault Refusal :=
  run {} (.rgnKeep d a b) (do
    guardC30 (.rgnKeep d a b) [d]
    let t ← curTile
    if !t.inRegion then illegal (.rgnKeep d a b)
    let c ← levelCap d (·.w)
    let off := (← getX a).toNat
    let len := (← getX b).toNat
    requireCap (len ≠ 0 && off + len ≤ c.length.toNat) d 5
    lentStall d c
    drain c
    let first := off / 256
    let last := (off + len - 1) / 256
    let owner := t.principal (← get).device
    let h ← if c.kind = .remote then do
        let e ← askLevel d c 16 [first, last, t.depth] (trap 28 4)
        saveItems [.c d]
        let h := HomeId.remote c.location.toNat
        modify fun s => s.addLevel h e.number true t.depth first last owner t.index t.level
        pure h
      else do
        let (h, e) ← homeEntry d c [.exclusive] true 3
        if e.depth ≥ 7 then trap 28 4
        if (← get).poolFree h e.domain = 0 then trap 29 noOffset
        saveItems [.c d]
        modify fun s => s.pushLevel h e.number true t.depth first last owner t.index t.level
        pure h
    onTile fun t => { t with grants := [] }
    putDepth d c h) s

/-- `rgn.close` (R377). -/
def execRgnClose (s : State) : Host.Outcome State Fault Refusal := run {} .rgnClose (closeRegion .rgnClose) s

/-- `rgn.abort` (R376). -/
def execRgnAbort (c : BitVec 8) (s : State) : Host.Outcome State Fault Refusal :=
  run {} (.rgnAbort c) (do
    if !(← curTile).inRegion then illegal (.rgnAbort c)
    throw (.rollback (256 + c.toNat))) s

/-! ### Snapshots (R154-R157, R378) -/

/-- What take, accept and reject share before the home acts (R154, R162, R378): the cap, its buffer drained. -/
def snapBegin (a : Reg) (right : Rights → Bool) : Act Cap := do
  let c ← levelCap a right
  guardRegions a c
  lentStall a c
  drain c
  return c

/-- After the home's answer: the grant table is empty and the register has the new depth (R154). -/
def snapEnd (a : Reg) (c : Cap) (h : HomeId) : Act Unit := do
  onTile fun t => { t with grants := [] }
  putDepth a c h

/-- The highest line index of a buffer (R148, R149). -/
def DirEntry.lastLine (e : DirEntry) : Nat := (e.length - 1) / 256

/-- `snap.take` (R155). -/
def execSnapTake (a : Reg) (s : State) : Host.Outcome State Fault Refusal :=
  run {} (.snapTake a) (do
    guardC30 (.snapTake a) [a]
    let c ← snapBegin a (·.n)
    let h ← if c.kind = .remote then do
        let e ← askLevel a c 13 [] (homeFail a 9)
        saveItems [.c a]
        let h := HomeId.remote c.location.toNat
        modify fun s => s.addLevel h e.number false 0 0 e.lastLine 0 s.tile.index s.tile.level
        pure h
      else do
        let (h, e) ← homeEntry a c [.exclusive] true 3
        if e.depth ≥ 7 then refuseHome a c h 9
        if (← get).poolFree h e.domain = 0 then trap 29 noOffset
        saveItems [.c a]
        modify fun s => s.pushLevel h e.number false 0 0 e.lastLine 0 s.tile.index s.tile.level
        pure h
    snapEnd a c h) s

/-- The top level of a buffer, if its record is here, was made since the outermost open region of the current level opened: accept and reject
need that inside a region (R369). -/
def regionsOwn (a : Reg) (h : HomeId) (b : Nat) : Act Unit := do
  let s ← get
  match s.tile.openRegions.getLast? with
  | none => pure ()
  | some r => requireCap (((s.stackOf h b).head?).any fun l => decide (r.levelSeq ≤ l.seq)) a 12

/-- Accept and reject at a home of this device need a snapshot level on top (R154). -/
def topSnapshot (a : Reg) (c : Cap) : Act (HomeId × DirEntry) := do
  let (h, e) ← homeEntry a c [.exclusive] true 12
  match (← get).stackOf h e.number with
  | [] => refuseHome a c h 12
  | l :: _ => if l.region then refuseHome a c h 12
  regionsOwn a h e.number
  saveItems [.c a]
  return (h, e)

/-- Ask another device's home to accept or reject the top level, which it judges (R154); inside a region the level must be one of its own. -/
def askTop (a : Reg) (c : Cap) (op : Nat) : Act (HomeId × DirEntry) := do
  let h := HomeId.remote c.location.toNat
  probe (do
    regionsOwn a h c.buffer.toNat
    saveItems [.c a])
  let e ← askHome a c op []
  saveItems [.c a]
  return (h, e)

/-- `snap.accept` (R156). -/
def execSnapAccept (a : Reg) (s : State) : Host.Outcome State Fault Refusal :=
  run {} (.snapAccept a) (do
    guardC30 (.snapAccept a) [a]
    let c ← snapBegin a (fun _ => true)
    let h ← if c.kind = .remote then do
        pure (← askTop a c 14).1
      else do
        let (h, e) ← topSnapshot a c
        modify fun s => s.acceptTop h e.number
        pure h
    snapEnd a c h) s

/-- `snap.reject` (R157): the tile's sectors of restored lines become Invalid. A restore that waits on a translation counts under F (R182, log 89). -/
def execSnapReject (a : Reg) (s : State) : Host.Outcome State Fault Refusal :=
  run {} (.snapReject a) (do
    guardC30 (.snapReject a) [a]
    let c ← snapBegin a (fun _ => true)
    let h ← if c.kind = .remote then do
        let (h, e) ← askTop a c 15
        modify fun s => s.forgetRestored h e.number []
        pure h
      else do
        let (h, e) ← topSnapshot a c
        modify fun s => s.forgetRestored h e.number ((s.copiesAt h e.number e.depth).map (·.line))
        let s ← get
        let (done, s) := s.rejectTop (s.claim h c s.tile)
        set s
        if !done then holdOn 0 true
        pure h
    snapEnd a c h) s

/-- The word of `snap.info` (R378). -/
def State.infoWord (s : State) (h : HomeId) (e : DirEntry) : Word :=
  let top := (s.stackOf h e.number).head?
  let kind := (top.map (·.region.toNat)).getD 0
  let rdepth := (top.map (·.regionDepth)).getD 0
  let copies := (s.copiesAt h e.number e.depth).length
  word (e.depth + kind * 2 ^ 3 + rdepth * 2 ^ 4 + copies % 2 ^ 32 * 2 ^ 8 + min 0xFFFFFF (s.poolFree h e.domain) * 2 ^ 40)

/-- `snap.info` (R378). -/
def execSnapInfo (d a : Reg) (s : State) : Host.Outcome State Fault Refusal :=
  run {} (.snapInfo d a) (do
    let c ← useCap a
    requireCap (c.kind ≠ .null && c.kind ≠ .host && c.kind ≠ .handle && c.kind ≠ .slot) a 4
    lentStall a c
    if c.kind = .remote then
      let w ← askPeer a c 4 18 0 [18, c.mode.code] (.drain 0)
      setX d (w.words.headD 0)
    else
      let (h, e) ← homeEntry a c [.exclusive, .readShared, .foldShared, .execShared] (c.mode = .exclusive) (if c.mode = .exclusive then 3 else 2)
      setX d ((← get).infoWord h e)) s

/-! ### Barriers (R205-R207, R379) -/

/-- The binding of a level. -/
def Tile.binding (t : Tile) (l : Level) : Option Binding := t.barriers.get l

/-- Replace the binding of a level. -/
def Tile.setBinding (t : Tile) (l : Level) (b : Option Binding) : Tile := { t with barriers := t.barriers.set l.val b }

/-- Whether held items hold an arrival at a level (R207). -/
def arrivalIn (hs : List Held) (l : Level) : Bool :=
  hs.any fun h => match h.kind with
    | .arrive _ l' => l' = l
    | _ => false

/-- Whether an arrival at a level is held in the Siding or on the release path (R207). -/
def Tile.arrivalHeld (t : Tile) (l : Level) : Bool := arrivalIn (t.siding ++ t.releasePath) l

/-- The barrier domain of a launch, as it stands or as the record declares it (R205, R393). -/
def State.barrier (s : State) (launch d : Nat) : Option BarDomain :=
  match s.bars.find? fun b => b.launch = launch && b.domain = d with
  | some b => some b
  | none => (s.launchAt launch).bind fun l => (l.record.barriers.find? fun p => p.1 = d).map fun p =>
      { launch := launch, domain := d, members := p.2 }

/-- Put a barrier domain back. -/
def State.putBarrier (s : State) (b : BarDomain) : State :=
  { s with bars := b :: s.bars.filter fun o => !(o.launch = b.launch && o.domain = b.domain) }

/-- A binding of the current tile, made or ended, is told to the other devices of its launch, which count it (R205, R206, log 24). -/
def State.tellBinding (s : State) (domain : Nat) (l : Level) (on : Bool) : State :=
  match s.launchOf s.tile with
  | none => s
  | some o => (o.record.devices.filter fun d => d.1 ≠ s.device).foldl (fun s d =>
      s.sendSys d.1 23 [o.number % 2 ^ 64, o.device, domain, s.tile.rank, l.val, if on then 1 else 0]) s

/-- `bar.join` (R205, R379): bindings stand under the rank, which a revival elsewhere keeps (R206); those that this
device knows are counted (log 50). -/
def execBarJoin (a : Reg) (l : BitVec 2) (s : State) : Host.Outcome State Fault Refusal :=
  run { launch := true } (.barJoin a l) (do
    let lv : Level := l.toFin
    let t ← curTile
    if (t.binding lv).any (fun b => b.arrived.isSome) || t.arrivalHeld lv then illegal (.barJoin a l)
    let d := (← getX a).toNat
    requireCap (d < 64) 0 9
    let s ← get
    match s.barrier (t.launch.getD 0) d with
    | none => capFail 0 9
    | some b =>
      let mine : Nat × Level := (t.rank, lv)
      let others := b.bound.filter fun p => p ≠ mine
      requireCap (others.length < b.members) 0 9
      let s := match (t.binding lv).bind fun o => s.barrier (t.launch.getD 0) o.domain with
        | some o => (s.putBarrier { o with bound := o.bound.filter fun p => p ≠ mine }).tellBinding o.domain lv false
        | none => s
      let s := (s.putBarrier { b with bound := others ++ [mine] }).tellBinding d lv true
      set { s with tile := s.tile.setBinding lv (some { domain := d }) }) s

/-- An arrival of the current tile (R205); the Junction of the lead counts those of a launch across devices (R206, log 24). -/
def State.arriveBarrier (s : State) (l : Level) : State :=
  match s.tile.binding l with
  | none => s
  | some g => match s.barrier (s.tile.launch.getD 0) g.domain with
    | none => s
    | some b =>
      let s := match s.launchAt b.launch with
        | some l => if l.device = s.device then s.putBarrier { b with arrivals := b.arrivals + 1 }
                    else s.sendSys l.device 20 [b.launch % 2 ^ 64, b.domain]
        | none => s.putBarrier { b with arrivals := b.arrivals + 1 }
      { s with tile := s.tile.setBinding l (some { g with arrived := some b.round }) }

/-- `bar.arrive` (R205, R207): in a region it is held in the Siding. -/
def execBarArrive (l : BitVec 2) (s : State) : Host.Outcome State Fault Refusal :=
  run { launch := true } (.barArrive l) (do
    let lv : Level := l.toFin
    let t ← curTile
    match t.binding lv with
    | none => illegal (.barArrive l)
    | some g =>
      if g.arrived.isSome || t.arrivalHeld lv then illegal (.barArrive l)
      if !t.releasePath.isEmpty then stall .release
      if t.inRegion then
        if t.siding.length ≥ 32 then trap 28 1
        onTile fun t => { t with siding := t.siding ++ [⟨.arrive g.domain lv, t.level, t.depth⟩] }
      else modify fun s => s.arriveBarrier lv) s

/-- `bar.wait` (R205, R379): an arrival that the release path still holds is waited for too (R207, R377). -/
def execBarWait (l : BitVec 2) (s : State) : Host.Outcome State Fault Refusal :=
  run { launch := true } (.barWait l) (do
    let lv : Level := l.toFin
    let s ← get
    match s.tile.binding lv with
    | none => illegal (.barWait l)
    | some g => match g.arrived with
      | none => if arrivalIn s.tile.releasePath lv then stall (.barrier lv) else illegal (.barWait l)
      | some round => match (s.barrier (s.tile.launch.getD 0) g.domain).bind fun b => b.released.find? fun p => p.1 = round with
        | none => stall (.barrier lv)
        | some p => onTile fun t => t.setBinding lv (some { g with arrived := none, released := some p.2 })) s

/-- A round that holds every arrival completes (R205, R206): its release cycle is kept and the next round begins. -/
def execBarrierRelease (launch : Nat) (domain : Nat) (s : State) : Host.Outcome State Fault Refusal :=
  match s.barrier launch domain with
  | none => .next s
  | some b =>
    if b.arrivals < b.members then .next s
    else
      let s := s.putBarrier { b with round := b.round + 1, arrivals := 0, released := b.released ++ [(b.round, s.clock)] }
      match s.launchAt launch with
      | some l => .next ((l.record.devices.filter fun d => d.1 ≠ s.device).foldl (fun s d => s.sendSys d.1 21 [launch, domain]) s)
      | none => .next s

/-! ### Exchange phases (R208-R210, R380-R383) -/

/-- A Timetable of a launch. -/
def State.timetable (s : State) (launch t : Nat) : Option Timetable :=
  (s.launchAt launch).bind fun l => l.record.tables.find? fun x => x.t = t

/-- The entries that name a rank as destination, with their sender. -/
def Timetable.incoming (x : Timetable) (rank : Nat) : List (Nat × TableEntry) :=
  x.senders.flatMap fun p => (p.2.filter fun e => e.dest = rank).map fun e => (p.1, e)

/-- The landing index of an entry (R380): its place by start and sending rank among those of its destination. -/
def Timetable.landing (x : Timetable) (sender : Nat) (e : TableEntry) : Nat :=
  ((x.incoming e.dest).filter fun p => p.2.start < e.start || (p.2.start = e.start && p.1 < sender)).length

/-- Mesh hops between two cluster sites of one die (R520). -/
def meshHops (a b : Nat) : Nat :=
  let gap (m n : Nat) : Nat := (m - n) + (n - m)
  gap (a % 64 / 8) (b % 64 / 8) + gap (a % 8) (b % 8)

/-- The cluster of a rank. -/
def State.rankCluster (s : State) (launch r : Nat) : Nat := ((s.place launch r).map fun p => clusterOf p.2).getD 0

/-- The closing cycle of a rank in a Timetable (R380). -/
def State.closingCycle (s : State) (launch : Nat) (x : Timetable) (rank : Nat) : Nat :=
  ((x.incoming rank).map fun p =>
    p.2.start + 7 + 4 * meshHops (s.rankCluster launch p.1) (s.rankCluster launch rank) + p.2.flits).foldl max 0

/-- Whether every member of a barrier domain lies on one die (R209). -/
def State.oneDie (s : State) (b : BarDomain) : Bool :=
  match b.bound.map fun p => (s.place b.launch p.1).map fun q => (q.1, q.2 / 512) with
  | [] => false
  | d :: ds => ds.all (· = d)

/-- The TMEM home writes an exchange payload into the landing cap (R381, R382). -/
def State.land (s : State) (c : Cap) (m : Msg) : State :=
  match m.landing, s.homeOf c with
  | some (j, bytes), some h =>
    let off := 256 * j
    let cells := bytes.zipIdx.map fun p => (off + p.2, p.1)
    let bad := m.landBad.map fun k => off / 64 + k
    let clean := (cells.map (·.1)).filter fun o => !bad.contains (o / 64)
    let s := if bad.isEmpty then s else { s with tile := s.tile.setZ s.device c.kind c.location.toNat c.buffer.toNat c.generation }
    match s.applyStore (s.claim h c s.tile) c.base.toNat s.tile.index cells bad clean false with
    | .done s => s
    | .refused _ s => s
    | .exhausted s => s
    | .waits s => s
  | _, _ => s

/-- Land the payloads that the exchange queue of the current tile holds (R382). -/
def State.landHeld (s : State) (c : Cap) : State :=
  let s := s.tile.xqueue.foldl (fun s q => if q.landed then s else s.land c q.msg) s
  { s with tile := { s.tile with xqueue := s.tile.xqueue.map fun q => { q with landed := true } } }

/-- The landing cap that a phase needs (R380). -/
def landingCap (a : Reg) (g : Nat) : Act Cap := do
  let c ← useCap a
  let s ← get
  requireCap (c.kind = .tmem && c.mode = .exclusive && c.eff.w && c.depth = 0 && s.ownTmem c) a 4
  requireCap (256 * g ≤ c.length.toNat) a 5
  lentStall a c
  return c

/-- `xch.begin` (R209, R380). -/
def execXchBegin (a : Reg) (t : BitVec 4) (l : BitVec 2) (s : State) : Host.Outcome State Fault Refusal :=
  run { launch := true } (.xchBegin a t l) (do
    let i := Instr.xchBegin a t l
    outsideRegions i
    let s ← get
    let u := s.tile
    let launch := u.launch.getD 0
    match s.timetable launch t.toNat, u.binding l.toFin with
    | some x, some b =>
      let fits := (s.barrier launch b.domain).any s.oneDie
      if u.level ≠ 0 || u.phase.isSome || b.arrived.isSome || u.arrivalHeld l.toFin || !fits then illegal i
      match b.released with
      | none => illegal i
      | some release =>
        let g := (x.incoming u.rank).length
        if g > 0 then guardC30 i [a]
        let c ← if g > 0 then landingCap a g else pure Cap.null
        let held := (u.xqueue.filter fun q => !q.landed).length
        if ((s.launchAt launch).any (·.holdExchange)) || u.xqueue.length + (g - held) > 32 then stall .xchBegin
        let p : Phase := { table := t.toNat, release := release, landing := if g > 0 then some a else none,
                           closing := s.closingCycle launch x u.rank }
        if g > 0 then
          lendDrain [(a, c)]
          onTile fun t => t.lend s.device [a]
          modify fun s => s.landHeld c
        onTile fun t => { t with phase := some p }
    | _, _ => illegal i) s

/-- The payload of an `xch.send` (R381): bytes of two v registers, and the 64-byte pieces that hold a poisoned lane. -/
def Tile.exchangeBytes (t : Tile) (a : Reg) (n : Nat) : List Byte × List Nat :=
  let lo := t.v.get a
  let hi := t.v.get (Fin.ofNat 32 (a.val + 1))
  let byte (i : Nat) : Byte := if i < 128 then lo.bits.extractLsb' (8 * i) 8 else hi.bits.extractLsb' (8 * (i - 128)) 8
  let bad (i : Nat) : Bool := if i < 128 then lo.poison.getLsbD (i / 8) else hi.poison.getLsbD ((i - 128) / 8)
  ((List.range n).map byte, (((List.range n).filter bad).map (· / 64)).eraseDups)

/-- Move to the next entry of the phase (R210). -/
def Tile.nextEntry (t : Tile) : Tile := { t with phase := t.phase.map fun p => { p with next := p.next + 1 } }

/-- An `xch.send` that is late or has no entry (R210): cause 27 with its number, which is consumed when the trap is taken (R413). -/
def missEntry (k : Nat) : Act Unit := do
  onTile fun t => if t.mode = .m || t.freeEntry.isSome then t.nextEntry else t
  trap 27 (word k)

/-- `xch.send` (R210, R381): outside a phase it is illegal (log 22); in a region the message is held in the Siding (R142). -/
def execXchSend (a : Reg) (s : State) : Host.Outcome State Fault Refusal :=
  run { launch := true } (.xchSend a) (do
    let s ← get
    let t := s.tile
    let launch := t.launch.getD 0
    match t.phase with
    | none => illegal (.xchSend a)
    | some p =>
      let mine := ((s.timetable launch p.table).bind fun x => (x.senders.find? fun q => q.1 = t.rank).map fun q => (x, q.2))
      match mine.bind fun q => q.2[p.next]?.map fun e => (q.1, e) with
      | none => missEntry p.next
      | some (x, e) =>
        let n := min 256 (64 * e.flits - 32)
        if n > 128 && a = 31 then illegal (.xchSend a)
        if s.xchCycle < e.start then stall .early
        if s.xchCycle > e.start + 3 then missEntry p.next
        let j := x.landing t.rank e
        let (bytes, bad) := t.exchangeBytes a n
        let m : Msg := { sender := t.rank, senderEp := t.principal s.device, senderLaunch := launch, dest := .rank launch e.dest,
                         type := 0, payload := [word j, word n], caps := [], landing := some (j, bytes), landBad := bad,
                         counted := t.mode = .u }
        if !t.releasePath.isEmpty then stall .release
        if t.inRegion then
          if t.siding.length ≥ 32 then trap 28 1
          onTile fun t => { t.nextEntry with siding := t.siding ++ [⟨.msg m 0, t.level, t.depth⟩] }
        else
          onTile (·.nextEntry)
          modify (·.injectMsg m)) s

/-- An exchange message reaches a tile (R382): its payload lands while the phase lends a landing cap, else the queue entry holds it. -/
def State.takeExchange (s : State) (m : Msg) : State :=
  let t := s.tile
  if t.xqueue.length ≥ 32 then s
  else
    let s := s.dropNet m
    let cap := t.phase.bind fun p => p.landing.map fun r => t.rcBank 0 r
    let s := match cap with
      | some c => s.land c m
      | none => s
    let q : QMsg := { msg := m, landed := cap.isSome }
    let u := s.tile.countPacket 4 false
    { s with tile := ({ u with
        xqueue := u.xqueue ++ [q]
        qTail := Vector.ofFn fun j => if j.val = 4 then u.qTail.get j + 1 else u.qTail.get j } : Tile).wake m }

/-- An exchange message of the network reaches its destination (R102, R382, R403, R419). -/
def State.arriveExchange (s : State) (m : Msg) : State :=
  match (s.destTile m.dest).bind s.tileAt with
  | none => s.dropNet m
  | some t =>
    if s.mustWait m then s
    else if !s.takesMsgs m.senderLaunch then s.dropNet m
    else if t.parked then s.hold t m
    else if t.gated then s.dropNet m
    else ((s.switchTo t.index).takeExchange m).switchTo s.tile.index

/-- The n-th message of the network, an exchange message, arrives (R382). -/
def execExchangeArrival (n : Nat) (s : State) : Host.Outcome State Fault Refusal :=
  match s.net[n]? with
  | none => .next s
  | some m => if m.landing.isSome then .next (s.arriveExchange m) else .next s

/-- The exchange messages on their way to the current tile have landed (R383). -/
def State.landAll (s : State) : List Msg → State
  | [] => s
  | m :: ms => State.landAll (if m.landing.isSome && s.destTile m.dest = some s.tile.index then s.takeExchange m else s) ms

/-- `xch.end` (R383): every message sent within its slack has landed by then. -/
def execXchEnd (d : Reg) (s : State) : Host.Outcome State Fault Refusal :=
  run { launch := true } (.xchEnd d) (do
    let s ← get
    match s.tile.phase with
    | none => illegal (.xchEnd d)
    | some p =>
      if s.xchCycle < p.closing then stall .xchEnd
      let entries := ((s.timetable (s.tile.launch.getD 0) p.table).bind fun x => x.senders.find? fun q => q.1 = s.tile.rank).map (·.2)
      saveItems [.x d]
      modify fun s => s.landAll s.net
      setX d (word ((entries.getD []).length - p.next))
      onTile fun t =>
        let t := match p.landing with
          | some r => t.setCBank 0 r (Cap.signOn { t.rcBank 0 r with lent := false } s.device)
          | none => t
        { t with phase := none }) s

/-! ### Gangs (R199-R202, R384) -/

/-- The tiles of the current tile's cluster and launch that a mask names (R199). -/
def State.named (s : State) (mask : BitVec 8) : List Tile :=
  (s.tilesOf (clusterOf s.tile.index)).filter fun t => t.launch = s.tile.launch && mask.getLsbD t.gangIndex

/-- Whether another tile is stalled at a rendezvous. -/
def Tile.meets (t : Tile) (p : Wait → Bool) : Bool :=
  t.mode = .u && t.level = 0 && t.hold = .free && !t.halted && !t.parked && !t.gated && t.wait.any p

/-- The position of a gang index in a mask (R199). -/
def maskPosition (mask : BitVec 8) (u : Nat) : Nat := ((List.range u).filter fun i => mask.getLsbD i).length

/-- The tiles of a rendezvous complete it in one cycle: every one retires, and goes on where the leader does (R199, R202, log 30). -/
def State.rendezvous (s : State) (members : List Nat) (gang : Tile → Gang) : State :=
  let inside (t : Tile) : Bool := members.contains t.index
  let done := s.mapTiles inside fun t => { t.retire with gang := gang t }
  match done.allTiles.find? fun t => inside t && t.leads with
  | none => done
  | some lead => done.mapTiles inside fun t => { t with pc := lead.pc }

/-- `gang.form` (R199, R384). -/
def execGangForm (m : BitVec 8) (s : State) : Host.Outcome State Fault Refusal :=
  run { launch := true } (.gangForm m) (do
    let s ← get
    let t := s.tile
    if (maskMembers m).length < 2 || !m.getLsbD t.gangIndex || t.gang.member || t.level ≠ 0 then illegal (.gangForm m)
    let all := s.named m
    let here (u : Tile) : Bool := u.index = t.index || u.meets fun w => w.kind = .gangForm m
    if all.length < (maskMembers m).length || !all.all here then stall (.gangForm m)
    let leader := ((maskMembers m).head?).getD 0
    set (s.rendezvous (all.map (·.index)) fun u =>
      { mask := m, left := 0, leader := leader, position := maskPosition m u.gangIndex, member := true })
    throw .leave) s

/-- `gang.split` (R202, R384): at the leader it dissolves the gang, whose members all execute it. -/
def execGangSplit (s : State) : Host.Outcome State Fault Refusal :=
  run { launch := true } .gangSplit (do
    let s ← get
    let t := s.tile
    if t.gang.mask = 0 then illegal .gangSplit
    if t.leads then
      set (s.mapTiles (sameGang t) fun u => { (if u.gang.member && u.index ≠ t.index then u.retire else u) with gang := {} })
    else
      set s.leaveGang
      onTile fun t => { t with gang := {} }) s

/-- `gang.join` (R202, R384): every tile of the formed mask waits in one at the same address, or follows in lockstep. -/
def execGangJoin (s : State) : Host.Outcome State Fault Refusal :=
  run { launch := true } .gangJoin (do
    let s ← get
    let t := s.tile
    if t.gang.mask = 0 then illegal .gangJoin
    let all := s.named t.gang.mask
    let here (u : Tile) : Bool := u.index = t.index ||
      (u.gang.mask = t.gang.mask && u.pc = t.pc && ((u.meets fun w => w.kind = .gangJoin) || (u.gang.member && !u.leads)))
    if all.length < (maskMembers t.gang.mask).length || !all.all here then stall .gangJoin
    set (s.rendezvous (all.map (·.index)) fun u => { u.gang with left := 0, member := true })
    throw .leave) s

/-! ### Waits (R385, R386) -/

/-- The messages of a queue that `msg.recv` would take (R385). -/
def Tile.takeable (t : Tile) (q : Nat) : Nat :=
  if q = 4 then (t.xqueue.filter fun m => m.kept.isNone && m.landed).length
  else ((t.queues.get (Fin.ofNat 4 q)).filter fun m => m.kept.isNone).length

/-- `wait.q` (R385). -/
def execWaitQ (d : Reg) (q : BitVec 3) (s : State) : Host.Outcome State Fault Refusal :=
  run {} (.waitQ d q) (do
    if q.toNat > 4 then illegal (.waitQ d q)
    let n := (← curTile).takeable q.toNat
    if n = 0 then stall (.queue q.toNat)
    setX d (word n)) s

/-- `wait.job` (R355, R386). -/
def execWaitJob (d a : Reg) (s : State) : Host.Outcome State Fault Refusal :=
  run {} (.waitJob d a) (do
    let n := (← getX a).toNat
    let t ← curTile
    match t.jobs.find? fun j => j.number = n && t.pollWord n ≠ 15 with
    | none => setX d (t.pollWord n)
    | some j =>
      if !j.ended || j.held then stall (.job n)
      if j.pending then
        onTile (·.clearPending n)
        trap j.errorCause (word n)
      setX d (t.pollWord n)) s

/-! ### The release path (R142, R333, R377) -/

/-- The Send transition of a held cap (R83 step 4, R333): the home never refuses it. -/
def releaseCap (c : Cap) : Act Cap := do
  let s ← get
  let sent (e : DirEntry) (s : State) : Cap :=
    s.sign { c with buffer := BitVec.ofNat 24 e.number, generation := e.generation, depth := BitVec.ofNat 3 e.depth }
  match c.kind, c.mode, s.homeOf c with
  | .remote, .exclusive, some h =>
    let a ← askAnswer 0 c 4 1 0 [1] (.drain 0) true
    let e := DirEntry.ofFields h a.words 0
    modify fun s => s.takeFields h c.buffer.toNat e
    return sent e (← get)
  | .tmem, .exclusive, some h | .cmem, .exclusive, some h | .dmem, .exclusive, some h =>
    orderAll h c.buffer.toNat
    let s ← get
    match s.entry h c.buffer.toNat with
    | none => return c
    | some e =>
      let (b, g, s) := s.bump h e.number fun e => { e with state := .inTransit, owner := s.tile.principal s.device }
      set s
      return sent { e with number := b, generation := g } s
  | _, _, _ => return c

/-- A held message whose next slot is done: the cap as sent stands in it (R333). -/
def Held.sent (h : Held) (c : Cap) : Held :=
  match h.kind with
  | .msg m n => { h with kind := .msg { m with caps := m.caps.set n c } (n + 1) }
  | _ => h

/-- Steps 3 and 4 of R83 for the slots of the first held message that are left, in slot order (R333); one that must wait goes on where it
stopped. -/
def releaseSlots : List Cap → Act Unit
  | [] => pure ()
  | c :: cs => do
    drain c
    let c' ← releaseCap c
    onTile fun t => { t with
      asks := t.asks.filter fun a => !a.held
      releasePath := match t.releasePath with
        | h :: hs => h.sent c' :: hs
        | [] => [] }
    dropIfLast c
    releaseSlots cs

/-- Carry out the first item of the release path (R207, R333, R347); an injection stalls behind its class as a send does (R194). -/
def releaseItem : HeldKind → Act Unit
  | .msg m n => do
    releaseSlots (m.caps.drop n)
    match (← curTile).releasePath with
    | ⟨.msg m _, _, _⟩ :: _ =>
      if m.landing.isNone && (← get).heldBack m then stall .inject
      modify (·.injectMsg m)
    | _ => pure ()
  | .arrive _ l => modify fun s => s.arriveBarrier l
  | .ringPub c => do
    drain c
    modify (·.publishSlot c)
    dropIfLast c
  | .ringDone c => do
    modify (·.releaseSlot c)
    dropIfLast c

/-- The release path of a tile drains and issues its oldest item (R333, R377): while a drain must wait, nothing later moves. -/
def execSidingRelease (tile : Nat) (s : State) : Host.Outcome State Fault Refusal :=
  eventAs tile (do
    let t ← curTile
    match decide (t.index = tile) && !t.parked, t.releasePath with
    | true, h :: _ =>
      releaseItem h.kind
      onTile fun t => { t with releasePath := t.releasePath.drop 1 }
    | _, _ => pure ()) s

end Sys2Proof.Machine
end

