-- ==== Sys2Proof/Machine/Lichen.lean ====
section
/-! DEFINITION. Lichen's services and its disposition of faults, the fault log, fatal faults, the limits of waits, and the
rollback that waits for its level (R76, R182, R236, R237, R261, R262, R373, R374, R388, R408-R416, R443, R451). -/

namespace Sys2Proof.Machine

open Sys2Proof

/-! ### The end of a launch at one of its ranks (R388, R410) -/

/-- Every tile of a launch stops at its next boundary; a stalled instruction is abandoned, and the jobs that it lent are cancelled (R388 steps 2
and 3). -/
def State.stopTiles (s : State) (n : Nat) : State :=
  s.mapTiles (fun t => t.launch = some n) fun t =>
    t.jobs.foldl (fun t j => t.cancel s.device j.number) { t with started := false, wait := none, answer := none, asks := [], lichen := none }

/-- Whether a launch accepts an end by a rank now (R396): a launch that is being parked does not. -/
def Launch.endable (l : Launch) : Bool := l.state = .running || l.state = .reviving

/-- The controller ends a launch as `lnch.done` of a rank (R388 steps 1 and 2); the rank's tile is stopped in any case. At a share
the request goes to the lead in SYS traffic, and the lead stops every share (R407); a request that finds the launch being parked or parked is kept, and
ends it when it is revived (R396). -/
def State.launchDone (s : State) (n rank : Nat) (value : Word) : State :=
  match s.launchAt n with
  | none => s
  | some l =>
    if l.done.isSome then s
    else if !l.endable then
      if l.state = .parking || l.state = .parked then s.mapLaunch n fun l => { l with done := some (rank, value) } else s
    else if l.device = s.device then
      (s.mapLaunch n fun l => { l with done := some (rank, value), state := .ending, ready := [] }).stopTiles n
    else (s.mapLaunch n fun l => { l with done := some (rank, value) }).sendSys l.device 1 [n % 2 ^ 64, rank, value.toNat]

/-! ### The fault log (R411-R414) -/

/-- Release the entry of a task (R412). -/
def Tile.releaseTask (t : Tile) (k : LichenTask) : Tile :=
  match k.entry with
  | some i => t.releaseLog (Fin.ofNat 16 i)
  | none => t

/-- Every 4,096 cycles the tile sends again the copy of each replayable record that the controller has not acknowledged (R412). -/
def execFaultLogResend (tile : Nat) (s : State) : Host.Outcome State Fault Refusal :=
  .next (s.mapTile tile fun t =>
    { t with logCopies := ((List.finRange 16).filter fun i => i.val < 15 && (t.faultLog.get i).cls = 1 && !(t.faultLog.get i).acked).map (·.val) })

/-- The entry of the error summary for a fault log record (R468). -/
def State.recordSummary (s : State) (t : Tile) (e : FaultEntry) (source : Nat) : Summary :=
  { body := [e.wordAt 0, e.wordAt 1, e.wordAt 2, e.wordAt 3], source := source, injected := e.injected,
    endpoint := tileEndpoint s.device t.index, time := s.clock, device := s.device }

/-- Add an entry to the error summary of the launch of a tile (R446, R468). -/
def State.summariseFor (s : State) (t : Tile) (e : Summary) : State :=
  match t.launch with
  | some n => s.mapLaunch n fun l => l.summarise e
  | none => s

/-- The launch controller acknowledges the copy of a record on its way (R412): it adds the record to the error summary once, and an
entry that no trap holds, or that Lichen has released, is free. -/
def execFaultLogAck (tile : Nat) (entry : Nat) (s : State) : Host.Outcome State Fault Refusal :=
  match s.tileAt tile with
  | none => .next s
  | some t =>
    let i : Fin 16 := Fin.ofNat 16 entry
    let e := t.faultLog.get i
    if !t.logCopies.contains entry || e.cls ≠ 1 || e.acked || 15 ≤ entry then .next s
    else
      let s := s.summariseFor t (s.recordSummary t e 0)
      let e' : FaultEntry := if e.trap && !e.released then { e with acked := true } else {}
      .next (s.putTile { t with logCopies := t.logCopies.filter (· ≠ entry), faultLog := t.faultLog.set i.val e' })

/-! ### The fault record (R409) -/

/-- The fault record of a task with its disposition (R409): its destination is the launch's fault rank. -/
def State.faultRecord (s : State) (t : Tile) (k : LichenTask) (disposition : Nat) : Option Msg :=
  match s.launchOf t with
  | none => none
  | some l =>
    let e := (k.entry.map fun i => t.faultLog.get (Fin.ofNat 16 i)).getD {}
    let extra := if k.cause = 24 || k.cause = 25 then t.mcapinfo else if k.cause = 26 then t.waitinfo else 0
    some { sender := t.rank, senderEp := t.principal s.device, senderLaunch := l.number,
           dest := .rank l.number l.record.faultrank, type := 0xFE,
           payload := [word (k.cause + k.level.val * 2 ^ 8 + disposition * 2 ^ 10 + (if k.gang then 2 ^ 12 else 0) + e.sequence * 2 ^ 16),
                       k.pc, k.value, extra, e.time],
           caps := [], counted := false }

/-- Send the fault record of a task (R409): none when backpressure stalls Lichen. The record of a tile that is its own fault rank goes
into its own queue, when there is room, without waking the tile. -/
def State.sendRecord (s : State) (k : LichenTask) (disposition : Nat) : Option State :=
  match s.faultRecord s.tile k disposition with
  | none => some s
  | some m =>
    if m.dest = .rank m.senderLaunch s.tile.rank then
      if s.tile.queueFull m then some s else some { s with tile := s.tile.enqueue { msg := m } }
    else if s.heldBack m then none
    else some (s.injectMsg m)

/-! ### Lichen's services (R261, R262, R451) -/

/-- The service that the current tile asks Lichen for (R261): the number in `a7`. -/
def State.service (s : State) : Option Nat :=
  match s.tile.lichen with
  | some k => if k.cause = 8 then some (s.tile.rx 17).toNat else none
  | none => none

/-- Lichen's return to a place of the caller (R261, R263, R408). -/
def Tile.lichenReturn (t : Tile) (pc : Word) : Tile :=
  { t.mret with pc := pc, lichen := none, hold := .free, wait := none }

/-- The answer of a service (R261): `a0` and, where the service has one, `a1`; then the return after the `ecall`. -/
def serviceAnswer (status : Nat) (result : Option Word) : Act Unit := do
  setX 10 (word status)
  match result with
  | some v => setX 11 v
  | none => pure ()
  onTile fun t => t.lichenReturn (((t.lichen.map (·.pc)).getD t.mepc) + 4)

/-- Run a service when it is the one that the current tile asks for. -/
def serve (n : Nat) (a : Act Unit) (s : State) : Host.Outcome State Fault Refusal :=
  if s.service = some n then finishService (EStateM.run a s) else .next s
where
  /-- What follows when a service ends: a trap inside Lichen is fatal (R415). -/
  finishService : EStateM.Result Stop State Unit → Host.Outcome State Fault Refusal
  | .ok _ s => .next s
  | .error (.trap c v) s => .next (s.takeTrap c v)
  | .error (.fatal c) s => .next (s.fatal c)
  | .error _ s => .next s

/-- Service 0 (R262): the interface version. -/
def execSvcInterfaceVersion (s : State) : Host.Outcome State Fault Refusal := serve 0 (serviceAnswer 0 (some 0x00010000)) s

/-- Service 1 (R262): `mcycle`. -/
def execSvcCycleCount (s : State) : Host.Outcome State Fault Refusal := serve 1 (serviceAnswer 0 (some (s.mcycle s.tile))) s

/-- Service 2 (R262): 64 random bits. -/
def execSvcFreshRandom (s : State) : Host.Outcome State Fault Refusal :=
  serve 2 (do
    let v ← drawWord
    serviceAnswer 0 (some v)) s

/-- Service 3 (R262): a user record in the domain's session log; status 4 inside a region. -/
def execSvcUserRecord (s : State) : Host.Outcome State Fault Refusal :=
  serve 3 (do
    let t ← curTile
    if t.inRegion then serviceAnswer 4 none
    else
      modify fun s => s.postItem t.mdomain 4 1 false (t.launch.getD 0) ([10, 11, 12, 13].map (fun r => (t.rx r).toNat) ++ [t.rank])
      serviceAnswer 0 none) s

/-- Whether service 4 rejects a descriptor (R451). -/
def Tile.rejectsInjection (t : Tile) (v : Word) : Bool :=
  match Injection.ofWord v with
  | none => true
  | some j =>
    let sector := j.target = 1 || j.target = 2 || j.target = 3 || j.target = 8
    let c := t.rc j.reg
    sector && (!j.capOk c || 4 ≤ c.kind.code)

/-- Service 4 (R262, R451): an error injection. -/
def execSvcErrorInjection (s : State) : Host.Outcome State Fault Refusal :=
  serve 4 (do
    let t ← curTile
    let v := t.rx 10
    let allowed := t.mdomain = 0 || ((← get).descriptor t.mdomain).any (·.inject)
    if !allowed then serviceAnswer 2 none
    else if t.rejectsInjection v then serviceAnswer 3 none
    else
      modify (·.inject v)
      serviceAnswer 0 none) s

/-- A service number that no service has (R261, R262): status 1. -/
def unknownService (s : State) : Host.Outcome State Fault Refusal :=
  match s.service with
  | some n => serve n (serviceAnswer 1 none) s
  | none => .next s

/-- The service that the current tile asks for (R262). -/
def runService (s : State) : Host.Outcome State Fault Refusal :=
  match s.service with
  | some 0 => execSvcInterfaceVersion s
  | some 1 => execSvcCycleCount s
  | some 2 => execSvcFreshRandom s
  | some 3 => execSvcUserRecord s
  | some 4 => execSvcErrorInjection s
  | _ => unknownService s

/-! ### Disposition (R408-R410) -/

/-- Skip (R408): the record, the release, and the return to the unit after the faulting one. -/
def State.disposeSkip (s : State) (k : LichenTask) : State :=
  match s.sendRecord k 0 with
  | none => s
  | some s => { s with tile := (s.tile.releaseTask k).lichenReturn (k.pc + (if k.prefixed then 8 else 4)) }

/-- Retry (R408): the record, and the hold until a message wakes the tile; then the release and the return to the faulting unit. -/
def State.disposeRetry (s : State) (k : LichenTask) : State :=
  if k.sent then
    if s.tile.hold = .retry true then { s with tile := (s.tile.releaseTask k).lichenReturn k.pc } else s
  else
    match s.sendRecord k 1 with
    | none => s
    | some s => { s with tile := { s.tile with lichen := some { k with sent := true } } }

/-- Halt the current tile (R431): its trigger groups fire. -/
def State.haltTile (s : State) : State :=
  ({ s with tile := { s.tile with halted := true } }).fire (s.tile.index / 512) (s.tile.mhaltgrp.extractLsb' 16 16)

/-- Halt (R408): the tile halts at the `ebreak` without a record; on resume it goes on after it. -/
def State.disposeHalt (s : State) (k : LichenTask) : State :=
  if k.sent then { s with tile := (s.tile.releaseTask k).lichenReturn (k.pc + 4) }
  else { s with tile := { s.tile with lichen := some { k with sent := true } } }.haltTile

/-- Stop (R408, R410): the record, and the hold until the launch ends; a tile that is its launch's fault rank ends the launch. -/
def State.disposeStop (s : State) (k : LichenTask) : State :=
  match s.sendRecord k 2 with
  | none => s
  | some s =>
    let s := { s with tile := { s.tile with lichen := some { k with sent := true }, hold := .stop } }
    match s.launchOf s.tile with
    | none => s
    | some l => if l.record.faultrank = s.tile.rank then s.launchDone l.number s.tile.rank (word (0xFE00 + k.cause)) else s

/-- Lichen's next act for a tile in it (R261, R408). -/
def dispose (k : LichenTask) (s : State) : Host.Outcome State Fault Refusal :=
  if k.cause = 8 then runService s
  else if k.cause = 27 || (k.cause = 3 && !s.tile.mhaltgrp.getLsbD 32) then .next (s.disposeSkip k)
  else if k.cause = 26 || k.cause = 29 || k.cause = 48 then .next (s.disposeRetry k)
  else if k.cause = 3 then .next (s.disposeHalt k)
  else if s.tile.hold = .stop then
    match s.launchOf s.tile with
    | some l => if l.record.faultrank = s.tile.rank then .next (s.launchDone l.number s.tile.rank (word (0xFE00 + k.cause))) else .next s
    | none => .next s
  else .next (s.disposeStop k)

/-! ### Fatal faults (R415, R416, R443) -/

/-- An error detected at a tile (R415, R443): an uncorrectable one in its state rolls an open region of the current level back (R373), after which the
state is read again (R444), and is fatal with code 64 outside one; one during a rollback is fatal with code 67; a trap in M-mode with code 68. A tile
that a fatal event has stopped parks at a second one (R416). -/
def execFatalFault (tile code : Nat) (s : State) : Host.Outcome State Fault Refusal :=
  if code = 64 || code = 67 || code = 68 then
    eventAs tile (do
      let t ← curTile
      if t.index = tile && !t.parked && !t.gated then
        if t.hold = .fatal then (if code = 64 then modify fun s => s.fatal 64 else pure ())
        else if code = 64 && t.rollbackDue then modify fun s => s.fatal 67
        else if code = 64 && t.mode = .u && t.inRegion then
          modify fun s => { s with tile := { s.tile with failing := some (.tileState tile) } }.startRollback 64
        else if (code = 67 && !t.rollbackDue) || (code = 68 && t.mode ≠ .m) then pure ()
        else modify fun s => s.fatal code) s
  else .next s

/-- The launch controller reads entry 15 of a tile and releases it (R415): it sends the record with disposition 3 on the tile's behalf
and adds the fatal record to the error summary; the tile's cluster is quarantined when its launch ends (R448). -/
def execFatalRecordCollect (tile : Nat) (s : State) : Host.Outcome State Fault Refusal :=
  match s.tileAt tile with
  | none => .next s
  | some t =>
    let e := t.faultLog.get 15
    if e.cls ≠ 2 then .next s
    else
      let s := (s.summariseFor t (s.recordSummary t e 6)).putTile { t with faultLog := t.faultLog.set 15 {} }
      let s := s.mapCluster (clusterOf tile) fun c => { c with fatal := true }
      match s.launchOf t with
      | none => .next s
      | some l =>
        let m : Msg :=
          { sender := t.rank, senderEp := t.principal s.device, senderLaunch := l.number, dest := .rank l.number l.record.faultrank,
            type := 0xFE, caps := [], counted := false,
            payload := [word (e.code + e.level * 2 ^ 8 + 3 * 2 ^ 10 + (if e.gang then 2 ^ 12 else 0) + e.sequence * 2 ^ 16), e.place, e.what, 0, e.time] }
        .next (s.sendMsg m l.record.domain)

/-! ### Limits of waits (R182, R236, R237) -/

/-- What a bounded wait shows at its limit (R237): `mtval`, and `waitinfo`. None for a wait that is not bounded. -/
def State.waitReport (s : State) (k : WaitKind) : Option (Word × Word) :=
  let t := s.tile
  match k with
  | .queue q =>
    let head := t.qHead.toList.getD q 0 % 64
    let tail := t.qTail.toList.getD q 0 % 64
    some (word (1 + q * 256), word (head + tail * 256))
  | .barrier l =>
    let arrivals := ((t.binding l).bind fun b => (s.barrier (t.launch.getD 0) b.domain).map (·.arrivals)).getD 0
    some (word (2 + l.val * 256), word (arrivals * 2 ^ 16))
  | .gangForm _ => some (3, 0)
  | .gangJoin => some (4, 0)
  | .job n | .jobTable n => some (word (5 + n * 2 ^ 16), 0)
  | .lent c => some (word (6 + c.val * 256), 0)
  | .reclaim c => some (word (7 + c.val * 256), 0)
  | _ => none

/-- The answer that a tile has had to the cancel of a reclaim of another device's buffer (R76): 1 when the home has taken the reclaim back. -/
def Tile.cancelAnswer (t : Tile) : Option Ask := t.asks.find? fun a => a.op = 4 && a.key = 17 && !a.held

/-- Whether a pending reclaim is granted, or may be (R76): the home decides a cancel. -/
def State.reclaimReady (s : State) (r : Reg) : Bool :=
  let c := s.tile.rc r
  if c.kind = .remote then
    (s.tile.asks.any fun a => a.op = 4 && a.key = 10 && a.done) ||
      s.tile.cancelAnswer.any fun a => !a.done || a.words.headD 1 = 0
  else match (s.homeOf c).bind fun h => s.entry h c.buffer.toNat with
  | some e => e.generation = c.generation && reclaimable e c
  | none => false

/-- Whether a bounded wait of the current tile has passed the `wlimit` that it read when its count started (R236): a reclaim whose home has become unreachable
waits under R182 instead (R485). -/
def State.waitOver (s : State) : Bool :=
  match s.tile.wait with
  | none => false
  | some w =>
    (s.waitReport w.kind).isSome && w.limit ≠ 0 && w.since + w.limit.toNat ≤ s.clock &&
    (match w.kind with
     | .reclaim r => !s.reclaimReady r && !((s.tile.rc r).kind = .remote && s.peerDown (s.tile.rc r).location.toNat)
     | _ => true)

/-- Whether the current tile waits in a reclaim of another device's buffer that it has not cancelled yet (R76). -/
def State.mustCancel (s : State) : Option Cap :=
  match s.tile.wait.map Wait.kind with
  | some (.reclaim r) =>
    let c := s.tile.rc r
    if c.kind = .remote && s.tile.cancelAnswer.isNone && !s.peerDown c.location.toNat then some c else none
  | _ => none

/-- A bounded wait that passes `wlimit` raises cause 26 (R236, R237); a reclaim under a kind 4 cap sends a cancel first (R76). The wait goes
on while no fault log entry is free (R413). -/
def execWaitLimitExpired (s : State) : Host.Outcome State Fault Refusal :=
  match s.waitOver, s.tile.wait.bind fun w => s.waitReport w.kind with
  | true, some (value, info) => match s.mustCancel with
    | some c => .next (s.sendAsk c 4 17 [17] false)
    | none =>
      if s.tile.canTrap then .next ({ s with tile := { s.tile with waitinfo := info } }.takeTrap 26 value) else .next s
  | _, _ => .next s

/-- The offset of a wait on a translation, of a copy, or of a drain that waits on one (R182). -/
def Tile.waitOffset (t : Tile) : Option (Nat × Nat) :=
  t.wait.bind fun w => match w.kind with
    | .translation off | .reply off | .drain off | .copy off => some (off, w.since)
    | .batch => (t.remotes.head?).map fun r => (r.firstByte, w.since)
    | _ => none

/-- The trap that ends the current tile's wait past F: a copy that a store needs counts as an exhausted pool, cause 29 (R152, R184), any other
wait as a fault, cause 48 (R182). -/
def Tile.waitCause (t : Tile) : Nat := match t.wait.map Wait.kind with
  | some (.copy _) => 29
  | _ => 48

/-- Whether the current tile has waited on a translation past F (R182). -/
def State.faultWaitOver (s : State) : Bool :=
  match s.tile.waitOffset with
  | some (_, since) => since + s.faultWait s.tile ≤ s.clock
  | none => false

/-- An instruction that waits on a translation past F traps with the offset (R182); a send gives its registers back (R84). The wait goes on while
no fault log entry is free (R413). -/
def execFaultWaitExpired (s : State) : Host.Outcome State Fault Refusal :=
  match s.faultWaitOver, s.tile.waitOffset with
  | true, some (off, _) => if s.tile.canTrap then .next (s.unsend.takeTrap s.tile.waitCause (word off)) else .next s
  | _, _ => .next s

/-! ### Rollback (R373, R374) -/

/-- The rollback that waits for the current level runs (R373, R374). -/
def execRollback (s : State) : Host.Outcome State Fault Refusal :=
  if s.tile.rollbackDue then .next s.rollbackRun else .next s

end Sys2Proof.Machine
end

