-- ==== Sys2Proof/Machine/Scan.lean ====
section
/-! DEFINITION. The words in which the debug port's scan paths show the state of sections 0 to 4 that is no register (R420, R434).
The scan map is not in the spec: the order of the words is the model's own (log 41). -/

namespace Sys2Proof.Machine

open Sys2Proof

/-- A way to write data as words and to read it back from the words that begin a list. -/
structure Codec (α : Type) where
  words : α → List Nat
  read : List Nat → α × List Nat

/-- A number, one word of 64 bits. -/
def Codec.nat : Codec Nat := ⟨fun n => [n], fun ws => (ws.headD 0 % 2 ^ 64, ws.tail)⟩

/-- The data that two functions tie to what a codec writes. -/
def Codec.iso {α β : Type} (c : Codec α) (f : α → β) (g : β → α) : Codec β :=
  ⟨fun b => c.words (g b), fun ws => (f (c.read ws).1, (c.read ws).2)⟩

/-- One thing after another. -/
def Codec.pair {α β : Type} (c : Codec α) (d : Codec β) : Codec (α × β) :=
  ⟨fun p => c.words p.1 ++ d.words p.2, fun ws => (((c.read ws).1, (d.read (c.read ws).2).1), (d.read (c.read ws).2).2)⟩

/-- Nothing. -/
def Codec.unit : Codec Unit := ⟨fun _ => [], fun ws => ((), ws)⟩

/-- Bits, at most 64. -/
def Codec.bits (w : Nat) : Codec (BitVec w) := Codec.nat.iso (BitVec.ofNat w) BitVec.toNat

/-- A truth value. -/
def Codec.bool : Codec Bool := Codec.nat.iso (· % 2 = 1) Bool.toNat

/-- A register or another number below a bound. -/
def Codec.fin (n : Nat) [NeZero n] : Codec (Fin n) := Codec.nat.iso (Fin.ofNat n) Fin.val

/-- What may be absent: 0, or 1 and the data. -/
def Codec.opt {α : Type} (c : Codec α) : Codec (Option α) :=
  ⟨fun o => match o with
     | none => [0]
     | some a => 1 :: c.words a,
   fun ws => if ws.headD 0 = 0 then (none, ws.tail) else (some (c.read ws.tail).1, (c.read ws.tail).2)⟩

/-- Read n things. -/
def Codec.many {α : Type} (c : Codec α) : Nat → List Nat → List α × List Nat
  | 0, ws => ([], ws)
  | n + 1, ws => ((c.read ws).1 :: (c.many n (c.read ws).2).1, (c.many n (c.read ws).2).2)

/-- A list: its length, then its entries. No more entries are read than words are left. -/
def Codec.list {α : Type} (c : Codec α) : Codec (List α) :=
  ⟨fun l => l.length :: l.flatMap c.words, fun ws => c.many (min (ws.headD 0) ws.tail.length) ws.tail⟩

/-- A fixed number of entries; those that are missing hold `d`. -/
def Codec.vec {α : Type} (c : Codec α) (n : Nat) (d : α) : Codec (Vector α n) :=
  c.list.iso (fun l => Vector.ofFn fun i => l.getD i.val d) Vector.toList

/-- One alternative of a type: the words of the values that are of it. -/
structure Alt (α : Type) where
  words : α → Option (List Nat)
  read : List Nat → α × List Nat

/-- An alternative with data. -/
def Codec.alt {α β : Type} (c : Codec α) (f : α → β) (g : β → Option α) : Alt β :=
  ⟨fun b => (g b).map c.words, fun ws => (f (c.read ws).1, (c.read ws).2)⟩

/-- An alternative without data. -/
def Alt.one {α : Type} [DecidableEq α] (a : α) : Alt α := ⟨fun b => if b = a then some [] else none, fun ws => (a, ws)⟩

/-- A type by its alternatives: the number of the alternative, then its data. -/
def Codec.sum {α : Type} (d : Alt α) (alts : List (Alt α)) : Codec α :=
  ⟨fun a => (((d :: alts).zipIdx).findSome? fun p => (p.1.words a).map fun ws => p.2 :: ws).getD [],
   fun ws => ((d :: alts).getD (ws.headD 0) d).read ws.tail⟩

open Codec

/-! ### The data of a tile -/

def Codec.word : Codec Word := bits 64
def Codec.bytes : Codec (List Byte) := (bits 8).list
def Codec.reg : Codec Reg := fin 32
def Codec.level : Codec Level := fin 4
def Codec.two : Codec (Nat × Nat) := nat.pair nat
def Codec.three : Codec (Nat × Nat × Nat) := nat.pair two

/-- Bits of a long register, 64 a word. -/
def Codec.wide (w : Nat) : Codec (BitVec w) :=
  (nat.vec ((w + 63) / 64) 0).iso
    (fun v => BitVec.ofNat w (v.toList.zipIdx.foldl (fun n p => n + p.1 * 2 ^ (64 * p.2)) 0))
    (fun b => Vector.ofFn fun i => b.toNat / 2 ^ (64 * i.val) % 2 ^ 64)

def Codec.kind : Codec CapKind := nat.iso CapKind.ofCode CapKind.code

/-- A cap, in its four words (R53). -/
def Codec.cap : Codec Cap :=
  (nat.pair three).iso (fun (a, b, c, d) => Cap.ofWords a b c d)
    fun c => (c.words.getD 0 0, c.words.getD 1 0, c.words.getD 2 0, c.words.getD 3 0)

def Codec.home : Codec HomeId :=
  sum (nat.alt .tile fun | .tile i => some i | _ => none)
    [nat.alt .cluster fun | .cluster i => some i | _ => none, nat.alt .die fun | .die i => some i | _ => none,
     nat.alt .remote fun | .remote i => some i | _ => none]

def Codec.dest : Codec Dest :=
  sum (nat.alt .endpoint fun | .endpoint e => some e | _ => none)
    [two.alt (fun (l, r) => .rank l r) fun | .rank l r => some (l, r) | _ => none]

def Codec.msg : Codec Msg :=
  (nat.pair <| nat.pair <| nat.pair <| dest.pair <| (bits 8).pair <| word.list.pair <| cap.list.pair <| (bits 2).pair <| (bits 2).list.pair <|
    bool.pair <| (nat.pair bytes).opt.pair <| nat.list.pair <| nat.pair <| bool.pair bool).iso
    (fun (a, b, c, d, e, f, g, h, i, j, k, l, m, n, o) => ⟨a, b, c, d, e, f, g, h, i, j, k, l, m, n, o⟩)
    fun ⟨a, b, c, d, e, f, g, h, i, j, k, l, m, n, o⟩ => (a, b, c, d, e, f, g, h, i, j, k, l, m, n, o)

def Codec.qmsg : Codec QMsg :=
  (msg.pair <| nat.opt.pair <| bool.pair nat.list).iso (fun (a, b, c, d) => ⟨a, b, c, d⟩) fun ⟨a, b, c, d⟩ => (a, b, c, d)

def Codec.heldKind : Codec HeldKind :=
  sum ((msg.pair nat).alt (fun (m, n) => .msg m n) fun | .msg m n => some (m, n) | _ => none)
    [(nat.pair level).alt (fun (d, l) => .arrive d l) fun | .arrive d l => some (d, l) | _ => none,
     cap.alt .ringPub fun | .ringPub c => some c | _ => none, cap.alt .ringDone fun | .ringDone c => some c | _ => none]

def Codec.held : Codec Held := (heldKind.pair <| level.pair nat).iso (fun (a, b, c) => ⟨a, b, c⟩) fun ⟨a, b, c⟩ => (a, b, c)

def Codec.ask : Codec Ask :=
  (nat.pair <| nat.pair <| nat.pair <| nat.pair <| (bits 16).pair <| nat.pair <| bool.pair <| nat.opt.pair <| word.list.pair <| word.list.pair <|
    bool.pair <| nat.pair <| bool.pair <| nat.pair bool).iso
    (fun (a, b, c, d, e, f, g, h, i, j, k, l, m, n, o) => ⟨a, b, c, d, e, f, g, h, i, j, k, l, m, n, o⟩)
    fun ⟨a, b, c, d, e, f, g, h, i, j, k, l, m, n, o⟩ => (a, b, c, d, e, f, g, h, i, j, k, l, m, n, o)

def Codec.sending : Codec Sending :=
  (msg.pair <| reg.list.pair cap.list).iso (fun (a, b, c) => ⟨a, b, c⟩) fun ⟨a, b, c⟩ => (a, b, c)

def Codec.jobStatus : Codec JobStatus :=
  sum (.one .queued) ([.running, .auditing, .done, .cancelled, .shadowExhausted, .translationFault, .homeRefused, .auditMismatch, .rolledBack].map Alt.one)

def Codec.jobKind : Codec JobKind :=
  sum (nat.alt .zero fun | .zero a => some a | _ => none)
    [(nat.pair <| bool.pair <| nat.pair <| bool.pair <| cap.pair cap).alt (fun (a, b, c, d, e, f) => .mma a b c d e f)
       fun | .mma a b c d e f => some (a, b, c, d, e, f) | _ => none,
     (nat.pair <| bool.pair <| cap.pair nat).alt (fun (a, b, c, d) => .load a b c d) fun | .load a b c d => some (a, b, c, d) | _ => none,
     (nat.pair <| bool.pair <| cap.pair <| nat.pair <| (bits 4).pair word).alt (fun (a, b, c, d, e, f) => .out a b c d e f)
       fun | .out a b c d e f => some (a, b, c, d, e, f) | _ => none,
     (cap.pair <| cap.pair nat).alt (fun (a, b, c) => .copy a b c) fun | .copy a b c => some (a, b, c) | _ => none]

def Codec.job : Codec Job :=
  (nat.pair <| jobKind.pair <| jobStatus.pair <| nat.pair <| bool.pair <| (level.pair nat).opt.pair <| nat.pair <| nat.pair <|
    (level.pair reg).list.pair <| bool.pair <| jobStatus.opt.pair <| nat.opt.pair <| (kind.pair <| nat.pair <| nat.pair (bits 16)).list.pair <|
    bool.pair <| bool.pair <| bool.pair <| nat.pair <| nat.pair <| three.list.pair <| bool.pair <| nat.pair ask.list).iso
    (fun (a, b, c, d, e, f, g, h, i, j, k, l, m, n, o, p, q, r, s, t, u, v) => ⟨a, b, c, d, e, f, g, h, i, j, k, l, m, n, o, p, q, r, s, t, u, v⟩)
    fun ⟨a, b, c, d, e, f, g, h, i, j, k, l, m, n, o, p, q, r, s, t, u, v⟩ => (a, b, c, d, e, f, g, h, i, j, k, l, m, n, o, p, q, r, s, t, u, v)

def Codec.loop : Codec LoopState :=
  (word.pair <| word.pair <| word.pair <| level.pair <| word.opt.pair <| word.opt.pair word.opt).iso
    (fun (a, b, c, d, e, f, g) => ⟨a, b, c, d, e, f, g⟩) fun ⟨a, b, c, d, e, f, g⟩ => (a, b, c, d, e, f, g)

def Codec.update : Codec UpdateLine :=
  (home.pair <| nat.pair <| (bits 16).pair <| (bits 5).pair <| nat.pair <| word.opt.list.pair <| ((bits 2).pair nat).list.pair <| (bits 16).pair nat).iso
    (fun (a, b, c, d, e, f, g, h, i) => ⟨a, b, c, d, e, f, g, h, i⟩) fun ⟨a, b, c, d, e, f, g, h, i⟩ => (a, b, c, d, e, f, g, h, i)

def Codec.sectorState : Codec SectorState := sum (.one .invalid) [.one .partl, .one .valid]

def Codec.sector : Codec Sector :=
  (sectorState.pair <| bytes.pair <| word.pair <| bool.pair <| bool.pair <| word.pair word).iso
    (fun (a, b, c, d, e, f, g) => ⟨a, b, c, d, e, f, g⟩) fun ⟨a, b, c, d, e, f, g⟩ => (a, b, c, d, e, f, g)

def Codec.l1Line : Codec L1Line :=
  (kind.pair <| nat.pair <| nat.pair <| (bits 16).pair <| nat.pair <| nat.pair <| update.opt.pair <| (level.pair nat).opt.pair <| bool.pair sector.list).iso
    (fun (a, b, c, d, e, f, g, h, i, j) => ⟨a, b, c, d, e, f, g, h, i, j⟩) fun ⟨a, b, c, d, e, f, g, h, i, j⟩ => (a, b, c, d, e, f, g, h, i, j)

def Codec.iLine : Codec ILine :=
  (kind.pair <| nat.pair <| nat.pair <| (bits 16).pair <| nat.pair <| bytes.pair two.list).iso
    (fun (a, b, c, d, e, f, g) => ⟨a, b, c, d, e, f, g⟩) fun ⟨a, b, c, d, e, f, g⟩ => (a, b, c, d, e, f, g)

def Codec.vreg : Codec VReg :=
  ((wide 1024).pair <| (bits 16).pair (bits 48)).iso (fun (a, b, c) => ⟨a, b, c⟩) fun ⟨a, b, c⟩ => (a, b, c)

def Codec.saved : Codec Saved :=
  sum ((reg.pair word).alt (fun (r, v) => .x r v) fun | .x r v => some (r, v) | _ => none)
    [(reg.pair vreg).alt (fun (r, v) => .v r v) fun | .v r v => some (r, v) | _ => none,
     (reg.pair cap).alt (fun (r, v) => .c r v) fun | .c r v => some (r, v) | _ => none,
     ((bits 12).pair word).alt (fun (r, v) => .csr r v) fun | .csr r v => some (r, v) | _ => none,
     loop.alt .loop fun | .loop l => some l | _ => none,
     (nat.pair <| (nat.pair (bits 8)).list.opt.pair <| word.pair word).alt (fun (a, b, c, d) => .acc a b c d)
       fun | .acc a b c d => some (a, b, c, d) | _ => none,
     l1Line.alt .line fun | .line l => some l | _ => none]

def Codec.region : Codec Region :=
  (reg.pair <| word.pair <| nat.pair <| word.pair <| nat.pair <| nat.pair <| saved.list.pair <| nat.pair three.list).iso
    (fun (a, b, c, d, e, f, g, h, i) => ⟨a, b, c, d, e, f, g, h, i⟩) fun ⟨a, b, c, d, e, f, g, h, i⟩ => (a, b, c, d, e, f, g, h, i)

def Codec.waitKind : Codec WaitKind :=
  sum (.one .wfi)
    ([.early, .gangJoin, .inject, .answer, .park, .xchBegin, .xchEnd, .release, .batch, .foldHeld, .faultLog].map Alt.one ++
     [nat.alt .queue fun | .queue q => some q | _ => none, level.alt .barrier fun | .barrier l => some l | _ => none,
      (bits 8).alt .gangForm fun | .gangForm m => some m | _ => none, nat.alt .job fun | .job n => some n | _ => none,
      reg.alt .lent fun | .lent c => some c | _ => none, reg.alt .reclaim fun | .reclaim c => some c | _ => none,
      nat.alt .translation fun | .translation n => some n | _ => none, nat.alt .reply fun | .reply n => some n | _ => none,
      nat.alt .drain fun | .drain n => some n | _ => none, nat.alt .copy fun | .copy n => some n | _ => none,
      nat.alt .jobTable fun | .jobTable n => some n | _ => none])

def Codec.wait : Codec Wait :=
  (waitKind.pair <| nat.pair <| (bits 48).pair bool).iso (fun (a, b, c, d) => ⟨a, b, c, d⟩) fun ⟨a, b, c, d⟩ => (a, b, c, d)

def Codec.hold : Codec Hold :=
  sum (.one .free) [bool.alt .retry fun | .retry b => some b | _ => none, .one .stop, .one .fatal]

def Codec.lichenTask : Codec LichenTask :=
  (nat.pair <| word.pair <| word.pair <| level.pair <| bool.pair <| bool.pair <| nat.opt.pair bool).iso
    (fun (a, b, c, d, e, f, g, h) => ⟨a, b, c, d, e, f, g, h⟩) fun ⟨a, b, c, d, e, f, g, h⟩ => (a, b, c, d, e, f, g, h)

def Codec.phase : Codec Phase :=
  (nat.pair <| nat.pair <| nat.pair <| reg.opt.pair nat).iso (fun (a, b, c, d, e) => ⟨a, b, c, d, e⟩) fun ⟨a, b, c, d, e⟩ => (a, b, c, d, e)

def Codec.gang : Codec Gang :=
  ((bits 8).pair <| (bits 8).pair <| nat.pair <| nat.pair <| bool.pair word.opt).iso
    (fun (a, b, c, d, e, f) => ⟨a, b, c, d, e, f⟩) fun ⟨a, b, c, d, e, f⟩ => (a, b, c, d, e, f)

def Codec.binding : Codec Binding := (nat.pair <| nat.opt.pair nat.opt).iso (fun (a, b, c) => ⟨a, b, c⟩) fun ⟨a, b, c⟩ => (a, b, c)

def Codec.grant : Codec Grant :=
  (home.pair <| nat.pair <| (bits 16).pair nat).iso (fun (a, b, c, d) => ⟨a, b, c, d⟩) fun ⟨a, b, c, d⟩ => (a, b, c, d)

def Codec.batch : Codec Batch := (nat.pair <| word.pair nat.list).iso (fun (a, b, c) => ⟨a, b, c⟩) fun ⟨a, b, c⟩ => (a, b, c)

def Codec.remote : Codec Remote :=
  (nat.pair <| nat.list.pair <| nat.pair <| nat.pair <| nat.pair <| (bits 16).pair <| (bits 16).pair <| nat.pair <| nat.pair <|
    (nat.pair <| nat.pair (bits 8)).list.pair <| update.opt.pair <| nat.pair <| two.list.pair <| bool.pair nat.list).iso
    (fun (a, b, c, d, e, f, g, h, i, j, k, l, m, n, o) => ⟨a, b, c, d, e, f, g, h, i, j, k, l, m, n, o⟩)
    fun ⟨a, b, c, d, e, f, g, h, i, j, k, l, m, n, o⟩ => (a, b, c, d, e, f, g, h, i, j, k, l, m, n, o)

def Codec.dirState : Codec DirState := nat.iso DirState.ofCode DirState.code

def Codec.reqKind : Codec ReqKind :=
  sum (two.alt (fun (a, b) => .load a b) fun | .load a b => some (a, b) | _ => none)
    [((nat.pair (bits 8)).list.pair <| nat.list.pair nat.list).alt (fun (a, b, c) => .store a b c) fun | .store a b c => some (a, b, c) | _ => none,
     update.alt .merge fun | .merge l => some l | _ => none,
     (dirState.pair (bits 5)).alt (fun (a, b) => .notice a b) fun | .notice a b => some (a, b) | _ => none]

def Codec.request : Codec Request :=
  (nat.pair <| nat.pair <| nat.pair <| home.pair <| nat.pair <| (bits 16).pair <| (bits 16).pair <| reqKind.pair <| cap.opt.pair <| two.opt.pair <|
    (nat.pair word).pair bool).iso
    (fun (a, b, c, d, e, f, g, h, i, j, k, l) => ⟨a, b, c, d, e, f, g, h, i, j, k, l⟩)
    fun ⟨a, b, c, d, e, f, g, h, i, j, k, l⟩ => (a, b, c, d, e, f, g, h, i, j, k, l)

def Codec.dirEntry : Codec DirEntry :=
  (home.pair <| nat.pair <| nat.pair <| nat.pair <| dirState.pair <| (bits 5).pair <| (bits 4).pair <| nat.pair <| nat.opt.pair <| (bits 16).pair <|
    nat.pair <| nat.pair <| (bits 16).pair <| nat.pair <| bool.pair <| nat.pair bool).iso
    (fun (a, b, c, d, e, f, g, h, i, j, k, l, m, n, o, p, q) => ⟨a, b, c, d, e, f, g, h, i, j, k, l, m, n, o, p, q⟩)
    fun ⟨a, b, c, d, e, f, g, h, i, j, k, l, m, n, o, p, q⟩ => (a, b, c, d, e, f, g, h, i, j, k, l, m, n, o, p, q)

def Codec.levelRecord : Codec LevelRecord :=
  (home.pair <| nat.pair <| nat.pair <| bool.pair <| nat.pair <| nat.pair <| nat.pair <| nat.pair <| nat.pair <| nat.pair <| nat.pair <|
    level.pair nat).iso
    (fun (a, b, c, d, e, f, g, h, i, j, k, l, m) => ⟨a, b, c, d, e, f, g, h, i, j, k, l, m⟩)
    fun ⟨a, b, c, d, e, f, g, h, i, j, k, l, m⟩ => (a, b, c, d, e, f, g, h, i, j, k, l, m)

def Codec.lineCopy : Codec LineCopy :=
  (home.pair <| nat.pair <| nat.pair <| nat.pair <| bytes.pair bool.list).iso
    (fun (a, b, c, d, e, f) => ⟨a, b, c, d, e, f⟩) fun ⟨a, b, c, d, e, f⟩ => (a, b, c, d, e, f)

def Codec.poisonMark : Codec PoisonMark := (nat.pair word).iso (fun (a, b) => ⟨a, b⟩) fun ⟨a, b⟩ => (a, b)

/-! ### The fields -/

/-- The words of a field, and the state with the field that a list of words gives. -/
def Codec.on {α : Type} (c : Codec α) (value : α) (put : α → State) : List Nat × (List Nat → State) :=
  (c.words value, fun ws => put (c.read ws).1)

/-- The part of a list that is a tile's, taken out and put in. -/
def Codec.part {α : Type} (c : Codec α) (l : List α) (mine : α → Bool) (put : List α → State) : List Nat × (List Nat → State) :=
  c.list.on (l.filter mine) fun v => put (l.filter (fun a => !mine a) ++ v)

/-- The words of a field of a tile, and the state in which other words stand in it (R420, R434). -/
def State.scanField (s : State) (t : Tile) : ScanField → List Nat × (List Nat → State)
  | .gang => gang.on t.gang fun v => s.putTile { t with gang := v }
  | .loopPending => (Codec.word.opt.pair <| Codec.word.opt.pair Codec.word.opt).on (t.loop.pendStart, t.loop.pendStop, t.loop.pendCount)
      fun v => s.putTile { t with loop := { t.loop with pendStart := v.1, pendStop := v.2.1, pendCount := v.2.2 } }
  | .hold => Codec.hold.on t.hold fun v => s.putTile { t with hold := v }
  | .lichen => lichenTask.opt.on t.lichen fun v => s.putTile { t with lichen := v }
  | .wait => wait.opt.on t.wait fun v => s.putTile { t with wait := v }
  | .halted => bool.on t.halted fun v => s.putTile { t with halted := v }
  | .phase => phase.opt.on t.phase fun v => s.putTile { t with phase := v }
  | .queue q => qmsg.list.on (t.queues.get q) fun v => s.putTile { t with queues := t.queues.set q.val v }
  | .exchangeQueue => qmsg.list.on t.xqueue fun v => s.putTile { t with xqueue := v }
  | .pointers => ((nat.vec 5 0).pair (nat.vec 5 0)).on (t.qHead, t.qTail) fun v => s.putTile { t with qHead := v.1, qTail := v.2 }
  | .siding => held.list.on t.siding fun v => s.putTile { t with siding := v }
  | .releasePath => held.list.on t.releasePath fun v => s.putTile { t with releasePath := v }
  | .sending => sending.opt.on t.sending fun v => s.putTile { t with sending := v }
  | .asks => ask.list.on t.asks fun v => s.putTile { t with asks := v }
  | .batches => (batch.vec 4 {}).on t.batches fun v => s.putTile { t with batches := v }
  | .jobs => job.list.on t.jobs fun v => s.putTile { t with jobs := v }
  | .regions l => region.list.on (t.regions.get l) fun v => s.putTile { t with regions := t.regions.set l.val v }
  | .barriers => (binding.opt.vec 4 none).on t.barriers fun v => s.putTile { t with barriers := v }
  | .grants => grant.list.on t.grants fun v => s.putTile { t with grants := v }
  | .l1 => l1Line.list.on t.l1 fun v => s.putTile { t with l1 := v }
  | .icache => iLine.list.on t.icache fun v => s.putTile { t with icache := v }
  | .remotes => remote.list.on t.remotes fun v => s.putTile { t with remotes := v }
  | .writeBacks => Codec.request.part s.requests (fun r => r.remote.isNone && r.tile = t.index) fun v => { s with requests := v }
  | .directory => dirEntry.part s.dirs (fun e => e.home = .tile t.index) fun v => { s with dirs := v }
  | .tags => poisonMark.part s.poison (fun m => (Space.tmem t.index).base ≤ m.sector * 64 && m.sector * 64 < (Space.tmem (t.index + 1)).base)
      fun v => { s with poison := v }
  | .levels => levelRecord.part s.levels (fun l => l.home = .tile t.index) fun v => { s with levels := v }
  | .copies => lineCopy.part s.copies (fun c => c.home = .tile t.index) fun v => { s with copies := v }

end Sys2Proof.Machine
end

