-- ==== Sys2Proof/Machine/Spore.lean ====
section
/-! DEFINITION. Parks, spores, revives, halt groups and the debug port (R52, R62, R126, R203, R389, R416-R434). -/

namespace Sys2Proof.Machine

open Sys2Proof

/-! ### The spore header and its tag (R420, R424) -/

/-- The first twelve words of a spore header, header bits 767:0 (R420, R424). -/
def Spore.header (p : Spore) : List Nat :=
  let bit (b : Bool) (n : Nat) : Nat := if b then 2 ^ n else 0
  [p.version + p.kind * 2 ^ 16 + p.tiles.length * 2 ^ 20 + bit p.sealed 24 + bit p.idle 25 + bit p.dfatal 26 + bit p.held 27 +
     bit p.halted 28 + p.revision.toNat * 2 ^ 32,
   p.scanhash.toNat, p.domain.toNat + p.counter % 2 ^ 32 * 2 ^ 32, p.counter / 2 ^ 32 % 2 ^ 32 + p.launch % 2 ^ 32 * 2 ^ 32,
   p.launch / 2 ^ 32 % 2 ^ 32 + p.rank % 2 ^ 30 * 2 ^ 32, p.endpoint % 2 ^ 32,
   p.sent % 2 ^ 64, p.received % 2 ^ 64] ++
  (List.range 4).map fun i => p.lengths.getD (2 * i) 0 % 2 ^ 32 + p.lengths.getD (2 * i + 1) 0 % 2 ^ 32 * 2 ^ 32

/-- The last four words of a spore header: the tag and its reserved word (R420). -/
def Spore.trailer (p : Spore) : List Nat := [p.tag.toNat % 2 ^ 64, p.tag.toNat / 2 ^ 64, 0, 0]

/-- The key under which the spores of a domain are sealed, or the device's spore key (R424, R471). -/
def State.sporeKey (s : State) (isSealed : Bool) (domain : BitVec 16) : Nat :=
  if isSealed then Config.deriveKey (((s.descriptor domain).map (·.secret)).getD 0) [1, domain.toNat]
  else Config.deriveKey 0 [2, s.device]

/-- The authentication tag of a spore (R424): over header bits 767:0 and every section as it lies in the save area, with the counter and 32 zero
bits as IV. -/
def State.sporeTag (s : State) (isSealed : Bool) (domain : BitVec 16) (counter : Nat) (header : List Nat) (body : List Byte) : BitVec 128 :=
  Config.tag (s.sporeKey isSealed domain) (counter * 2 ^ 32) (header.flatMap (leBytes 8) ++ body)

/-- Write bytes at a device virtual address of the system window, where its pages are mapped (R420, R425). -/
def State.writeWindow (s : State) (va : Nat) (bytes : List Byte) : State :=
  { s with mem := (bytes.zipIdx).foldl (fun m p => match s.frameOf (va + p.2) with
      | some pa => m.write (hbmKey pa) p.1
      | none => m) s.mem }

/-- Bytes of the system window; an unmapped page reads 0 (log 41). -/
def State.readWindow (s : State) (va n : Nat) : List Byte :=
  (List.range n).map fun i => ((s.frameOf (va + i)).map fun pa => s.mem.read (hbmKey pa)).getD 0

/-! ### The sections (R420, R421) -/

/-- Zero bytes up to a whole number of 256-byte units (R420). -/
def padUnits (bs : List Byte) : List Byte := bs ++ List.replicate ((bs.length + 255) / 256 * 256 - bs.length) 0

/-- Packets of a virtual network that a tile's park buffer has absorbed (R421): messages, and replies in VN6. -/
def Tile.absorbed (t : Tile) (vn : Nat) : Nat :=
  (t.parkBuffer.filter fun m => t.networkOf m = vn).length + (if vn = 6 then t.parkReplies.length else 0)

/-- The record of a virtual network of a tile in section 5 (R421), as two words; the credits, which no rule counts, are a free value (log 6). -/
def State.vnRecord (s : State) (t : Tile) (vn : Nat) : List Nat :=
  let c := t.vnCounts.toList.getD vn (0, 0)
  [c.1 % 2 ^ 32 + c.2 % 2 ^ 32 * 2 ^ 32,
   t.absorbed vn % 2 ^ 16 + (Config.freeValue (s.draws + 8 + 7 * (t.index % 8) + vn)).toNat % 2 ^ 8 * 2 ^ 16]

/-- The redirect table of a tile in section 5 (R421), of the requests outstanding at the stop: its write-backs, folds and notices await
acknowledgements, its reads data. -/
def State.redirects (s : State) (requests : List Request) (t : Tile) : List (Nat × Nat × Bool) :=
  (((requests.filter fun r => r.tile = t.index).map fun r => (r.serial, s.homeEndpoint r.home, false)) ++
  (t.remotes.map fun m => (m.serial, dmemHomeEndpoint m.device (m.buffer % 4), false)) ++
  ((t.asks.filter fun a => !a.done).map fun a => (a.serial, dmemHomeEndpoint a.device (a.buffer % 4), decide (a.op = 1)))).take 64

/-- A redirect entry as a word (log 41): the serial, the destination endpoint, and bit 56 for one that awaits data. -/
def redirectWord (e : Nat × Nat × Bool) : Nat := e.1 % 2 ^ 24 + e.2.1 % 2 ^ 32 * 2 ^ 24 + e.2.2.toNat * 2 ^ 56

/-- Section 5 (R421): the records of every tile, then the redirect table. -/
def Spore.fifth (p : Spore) : List Byte :=
  padUnits (((p.records.flatten ++ p.redirects.map redirectWord)).flatMap (leBytes 8))

/-- The eight sections of a spore (R420): section 6 is a cluster's, section 7 holds what the park buffers absorbed. Their content but for section 5
is laid out by the scan map, which the spec does not give: lengths and bytes are free values (log 41). -/
def State.sporeSections (s : State) (p : Spore) : List (List Byte) :=
  (List.range 8).map fun n =>
    if n = 5 then p.fifth
    else if (n = 6 && p.kind ≠ 2) || (n = 7 && p.tiles.all fun t => t.parkBuffer.isEmpty && t.parkReplies.isEmpty) then []
    else (List.range (256 * ((Config.freeValue (s.draws + n)).toNat % 2 ^ 32))).map (Config.sporeByte (s.draws + n))

/-- The sections as they lie in the save area (R424): those of a sealed domain are encrypted. -/
def State.sporeBody (s : State) (p : Spore) (sections : List (List Byte)) : List Byte :=
  if p.sealed then Config.cipher (s.sporeKey true p.domain) (p.counter * 2 ^ 32) sections.flatten else sections.flatten

/-! ### Parks (R389, R417) -/

/-- The tiles that a park stops (R203, R417): the cluster's for k = 1, the members of a gang, else the tile. -/
def State.parkSet (s : State) (t : Tile) (k : Bool) : List Nat :=
  if k then (List.range 8).map (clusterOf t.index * 8 + ·)
  else s.gangSet t

/-- The tile of this device that an endpoint names, if any. -/
def State.endpointHere (s : State) (e : Nat) : Option Tile :=
  if e / 2 ^ 13 = s.device then (endpointTile e).bind s.tileAt else none

/-- Whether the target of a park is already parked or parking (R417). -/
def State.parkBusy (s : State) (set : List Nat) (t : Tile) (k : Bool) : Bool :=
  (set.any fun i => (s.tileAt i).any (·.parked)) || (k && (s.clusterAt (clusterOf t.index)).any (·.stopped))

/-- The checks of a park (R417): the tile and the set, or the status. -/
def State.parkCheck (s : State) (e : Nat) (k : Bool) (area : Nat) : Except Nat (Tile × List Nat) :=
  match s.endpointHere e with
  | none => .error 8
  | some t =>
    if !validArea area then .error 2
    else if s.parkBusy (s.parkSet t k) t k then .error 1
    else .ok (t, s.parkSet t k)

/-- Stop the clocks of a park's set (R417, R418); the spore is written later, and `requester` waits for it. -/
def State.park (s : State) (t : Tile) (set : List Nat) (k : Bool) (area : Nat) (requester : Option Nat) : State :=
  let s := s.stopSet set
  let s := if k then s.mapCluster (clusterOf t.index) fun c => { c with stopped := true } else s
  let tiles := set.filterMap s.tileAt
  let kind := if k then 2 else if set.length > 1 then 1 else 0
  { s with spores := s.spores ++ [s.capture tiles kind area false requester] }

/-- Whether the park that a tile asked for is not yet complete (R417). -/
def State.parkPending (s : State) (i : Nat) : Bool := s.spores.any fun p => p.requester = some i && !p.out

/-- Write the status of a park or revive into its register and `mspore` (R389, R425). -/
def sporeStatus (d : Reg) (status : Nat) : Act Unit := do
  setX d (word status)
  onTile fun t => { t with sporeStatus := BitVec.ofNat 8 status }

/-- `sys.park` (R389, R417). -/
def execSysPark (d a : Reg) (k : BitVec 1) (s : State) : Host.Outcome State Fault Refusal :=
  run {} (.sysPark d a k) (do
    let e ← getX a
    let s ← get
    let t := s.tile
    if t.mode = .u then illegal (.sysPark d a k)
    match t.answer with
    | some v => sporeStatus d v.toNat
    | none =>
      if s.parkPending t.index then stall .park
      match s.parkCheck e.toNat (k = 1) t.sporeArea.toNat with
      | .error status => sporeStatus d status
      | .ok (u, set') =>
        if set'.contains t.index then
          sporeStatus d 0
          onTile (·.retire)
          modify fun s => s.park u set' (k = 1) t.sporeArea.toNat none
          throw .leave
        else
          modify fun s => s.park u set' (k = 1) t.sporeArea.toNat (some t.index)
          stall .park) s

/-- A launch controller parks a tile or a cluster through the management port (R417): the status goes to it, that of a park that is carried out when the
spore is out. -/
def execManagementPark (endpoint : Nat) (k : BitVec 1) (area : BitVec 48) (s : State) : Host.Outcome State Fault Refusal :=
  match s.parkCheck endpoint (k = 1) area.toNat with
  | .error status => .next { s with station := word status :: s.station }
  | .ok (t, set) =>
    let s' := s.park t set (k = 1) area.toNat none
    .next { s' with spores := s.spores ++ (s'.spores.drop s.spores.length).map fun p => { p with managed := true } }

/-! ### The spore is out (R420, R423, R424, R429) -/

/-- A domain-0 DMEM cap of Lichen's (R456): the four numbers of its place from `i` on. -/
def lichenCap (device i : Nat) (mode : CapMode) (write : Bool) (weight : Nat) : Cap :=
  Cap.signOn { base := BitVec.ofNat 48 (Config.systemWindow + Config.lichenPlace i), length := BitVec.ofNat 40 (Config.lichenPlace (i + 1)),
               kind := .dmem, location := BitVec.ofNat 20 device, rights := { r := true, w := write }, mode := mode,
               buffer := BitVec.ofNat 24 (Config.lichenPlace (i + 2)), generation := BitVec.ofNat 16 (Config.lichenPlace (i + 3)),
               weight := BitVec.ofNat 17 weight } device

/-- A tile after a warm reset (R59, R191, R457): what the spec does not list holds its reset value, and Lichen's two caps are loaded; physical
counts and unreleased fault records stay. -/
def Tile.warm (t : Tile) (device now : Nat) : Tile :=
  { Tile.reset t.index with
    mdomain := t.mdomain, corrected := t.corrected, lichenShare := lichenCap device 0 .exec false 0,
    lichenData := lichenCap device 4 .exclusive true 65536,
    mtvec := t.mtvec, mscratch := t.mscratch, cycleOff := 0 - word now,
    faultLog := t.faultLog.map fun e => if e.cls = 1 && !e.acked then { e with released := true } else if e.cls = 2 then e else {},
    logCopies := t.logCopies, faultSeq := t.faultSeq }

/-- Whether a key lies in the arrays of a cluster: its TMEMs, CMEM and accumulators. -/
def inCluster (k key : Nat) : Bool :=
  ((Space.tmem (8 * k)).base ≤ key && key < (Space.tmem (8 * k + 8)).base) ||
  ((Space.cmem k).base ≤ key && key < (Space.cmem (k + 1)).base) ||
  ((Space.acc k).base ≤ key && key < (Space.acc (k + 1)).base)

/-- Whether a home is one of a cluster's. -/
def HomeId.inCluster (k : Nat) : HomeId → Bool
  | .tile i => clusterOf i = k
  | .cluster c => c = k
  | _ => false

/-- A cluster holds nothing any more (R191, R455): arrays, directories, snapshots, rings, engine, Shunter, audit area and tiles. The
engine keeps what the audit unit knows of it (R448). -/
def State.vacate (s : State) (k : Nat) : State :=
  let away (h : HomeId) : Bool := h.inCluster k
  let left := (s.poison.filter fun m => inCluster k (m.sector * 64)).map PoisonMark.sector
  let s : State := { s with
    mem := s.mem.filter fun c => !inCluster k c.1
    dirs := s.dirs.filter fun e => !away e.home
    levels := s.levels.filter fun l => !away l.home
    copies := s.copies.filter fun c => !away c.home
    rings := s.rings.filter fun r => r.cluster ≠ k
    poison := s.poison.filter fun m => !inCluster k (m.sector * 64)
    segments := s.segments.filter fun g => g.cluster ≠ k }
  let s := s.withhold left
  let s := s.mapCluster k fun c =>
    { Cluster.reset k with quarantined := c.quarantined, fatal := c.fatal,
                           engine := { Engine.reset with suspects := c.engine.suspects, probation := c.engine.probation } }
  s.mapTiles (fun t => clusterOf t.index = k) fun t => t.warm s.device s.clock

/-- The context of a spore (R423). -/
def Spore.mine (p : Spore) (c : Context) : Bool := c.domain = p.domain && c.launch = p.launch && c.rank = p.rank

/-- The next value of a domain's save counter (R423). -/
def Trust.nextCounter (t : Trust) (d : BitVec 16) : Nat × Trust :=
  let n := ((t.counters.find? fun p => p.1 = d).map (·.2)).getD 0 + 1
  (n, { t with counters := (d, n) :: t.counters.filter fun p => p.1 ≠ d })

/-- A launch whose every group on this device is out is parked, when it was being parked (R396). -/
def State.settleParking (s : State) (n : Nat) : State :=
  s.mapLaunch n fun l =>
    if l.state = .parking && (l.groups.all fun g => g.device ≠ s.device || g.parked) then
      { l with state := .parked, parks := l.parks + 1, holdExchange := false } else l

/-- Move a tile index of cluster `a` to cluster `b`. -/
def moveTile (a b i : Nat) : Nat := if clusterOf i = a then 8 * b + i % 8 else i

/-- A request that waits on a page, with its tile's index changed. -/
def Requester.move (at' : Nat → Nat) : Requester → Requester
  | .tile i unit => .tile (at' i) unit
  | .posted i serial => .posted (at' i) serial
  | .job i n => .job (at' i) n
  | w => w

/-- The tile of this device that has made a request that waits on a page. -/
def Requester.ofTile : Requester → Option Nat
  | .tile i _ | .posted i _ | .job i _ => some i
  | .remote _ _ | .host | .home => none

/-- A rank group of a domain goes from cluster number `a` to `b` (R145, R428): requests to its homes go on there, and what stands elsewhere under the
indexes of its tiles follows: their requests and replies, levels they created, bindings, posts, waits on pages, and the parks they asked for. -/
def State.moveGroup (s : State) (domain : BitVec 16) (a b : Nat) : State :=
  let at' := moveTile a b
  let home (d : BitVec 16) (h : HomeId) : HomeId := if d = domain then h.move a b else h
  { s with
    requests := s.requests.map fun (r : Request) => { r with home := home r.domain r.home, tile := if r.remote.isNone then at' r.tile else r.tile }
    controls := s.controls.map fun (r : Control) => { r with home := home r.domain r.home }
    replies := s.replies.map fun (r : Reply) => if r.domain = domain then { r with tile := at' r.tile } else r
    levels := s.levels.map fun (l : LevelRecord) => { l with byTile := at' l.byTile }
    posts := s.posts.map fun (q : Post) => { q with tile := at' q.tile }
    paging := { s.paging with
      waits := s.paging.waits.map fun w => { w with who := w.who.map (Requester.move at') } }
    spores := s.spores.map fun (p : Spore) =>
      { p with requester := p.requester.map at', levels := p.levels.map fun (l : LevelRecord) => { l with byTile := at' l.byTile } } }

/-- The counts of packets that the routers of parked tiles have absorbed (R421). -/
def Tile.absorbedCounts (t : Tile) : List Nat := (List.range 7).map t.absorbed

/-- The n-th spore that is not out has been streamed to its save area (R420, R421, R424): it gets the next counter of its domain (R423), its sections,
their lengths and its tag. -/
def State.sporeOf (s : State) (old : Spore) (counter : Nat) : Spore × List Byte :=
  let tiles := (old.tiles.map (·.index)).filterMap s.tileAt
  let fresh := s.capture tiles old.kind old.area old.dfatal none
  let p : Spore := { fresh with
    counter := counter, out := true, requests := old.requests, managed := old.managed, held := old.held, halted := old.halted, idle := old.idle,
    records := tiles.map fun t => (List.range 7).flatMap (s.vnRecord t), routers := tiles.map Tile.absorbedCounts,
    redirects := old.tiles.flatMap (s.redirects old.requests) }
  let sections := s.sporeSections p
  let p : Spore := { p with lengths := sections.map fun b => b.length / 256 }
  let body := s.sporeBody p sections
  ({ p with tag := s.sporeTag p.sealed p.domain counter p.header body }, body)

/-- The header of the n-th spore that is not out is accepted (R420, R423): counter, tag and context; whoever waits has its status (R417).
A cluster whose spore is out is free; its group is away, and so are its homes: what is asked of them waits (R145, R417). -/
def execSporeOut (n : Nat) (s : State) : Host.Outcome State Fault Refusal :=
  match (s.spores.filter fun p => !p.out)[n]? with
  | none => .next s
  | some old =>
    let indexes := old.tiles.map (·.index)
    let (counter, trust) := s.trust.nextCounter old.domain
    let (p, body) := s.sporeOf old counter
    let s := { s with draws := s.draws + 64, spores := (s.spores.filter fun (o : Spore) => !o.out || o.area ≠ old.area).map (fun o => if o = old then p else o),
                      trust := { trust with contexts := ⟨p.domain, p.launch, p.rank, counter, true⟩ :: trust.contexts.filter fun c => !p.mine c } }
    let s := (s.writeWindow (p.area + 128) body).writeWindow p.area ((p.header ++ p.trailer).flatMap (leBytes 8))
    let s := match old.requester with
      | some i => s.mapTile i fun t => { t with answer := some 0 }
      | none => s
    let s := if old.managed then { s with station := 0 :: s.station } else s
    if old.kind = 2 then
      let k := clusterOf (indexes.headD 0)
      let home := ((s.clusterAt k).map fun (c : Cluster) => c.homeName).getD k
      let s := (s.moveGroup p.domain k (awayCluster p.domain home)).vacate k
      let s := s.mapLaunch p.launch fun l =>
        { l with groups := l.groups.map fun (g : Group) => if g.cluster = k && g.device = s.device then { g with parked := true } else g }
      .next (s.settleParking p.launch)
    else .next (s.mapTiles (fun t => indexes.contains t.index) fun t => { t with vnCounts := Vector.replicate 7 (0, 0) })

/-- A reply or acknowledgement reaches its tile (R67, R110, R115, R484). For a parked tile the router absorbs it until the spore is out, and
discards and counts it afterwards (R422); an engine or Shunter job's goes to the job (R418). One whose record finds no free fault log entry waits: false. -/
def State.replyArrives (s : State) (p : Reply) : Bool × State :=
  let gone : State := { s with replies := s.replies.erase p }
  let discard (q : Spore → Bool) : State := { gone with spores := gone.spores.map fun o => if o.out && !o.revived && q o then { o with late := o.late ++ [p] } else o }
  match s.tileAt p.tile with
  | none => (true, discard fun o => o.kind = 2 && awayCluster o.domain ((o.cluster.map (·.homeName)).getD 0) = clusterOf p.tile)
  | some t =>
    if !t.parked || (p.peer && t.jobs.any fun j => j.asks.any fun a => a.serial % 2 ^ 24 = p.serial) then s.takeReply p
    else if s.sporeIsOut t then (true, discard fun o => o.kind ≠ 2 && o.tiles.any fun u => u.index = p.tile)
    else (true, gone.putTile { t with parkReplies := t.parkReplies ++ [p] })

/-! ### Revive (R62, R126, R421-R429) -/

/-- The sixteen words of the spore header in a save area, as memory holds them (R420). -/
def State.sporeHeader (s : State) (area : Nat) : List Nat := (List.range 16).map fun i => leNat (s.readWindow (area + 8 * i) 8)

/-- The bytes of the sections in a save area, by the lengths in its header (R420). -/
def State.savedBody (s : State) (area : Nat) (header : List Nat) : List Byte :=
  s.readWindow (area + 128) (256 * (((header.drop 8).take 4).map fun w => w % 2 ^ 32 + w / 2 ^ 32).sum)

/-- The spore in a save area: the last one written there. -/
def State.sporeAt (s : State) (area : Nat) : Option Spore := s.spores.find? fun (p : Spore) => p.area = area && p.out

/-- The tiles onto which a spore is revived (R426): the cluster of a tile, or the tiles that saved it. -/
def Spore.onto (p : Spore) (t : Tile) : List Nat :=
  if p.kind = 2 then (List.range 8).map (clusterOf t.index * 8 + ·) else p.tiles.map (·.index)

/-- Whether the counts of section 5 fit those of the routers (R427): every count of the new port is zero, the old router absorbed what the records say,
and discarded no more replies than the redirect table awaits. -/
def State.reconciles (s : State) (p : Spore) (t : Tile) : Bool :=
  ((p.onto t).all fun i => (s.tileAt i).all fun u => u.vnCounts.toList.all fun c => c = (0, 0)) &&
  p.routers.map (fun r => r.map (· % 2 ^ 16)) = p.records.map (fun r => (List.range 7).map fun i => r.getD (2 * i + 1) 0 % 2 ^ 16) &&
  p.late.length ≤ p.redirects.length

/-- The first status of R426 that refuses a revive of the spore in a save area onto a tile's place; 0 when it may go on. The header is the one that memory
holds; a set bit above its tag is refused with the tag (R13, log 41). -/
def State.reviveStatus (s : State) (t : Option Tile) (area : Nat) : Nat :=
  let spore := s.sporeAt area
  let busy : Bool := match t, spore with
    | some t, some p => if p.kind = 2 then (s.clusterAt (clusterOf t.index)).any fun (c : Cluster) => c.launch.isSome || c.stopped
        else t.launch.isSome && !t.parked
    | some t, none => (s.clusterAt (clusterOf t.index)).any fun (c : Cluster) => c.launch.isSome
    | none, _ => false
  if busy then 1
  else if !validArea area then 2
  else match spore with
    | none => 2
    | some p =>
      let hw := s.sporeHeader area
      let w (i : Nat) : Nat := hw.getD i 0
      let counter := w 2 / 2 ^ 32 + w 3 % 2 ^ 32 * 2 ^ 32
      let domain : BitVec 16 := BitVec.ofNat 16 (w 2)
      let mine (c : Context) : Bool := c.domain = domain && c.launch = w 3 / 2 ^ 32 + w 4 % 2 ^ 32 * 2 ^ 32 && c.rank = w 4 / 2 ^ 32 % 2 ^ 30
      let ctx : Option Context := s.trust.contexts.find? mine
      let tag := s.sporeTag (w 0 / 2 ^ 24 % 2 = 1) domain counter (hw.take 12) (s.savedBody area hw)
      if w 0 % 2 ^ 16 ≠ 1 then 2
      else if w 0 / 2 ^ 32 ≠ revision.toNat then 3
      else if w 1 ≠ scanHash.toNat then 4
      else if counter < (ctx.map (·.counter)).getD 0 then 5
      else if w 12 + w 13 * 2 ^ 64 ≠ tag.toNat || w 14 ≠ 0 || w 15 ≠ 0 then 6
      else if !(t.all fun t => s.reconciles p t) then 7
      else if t.isNone || (p.kind ≠ 2 && !(p.tiles.any fun (u : Tile) => t.any fun (t : Tile) => t.index = u.index)) then 8
      else if (t.map (·.mdomain)) ≠ some p.domain then 9
      else if ctx.isNone || ctx.any fun (c : Context) => !c.parked then 10
      else if p.dfatal then 11
      else 0

/-- Drop clean data lines (R126); update lines and lines with dirty sectors stay, their clean sectors dropped. -/
def L1Line.afterRevive (l : L1Line) : Option L1Line :=
  if l.update.isSome then some l
  else if l.sectors.all fun x => x.dirty = 0 then none
  else some { l with sectors := l.sectors.map fun x => if x.dirty = 0 then {} else x }

/-- Check the caps of a revived tile (R62): a cap that fails is null, and its register traps before the tile retires anything. -/
def State.checkRevived (s : State) (t : Tile) : Tile :=
  let regs := (List.range 31).map fun i => Fin.ofNat 32 (i + 1)
  let places : List (Level × Reg) := (regs.map fun r => ((0 : Level), r)) ++ [1, 2, 3].flatMap fun l => [((l : Level), (28 : Reg)), (l, 29)]
  places.foldl (fun t p =>
    if s.capPasses t (t.rcBank p.1 p.2) false then t
    else { t.setCBank p.1 p.2 Cap.null with reviveTraps := t.reviveTraps ++ [p.2] }) t

/-- Hand over the jobs that ended while the tile was parked (R418). -/
def Tile.handOver (t : Tile) (device : Nat) : Tile :=
  (t.jobs.filter (·.held)).foldl (fun t j =>
    { t.returnLent device j.lent with jobs := t.jobs.map fun o => if o.number = j.number then { o with held := false } else o }) t

/-- The identity words that a place gives (R39, R40). -/
def State.placeWords (s : State) (i : Nat) : State :=
  let put (s : State) (k v : Nat) : State := { s with mem := s.mem.writeN (tmemKey i (8 * k)) (leBytes 8 v) }
  put (put (put (put (put s 241 i) 242 (clusterOf i)) 243 (i / 512)) 244 s.device) 251 (tileEndpoint s.device i)

/-- The messages that waited for a rank (R427, R429): the park buffer's, then the overflow queue's. They stand in the network before any new arrival. -/
def State.replayFor (s : State) (t : Tile) : List Msg × State :=
  let mine (o : Overflow) : Bool := o.launch = t.launch.getD 0 && o.rank = t.rank
  let waited := (t.parkBuffer ++ (s.overflows.filter mine).flatMap (·.msgs)).map fun m => { m with replay := true }
  (waited, { s with net := waited ++ s.net, overflows := s.overflows.filter fun o => !mine o })

/-- Whether a reply carries data (R422). -/
def Reply.isData (p : Reply) : Bool := match p.kind with
  | .data _ _ => true
  | .done | .refused _ _ => false

/-- Requests for data are made again by the load or job that awaits them (R422). -/
def Tile.dropReads (t : Tile) : Tile :=
  let keep (a : Ask) : Bool := a.done || a.op ≠ 1
  { t with asks := t.asks.filter keep, jobs := t.jobs.map fun j => { j with asks := j.asks.filter keep } }

/-- Start a restored tile (R427): identity words, caches, port counts and credits, the packets of section 7 and the overflow queue in order as far as the
queues take them (R429), absorbed acknowledgements, held job ends, cap checks, clocks. -/
def State.startRevived (s : State) (i : Nat) (counts : Vector (Nat × Nat) 7) (credits : Vector Nat 7) : State :=
  match s.tileAt i with
  | none => s
  | some t =>
    let q := (s.placeWords i).replayFor t
    let u := { t.dropReads with l1 := t.l1.filterMap L1Line.afterRevive, icache := [], grants := [], parkBuffer := [], parkReplies := [], vnCounts := counts,
                                vnCredits := credits, parked := false }
    let s := q.1.foldl (fun s m => if m.landing.isSome then s.arriveExchange m else s.arrive m) (q.2.putTile u)
    let s := (t.parkReplies.filter fun p => !p.isData).foldl (fun s p =>
      let r : Reply := { p with tile := i }
      ({ s with replies := s.replies ++ [r] }.takeReply r).2) s
    match s.tileAt i with
    | none => s
    | some t => s.putTile (((s.checkRevived t).handOver s.device).startClock s.clock)

/-- Move a physical key of cluster `a` to cluster `b`. -/
def moveKey (a b key : Nat) : Nat :=
  if (Space.tmem (8 * a)).base ≤ key && key < (Space.tmem (8 * a + 8)).base then key - (Space.tmem (8 * a)).base + (Space.tmem (8 * b)).base
  else if (Space.cmem a).base ≤ key && key < (Space.cmem (a + 1)).base then key - (Space.cmem a).base + (Space.cmem b).base
  else if (Space.acc a).base ≤ key && key < (Space.acc (a + 1)).base then key - (Space.acc a).base + (Space.acc b).base
  else key

/-- What a tile of a rank group keeps of cluster `a` names cluster `b` (R427, R428): the clusters of its jobs and of the ring slots and accumulator
copies that its regions keep. -/
def Tile.moveGroup (t : Tile) (a b : Nat) : Tile :=
  let to' (k : Nat) : Nat := if k = a then b else k
  let slot (p : Nat × Nat × Nat) : Nat × Nat × Nat := (to' p.1, p.2)
  let save (v : Saved) : Saved := match v with
    | .acc n (some cells) rows cols => .acc n (some (cells.map fun c => (moveKey a b c.1, c.2))) rows cols
    | v => v
  { t with
    index := moveTile a b t.index
    jobs := t.jobs.map fun (j : Job) => { j with tile := moveTile a b j.tile, cluster := to' j.cluster, popped := j.popped.map slot }
    regions := t.regions.map fun rs => rs.map fun r => { r with slots := r.slots.map slot, saved := r.saved.map save } }

/-- Restore a cluster spore of cluster `a` onto cluster `b` (R427, R428): homes and the relocation map move together; cap and home
names stay. -/
def State.restoreCluster (s : State) (p : Spore) (a b : Nat) : State :=
  let away := awayCluster p.domain ((p.cluster.map (·.homeName)).getD a)
  let owner (e : Nat) : Nat := if e / 2 ^ 13 = s.device && [8, 9, 10].any fun u => e = clusterEndpoint s.device a u then
    clusterEndpoint s.device b (e % 16) else e
  let s := s.vacate b
  let s := { s with
    mem := s.mem.writeCells (p.cells.map fun (c : Host.Cell) => (moveKey a b c.1, c.2))
    dirs := s.dirs ++ p.dirs.map (fun (e : DirEntry) => { e with home := e.home.move a b, owner := owner e.owner })
    levels := s.levels ++ p.levels.map (fun (l : LevelRecord) => { l with home := l.home.move a b })
    copies := s.copies ++ p.copies.map (fun (c : LineCopy) => { c with home := c.home.move a b })
    rings := s.rings ++ p.rings.map (fun (r : Ring) => { r with cluster := b })
    poison := s.poison ++ p.poison.map (fun (m : PoisonMark) => { m with sector := moveKey a b (m.sector * 64) / 64 })
    segments := s.segments ++ p.segments.map (fun (g : Segment) => { g with cluster := b, tile := moveTile a b g.tile }) }
  let s := match p.cluster with
    | none => s
    | some old => s.mapCluster b fun c =>
        { old with index := b, launch := some p.launch, stopped := false, quarantined := c.quarantined, fatal := c.fatal,
                   engine := { old.engine with suspects := c.engine.suspects, probation := c.engine.probation } }
  let s := s.moveGroup p.domain away b
  let s := s.mapLaunch p.launch fun l =>
    { l with groups := l.groups.map fun (g : Group) =>
        if g.device = s.device && g.parked && (p.cluster.any fun (c : Cluster) => c.homeName = g.home) then { g with cluster := b, parked := false } else g }
  p.tiles.foldl (fun s t => s.putTile (t.moveGroup a b)) s

/-- Restore the tiles of a tile or gang spore (R427): one that is still parked holds its state; one that a reset has emptied gets it back. -/
def State.restoreTiles (s : State) (p : Spore) : State :=
  p.tiles.foldl (fun s u =>
    if (s.tileAt u.index).any (·.parked) then s
    else
      let lo := (Space.tmem u.index).base
      let at' (k : Nat) : Bool := lo ≤ k && k < lo + 2 ^ 56
      let own (h : HomeId) : Bool := h = .tile u.index
      let s : State := { s with
        mem := Memory.writeCells (s.mem.filter fun c => !at' c.1) (p.cells.filter fun c => at' c.1)
        dirs := (s.dirs.filter fun e => !own e.home) ++ p.dirs.filter fun (e : DirEntry) => own e.home
        levels := (s.levels.filter fun l => !own l.home) ++ p.levels.filter fun (l : LevelRecord) => own l.home
        copies := (s.copies.filter fun c => !own c.home) ++ p.copies.filter fun (c : LineCopy) => own c.home
        poison := (s.poison.filter fun m => !at' (m.sector * 64)) ++ p.poison.filter fun (m : PoisonMark) => at' (m.sector * 64) }
      s.putTile u) s

/-- The credits of a tile in section 5 (R421). -/
def recordCredits (record : List Nat) : Vector Nat 7 := Vector.ofFn fun i => record.getD (2 * i.val + 1) 0 / 2 ^ 16 % 2 ^ 8

/-- A revive that passed the checks (R427): the context becomes Live, the state is restored, the replies that the old router discarded are made
again for the reissued requests (R422), the clocks start. The image stays in its save area (R423). -/
def State.revive (s : State) (p : Spore) (t : Tile) : State :=
  let a := clusterOf (((p.tiles.head?).map (·.index)).getD 0)
  let b := if p.kind = 2 then clusterOf t.index else a
  let away := awayCluster p.domain ((p.cluster.map (·.homeName)).getD a)
  let again := (p.late.filter fun r => !r.isData).map fun r => { r with tile := moveTile away b r.tile }
  let s := { s with spores := s.spores.map (fun o => if o = p then { o with revived := true, late := [] } else o),
                    replies := s.replies ++ again,
                    trust := { s.trust with contexts := s.trust.contexts.map fun c => if p.mine c then { c with parked := false } else c } }
  let s := if p.kind = 2 then s.restoreCluster p a b else s.restoreTiles p
  ((p.tiles.zip p.records).foldl fun s u => s.startRevived (moveTile a b u.1.index) u.1.vnCounts (recordCredits u.2)) s

/-- `sys.revive` (R389, R426, R427). -/
def execSysRevive (d a : Reg) (s : State) : Host.Outcome State Fault Refusal :=
  run {} (.sysRevive d a) (do
    let e ← getX a
    let s ← get
    let area := s.tile.sporeArea.toNat
    if s.tile.mode = .u then illegal (.sysRevive d a)
    let t := s.endpointHere e.toNat
    let status := s.reviveStatus t area
    match decide (status = 0), t, s.sporeAt area with
    | true, some t, some p => do
      modify fun s => s.revive p t
      sporeStatus d 0
    | _, _, _ => sporeStatus d status) s

/-! ### Halt groups (R430-R433) -/

/-- `sys.halt` (R433). -/
def execSysHalt (a : Reg) (s : State) : Host.Outcome State Fault Refusal :=
  run {} (.sysHalt a) (do
    let v ← getX a
    let t ← curTile
    if t.mode = .u || v.toNat / 2 ^ 16 ≠ 0 then illegal (.sysHalt a)
    modify fun s => s.fire (t.index / 512) (v.setWidth 16)) s

/-- A firing group of a die halts its members and those of the linked groups; a parked tile ignores it, and no further group fires (R431, R432). A
linked group of another device is told by its controller (logs 24, 78). -/
def execHaltGroupFire (die group : Nat) (s : State) : Host.Outcome State Fault Refusal :=
  if s.firing.contains (die, group) then
    let links := s.haltLinks.filter fun k => k.die = die && k.group = group
    let here := (links.filter fun k => k.device = s.device).map (·.other)
    let away := links.filter fun k => k.device ≠ s.device
    let s := away.foldl (fun s k => s.sendSys k.device 22 [k.other, group]) (s.haltMembers (die :: here) group)
    .next { s with firing := s.firing.filter fun g => g ≠ (die, group) }
  else .next s

/-! ### The debug port (R434) -/

/-- Whether the debug port serves a tile: one of a sealed domain needs its debug permission (R434). -/
def State.debugServes (s : State) (t : Tile) : Bool := !s.sealed t.mdomain || (s.descriptor t.mdomain).any (·.debug)

/-- Debug port halt (R431, R434): the core stops, and the groups that the tile triggers fire. -/
def execDebugHalt (tile : Nat) (s : State) : Host.Outcome State Fault Refusal :=
  match s.tileAt tile with
  | none => .next s
  | some t =>
    if !s.debugServes t || t.parked || t.halted then .next s
    else .next ((s.putTile { t.stopClock s.clock with halted := true, debugStep := none }).fire (tile / 512) (t.mhaltgrp.extractLsb' 16 16))

/-- Debug port resume (R434). -/
def execDebugResume (tile : Nat) (s : State) : Host.Outcome State Fault Refusal :=
  match s.tileAt tile with
  | none => .next s
  | some t =>
    if !s.debugServes t || t.parked || !t.halted then .next s
    else .next (s.putTile ({ t with halted := false, debugStep := none }.startClock s.clock))

/-- Start a debug step of a halted tile. -/
def State.debugStep (s : State) (tile : Nat) (instruction : Bool) : State :=
  match s.tileAt tile with
  | none => s
  | some t =>
    if !s.debugServes t || t.parked || !t.halted then s
    else s.putTile { { t with halted := false }.startClock s.clock with debugStep := some instruction }

/-- Debug port step-instruction (R434): the core runs until an instruction retires or a trap is entered. -/
def execDebugStepInstruction (tile : Nat) (s : State) : Host.Outcome State Fault Refusal := .next (s.debugStep tile true)

/-- Debug port step-cycle (R434): the core runs for one cycle. -/
def execDebugStepCycle (tile : Nat) (s : State) : Host.Outcome State Fault Refusal := .next (s.debugStep tile false)

/-- What the scan paths read at a tile; none where there is no such state (R420, R434). A latched prefix reads with bit 8 set, a dispatch entry with its
level in bits 41:40; the other fields read as `State.scanField` codes them (log 41). -/
def State.scanRead (s : State) (t : Tile) : ScanItem → Option Word
  | .pc => some t.pc
  | .x l r => some (t.rxBank l r)
  | .lane r i => some (((t.v.get r).bits.extractLsb' (64 * i.val) 64))
  | .cap l r i => some (word ((t.rcBank l r).words.getD i.val 0))
  | .csr n => if csrExists n.toNat then some ((s.switchTo t.index).csrRead n.toNat) else none
  | .tmem off => some (word (leNat (s.mem.readN (tmemKey t.index off) 8)))
  | .latch => some (word ((t.kpre.map fun k => 2 ^ 8 + k.toNat).getD 0))
  | .lanePoison r => some ((t.v.get r).poison.setWidth 64)
  | .origin r => some ((t.v.get r).origin.setWidth 64)
  | .dispatch n => some (word ((t.dispatchOf n).entry + (t.dispatchOf n).level.val * 2 ^ 40))
  | .retPc l => some (t.retPc.get l)
  | .retLevel l => some (word (t.prev.get l).val)
  | .loopLevel => some (word t.loop.level.val)
  | .field f i => ((s.scanField t f).1[i]?).map word

/-- What the scan paths write at a tile (R434). -/
def State.scanWrite (s : State) (t : Tile) (v : Word) : ScanItem → State
  | .pc => s.putTile { t with pc := alignPc v }
  | .x l r => s.putTile (t.setXBank l r v)
  | .lane r i =>
    let old := t.v.get r
    let keep := old.bits &&& ~~~ ((BitVec.allOnes 64).setWidth 1024 <<< (64 * i.val))
    s.putTile (t.setV r { old with bits := keep ||| (v.setWidth 1024 <<< (64 * i.val)) })
  | .cap l r i =>
    let w := ((t.rcBank l r).words).set i.val v.toNat
    s.putTile (t.setCBank l r (Cap.ofWords (w.getD 0 0) (w.getD 1 0) (w.getD 2 0) (w.getD 3 0)))
  | .csr n =>
    if csrExists n.toNat then
      let back := s.tile.index
      ((s.switchTo t.index).csrStore n.toNat v).switchTo back
    else s
  | .tmem off => { s with mem := s.mem.writeN (tmemKey t.index off) (leBytes 8 v.toNat) }
  | .latch => s.putTile { t with kpre := if v.getLsbD 8 then some (v.setWidth 8) else none }
  | .lanePoison r => s.putTile (t.setV r { t.v.get r with poison := v.setWidth 16 })
  | .origin r => s.putTile (t.setV r { t.v.get r with origin := v.setWidth 48 })
  | .dispatch n => s.putTile { t with dispatch := (n.toNat, ⟨v.toNat % 2 ^ 40, Fin.ofNat 4 (v.toNat / 2 ^ 40)⟩) :: t.dispatch.filter fun p => p.1 ≠ n.toNat }
  | .retPc l => s.putTile { t with retPc := t.retPc.set l.val v }
  | .retLevel l => s.putTile { t with prev := t.prev.set l.val (Fin.ofNat 4 v.toNat) }
  | .loopLevel => s.putTile { t with loop := { t.loop with level := Fin.ofNat 4 v.toNat } }
  | .field f i => (s.scanField t f).2 ((s.scanField t f).1.set i v.toNat)

/-- Whether a scan item lies outside a tile's TMEM (R32). -/
def scanOutside : ScanItem → Option Nat
  | .tmem off => if off + 8 > Config.tmemSize then some off else none
  | _ => none

/-- Debug port read (R434): the value goes to the Station core. -/
def execDebugRead (tile : Nat) (item : ScanItem) (s : State) : Host.Outcome State Fault Refusal :=
  match s.tileAt tile, scanOutside item with
  | _, some off => .fault (.noSuchAddress off)
  | none, _ => .next s
  | some t, none =>
    if !s.debugServes t then .next s
    else match s.scanRead t item with
      | some v => .next { s with station := v :: s.station }
      | none => .next s

/-- Debug port write (R434). -/
def execDebugWrite (tile : Nat) (item : ScanItem) (value : Word) (s : State) : Host.Outcome State Fault Refusal :=
  match s.tileAt tile, scanOutside item with
  | _, some off => .fault (.noSuchAddress off)
  | none, _ => .next s
  | some t, none => if s.debugServes t then .next (s.scanWrite t value item) else .next s

end Sys2Proof.Machine
end

