-- ==== Sys2Proof/Machine/Record.lean ====
section
/-! DEFINITION. Launch records: their reading and the checks of a post (R30, R33, R34, R43, R47, R90, R160, R182, R192, R205, R208,
R358, R391-R395, R405, R453, R520). -/

namespace Sys2Proof.Machine

open Sys2Proof

/-! ### Reading a record (R391-R393) -/

/-- The `n` bytes at an offset of a cap's buffer, as its home keeps them; a page without a frame reads zeros. -/
def State.capBytes (s : State) (c : Cap) (off n : Nat) : List Byte :=
  (List.range n).map fun i => match s.keyOf c (off + i) with
    | some k => s.mem.read k
    | none => 0

/-- The number at an offset of a cap's buffer. -/
def State.capNat (s : State) (c : Cap) (off n : Nat) : Nat := leNat (s.capBytes c off n)

/-- Bits `lo` to `lo + w - 1` of a number. -/
def bitsOf (v lo w : Nat) : Nat := v / 2 ^ lo % 2 ^ w

/-- A section descriptor of the header: offset and count (R391). -/
def sectionAt (h i : Nat) : Nat × Nat := (bitsOf h (768 + 32 * i) 24, bitsOf h (792 + 32 * i) 8)

/-- The words of a section of items of `n` bytes. -/
def State.items (s : State) (c : Cap) (d : Nat × Nat) (n : Nat) : List Nat :=
  (List.range d.2).map fun i => s.capNat c (d.1 + n * i) n

/-- A sender list as read: its word and the words of its entries (R393). -/
structure RawList where
  word : Nat
  entries : List Nat
deriving DecidableEq, Repr

/-- A Timetable section as read (R393). -/
structure RawTable where
  word : Nat
  lists : List RawList
deriving DecidableEq, Repr

/-- Read `n` sender lists from an offset on: none when one leaves the buffer; with the offset after them. -/
def State.readLists (s : State) (c : Cap) (off : Nat) : Nat → Option (List RawList × Nat)
  | 0 => some ([], off)
  | n + 1 =>
    let w := s.capNat c off 8
    let k := if bitsOf w 32 8 = 0 then 256 else bitsOf w 32 8
    if off + 8 + 8 * k > c.length.toNat then none
    else match State.readLists s c (off + 8 + 8 * k) n with
      | none => none
      | some (ls, e) => some (⟨w, s.items c (off + 8, k) 8⟩ :: ls, e)

/-- Read `n` Timetables from an offset on. -/
def State.readTables (s : State) (c : Cap) (off : Nat) : Nat → Option (List RawTable)
  | 0 => some []
  | n + 1 =>
    if off + 8 > c.length.toNat then none
    else
      let w := s.capNat c off 8
      match s.readLists c (off + 8) (bitsOf w 16 12) with
      | none => none
      | some (ls, e) => (State.readTables s c e n).map fun ts => ⟨w, ls⟩ :: ts

/-- A launch record as it lies in its buffer: the header and the sections, every item as one number. -/
structure Raw where
  header : Nat
  consts : List Nat
  dispatch : List Nat
  caps : List Nat
  barriers : List Nat
  tables : List RawTable
  slots : List Nat
  devices : List Nat
deriving DecidableEq, Repr

/-- Sizes of the items of the sections but the Timetables, with their largest counts (R391). -/
def sectionSizes : List (Nat × Nat × Nat) := [(0, 8, 240), (1, 2048, 1), (2, 32, 255), (3, 8, 64), (5, 32, 1), (6, 8, 64)]

/-- Whether counts and extents of the sections are as R391 gives (code 1), but for the Timetables. -/
def sectionsFit (h len : Nat) : Bool :=
  (sectionSizes.all fun x => (sectionAt h x.1).2 ≤ x.2.2 && ((sectionAt h x.1).2 = 0 || (sectionAt h x.1).1 + x.2.1 * (sectionAt h x.1).2 ≤ len)) &&
  (sectionAt h 4).2 ≤ 16

/-- Read a record: none when its version is not 1, or a count or extent is wrong (R394 code 1). -/
def State.readRaw (s : State) (c : Cap) : Option Raw :=
  let h := s.capNat c 0 128
  if c.length.toNat < 128 || bitsOf h 0 16 ≠ 1 || !sectionsFit h c.length.toNat then none
  else match s.readTables c (sectionAt h 4).1 (sectionAt h 4).2 with
    | none => none
    | some ts =>
      some { header := h, consts := s.items c (sectionAt h 0) 8,
             dispatch := if (sectionAt h 1).2 = 1 then s.items c ((sectionAt h 1).1, 256) 8 else [],
             caps := s.items c (sectionAt h 2) 32, barriers := s.items c (sectionAt h 3) 8, tables := ts,
             slots := s.items c (sectionAt h 5) 32, devices := s.items c (sectionAt h 6) 8 }

/-- The entry of an initial cap (R392). -/
def CapEntry.ofNat (v : Nat) : CapEntry :=
  { first := bitsOf v 0 30, last := bitsOf v 32 30, reg := bitsOf v 64 3, kind := bitsOf v 67 2, mode := bitsOf v 69 2,
    rights := bitsOf v 71 6, length := bitsOf v 128 40, imageOffset := bitsOf v 168 24, imageLength := bitsOf v 192 24,
    format := BitVec.ofNat 32 (bitsOf v 224 32) }

/-- The entry of a Timetable (R208). -/
def TableEntry.ofNat (v : Nat) : TableEntry := { start := bitsOf v 0 16, flits := bitsOf v 16 3, dest := bitsOf v 24 30 }

/-- The fields of a record (R391-R393). -/
def Raw.record (r : Raw) (device : Nat) : Record :=
  let h := r.header
  { clusters := bitsOf h 16 9, priority := bitsOf h 25 5, domain := BitVec.ofNat 16 (bitsOf h 32 16), entry := bitsOf h 64 40,
    arenareg := bitsOf h 104 3, privateSize := bitsOf h 128 32, undo := bitsOf h 160 32, tshadow := bitsOf h 192 32,
    hstack := bitsOf h 224 32, cshadow := bitsOf h 256 32, quota := bitsOf h 288 32, dshadow := bitsOf h 320 32,
    faultwait := bitsOf h 352 32, faultrank := bitsOf h 384 30, complete := bitsOf h 416 32, arena := bitsOf h 448 32,
    arenarank := bitsOf h 480 30, after := ([0, 1, 2, 3].map fun i => bitsOf h (512 + 64 * i) 64).filter (· ≠ 0),
    consts := r.consts.map word,
    dispatch := (r.dispatch.zipIdx).map fun p => (p.2, ⟨bitsOf p.1 0 40, Fin.ofNat 4 (bitsOf p.1 40 2)⟩),
    caps := r.caps.map CapEntry.ofNat, barriers := r.barriers.map fun v => (bitsOf v 0 6, bitsOf v 8 30),
    tables := r.tables.map fun t => { t := bitsOf t.word 0 4, senders := t.lists.map fun l => (bitsOf l.word 0 30, l.entries.map TableEntry.ofNat) },
    slots := match r.slots with
      | v :: _ => (List.range 64).map fun e => bitsOf v (4 * e) 4
      | [] => [],
    devices := if r.devices.isEmpty then [(device, bitsOf h 16 9)] else r.devices.map fun v => (bitsOf v 0 19, bitsOf v 32 9) }

/-- Ranks of a launch (R39 word 249). -/
def Record.ranks (r : Record) : Nat := 8 * r.clusters

/-! ### The checks (R394) -/

/-- A reserved bit of the header or of a section is set (code 2). -/
def Raw.reserved (r : Raw) : Bool :=
  let h := r.header
  bitsOf h 30 2 ≠ 0 || bitsOf h 48 16 ≠ 0 || bitsOf h 107 21 ≠ 0 || bitsOf h 414 2 ≠ 0 || bitsOf h 510 2 ≠ 0 || bitsOf h 992 32 ≠ 0 ||
  (r.dispatch.any fun v => bitsOf v 42 22 ≠ 0) ||
  (r.caps.any fun v => bitsOf v 30 2 ≠ 0 || bitsOf v 62 2 ≠ 0 || bitsOf v 77 51 ≠ 0 || bitsOf v 216 8 ≠ 0) ||
  (r.barriers.any fun v => bitsOf v 6 2 ≠ 0 || bitsOf v 38 26 ≠ 0) ||
  (r.tables.any fun t => bitsOf t.word 4 12 ≠ 0 || bitsOf t.word 28 36 ≠ 0 || (t.lists.any fun l =>
    bitsOf l.word 30 2 ≠ 0 || bitsOf l.word 40 24 ≠ 0 || (l.entries.any fun v => bitsOf v 19 5 ≠ 0 || bitsOf v 54 10 ≠ 0))) ||
  (r.devices.any fun v => bitsOf v 19 13 ≠ 0 || bitsOf v 41 23 ≠ 0)

/-- The sizes of the private area break R33 or R34 (code 6). -/
def Record.badPrivate (r : Record) : Bool :=
  r.privateSize % 2 ^ 14 ≠ 0 || r.privateSize < 2 ^ 15 || r.privateSize > 2 ^ 19 ||
  r.undo % 256 ≠ 0 || r.tshadow % 256 ≠ 0 || r.hstack % 256 ≠ 0 || 2048 + r.undo + r.tshadow + 3 * r.hstack + 4096 > r.privateSize

/-- The sizes of the pools break R43, R90 or R160 (code 7). -/
def Record.badPools (r : Record) : Bool :=
  r.cshadow % 2 ^ 16 ≠ 0 || r.cshadow < 2 ^ 18 || r.cshadow > 2 ^ 23 ||
  r.quota % 2 ^ 12 ≠ 0 || r.quota > Config.tmemSize - r.privateSize ||
  r.dshadow % 2 ≠ 0 || r.dshadow < 2 || r.dshadow > 65536

/-- A completion endpoint that R394 admits (code 9): 0, a Station core, a launch controller queue or a host port endpoint. -/
def goodCompletion (e : Nat) : Bool :=
  let die := e / 2 ^ 10 % 8
  let unit := e % 16
  e = 0 || ((die = 4 || die = 5) && e / 2 ^ 4 % 64 = 0 && (unit ≤ 5 || (die = 4 && unit = 11)))

/-- The entry or a dispatch entry breaks R192 (code 11). -/
def Record.badEntries (r : Record) (codeLength : Nat) : Bool :=
  r.entry % 4 ≠ 0 || r.entry ≥ codeLength ||
  (r.dispatch.any fun p => (p.2.level = 0 && p.2.entry ≠ 0) || (p.2.level ≠ 0 && (p.2.entry % 4 ≠ 0 || p.2.entry ≥ codeLength)))

/-- An initial-cap entry breaks R392; so does one without image bytes whose offset is beyond the buffer (log 89). -/
def CapEntry.bad (e : CapEntry) (ranks bufferLength : Nat) : Bool :=
  e.last < e.first || e.last ≥ ranks || e.reg = 0 || e.kind = 0 || e.mode = 2 || e.length = 0 || e.imageLength > e.length ||
  e.imageOffset + e.imageLength > bufferLength ||
  (e.kind = 3 && ((e.mode = 0 && e.first ≠ e.last) || (e.mode = 1 && e.first = e.last)))

/-- Whether two entries name one rank and register (R392). -/
def CapEntry.clash (a b : CapEntry) : Bool := a.reg = b.reg && a.first ≤ b.last && b.first ≤ a.last

/-- Whether two of a list stand in a symmetric relation. -/
def anyPair {α : Type} (p : α → α → Bool) : List α → Bool
  | [] => false
  | x :: xs => xs.any (p x) || anyPair p xs

/-- The initial caps and the arena break R392 and R394 (code 12). -/
def Record.badCaps (r : Record) (bufferLength : Nat) : Bool :=
  (r.caps.any fun e => e.bad r.ranks bufferLength) || anyPair CapEntry.clash r.caps ||
  (r.arenareg ≠ 0 && r.caps.any fun e => e.reg = r.arenareg && e.first ≤ r.arenarank && r.arenarank ≤ e.last) ||
  (r.arenareg ≠ 0 && r.arena = 0) || (r.arena ≠ 0 && r.arenareg = 0) || r.arena % 2 ≠ 0 || r.arenarank ≥ r.ranks

/-- The barrier declarations break R205 or R393 (code 13). -/
def Record.badBarriers (r : Record) : Bool :=
  (r.barriers.any fun b => b.2 < 2 || b.2 > r.ranks) || anyPair (fun a b => a.1 = b.1) r.barriers

/-! ### Timetables (R208, R398, R520) -/

/-- The link of one hop between neighbouring sites of a die (R520). -/
structure MeshLink where
  source : Nat
  target : Nat
deriving DecidableEq, Repr

/-- The next site on the way to a site: along the row first (R520). -/
def nextSite (a b : Nat) : Nat :=
  if a % 8 < b % 8 then a + 1 else if b % 8 < a % 8 then a - 1 else if a / 8 < b / 8 then a + 8 else a - 8

/-- The links of the way from one site of a die to another (R520); fuel 14, the longest way. -/
def meshWay (b : Nat) : Nat → Nat → List MeshLink
  | 0, _ => []
  | n + 1, a => if a = b then [] else ⟨a, nextSite a b⟩ :: meshWay b n (nextSite a b)

/-- The way of an entry, where `site` places the clusters of a launch on a die. -/
def entryWay (site : Nat → Nat) (sender : Nat) (e : TableEntry) : List MeshLink := meshWay (site (e.dest / 8)) 14 (site (sender / 8))

/-- Whether two entries' flits may use one link in one cycle, for injections from s to s + 3 (R208, R520). -/
def entriesMeet (site : Nat → Nat) (a b : Nat × TableEntry) : Bool :=
  ((entryWay site a.1 a.2).zipIdx).any fun p => ((entryWay site b.1 b.2).zipIdx).any fun q =>
    let lo (x : TableEntry) (k : Nat) : Nat := x.start + 4 * (k + 1)
    let hi (x : TableEntry) (k : Nat) : Nat := x.start + 3 + 4 * (k + 1) + x.flits - 1
    p.1 = q.1 && lo a.2 p.2 ≤ hi b.2 q.2 && lo b.2 q.2 ≤ hi a.2 p.2

/-- Every entry of a Timetable with its sender. -/
def Timetable.all (x : Timetable) : List (Nat × TableEntry) := x.senders.flatMap fun p => p.2.map fun e => (p.1, e)

/-- A list of entries in ascending start order (R208). -/
def ascending : List TableEntry → Bool
  | a :: b :: l => a.start ≤ b.start && ascending (b :: l)
  | _ => true

/-- A Timetable breaks R208 where `site` places the clusters. -/
def Timetable.breaks (x : Timetable) (ranks : Nat) (site : Nat → Nat) : Bool :=
  x.senders.isEmpty || x.senders.length > 2048 ||
  (x.senders.any fun p => p.1 ≥ ranks || !ascending p.2 || p.2.any fun e => e.flits = 0 || e.flits > 5 || e.dest ≥ ranks) ||
  anyPair (entriesMeet site) x.all || ((List.range ranks).any fun r => (x.incoming r).length > 32)

/-- The Timetables break R393 or R208 on the canonical placement (code 14). -/
def Record.badTables (r : Record) (device : Nat) : Bool :=
  !r.tables.isEmpty && (r.clusters > 64 || (r.devices.any fun d => d.1 ≠ device) || r.tables.any fun x => x.breaks r.ranks id)

/-! ### Devices and DMEM (R47, R405) -/

/-- The device list breaks R405 (code 18). -/
def State.badDevices (s : State) (r : Record) : Bool :=
  (r.devices.map (·.2)).sum ≠ r.clusters || !(r.devices.any fun d => d.1 = s.device) || (r.devices.any fun d => d.2 = 0 || d.2 > 256) ||
  anyPair (fun a b => a.1 = b.1) r.devices ||
  (r.devices.any fun d => d.1 ≠ s.device && (s.fabric.route d.1).isNone) ||
  (r.devices.any fun d => d.1 ≠ s.device && s.offRoster r.domain d.1)

/-- The DMEM range of a domain: first address and bytes (R47). -/
def State.dmemRange (s : State) (d : BitVec 16) : Nat × Nat :=
  if d = 0 then (Config.domain0Base, Config.systemWindow - Config.domain0Base)
  else match s.descriptor d with
    | some e => (e.arenabase * 2 ^ 30, e.arenasize * 2 ^ 30)
    | none => (0, 0)

/-- A number rounded up to 2 MiB. -/
def round2M (n : Nat) : Nat := (n + 2 ^ 21 - 1) / 2 ^ 21 * 2 ^ 21

/-- First fit of a DMEM buffer in the range of a domain, on 2 MiB boundaries (R47). -/
def State.fitDmem (s : State) (d : BitVec 16) (bytes : Nat) : Option Nat :=
  let (lo, size) := s.dmemRange d
  let need := round2M bytes
  let live (u : DmemRange) : Bool := u.launch.isSome || s.dirs.any fun e =>
    (match e.home with
     | .die _ => true
     | _ => false) && e.state ≠ .free && u.first ≤ e.base && e.base < u.first + u.bytes
  let taken (a : Nat) : Bool := s.dmemUsed.any fun u => live u && a < u.first + round2M u.bytes && u.first < a + need
  let starts := (lo :: s.dmemUsed.map fun u => u.first + round2M u.bytes).filter fun a => lo ≤ a && a + need ≤ lo + size && !taken a
  starts.foldl (fun m a => match m with
    | none => some a
    | some b => some (min a b)) none

/-- Lengths of the DMEM buffers of a record: the initial caps of kind 3 in order, then the arena (R47, R392). -/
def Record.dmemLengths (r : Record) : List Nat :=
  ((r.caps.filter fun e => e.kind = 3).map (·.length)) ++ (if r.arena = 0 then [] else [r.arena * 2 ^ 20])

/-- Reserve the DMEM ranges of a launch (R47): none when they do not fit. -/
def State.reserveDmem (s : State) (d : BitVec 16) (launch : Nat) : List Nat → Option State
  | [] => some s
  | n :: ns =>
    match s.fitDmem d n with
    | none => none
    | some a => State.reserveDmem { s with dmemUsed := s.dmemUsed ++ [⟨d, a, n, some launch⟩] } d launch ns

/-- The first code of R394 that refuses a post of a tile's domain; 0 when none does. The DMEM of a launch across devices is asked for once its share controllers
have answered: code 19 comes after theirs. -/
def State.postCode (s : State) (poster : BitVec 16) (c code : Cap) : Nat :=
  match s.readRaw c with
  | none => 1
  | some raw =>
    let r := raw.record s.device
    if raw.reserved then 2
    else if r.clusters = 0 || r.clusters > 256 then 3
    else if r.priority > 23 || (r.priority ≥ 20 && r.domain ≠ 0) then 4
    else if poster ≠ 0 && poster ≠ r.domain then 5
    else if r.badPrivate then 6
    else if r.badPools then 7
    else if r.faultwait = 0 || r.faultwait > 100000 || r.faultrank ≥ r.ranks then 8
    else if !goodCompletion r.complete then 9
    else if r.after.any fun n => n ≥ s.nextLaunch then 10
    else if r.badEntries code.length.toNat then 11
    else if r.badCaps c.length.toNat then 12
    else if r.badBarriers then 13
    else if r.badTables s.device then 14
    else if r.slots.any fun v => v ≥ 10 then 15
    else if (s.launches.filter fun l => l.state ≠ .ended && l.device = s.device).length ≥ 4096 then 16
    else if r.domain ≠ 0 && !((s.descriptor r.domain).any fun d => !d.isSealed || d.keyed) then 17
    else if s.badDevices r then 18
    else if (r.devices.all fun d => d.1 = s.device) && (s.reserveDmem r.domain s.nextLaunch r.dmemLengths).isNone then 19
    else 0

end Sys2Proof.Machine
end

