-- ==== Sys2Proof/Machine/Launch.lean ====
section
/-! DEFINITION. Posting, placing, loading, starting, parking and reviving launches (R35, R38, R39, R44-R47, R51, R52, R160, R191,
R387-R408, R428, R448, R457, R514). -/

namespace Sys2Proof.Machine

open Sys2Proof

/-! ### `lnch.post` and `lnch.done` at the tile (R387, R388) -/

/-- Step 1 of R83 on the caps of a post (R387): an exclusive cap of kind 2 or 3 with S, and an exec share with S. -/
def postCaps (a b : Reg) : Act (List (Reg × Cap)) := do
  let ca ← useCap a
  let cb ← useCap b
  requireCap (ca.mode = .exclusive && (ca.kind = .cmem || ca.kind = .dmem) && ca.eff.s) a 4
  requireCap (cb.mode = .exec && cb.kind ≠ .null && cb.eff.s) b 4
  guardRegions a ca
  guardRegions b cb
  return [(a, ca), (b, cb)]

/-- A cap enters a launch controller (R58, R59): one that fails its checks is held as the null cap. -/
def State.acceptPosted (s : State) (t : Tile) (c : Cap) : Cap := if s.capPasses t c false then c else Cap.null

/-- The caps of a post leave the tile under R83 and R84, and the controller checks them as they enter. -/
def postBuffered (b : Sending) : Act Unit := do
  let sent ← sendAll b
  modify fun s =>
    let t := s.tile
    { s with posts := s.posts ++
      [{ tile := t.index, reg := b.regs.getD 0 0, codeReg := b.regs.getD 1 0, recordCap := s.acceptPosted t (sent.getD 0 Cap.null),
         codeCap := s.acceptPosted t (sent.getD 1 Cap.null), level := t.level }] }
  stall .answer

/-- `lnch.post` (R387): the caps go to the controller of the tile's die, and the tile waits for its answer. -/
def execLnchPost (d a b : Reg) (s : State) : Host.Outcome State Fault Refusal :=
  run {} (.lnchPost d a b) (do
    outsideRegions (.lnchPost d a b)
    guardC30 (.lnchPost d a b) [a, b]
    let s ← get
    let t := s.tile
    match t.answer, t.sending with
    | some v, _ => setX d v
    | none, some q => postBuffered q
    | none, none =>
      if s.posts.any fun p => p.tile = t.index then stall .answer
      let cs ← postCaps a b
      stallLent cs
      if s.power.bootStep < 7 then stall .answer
      let q : Sending :=
        { msg := { sender := t.rank, senderEp := t.principal s.device, senderLaunch := t.launch.getD 0,
                   dest := .endpoint (controllerEndpoint s.device (t.index / 512)), type := 0, payload := [], caps := cs.map (·.2),
                   counted := false },
          regs := cs.map (·.1) }
      onTile fun t => { t with sending := some q }
      postBuffered q) s

/-- `lnch.done` (R388): the launch ends, and the tile retires nothing further. While the launch is being parked the tile waits. -/
def execLnchDone (a : Reg) (s : State) : Host.Outcome State Fault Refusal :=
  run { launch := true } (.lnchDone a) (do
    outsideRegions (.lnchDone a)
    let v ← getX a
    let s ← get
    match s.launchOf s.tile with
    | none => illegal (.lnchDone a)
    | some l =>
      if l.state = .parking || l.state = .parked then stall .answer
      set (s.launchDone l.number s.tile.rank v)
      onTile fun t => { t with started := false }
      throw .leave) s

/-! ### Queues (R395-R397, R406) -/

/-- The number of a launch as its issuer knows it; a launch of another device stands under a number of its own here (log 24). -/
def Launch.issued (l : Launch) : Nat := l.number % 2 ^ 64

/-- The number under which a launch of a device stands here. -/
def State.launchKey (s : State) (device n : Nat) : Nat := if device = s.device then n else n + 2 ^ 64 * (device + 1)

/-- Whether a launch stands before another in the queues (R397, R406). -/
def Launch.before (a b : Launch) : Bool :=
  a.record.priority > b.record.priority ||
  (a.record.priority = b.record.priority && (a.issued < b.issued || (a.issued = b.issued && a.device < b.device)))

/-- Whether a launch waits in the queues of a device (R396): one across devices whose share there was unloaded is Loading all the same (R406). -/
def Launch.queued (l : Launch) (device : Nat) : Bool :=
  l.state = .ready || l.state = .parked || (l.state = .loading && l.groups.any fun g => g.device = device && !g.placed)

/-- Whether every prerequisite of a launch has ended (R395). -/
def State.prerequisitesMet (s : State) (l : Launch) : Bool :=
  l.record.after.all fun n => !(s.launches.any fun o => o.number = n && o.state ≠ .ended)

/-- Launches whose prerequisites are met become Ready (R396); a launch across devices tells its shares (log 24). -/
def State.settleReady (s : State) : State :=
  let goes (l : Launch) : Bool := l.state = .waiting && l.device = s.device && s.prerequisitesMet l && !(s.posts.any fun p => p.number = some l.number)
  let told := s.launches.filter goes
  let s := { s with launches := s.launches.map fun l => if goes l then { l with state := .ready } else l }
  told.foldl (fun s l => (l.record.devices.filter fun d => d.1 ≠ s.device).foldl (fun s d => s.sendSys d.1 9 [l.number]) s) s

/-! ### The answer to a post (R387, R394, R405) -/

/-- The tile of a post gets its answer. -/
def State.answerPost (s : State) (p : Post) (v : Nat) : State :=
  { s with posts := s.posts.filter fun q => q ≠ p }.mapTile p.tile fun t => { t with answer := some (word v) }

/-- A post is refused (R387, R394): both caps return to their registers. -/
def State.refusePost (s : State) (p : Post) (code : Nat) : State :=
  let owner := ((s.tileAt p.tile).map fun t => t.principal s.device).getD 0
  let (record, s) := s.undeliver p.recordCap owner
  (s.mapTile p.tile fun t => (t.setCBank p.level p.reg record).setCBank p.level p.codeReg p.codeCap).answerPost p code

/-- A post is accepted (R387): the controller owns the record buffer, and the tile gets the launch number. -/
def State.acceptPost (s : State) (p : Post) (n : Nat) : State :=
  ((s.deliverCap p.recordCap (controllerEndpoint s.device (p.tile / 512))).answerPost p n).settleReady

/-- The launch of a post that passes its checks (R395, R405). -/
def State.newLaunch (s : State) (p : Post) (r : Record) : Launch :=
  { number := s.nextLaunch, device := s.device, state := .waiting, record := r, recordCap := p.recordCap, codeCap := p.codeCap,
    die := p.tile / 512, postTime := s.clock,
    codeHash := Config.digest ((s.capBytes p.codeCap 0 p.codeCap.length.toNat).map BitVec.toNat),
    recordHash := Config.digest ((s.capBytes p.recordCap 0 p.recordCap.length.toNat).map BitVec.toNat) }

/-- The words of a buffer. -/
def State.capWords (s : State) (c : Cap) : List Nat :=
  (List.range ((c.length.toNat + 7) / 8)).map fun i => s.capNat c (8 * i) (min 8 (c.length.toNat - 8 * i))

/-- The other devices of a launch. -/
def State.peersOf (s : State) (l : Launch) : List Nat := (l.record.devices.map (·.1)).filter (· ≠ s.device)

/-- The lead offers every other device its share (R405 step 2). -/
def State.offerShares (s : State) (l : Launch) : State :=
  let words := [l.number, l.recordCap.length.toNat, l.codeCap.length.toNat] ++ s.capWords l.recordCap ++ s.capWords l.codeCap
  (l.record.devices.filter fun d => d.1 ≠ s.device).foldl (fun s d => s.sendSys d.1 2 words) s

/-- Take a launch away that is not accepted (R405 step 4): its ranges and its number are free, no launch waits for it, and its shares are told. -/
def State.dropLaunch (s : State) (l : Launch) : State :=
  let s := { s with launches := s.launches.filter (fun o => o.number ≠ l.number), dmemUsed := s.dmemUsed.filter fun u => u.launch ≠ some l.number }
  ((l.record.devices.filter fun d => d.1 ≠ s.device).foldl (fun s d => s.sendSys d.1 6 [l.number]) s).settleReady

/-- The lowest of the codes with which share controllers refuse (R394, R405, log 85); 0 when none does. -/
def Launch.shareRefusal (l : Launch) : Nat :=
  ((l.shares.map (·.2)).filter (· ≠ 0)).foldl (fun m c => if m = 0 then c else min m c) 0

/-- The controller checks the n-th post (R394): it refuses it, accepts it, or, for a launch across devices, asks the share controllers
and answers when they have (R405): the launch number is drawn then, and no other post is judged until it is issued or free again (R395). The post of a
parked tile waits. -/
def execLaunchRecordCheck (n : Nat) (s : State) : Host.Outcome State Fault Refusal :=
  match s.posts[n]? with
  | none => .next s
  | some p =>
    match s.tileAt p.tile with
    | none => .next s
    | some t =>
      if t.parked then .next s
      else match p.number with
        | some k =>
          match s.launchAt k with
          | none => .next (s.refusePost p 18)
          | some l =>
            if (s.peersOf l).any fun d => !(l.shares.any fun a => a.1 = d) then .next s
            else if l.shareRefusal ≠ 0 then .next ((s.refusePost p l.shareRefusal).dropLaunch l)
            else match s.reserveDmem l.record.domain k l.record.dmemLengths with
              | none => .next ((s.refusePost p 19).dropLaunch l)
              | some s => .next ({ s with nextLaunch := s.nextLaunch + 1 }.acceptPost p k)
        | none =>
          if s.posts.any fun q => q.number.isSome then .next s
          else
            let code := s.postCode t.mdomain p.recordCap p.codeCap
            match decide (code = 0), s.readRaw p.recordCap with
            | true, some raw =>
              let r := raw.record s.device
              let l := s.newLaunch p r
              if r.devices.all fun d => d.1 = s.device then
                let s := (s.reserveDmem r.domain l.number r.dmemLengths).getD s
                .next ({ s with launches := s.launches ++ [l], nextLaunch := s.nextLaunch + 1 }.acceptPost p l.number)
              else
                let posts := s.posts.map fun q => if q = p then { q with number := some l.number } else q
                .next ({ s with launches := s.launches ++ [l], posts := posts }.offerShares l)
            | _, _ => .next (s.refusePost p code)

/-! ### DMEM of a launch (R44, R46, R47, R178) -/

/-- The table that an entry points to, made when the entry is empty (R167; the frame from the top of HBM4, log 23). -/
def State.tableBelow (s : State) (entryAt : Nat) : Nat × State :=
  let e := s.pte entryAt
  if pteBit e 0 && !pteBit e 1 then (pteFrame e, s)
  else
    let f := Config.frameEnd - 4096 * (s.paging.tables + 1)
    (f, { s with paging := { s.paging with tables := s.paging.tables + 1 }, mem := s.mem.zero (hbmKey f) 4096 }.setPte entryAt (f + 1))

/-- The entry of a 2 MiB page, its tables made (R167). -/
def State.pageEntry (s : State) (va : Nat) : Nat × State :=
  let (t2, s) := s.tableBelow (s.paging.root + va / 2 ^ 39 % 512 * 8)
  let (t1, s) := s.tableBelow (t2 + va / 2 ^ 30 % 512 * 8)
  (t1 + va / 2 ^ 21 % 512 * 8, s)

/-- The 2 MiB pages of a range. -/
def pagesOf (first bytes : Nat) : List Nat := (List.range (round2M bytes / 2 ^ 21)).map fun i => first + i * 2 ^ 21

/-- Map a range as first-touch pages of 2 MiB (R47, R178). -/
def State.mapTouch (s : State) (first bytes : Nat) : State :=
  (pagesOf first bytes).foldl (fun s va =>
    let (e, s) := s.pageEntry va
    s.setPte e (2 + 4 * 5 + 64)) s

/-- Frames for a range, from the pools where it has none (R178): none while a pool lacks one or a page is migrating (R187) or away. -/
def State.install (s : State) (die first bytes : Nat) : Option State :=
  (pagesOf first bytes).foldl (fun o va => o.bind fun (s : State) => match s.walk va with
    | .touch _ size entryAt entry => s.firstTouch die size entryAt entry
    | .leaf _ _ _ _ _ => some s
    | _ => none) (some s)

/-- Unmap a range (R47): its frames go back, zeroed, to the pool of a die; a frame with a poisoned sector is withheld (R437). -/
def State.unmap (s : State) (die first bytes : Nat) : State :=
  (pagesOf first bytes).foldl (fun s va => match s.walk va with
    | .leaf page size frame entryAt _ =>
      let n := pageSize size
      let hit := s.poison.filter fun m => hbmKey frame ≤ m.sector * 64 && m.sector * 64 < hbmKey frame + n
      let s := (((s.setRun size entryAt 0).invalidate page n true).withhold (hit.map PoisonMark.sector)).zeroRange (hbmKey frame) n
      let s := { s with poison := s.poison.filter fun m => !hit.contains m }
      if s.frameClean frame n then { s with paging := { s.paging with pools := s.paging.pools ++ [(die, size, frame)] } } else s
    | .touch _ size entryAt _ => s.setRun size entryAt 0
    | _ => s) s

/-- A DMEM buffer of a range at the home of a die (R46, R47), and its exclusive cap; a number is always free at a home of 2^22. -/
def State.makeDmem (s : State) (die : Nat) (domain : BitVec 16) (first bytes : Nat) (rights : Rights) (format : BitVec 32) (owner : Nat) :
    Cap × State :=
  match s.issueNumber (.die die) with
  | none => (Cap.null, s)
  | some (b, g, s) =>
    let e : DirEntry := { home := .die die, number := b, base := first, length := bytes, state := .exclusive, generation := g, domain := domain,
                          owner := owner }
    let s := { s with dirs := s.dirs.filter (fun (o : DirEntry) => !(o.home = HomeId.die die && o.number = b)) ++ [e] }.mapTouch first bytes
    (s.capOf e .dmem s.device rights format, s)

/-- Make the DMEM buffers of a launch in the ranges reserved for it (R47, R392). -/
def State.makeBuffers (s : State) (l : Launch) : State :=
  let owner := controllerEndpoint s.device l.die
  let entries := (l.record.caps.zipIdx).filter fun p => p.1.kind = 3
  let wanted : List (Nat × Nat × Rights × BitVec 32) :=
    (entries.map fun p => (p.2, p.1.length, Rights.ofCode p.1.rights, p.1.format)) ++
    (if l.record.arena = 0 then [] else [(256, l.record.arena * 2 ^ 20, Rights.ofCode 63, 0)])
  let ranges := s.dmemUsed.filter fun u => u.launch = some l.number
  (wanted.zip ranges).foldl (fun s p =>
    let (c, s) := s.makeDmem l.die l.record.domain p.2.first p.1.2.1 p.1.2.2.1 p.1.2.2.2 owner
    s.mapLaunch l.number fun o => { o with buffers := o.buffers ++ [(p.1.1, c)] }) s

/-! ### Placement (R398, R400, R406, R428) -/

/-- Whether a group of the domain that runs elsewhere still uses a cluster's index as its home name (R428). -/
def State.nameInUse (s : State) (domain : BitVec 16) (k : Nat) : Bool :=
  s.launches.any fun l => l.record.domain = domain && l.state ≠ .ended && l.groups.any fun g =>
    g.home = k && g.device = s.device && g.loaded && !g.parked && g.cluster ≠ k

/-- Whether a group that runs has the home name of a parked group of a launch, which then waits (R428, log 86). -/
def State.nameTaken (s : State) (l : Launch) : Bool :=
  l.groups.any fun g => g.device = s.device && g.parked && s.launches.any fun o => o.number ≠ l.number && o.record.domain = l.record.domain &&
    o.state ≠ .ended && o.groups.any fun h => h.home = g.home && h.device = s.device && h.loaded && !h.parked

/-- Whether a cluster is free for a launch (R398, R428, R448); `freed`: clusters that become free. -/
def State.freeFor (s : State) (l : Launch) (freed : List Nat) (k : Nat) : Bool :=
  match s.clusterAt k with
  | none => false
  | some c =>
    ((c.launch.isNone && !c.stopped) || freed.contains k) && !c.quarantined && !c.fatal &&
    !((s.nameInUse l.record.domain k) && !(l.groups.any fun g => g.home = k && g.device = s.device && g.loaded))

/-- Whether a cluster belongs to a domain (R454): all its tiles hold its number. -/
def State.inDomain (s : State) (k : Nat) (d : BitVec 16) : Bool := (s.tilesOf k).all fun t => t.mdomain = d

/-- The domain that a cluster belongs to, or did before a tile of it was reset (R233, R454). -/
def State.domainAt (s : State) (k : Nat) : BitVec 16 := (((s.tilesOf k).map (·.mdomain)).find? fun d => d ≠ 0).getD 0

/-- The dies in the order of a controller (R398). -/
def diesFrom (die : Nat) : List Nat := die :: [0, 1, 2, 3].filter (· ≠ die)

/-- The clusters of the device in the order of R398 for a launch. -/
def State.clusterOrder (s : State) (l : Launch) : List Nat :=
  let all := (diesFrom l.die).flatMap fun d => (List.range 64).map (64 * d + ·)
  (all.filter fun k => s.inDomain k l.record.domain) ++ all.filter fun k => !s.inDomain k l.record.domain

/-- Clusters that a launch takes on this device (R398, R405). -/
def Launch.need (l : Launch) (device : Nat) : Nat := ((l.record.devices.filter fun d => d.1 = device).map (·.2)).sum

/-- The links of a launch's Timetables on a die, where `site` places its clusters (R398). -/
def Launch.links (l : Launch) (site : Nat → Nat) : List MeshLink :=
  l.record.tables.flatMap fun x => x.all.flatMap fun p => entryWay site p.1 p.2

/-- Links in use on a die (R398): those of the Timetables of launches that are loading, running, parking or reviving there, but for those whose clusters
all become free. -/
def State.linksUsed (s : State) (l : Launch) (freed : List Nat) (die : Nat) : List MeshLink :=
  (s.launches.filter fun o => o.number ≠ l.number && !(o.groups.all fun g => freed.contains g.cluster) &&
      (o.state = .loading || o.state = .running || o.state = .parking || o.state = .reviving) &&
      (o.groups.any fun g => g.device = s.device && g.cluster / 64 = die)).flatMap
    fun o => o.links fun j => ((o.groups[j]?).map fun g => g.cluster % 64).getD 0

/-- The translates of a canonical placement of n clusters on a mesh, as offsets of row and column (R398). -/
def translates (n : Nat) : List (Nat × Nat) :=
  ((List.range 8).flatMap fun r => (List.range 8).map fun c => (r, c)).filter fun o =>
    (List.range n).all fun i => i / 8 + o.1 < 8 && i % 8 + o.2 < 8

/-- The place of a launch with Timetables (R398): a translate of free clusters whose links no other launch uses. -/
def State.placeTable (s : State) (l : Launch) (freed : List Nat) : Option (List Nat) :=
  let n := l.record.clusters
  ((diesFrom l.die).flatMap fun d => (translates n).map fun o => (d, o)).findSome? fun p =>
    let site (i : Nat) : Nat := i + 8 * p.2.1 + p.2.2
    let ks := (List.range n).map fun i => 64 * p.1 + site i
    let used := s.linksUsed l freed p.1
    if ks.all (s.freeFor l freed) && !(l.record.tables.any fun x => x.breaks l.record.ranks site) &&
       !((l.links site).any used.contains) then some ks else none

/-- The clusters that R398 gives a launch, when enough are free or become free. -/
def State.placeFor (s : State) (l : Launch) (freed : List Nat) : Option (List Nat) :=
  if s.nameTaken l then none
  else if l.record.tables.isEmpty then
    let ks := ((s.clusterOrder l).filter (s.freeFor l freed)).take (l.need s.device)
    if ks.length = l.need s.device then some ks else none
  else s.placeTable l freed

/-- Whether a launch that waits stands in the queue of a die (R397): it needs clusters there, those that R398 gives it now, or would give it if no launch
held any. -/
def State.standsIn (s : State) (l : Launch) (die : Nat) : Bool :=
  match (s.placeFor l []).or (s.placeFor l (List.range 256)) with
  | some ks => ks.any fun k => k / 64 = die
  | none => l.die = die

/-- The head of the queues of a die's controller (R397). -/
def State.head (s : State) (die : Nat) : Option Launch :=
  (s.launches.filter fun l => l.queued s.device && s.standsIn l die).foldl (fun h l => match h with
    | none => some l
    | some b => if l.before b then some l else some b) none

/-- Whether a launch heads the queue of every die whose clusters it would take (R397). -/
def State.headsAll (s : State) (l : Launch) (ks : List Nat) : Bool :=
  ks.all fun k => (s.head (k / 64)).all fun h => h.number = l.number || !h.before l

/-- The groups of a launch with its clusters on this device filled in (R50, R398, R405). -/
def Launch.withClusters (l : Launch) (device : Nat) (ks : List Nat) : List Group :=
  let groups := if l.groups.isEmpty
    then l.record.devices.flatMap fun d => List.replicate d.2 ({ cluster := 0, home := 0, device := d.1 } : Group) else l.groups
  let step (a : List Group × List Nat) (g : Group) : List Group × List Nat :=
    if g.device ≠ device then (a.1 ++ [g], a.2)
    else match a.2 with
      | k :: rest => (a.1 ++ [if g.loaded then { g with cluster := k } else { g with cluster := k, home := k, placed := true }], rest)
      | [] => (a.1 ++ [g], [])
  (groups.foldl step ([], ks)).1

/-- Clusters of a launch on this device. -/
def State.clustersOf (s : State) (l : Launch) : List Nat := (l.groups.filter fun g => g.device = s.device && g.placed).map (·.cluster)

/-- The entry of the code buffer counts the exec shares of rank groups that are loaded, eight each. -/
def State.countCode (s : State) (l : Launch) (f : Nat → Nat) : State :=
  match s.homeOf l.codeCap with
  | some h => s.mapEntry h l.codeCap.buffer.toNat fun d => { d with count := f d.count }
  | none => s

/-- A share that is loaded but not running gives its clusters back, with the caps that it had placed there (R406): it is queued again at its key, and the launch
of its lead is Loading as before (R396). -/
def State.unloadNow (s : State) (l : Launch) : State :=
  let ks := s.clustersOf l
  let loaded := (l.groups.filter fun g => g.device = s.device && g.loaded).length
  let there (c : Cap) : Bool := (c.kind = .tmem && ks.contains (clusterOf c.location.toNat)) || (c.kind = .cmem && ks.contains c.location.toNat)
  let s := (ks.foldl (fun s k => s.vacate k) s).countCode l (· - 8 * loaded)
  let device := s.device
  s.mapLaunch l.number fun o =>
    { o with state := if l.device = device then .loading else .ready, kept := o.kept.filter fun c => !there c
             groups := o.groups.map fun g => if g.device = device then { g with loaded := false, placed := false } else g }

/-- A share is unloaded (R406); one of another device's launch first asks its lead, which may have started it (log 24). -/
def State.unload (s : State) (l : Launch) : State :=
  if l.device = s.device then s.unloadNow l else s.sendSys l.device 16 [l.issued]

/-- The order in which launches make room: lowest priority first, then the youngest (R400). -/
def Launch.yields (a b : Launch) : Bool := a.record.priority < b.record.priority || (a.record.priority = b.record.priority && b.issued ≤ a.issued)

/-- Shares that a head may unload (R406). -/
def State.unloadable (s : State) (l : Launch) : List Launch :=
  (s.launches.filter fun o => o.state = .loading && o.record.devices.length > 1 && l.before o && !(s.clustersOf o).isEmpty).mergeSort Launch.yields

/-- Victims in the order of R400. -/
def State.victims (s : State) (l : Launch) : List Launch :=
  (s.launches.filter fun o => o.state = .running && o.record.priority < l.record.priority).mergeSort Launch.yields

/-- Clusters that are being parked, which become free without another victim (R400). -/
def State.leaving (s : State) : List Nat := (s.launches.filter fun o => o.state = .parking).flatMap s.clustersOf

/-- The fewest launches, taken in order, that make room beside clusters that become free in any case (R400, R406). -/
def State.chooseVictims (s : State) (l : Launch) (freed : List Nat) : List Launch → Option (List Launch)
  | [] => none
  | v :: vs =>
    let freed := freed ++ s.clustersOf v
    if (s.placeFor l freed).isSome then some [v] else (State.chooseVictims s l freed vs).map (v :: ·)

/-- The controller changes entries of a launch's rank map: the copies of them in network interfaces go first (R51). -/
def State.setGroups (s : State) (n : Nat) (groups : List Group) : State :=
  let stale (p : Nat × Nat) : Bool := !((groups[p.1]?).any fun g => g.cluster = p.2)
  (s.mapTiles (fun t => t.launch = some n && t.rankCache.any stale) fun t => { t with rankCache := t.rankCache.filter fun p => !stale p }).mapLaunch n
    fun o => { o with groups := groups }

/-- A change of the rank map of a launch across devices (R407): the device whose groups move tells the lead, and the lead every other device, whose
acknowledgement it waits for. A launch of one device has its map at once (R52). -/
def State.tellMap (s : State) (n : Nat) : State :=
  match s.launchAt n with
  | none => s
  | some l =>
    let peers := s.peersOf l
    if peers.isEmpty then s.mapLaunch n fun o => { o with mapKnown := true }
    else if l.device ≠ s.device then s.sendSys l.device 18 (l.issued :: s.clustersOf l)
    else
      let s := s.mapLaunch n fun o => { o with mapOwed := o.mapOwed + peers.length, movers := o.movers ++ [s.device] }
      peers.foldl (fun s d => s.sendSys d 19 (n :: l.groups.map (·.cluster))) s

/-- Give a launch its clusters (R396, R398): a new one is loading, a parked one reviving. -/
def State.assign (s : State) (l : Launch) (ks : List Nat) : State :=
  let s := { s with clusters := s.clusters.map fun (c : Cluster) => if ks.contains c.index then { c with launch := some l.number } else c }
  if l.state = .parked then
    ((s.mapLaunch l.number fun o => { o with state := .reviving, ready := [], mapKnown := false }).setGroups l.number (l.withClusters s.device ks)).tellMap
      l.number
  else
    let s := (s.mapLaunch l.number fun o => { o with state := .loading }).setGroups l.number (l.withClusters s.device ks)
    if l.device = s.device && l.buffers.isEmpty then s.makeBuffers l else s

/-- The controller of a die places or revives its head launch, unloads shares for it, or chooses its victims (R397, R398, R400, R406); clusters whose launch
is being parked already are waited for. -/
def execPlacement (die : Nat) (s : State) : Host.Outcome State Fault Refusal :=
  if s.power.bootStep < 7 then .next s
  else match s.head die with
    | none => .next s
    | some l =>
      match s.placeFor l [] with
      | some ks => if s.headsAll l ks then .next (s.assign l ks) else .next s
      | none =>
        let leaving := s.leaving
        let shares := s.unloadable l
        let unload (s : State) (os : List Launch) : State := os.foldl (fun s o => s.unload o) s
        let park (s : State) (vs : List Launch) : State :=
          vs.foldl (fun s v => s.mapLaunch v.number fun o => { o with state := .parking, holdExchange := true }) s
        if (s.placeFor l leaving).isSome then .next s
        else match s.chooseVictims l leaving shares, s.chooseVictims l leaving (s.victims l),
            s.chooseVictims l (leaving ++ shares.flatMap s.clustersOf) (s.victims l) with
          | some os, _, _ => .next (unload s os)
          | none, some vs, _ => .next (park s vs)
          | none, none, some vs => .next (park (unload s shares) vs)
          | none, none, none => .next s

/-! ### Loading (R35, R38, R39, R191, R392, R399, R457) -/

/-- The tile state at launch (R35, R191, R192, R457). -/
def Tile.load (t : Tile) (l : Launch) (rank : Nat) : Tile :=
  let r := l.record
  let h3 := 2048 + r.undo + r.tshadow + r.hstack
  let stackEnd (lv : Fin 4) : Nat := if lv = 0 then r.privateSize else h3 + (3 - lv.val) * r.hstack
  let pmp (cfg : List Nat) : Word := word (((cfg.zipIdx).map fun p => p.1 * 2 ^ (8 * p.2)).sum)
  let tops : List Nat := [0x800, 2048 + r.undo + r.tshadow, r.privateSize, 2 ^ 48]
  { t with
    mode := .u, pc := word r.entry, launch := some l.number, rank := rank, homeName := t.index, started := false
    x := Vector.ofFn fun lv : Fin 4 => Vector.ofFn fun i : Fin 32 => if i = 2 then word (stackEnd lv) else 0
    dispatch := r.dispatch, privateSize := r.privateSize, undoSize := r.undo, tshadowSize := r.tshadow, hstackSize := r.hstack
    quota := r.quota
    pmpcfg := Vector.ofFn fun i : Fin 2 => if i = 0 then pmp [0x8B, 0x88, 0x8B, 0x88] else 0
    pmpaddr := Vector.ofFn fun i : Fin 16 => word (tops.getD i.val 0 / 4) }

/-- The constant block and the identity words of a tile (R38, R39); the seed is a free value (log 6). -/
def State.loadWindow (s : State) (l : Launch) (i rank : Nat) : State :=
  let put (s : State) (k : Nat) (v : Word) : State := { s with mem := s.mem.writeN (tmemKey i (8 * k)) (leBytes 8 v.toNat) }
  let s := (l.record.consts.zipIdx).foldl (fun s p => put s p.2 p.1) s
  let seed := Config.freeWord s.draws
  let s := { s with draws := s.draws + 1 }
  let s := put (put (put (put s 240 (word rank)) 245 (word (rank % 8))) 246 (word l.issued)) 247 (zext l.record.domain)
  (put (put (put s 248 seed) 249 (word l.record.ranks)) 250 (word l.record.privateSize)).placeWords i

/-- Place a cap in a register of a tile. -/
def State.placeCap (s : State) (i reg : Nat) (c : Cap) : State := s.mapTile i fun t => t.setCBank 0 (Fin.ofNat 32 reg) c

/-- An initial TMEM or CMEM buffer of a rank (R392): its content, its mode, and what the controller keeps. -/
def State.loadCap (s : State) (l : Launch) (i : Nat) (e : CapEntry) : State :=
  let h := if e.kind = 1 then HomeId.tile i else .cluster (clusterOf i)
  let loc := if e.kind = 1 then i else clusterOf i
  match s.alloc h e.length (tileEndpoint s.device i) l.record.domain 0 with
  | none => s
  | some (d, s) =>
    let c := s.capOf d (if e.kind = 1 then .tmem else .cmem) loc (Rights.ofCode e.rights) e.format
    let bytes := s.capBytes l.recordCap e.imageOffset e.imageLength
    let s := { s with mem := s.mem.writeN (h.space.base + d.base) bytes }
    if e.mode = 1 then
      let s := s.mapEntry h d.number fun d => { d with state := .readShared, count := 65536 }
      let s := s.mapLaunch l.number fun o => { o with kept := s.sign { c with mode := .read, weight := 1 } :: o.kept }
      s.placeCap i e.reg (s.sign { c with mode := .read, weight := 65535 })
    else if e.mode = 3 then
      let s := s.mapEntry h d.number fun d => { d with state := .execShared, count := 1 }
      s.placeCap i e.reg (s.sign { c with mode := .exec, weight := 0 })
    else s.placeCap i e.reg c

/-- The caps of a DMEM buffer for its ranks, by rank (R248, R392). -/
def CapEntry.shares (e : CapEntry) (c : Cap) : List (Nat × Cap) :=
  let k := e.last - e.first + 1
  (List.range k).map fun i =>
    let w := 65536 / k + (if i = 0 then 65536 % k else 0)
    (e.first + i, if e.mode = 0 then c else if e.mode = 1 then { c with mode := .read, weight := BitVec.ofNat 17 w }
                  else { c with mode := .exec, weight := 0 })

/-- Hand the caps of a DMEM buffer to its ranks (R392, R405): a rank of another device gets a kind 4 cap from its share controller. -/
def State.handCap (s : State) (l : Launch) (reg rank : Nat) (c : Cap) : State :=
  match s.place l.number rank with
  | none => s
  | some (d, i) =>
    if d = s.device then s.placeCap i reg (s.sign c)
    else s.sendSys d 12 ([l.number, rank, reg] ++ ((s.sign { c with kind := .remote, location := BitVec.ofNat 20 s.device }).words))

/-- The state that the entry of a DMEM buffer has once its caps are handed out. -/
def State.shareEntry (s : State) (c : Cap) (mode k owner : Nat) : State :=
  s.mapEntry (.die (c.buffer.toNat % 4)) c.buffer.toNat fun d =>
    if mode = 1 then { d with state := .readShared, count := 65536, owner := owner }
    else if mode = 3 then { d with state := .execShared, count := k, owner := owner }
    else { d with owner := owner }

/-- Write the initial content of the DMEM buffers (R392, R399): none while a pool lacks a frame for a page of it. -/
def State.loadImages (s : State) (l : Launch) : Option State :=
  l.buffers.foldl (fun o p => o.bind fun (s : State) => match l.record.caps[p.1]? with
    | none => some s
    | some e =>
      if e.imageLength = 0 then some s
      else (s.install l.die p.2.base.toNat e.imageLength).map fun (s : State) =>
        let bytes := s.capBytes l.recordCap e.imageOffset e.imageLength
        (bytes.zipIdx).foldl (fun s b => match s.keyOf p.2 b.2 with
          | some k => { s with mem := s.mem.write k b.1 }
          | none => s) s) (some s)

/-- Hand out the DMEM caps and the arena (R47, R392, R399). -/
def State.handBuffers (s : State) (l : Launch) : State :=
  let ownerOf (r : Nat) : Nat := ((s.place l.number r).map fun p => tileEndpoint p.1 p.2).getD 0
  l.buffers.foldl (fun s p => match l.record.caps[p.1]? with
    | some e =>
      let s := s.shareEntry p.2 e.mode (e.last - e.first + 1) (ownerOf e.first)
      (e.shares p.2).foldl (fun s q => s.handCap l e.reg q.1 q.2) s
    | none =>
      let s := s.shareEntry p.2 0 1 (ownerOf l.record.arenarank)
      s.handCap l l.record.arenareg l.record.arenarank p.2) s

/-- Load rank group j on its cluster (R191, R392, R399, R457). -/
def State.loadGroup (s : State) (l : Launch) (j k : Nat) : State :=
  let r := l.record
  let table := if r.slots.isEmpty then defaultSlots else r.slots
  let s := (s.vacate k).mapCluster k fun c =>
    { c with shadow := r.cshadow, launch := some l.number, homeName := k,
             engine := { c.engine with table := table, credits := weights table } }
  let w := 32768 / r.ranks
  let share := s.sign { l.recordCap with mode := .read, weight := BitVec.ofNat 17 w }
  let s := (List.range 8).foldl (fun s u =>
    let i := 8 * k + u
    let rank := 8 * j + u
    let s := s.mapTile i fun t => t.load l rank
    let s := ((s.loadWindow l i rank).placeCap i 30 l.codeCap).placeCap i 31 share
    let s := (r.caps.filter fun e => e.kind ≠ 3 && e.first ≤ rank && rank ≤ e.last).foldl (fun s e => s.loadCap l i e) s
    (l.remoteCaps.filter fun p => p.1 = rank).foldl (fun s p => s.placeCap i p.2.1 p.2.2) s) s
  (s.countCode l (· + 8)).mapLaunch l.number fun o =>
    { o with groups := (o.groups.zipIdx).map fun p => if p.2 = j then { p.1 with loaded := true, home := k } else p.1 }

/-- The record buffer becomes read-shared when the first shares of it are handed out (R399); the controller keeps the remainder. -/
def State.shareRecord (s : State) (l : Launch) : State :=
  match s.homeOf l.recordCap with
  | none => s
  | some h => s.mapEntry h l.recordCap.buffer.toNat fun d => { d with state := .readShared, count := 65536 }

/-- The groups of a launch on this device that are to be loaded: number and cluster. -/
def State.toLoad (s : State) (l : Launch) : List (Nat × Nat) :=
  ((l.groups.zipIdx).filter fun p => p.1.device = s.device && p.1.placed && !p.1.loaded).map fun p => (p.2, p.1.cluster)

/-- The DMEM shadow pool of a domain is at least what its launches ask for (R160). -/
def State.growPool (s : State) (d : BitVec 16) (bytes : Nat) : State :=
  let old := ((s.dmemPools.find? fun p => p.1 = d).map (·.2)).getD 0
  { s with dmemPools := (d, max old bytes) :: s.dmemPools.filter fun p => p.1 ≠ d }

/-- Start every tile of a launch on this device (R399, R407). -/
def State.startTiles (s : State) (n : Nat) : State :=
  (s.mapLaunch n fun l => { l with state := .running, startTime := if l.startTime = 0 then s.clock else l.startTime }).mapTiles
    (fun t => t.launch = some n) fun t => { t with started := true }

/-- Whether the lead may start a launch: every share is loaded or revived (R399, R406, R407). -/
def State.allReady (s : State) (l : Launch) : Bool := (s.peersOf l).all fun d => l.ready.contains d

/-- A launch whose end a rank asked for while it was being parked ends when it runs again (R388, R396). -/
def State.settleDone (s : State) (n : Nat) : State :=
  if (s.launchAt n).any fun l => l.device = s.device && l.done.isSome && l.endable
  then (s.mapLaunch n fun l => { l with state := .ending, ready := [] }).stopTiles n else s

/-- The lead starts every share (R399, R406) and sends the rank map with it (R407), the DMEM caps of a launch that was loaded before it (R405); a share reports
that it is ready and where its groups are. -/
def State.startAll (s : State) (l : Launch) : State :=
  let l := (s.launchAt l.number).getD l
  if l.device ≠ s.device then s.sendSys l.device 4 (l.issued :: s.clustersOf l)
  else if s.allReady l then
    let s := if l.state = .loading then s.handBuffers l else s
    ((s.peersOf l).foldl (fun s d => s.sendSys d 5 (l.number :: l.groups.map (·.cluster))) (s.startTiles l.number)).settleDone l.number
  else s

/-- Place the copies of record and code that a share got (R405): none while a page has no frame. -/
def State.takeOffer (s : State) (l : Launch) : Option State :=
  if l.offer.isEmpty then some s
  else
    let n := (l.recordCap.length.toNat + 7) / 8
    let bytes (ws : List Word) (len : Nat) : List Byte := (ws.flatMap fun w => leBytes 8 w.toNat).take len
    let put (c : Cap) (bs : List Byte) (s : State) : Option State :=
      (s.install l.die c.base.toNat c.length.toNat).map fun (s : State) => (bs.zipIdx).foldl (fun s b => match s.keyOf c b.2 with
        | some k => { s with mem := s.mem.write k b.1 }
        | none => s) s
    ((put l.recordCap (bytes (l.offer.take n) l.recordCap.length.toNat) s).bind
      (put l.codeCap (bytes (l.offer.drop n) l.codeCap.length.toNat))).map fun (s : State) =>
        s.mapLaunch l.number fun o => { o with offer := [] }

/-- The controller loads the clusters of a launch that have its domain and, when every cluster and every share is loaded, starts every
tile (R399, R406, R455). -/
def execLaunchStart (launch : Nat) (s : State) : Host.Outcome State Fault Refusal :=
  match s.launchAt launch with
  | none => .next s
  | some l =>
    let todo := s.toLoad l
    if l.state ≠ .loading || (l.groups.any fun g => g.device = s.device && !g.placed) then .next s
    else if todo.isEmpty then .next (s.startAll l)
    else if todo.any fun p => !s.inDomain p.2 l.record.domain then .next s
    else match (s.takeOffer l).bind fun (s : State) => s.loadImages l with
      | none => .next s
      | some s =>
        let s := (s.growPool l.record.domain (l.record.dshadow * 2 ^ 20)).shareRecord l
        .next ((todo.foldl (fun s p => s.loadGroup l p.1 p.2) s).startAll l)

/-! ### Victims and revival (R396, R400, R407, R448) -/

/-- Whether an exchange phase of a launch still keeps it from being parked (R400). -/
def State.exchanging (s : State) (n : Nat) : Bool :=
  s.allTiles.any fun t => t.launch = some n && t.phase.any fun p => s.clock ≤ p.release + p.closing

/-- The first save area in the system window that no spore to be revived uses (R425, log 25). -/
def State.freshArea (s : State) : Nat :=
  let area (i : Nat) : Nat := Config.systemWindow + 2 ^ 39 + i * 2 ^ 26
  ((List.range (s.spores.length + 1)).map area).find? (fun a => !(s.spores.any fun p => p.area = a && !p.revived)) |>.getD (area s.spores.length)

/-- Park every cluster of a launch on this device that still runs (R400). -/
def State.parkClusters (s : State) (l : Launch) : State :=
  (s.clustersOf l).foldl (fun s k => match s.tileAt (8 * k), s.clusterAt k with
    | some t, some c => if c.stopped || c.launch ≠ some l.number then s else s.park t (s.parkSet t true) true s.freshArea none
    | _, _ => s) s

/-- The controller parks every cluster of a victim once no exchange phase keeps it (R400); the launch of a quarantined cluster is parked
as a victim (R448); the other devices of the launch are asked to park their shares (R407). -/
def execVictimPark (launch : Nat) (s : State) : Host.Outcome State Fault Refusal :=
  match s.launchAt launch with
  | none => .next s
  | some l =>
    let bad := l.state = .running && (s.clustersOf l).any fun k => (s.clusterAt k).any (·.quarantined)
    let s := if bad then s.mapLaunch launch fun o => { o with state := .parking, holdExchange := true } else s
    if l.state ≠ .parking && !bad then .next s
    else if s.exchanging launch then .next s
    else
      let s := s.parkClusters l
      .next ((s.peersOf l).foldl (fun s d => if l.device = s.device then s.sendSys d 7 [l.issued] else if d = l.device then s.sendSys d 14 [l.issued] else s) s)

/-- The spores of a launch that are out, with the groups that they hold. -/
def State.sporesOf (s : State) (l : Launch) : List (Spore × Group) :=
  s.spores.filterMap fun p =>
    if p.launch = l.number && p.kind = 2 && p.out && !p.revived && !p.dfatal then
      (l.groups.find? fun g => g.device = s.device && g.parked && p.cluster.any fun (c : Cluster) => c.homeName = g.home).map fun g => (p, g)
    else none

/-- A launch that is being revived, once every device has its rank map (R407): every group whose cluster has the domain is restored there (R52, R396, R427, R428); when every
group runs, the launch does. Across devices the tiles wait for the lead (R407). -/
def execLaunchRevival (launch : Nat) (s : State) : Host.Outcome State Fault Refusal :=
  match s.launchAt launch with
  | none => .next s
  | some l =>
    if l.state ≠ .reviving || !l.mapKnown then .next s
    else
      let s := (s.sporesOf l).foldl (fun s q => match s.tileAt (8 * q.2.cluster) with
        | some t => if t.mdomain = l.record.domain then s.revive q.1 t else s
        | none => s) s
      let several := !(s.peersOf l).isEmpty
      let s := if several then s.mapTiles (fun t => t.launch = some launch) fun t => { t with started := false } else s
      if ((s.launchAt launch).map (·.groups)).any fun gs => gs.any fun g => g.device = s.device && g.parked then .next s
      else .next (if several then s.startAll ((s.launchAt launch).getD l) else (s.startTiles launch).settleDone launch)

/-! ### Domains of clusters (R455) -/

/-- Whether a cluster may be given to another domain (R455). -/
def State.switchable (s : State) (k : Nat) (b : BitVec 16) : Bool :=
  match s.clusterAt k with
  | none => false
  | some c =>
    !c.stopped && !s.inDomain k b && !(s.segments.any fun g => g.cluster = k) &&
    !(s.spores.any fun p => !p.out && p.tiles.any fun t => clusterOf t.index = k) &&
    (b = 0 || (s.descriptor b).isSome) &&
    (match c.launch with
     | none => true
     | some n => (s.launchAt n).any fun l => l.record.domain = b && (l.state = .loading || l.state = .reviving) &&
         l.groups.any fun g => g.device = s.device && g.cluster = k && (!g.loaded || g.parked))

/-- A cluster moves from its domain to another (R455): it is zeroed, its tiles get the domain, and the logs of sealed domains say so. -/
def execDomainSwitch (cluster : Nat) (domain : BitVec 16) (s : State) : Host.Outcome State Fault Refusal :=
  if !s.switchable cluster domain then .next s
  else
    let a := s.domainAt cluster
    let owner := (s.clusterAt cluster).bind (·.launch)
    let s := (s.vacate cluster).mapCluster cluster fun c => { c with launch := owner }
    let s := s.mapTiles (fun t => clusterOf t.index = cluster) fun t => { t with mdomain := domain }
    let note (s : State) (d : BitVec 16) : State :=
      if s.sealed d then s.postItem d 8 1 false 0 [cluster + a.toNat * 2 ^ 16 + domain.toNat * 2 ^ 32] else s
    .next (note (note s a) domain)

end Sys2Proof.Machine
end

