-- ==== Sys2Proof/Machine/Ending.lean ====
section
/-! DEFINITION. The end of a launch: the sweeps that find it, what outlives it, what the controller frees, the completion message,
and the traffic of a launch across devices (R47, R77, R213, R214, R388, R402-R407, R448). -/

namespace Sys2Proof.Machine

open Sys2Proof

/-! ### Sweeps (R213, R214, R407) -/

/-- The controller ends a launch (R388 step 2, R396): its tiles stop. -/
def State.beginEnding (s : State) (n : Nat) : State :=
  (s.mapLaunch n fun l => { l with state := .ending, ready := [] }).stopTiles n

/-- One read of every tile of a launch on this device (R213, R214): whether all are idle, and the sums of `msgsent` and `msgrecv`. A
parked tile counts as it was when it stopped. -/
def State.sweepOf (s : State) (l : Launch) : Bool × Nat × Nat :=
  let waits (rank : Nat) : Bool := s.overflows.any fun o => o.launch = l.number && o.rank = rank && !o.msgs.isEmpty
  let live := s.allTiles.filter fun t => t.launch = some l.number
  let out := (s.sporesOf l).map (·.1)
  let idle := (live.all fun t => t.idleSeen && t.parkBuffer.isEmpty && !(waits t.rank)) &&
    (out.all fun p => p.idle && p.tiles.all fun t => t.parkBuffer.isEmpty && !(waits t.rank))
  (idle, (live.map (·.msgsent.toNat)).sum + (out.map (·.sent)).sum, (live.map (·.msgrecv.toNat)).sum + (out.map (·.received)).sum)

/-- A sweep of a launch (R214): a share's goes to the lead, which combines one of every share with its own (R407). Two successive ones
that agree end the launch. -/
def execTerminationSweep (launch : Nat) (s : State) : Host.Outcome State Fault Refusal :=
  match s.launchAt launch with
  | none => .next s
  | some l =>
    if !(l.state = .running || l.state = .parking || l.state = .parked) then .next s
    else
      let own := s.sweepOf l
      if l.device ≠ s.device then .next (s.sendSys l.device 8 [l.issued, if own.1 then 1 else 0, own.2.1, own.2.2])
      else
        let parts := (s.peersOf l).filterMap fun d => l.peerSweeps.find? fun p => p.1 = d
        if parts.length < (s.peersOf l).length then .next s
        else
          let all : Bool × Nat × Nat := parts.foldl (fun a p => (a.1 && p.2.1, a.2.1 + p.2.2.1, a.2.2 + p.2.2.2)) own
          let s := s.mapLaunch launch fun o => { o with sweep := some all, peerSweeps := parts.foldl (fun ps p => ps.erase p) o.peerSweeps }
          if all.1 && all.2.1 = all.2.2 && l.sweep = some all then .next (s.beginEnding launch) else .next s

/-! ### Write-back (R388 step 4, R402) -/

/-- The physical cluster that a spore was taken from. -/
def Spore.site (p : Spore) : Nat := clusterOf (((p.tiles.head?).map (·.index)).getD 0)

/-- The cluster number of its homes while it is out (R428). -/
def Spore.away (p : Spore) : Nat := awayCluster p.domain ((p.cluster.map (·.homeName)).getD 0)

/-- A posted request reaches a buffer of a spore (R388, R420), with its poison (R441). -/
def Spore.absorb (p : Spore) (r : Request) : Spore :=
  let h := r.home.move p.away p.site
  match p.dirs.find? fun e => r.domain = p.domain && e.home = h && e.number = r.buffer && e.generation = r.generation with
  | none => p
  | some e =>
    let key := h.space.base + e.base
    match r.kind with
    | .load _ _ => p
    | .store bytes bad _ =>
      let sectors := (((bytes.filter fun b => bad.contains (b.1 / 64)).map fun b => (key + b.1) / 64).eraseDups).filter fun k => !(p.poison.any fun m => m.sector = k)
      { p with cells := bytes.foldl (fun m b => Memory.write m (key + b.1) b.2) p.cells, poison := p.poison ++ sectors.map fun k => ⟨k, 0⟩
               dirs := p.dirs.map fun o => if o = e then { o with poison := min 65535 (o.poison + sectors.length) } else o }
    | .merge u =>
      let step := foldBytes u.op
      let place (i : Nat) : Nat := key + 256 * u.line + step * i
      { p with cells := (u.words.zipIdx).foldl (fun m w => match w.1 with
          | some v => Memory.writeN m (place w.2) (leBytes step (foldWord u.op (word (leNat (Memory.readN m (place w.2) step))) v).toNat)
          | none => m) p.cells }
    | .notice state op =>
      { p with dirs := p.dirs.map fun o => if o = e then { o with state := state, count := 65536, foldOp := op, owner := r.principal } else o }

/-- Serve a request of a launch that ends: a home that is away in a spore takes it there; false while a page is waited on. `live`: the
tile still has its fault log. -/
def State.endRequest (s : State) (live : Bool) (r : Request) : Bool × State :=
  let gone (s : State) : State := { s with requests := s.requests.filter fun o => o ≠ r }
  if s.asleep r.home then (true, gone { s with spores := s.spores.map fun p => p.absorb r })
  else if live then s.complete r
  else match s.serve r with
    | .waits s => (false, s)
    | .done s | .refused _ s | .exhausted s => (true, gone s)

/-- Serve requests in order. -/
def State.endRequests (s : State) (live : Bool) : List Request → Bool × State
  | [] => (true, s)
  | r :: rs =>
    let q := s.endRequest live r
    if q.1 then State.endRequests q.2 live rs else q

/-- Write back what the L1 of a tile holds (R110, R388): lines pinned by an open region are dropped with it. -/
def State.writeBackTile (s : State) (t : Tile) (live : Bool) : Bool × State :=
  let back := s.tile
  let others := s.others
  let s := if live then s.switchTo t.index else { s with tile := t }
  let before := s.requests
  let s := (s.tile.l1.filter fun l => l.pin.isNone).foldl (fun s l => s.postLine l) s
  let s := { s with tile := { s.tile with l1 := [] } }
  let mine := if live then s.requests.filter fun r => r.tile = t.index else s.requests.drop before.length
  let q := s.endRequests live mine
  (q.1, if live then q.2.switchTo back.index else { q.2 with tile := back, others := others })

/-- Write back the tiles of a spore, after its requests that are still in flight (R126, R419). -/
def State.writeBackSpore (s : State) (p : Spore) : Option State :=
  let q := s.endRequests false (s.requests.filter fun r => r.remote.isNone && clusterOf r.tile = p.away)
  p.tiles.foldl (fun o t => o.bind fun (s : State) =>
    let q := s.writeBackTile t false
    if q.1 then some q.2 else none) (if q.1 then some q.2 else none)

/-- Write back every tile of a launch on this device, and the tiles of its spores; none while a page is waited on. -/
def State.writeBackAll (s : State) (l : Launch) : Option State :=
  let live := (s.allTiles.filter fun t => t.launch = some l.number).foldl (fun o t => o.bind fun (s : State) =>
    let q := s.writeBackTile t true
    if q.1 then some q.2 else none) (some s)
  (s.sporesOf l).foldl (fun o p => o.bind fun (s : State) => s.writeBackSpore p.1) live

/-! ### Caps wherever they stand -/

/-- Change the caps of a held item. -/
def HeldKind.mapCaps (f : Cap → Cap) : HeldKind → HeldKind
  | .msg m n => .msg { m with caps := m.caps.map f } n
  | .arrive d l => .arrive d l
  | .ringPub c => .ringPub (f c)
  | .ringDone c => .ringDone (f c)

/-- The caps of a held item. -/
def HeldKind.caps : HeldKind → List Cap
  | .msg m _ => m.caps
  | .ringPub c | .ringDone c => [c]
  | .arrive _ _ => []

/-- The caps of a send buffer that are in no register: those as sent, and the one that is on its way (R59, R83). -/
def Tile.sendingCaps (t : Tile) : List Cap :=
  match t.sending with
  | none => []
  | some b =>
    b.done ++ ((b.regs.zip b.msg.caps).drop b.done.length).filterMap fun p => if (t.rc p.1).kind = .null then some p.2 else none

/-- Change every cap that a tile holds. -/
def Tile.mapCaps (f : Cap → Cap) (t : Tile) : Tile :=
  let inQ (q : QMsg) : QMsg := { q with msg := { q.msg with caps := q.msg.caps.map f } }
  { t with c := t.c.map f, cBank := t.cBank.map fun b => b.map f, queues := t.queues.map fun q => q.map inQ, xqueue := t.xqueue.map inQ,
           siding := t.siding.map fun h => { h with kind := h.kind.mapCaps f }
           releasePath := t.releasePath.map fun h => { h with kind := h.kind.mapCaps f }
           sending := t.sending.map fun b => { b with msg := { b.msg with caps := b.msg.caps.map f }, done := b.done.map f } }

/-- Every cap that a tile holds, but for those of messages that wait for it to be revived. -/
def Tile.heldCaps (t : Tile) : List Cap :=
  t.allCaps ++ t.sendingCaps ++ ((t.queues.toList.flatten ++ t.xqueue).flatMap fun q => q.msg.caps) ++ ((t.siding ++ t.releasePath).flatMap fun h => h.kind.caps)

/-- Change the caps of every holder that does not belong to a launch (R404), and those that its completion message will carry. -/
def State.mapOutside (s : State) (n : Nat) (f : Cap → Cap) : State :=
  let inMsg (m : Msg) : Msg := match m.dest with
    | .rank k _ => if k = n then m else { m with caps := m.caps.map f }
    | .endpoint _ => { m with caps := m.caps.map f }
  let s := s.mapTiles (fun t => t.launch ≠ some n) (Tile.mapCaps f)
  { s with
    net := s.net.map inMsg
    stationMsgs := s.stationMsgs.map inMsg
    posts := s.posts.map fun p => { p with recordCap := f p.recordCap, codeCap := f p.codeCap }
    launches := s.launches.map fun l =>
      if l.number = n then { l with recordCap := f l.recordCap, outgoing := l.outgoing.map f }
      else { l with recordCap := f l.recordCap, codeCap := f l.codeCap, kept := l.kept.map f, outgoing := l.outgoing.map f }
    host := { s.host with handles := s.host.handles.map fun h => (h.1, f h.2) } }

/-- The caps of those holders. -/
def State.outsideCaps (s : State) (n : Nat) : List Cap :=
  ((s.allTiles.filter fun t => t.launch ≠ some n).flatMap Tile.heldCaps) ++
  ((s.net.filter fun m => match m.dest with
      | .rank k _ => decide (k ≠ n)
      | .endpoint _ => true).flatMap (·.caps)) ++
  (s.stationMsgs.flatMap (·.caps)) ++ (s.posts.flatMap fun p => [p.recordCap, p.codeCap]) ++
  (s.launches.flatMap fun l => if l.number = n then l.recordCap :: l.outgoing else l.recordCap :: l.codeCap :: l.kept ++ l.outgoing) ++
  s.host.handles.map (·.2)

/-! ### What outlives the launch (R404) -/

/-- Whether two caps name one buffer. -/
def Cap.sameBuffer (a b : Cap) : Bool :=
  a.kind = b.kind && a.location = b.location && a.buffer = b.buffer && a.generation = b.generation && a.domain = b.domain

/-- The group of a launch on this device whose TMEM or CMEM holds the buffer of a cap (R428). -/
def State.groupOf (s : State) (l : Launch) (c : Cap) : Option Group :=
  let name : Option Nat := match c.kind with
    | .tmem => some (clusterOf c.location.toNat)
    | .cmem => some c.location.toNat
    | _ => none
  name.bind fun k => if c.domain = l.record.domain then l.groups.find? fun g => g.device = s.device && g.loaded && g.home = k else none

/-- Where the content of a buffer lies: in the arrays of its home, or in the spore of its cluster. -/
structure Content where
  mem : Memory
  /-- key of its first byte. -/
  key : Nat
  poison : List PoisonMark
  entry : DirEntry
deriving DecidableEq, Repr

/-- The content of a TMEM or CMEM buffer of a launch. -/
def State.contentOf (s : State) (l : Launch) (c : Cap) : Option Content :=
  (s.groupOf l c).bind fun g =>
    let at' (k : Nat) : HomeId := if c.kind = .tmem then .tile (8 * k + c.location.toNat % 8) else .cluster k
    if g.parked then
      ((s.sporesOf l).find? fun p => p.2.home = g.home).bind fun p =>
        let h := at' (clusterOf (((p.1.tiles.head?).map (·.index)).getD 0))
        (p.1.dirs.find? fun e => e.home = h && e.number = c.buffer.toNat).map fun e => ⟨p.1.cells, h.space.base + e.base, p.1.poison, e⟩
    else (s.entry (at' g.cluster) c.buffer.toNat).map fun e => ⟨s.mem, (at' g.cluster).space.base + e.base, s.poison, e⟩

/-- A buffer that outlived the launch in no way is lost (R404): its caps are null, and the loss is counted (R402, R468). -/
def State.loseBuffer (s : State) (n : Nat) (c : Cap) : State :=
  let e : Summary := { body := [word (c.buffer.toNat + c.generation.toNat * 2 ^ 24), 0, 0, 0], source := 2, injected := false,
                       endpoint := controllerEndpoint s.device 0, time := s.clock, device := s.device }
  (s.mapOutside n fun o => if o.sameBuffer c then Cap.null else o).mapLaunch n fun l => { l.summarise e with lost := l.lost + 1 }

/-- Copy the content of a buffer, with its poison, to a DMEM buffer (R94, R404). -/
def State.copyContent (s : State) (x : Content) (c : Cap) : State :=
  (List.range ((x.entry.length + 63) / 64)).foldl (fun s i =>
    let n := min 64 (x.entry.length - 64 * i)
    match s.keyOf c (64 * i) with
    | none => s
    | some k =>
      let s := { s with mem := s.mem.writeN k (Memory.readN x.mem (x.key + 64 * i) n) }
      if x.poison.any fun m => m.sector = (x.key + 64 * i) / 64
      then s.markPoison (.die (c.buffer.toNat % 4)) c.buffer.toNat (64 * i) k 70 false else s) s

/-- Re-home the buffer of a cap (R404); none while a pool has no frame for it. The home counts what the outside holders have: the
weight that the launch's own ranks held is freed with them. The owner is the holder that the old entry records, or the controller for a cap of its
completion message. -/
def State.rehome (s : State) (n : Nat) (c : Cap) : Option State :=
  match s.launchAt n with
  | none => some s
  | some l =>
    match s.contentOf l c with
    | none => some (s.loseBuffer n c)
    | some x =>
      match s.fitDmem l.record.domain x.entry.length with
      | none => some (s.loseBuffer n c)
      | some a =>
        let leaves := l.outgoing.any fun o => o.sameBuffer c
        let holders : List Cap := (s.outsideCaps n).filter fun o => o.sameBuffer c
        let s := { s with dmemUsed := s.dmemUsed ++ [(⟨l.record.domain, a, x.entry.length, none⟩ : DmemRange)] }
        let q := s.makeDmem l.die l.record.domain a x.entry.length c.rights c.format (controllerEndpoint s.device l.die)
        (q.2.install l.die a x.entry.length).map fun (s : State) =>
          let new : Cap := { q.1 with base := BitVec.ofNat 48 a }
          let s := s.copyContent x new
          let count : Nat := if c.mode = CapMode.exclusive then 0 else if c.mode = CapMode.exec then holders.length
            else (holders.map fun (o : Cap) => o.weight.toNat).sum
          let s := s.mapEntry (.die (new.buffer.toNat % 4)) new.buffer.toNat fun e =>
            { e with state := x.entry.state, foldOp := x.entry.foldOp, count := count,
                     owner := if leaves then controllerEndpoint s.device l.die else x.entry.owner }
          let swap (o : Cap) : Cap := if o.sameBuffer c then
              s.sign { o with kind := .dmem, location := BitVec.ofNat 20 s.device, base := BitVec.ofNat 48 (a + (o.base.toNat - x.entry.base)),
                              buffer := new.buffer, generation := new.generation, depth := 0 } else o
          s.mapOutside n swap

/-- Re-home every buffer of a launch that a holder outside it names (R404). -/
def State.rehomeAll (s : State) (l : Launch) : Option State :=
  let named := (s.outsideCaps l.number).filter fun c => (s.groupOf l c).isSome
  let firsts := named.foldl (fun (cs : List Cap) c => if cs.any fun o => o.sameBuffer c then cs else cs ++ [c]) []
  firsts.foldl (fun o c => o.bind fun (s : State) => s.rehome l.number c) (some s)

/-! ### What is freed (R47, R77, R388, R402, R403) -/

/-- What rank 0 holds in `c1` (R402): it leaves the tile for the completion message. A ring cap ends with its cluster. -/
def State.takeFirst (s : State) (l : Launch) : State :=
  let mine (t : Tile) : Bool := t.launch = some l.number && t.rank = 0 && !t.gated
  let kept (c : Cap) : List Cap := if c.kind = .handle || c.kind = .slot then [Cap.null] else [s.sign { c with lent := false }]
  match s.allTiles.find? mine with
  | some t => (s.mapTile t.index fun t => t.setCBank 0 1 Cap.null).mapLaunch l.number fun o => { o with outgoing := kept (t.rcBank 0 1) }
  | none => match (s.sporesOf l).findSome? fun p => p.1.tiles.find? fun t => t.rank = 0 with
    | some t =>
      let strip (u : Tile) : Tile := if u.rank = 0 then u.setCBank 0 1 Cap.null else u
      let spores := s.spores.map fun p => if p.launch = l.number then { p with tiles := p.tiles.map strip } else p
      { s with spores := spores }.mapLaunch l.number fun o => { o with outgoing := kept (t.rcBank 0 1) }
    | none => s

/-- Free every cap that tiles of a launch hold, here and in spores, and handle the messages that wait for them (R77, R388, R403). -/
def State.freeHeld (s : State) (l : Launch) : State :=
  let n := l.number
  let live := s.allTiles.filter fun t => t.launch = some n
  let out := (s.sporesOf l).flatMap fun p => p.1.tiles
  let waiting := ((live ++ out).flatMap (·.parkBuffer)) ++ ((s.overflows.filter fun o => o.launch = n).flatMap (·.msgs)) ++
    (s.net.filter fun m => match m.dest with
      | .rank k _ => decide (k = n)
      | .endpoint _ => false)
  let moving := (s.clusters.filter fun c => c.launch = some n).flatMap (·.transfers)
  let s := { s with
    overflows := s.overflows.filter fun o => o.launch ≠ n
    net := s.net.filter fun m => match m.dest with
      | .rank k _ => decide (k ≠ n)
      | .endpoint _ => true }
  let s := (s.discardCaps ((live ++ out).flatMap Tile.heldCaps)).discardCaps l.kept
  let s := moving.foldl (fun s x => s.dropCopies (x.copies.filter fun c => c.kind ≠ .null)) s
  (waiting ++ moving.map (·.msg)).foldl (fun s m => s.refuseEnded n m) s

/-- The posts that tiles of a launch wait on are abandoned with their instruction (R388): their caps are freed. -/
def State.dropPosts (s : State) (n : Nat) : State :=
  let mine := s.posts.filter fun p => (s.tileAt p.tile).any fun t => t.launch = some n
  mine.foldl (fun s p =>
    let s := match p.number.bind s.launchAt with
      | some l => s.dropLaunch l
      | none => s
    { s with posts := s.posts.filter fun q => q ≠ p }.discardCaps [p.recordCap, p.codeCap]) s

/-- The DMEM of a launch is freed, its ranges and frames returned, but for buffers that a holder outside it still names (R47, R404);
the numbers that they retired return to the pool (R73). -/
def State.freeRanges (s : State) (l : Launch) : State :=
  let held := (s.outsideCaps l.number).filter fun c => c.kind = .dmem && c.location.toNat = s.device
  let onDie (e : DirEntry) : Bool := match e.home with
    | .die _ => true
    | _ => false
  let stays (e : DirEntry) : Bool := held.any fun c => c.buffer.toNat = e.number && c.generation = e.generation
  let ranges := s.dmemUsed.filter fun u => u.launch = some l.number
  ranges.foldl (fun s u =>
    let inside := s.dirs.filter fun e => onDie e && e.state ≠ .free && u.first ≤ e.base && e.base < u.first + u.bytes
    let outlive := inside.filter stays
    let above (e : DirEntry) : Bool := e.state = .carved && outlive.any fun o => e.base ≤ o.base && o.base < e.base + e.length
    let s := (inside.filter fun e => !stays e && !above e).foldl (fun s e => s.freeEntry e.home e.number) s
    let covered (va : Nat) : Bool := outlive.any fun e => va < e.base + e.length && e.base < va + 2 ^ 21
    let s := ((pagesOf u.first u.bytes).filter fun va => !covered va).foldl (fun s va => s.unmap l.die va (2 ^ 21)) s
    { s.returnNumbers (fun e => onDie e && u.first ≤ e.base && e.base < u.first + u.bytes) with dmemUsed := (s.dmemUsed.filter fun o => o ≠ u) ++ outlive.map fun e =>
        ⟨u.domain, e.base / 2 ^ 21 * 2 ^ 21, round2M (e.base % 2 ^ 21 + e.length), none⟩ }) s

/-- The controller takes its record buffer back as an exclusive cap (R402). -/
def State.reclaimRecord (s : State) (n : Nat) : State :=
  match s.launchAt n with
  | none => s
  | some l =>
    match s.homeOf l.recordCap with
    | none => s
    | some h =>
      let q := s.bump h l.recordCap.buffer.toNat fun e =>
        { e with state := .exclusive, count := 0, owner := controllerEndpoint s.device l.die }
      let s := q.2.2
      let c := s.sign { l.recordCap with mode := .exclusive, weight := 65536, buffer := BitVec.ofNat 24 q.1, generation := q.2.1 }
      s.mapLaunch n fun o => { o with recordCap := c, outgoing := c :: o.outgoing }

/-- Clusters, spores, contexts and everything else that a launch holds are gone (R402, R403); a cluster with a fatal tile record is
quarantined (R448); with the last launch of a domain go its shadow pool (R160) and what its homes retired (R73). -/
def State.clearLaunch (s : State) (l : Launch) : State :=
  let n := l.number
  let mine := (s.clusters.filter fun c => c.launch = some n).map (·.index)
  let tiles := (s.allTiles.filter fun t => t.launch = some n).map (·.index)
  let away := (s.sporesOf l).map (·.1.away)
  let own (i : Nat) : Bool := tiles.contains i || away.contains (clusterOf i)
  let bad (k : Nat) : Bool := (s.clusterAt k).any (·.fatal) || s.allTiles.any fun t => clusterOf t.index = k && (t.faultLog.get 15).cls = 2
  let worn := mine.filter bad
  let left (w : PageWait) : PageWait := { w with who := w.who.filter fun r => !(r.ofTile.any own) }
  let s := { s with
    requests := s.requests.filter fun r => !(own r.tile && r.remote.isNone)
    replies := s.replies.filter fun r => !own r.tile
    paging := { s.paging with waits := s.paging.waits.map left }
    bars := s.bars.filter fun b => b.launch ≠ n
    spores := s.spores.filter fun p => p.launch ≠ n || p.dfatal
    trust := { s.trust with contexts := s.trust.contexts.filter fun c => !(c.launch = n && c.domain = l.record.domain) } }
  let s := mine.foldl (fun s k => s.vacate k) s
  let s := s.mapTiles (fun t => tiles.contains t.index) fun t => { t with launch := none, parked := false }
  let s := { s with clusters := s.clusters.map fun (c : Cluster) => if worn.contains c.index then { c with quarantined := true, fatal := false } else c }
  let last := !(s.launches.any fun (o : Launch) => o.number ≠ n && o.record.domain = l.record.domain && o.state ≠ LaunchState.ended && !o.cleaned)
  let s := if last then { s.returnNumbers (fun e => e.domain = l.record.domain) with
      dmemPools := s.dmemPools.filter fun p => p.1 ≠ l.record.domain } else s
  s.mapLaunch n fun o => { o with cleaned := true, groups := [], kept := [], codeCap := Cap.null, offer := [] }

/-- The controller of a device cleans up its share of a launch that ends; none while a park is in progress, a step already granted has not retired, or a page
is waited on. -/
def State.cleanUp (s : State) (n : Nat) : Option State :=
  (s.launchAt n).bind fun l =>
    if s.spores.any fun p => p.launch = n && !p.out then none
    else if s.allTiles.any fun t => t.launch = some n && t.jobs.any fun j => j.granted && !j.ended && !s.stoppedAt j.cluster then none
    else
      let s := s.mapTiles (fun t => t.launch = some n) fun t => { t with parked := false }
      (s.writeBackAll l).bind fun (s : State) =>
        let s := s.takeFirst l
        (s.rehomeAll l).map fun (s : State) =>
          let s := ((s.freeHeld l).dropPosts n).discardCaps [l.codeCap]
          let s := s.reclaimRecord n
          let s := s.freeRanges ((s.launchAt n).getD l)
          s.clearLaunch l

/-! ### The completion message (R402) -/

/-- Send the caps of a completion message (R84): the exclusive ones are In transit, at the home of another device too. -/
def State.sendOut (s : State) : List Cap → List Cap × State
  | [] => ([], s)
  | c :: cs =>
    let q := if c.mode = .exclusive && c.kind ≠ .null && c.kind ≠ .host then (s.tellPeer c 1 [controllerEndpoint s.device 0]).sendCopy c else (c, s)
    let r := State.sendOut q.2 cs
    (q.1 :: r.1, r.2)

/-- The lead delivers the completion message (R402): its type and its sender field, and the mark of a launch that a failed
die ended (R445), are values that the spec does not state (log 6). A cap of a sealed domain that may not go to the host (R459) is freed, and
its slot is null. -/
def State.complete' (s : State) (l : Launch) : State :=
  let e := if l.record.complete = 0 then hostEndpoint s.device else l.record.complete
  let barred (c : Cap) : Bool := e = hostEndpoint (e / 2 ^ 13) && c.kind ≠ .null && !s.hostClear c.domain
  let q := (s.discardCaps (l.outgoing.filter barred)).sendOut (l.outgoing.map fun c => if barred c then Cap.null else c)
  let s := q.2
  let mode : Word := match l.done with
    | some d => word (1 + d.1 * 2 ^ 32)
    | none => if l.failed then Config.freeValue (s.draws + 2) &&& 3 else 0
  let m : Msg :=
    { sender := (Config.freeValue s.draws).toNat % 2 ^ 30, senderEp := controllerEndpoint s.device l.die, senderLaunch := l.number, dest := .endpoint e,
      type := (Config.freeValue (s.draws + 1)).setWidth 8, caps := q.1, counted := false,
      payload := [word l.issued, mode, (l.done.map (·.2)).getD 0, word l.unaudited, word l.lost] }
  ({ s with draws := s.draws + 3 }.sendMsg m l.record.domain).mapLaunch l.number fun o => { o with delivered := true, outgoing := [], endMode := mode.toNat % 4 }

/-- The completion message of a launch is still on its way. -/
def State.completing (s : State) (l : Launch) : Bool :=
  s.net.any fun m => m.senderEp = controllerEndpoint s.device l.die && !m.counted && m.payload.head? = some (word l.issued)

/-- What a share tells the lead at its end (R403, R407, R468): its counts, rank 0's `c1` as a kind 4 cap, whose buffer the lead's controller then
owns, and its summary entries. -/
def State.reportShare (s : State) (l : Launch) : State :=
  let away (c : Cap) : Cap := if c.kind = .dmem then s.sign { c with kind := .remote, location := BitVec.ofNat 20 s.device } else c
  let first := (l.outgoing.drop 1).flatMap fun c => (away c).words
  let s := l.summary.foldl (fun s e => s.sendSys l.device 13
    ([l.issued] ++ e.body.map BitVec.toNat ++ [e.source, if e.injected then 1 else 0, e.endpoint, e.time, e.device])) s
  let mine := (l.outgoing.drop 1).filter fun c => c.kind = .dmem && c.mode = .exclusive
  let s := mine.foldl (fun s c => s.change (.die (c.buffer.toNat % 4)) c.buffer.toNat fun e => { e with owner := controllerEndpoint l.device 0 }) s
  let s := s.discardCaps (l.outgoing.take 1)
  (s.sendSys l.device 11 ([l.issued, l.unaudited, l.lost] ++ first)).mapLaunch l.number fun o =>
    { o with state := .ended, delivered := true, endTime := s.clock, outgoing := [] }

/-- A launch ends (R388, R402, R403): the controller of every device cleans up its share; the lead then delivers the completion message,
and the launch has ended once it is delivered. -/
def execLaunchEnding (launch : Nat) (s : State) : Host.Outcome State Fault Refusal :=
  match s.launchAt launch with
  | none => .next s
  | some l =>
    if l.state ≠ .ending then .next s
    else if !l.cleaned then
      match s.cleanUp launch with
      | none => .next s
      | some s => .next (if l.device = s.device then (s.peersOf l).foldl (fun s d => s.sendSys d 6 [l.number]) s else s)
    else if l.device ≠ s.device then .next (s.reportShare l)
    else if !l.delivered then (if s.allReady l then .next (s.complete' l) else .next s)
    else if s.completing l then .next s
    else .next (s.mapLaunch launch fun o => { o with state := .ended, endTime := s.clock }).settleReady

/-! ### Launches across devices (R405-R407) -/

/-- The code of R394 with which a share controller refuses its share, of those that concern one device; 0 when it accepts. A listed device that holds no
descriptor of the domain breaks the device list: code 18. A device with no room for the copies answers 19 (log 85). -/
def State.shareCode (s : State) (l : Launch) : Nat :=
  let d := l.record.domain
  if (s.launches.filter fun o => o.state ≠ .ended).length > 4096 then 16
  else if (s.descriptor d).any fun e => e.isSealed && !e.keyed then 17
  else if d ≠ 0 && (s.descriptor d).isNone then 18
  else if s.sealed d && !((s.descriptor d).any fun e => (l.record.devices.map (·.1)).all fun p => e.roster.contains p) then 18
  else if l.recordCap.kind = .null || l.codeCap.kind = .null then 19
  else 0

/-- A share controller checks its share and answers the lead, or the lead takes the answer of a device (R405 steps 3 and 4). -/
def execShareCheck (launch : Nat) (device : Nat) (answer : Nat) (s : State) : Host.Outcome State Fault Refusal :=
  match s.launchAt launch with
  | none => .next s
  | some l =>
    if device = s.device then
      if l.device = s.device || l.state ≠ .waiting || l.shares.any fun a => a.1 = s.device then .next s
      else
        let code := s.shareCode l
        .next ((s.mapLaunch launch fun o => { o with shares := [(s.device, code)] }).sendSys l.device 3 [l.issued, code])
    else if l.device = s.device && l.state = .waiting && (s.peersOf l).contains device && !(l.shares.any fun a => a.1 = device) then
      .next (s.mapLaunch launch fun o => { o with shares := o.shares ++ [(device, answer)] })
    else .next s

/-- Read a record from words (R391), through a scratch memory. -/
def State.readWords (s : State) (ws : List Word) (len : Nat) : Option Record :=
  let scratch : State := { s with launches := [], mem := Memory.writeN [] (Space.cmem 0).base (ws.flatMap fun w => leBytes 8 w.toNat) }
  (scratch.readRaw { kind := .cmem, length := BitVec.ofNat 40 len }).map fun r => r.record s.device

/-- A buffer of this device for a copy of the record or the code of a share (R405), in the domain's DMEM range (log 85). -/
def State.shareBuffer (s : State) (key : Nat) (domain : BitVec 16) (len : Nat) : Cap × State :=
  match s.fitDmem domain len with
  | none => (Cap.null, s)
  | some a => { s with dmemUsed := s.dmemUsed ++ [(⟨domain, a, len, some key⟩ : DmemRange)] }.makeDmem 0 domain a len (Rights.ofCode 63) 0
      (controllerEndpoint s.device 0)

/-- A share is offered (R405 step 2): it waits at the controller of die 0 for its check. -/
def State.takeShare (s : State) (lead : Nat) (ws : List Word) : State :=
  let n := (ws.headD 0).toNat
  let len := (ws.getD 1 0).toNat
  let codeLen := (ws.getD 2 0).toNat
  let words := ws.drop 3
  match s.readWords (words.take ((len + 7) / 8)) len with
  | none => s.sendSys lead 3 [n, 1]
  | some r =>
    let key := s.launchKey lead n
    let (record, s) := s.shareBuffer key r.domain len
    let (code, s) := s.shareBuffer key r.domain codeLen
    let s := s.mapEntry (.die (code.buffer.toNat % 4)) code.buffer.toNat fun (e : DirEntry) => { e with state := .execShared, count := 1 }
    let l : Launch := { number := key, device := lead, state := .waiting, record := r, recordCap := record,
                        codeCap := if code.kind = .null then code else s.sign { code with mode := .exec, weight := 0 }, die := 0, offer := words,
                        postTime := s.clock }
    { s with launches := s.launches ++ [l] }

/-- The clusters of the groups of a device, as another device reports them. -/
def setClusters (device : Nat) (groups : List Group) (ks : List Nat) : List Group :=
  (groups.foldl (fun (a : List Group × List Nat) g =>
    if g.device = device then (a.1 ++ [{ g with cluster := a.2.headD 0 }], a.2.drop 1) else (a.1 ++ [g], a.2)) ([], ks)).1

/-- The rank map of a launch across devices as the lead sends it (R407). -/
def setMap (own : Nat) (groups : List Group) (ks : List Nat) : List Group :=
  (groups.zip ks).map fun p => if p.1.device = own then p.1 else { p.1 with cluster := p.2 }

/-- The lead has refused the post of a share (R405 step 4): the share, and its copies of record and code, are gone. -/
def State.dropShare (s : State) (l : Launch) : State :=
  let s := (s.discardCaps [l.recordCap, l.codeCap]).freeRanges l
  { s with launches := s.launches.filter fun o => o.number ≠ l.number }

/-- Traffic from the controller of a lead reaches a share (R405-R407). -/
def State.leadSays (s : State) (l : Launch) (kind : Nat) (ws : List Word) : State :=
  let w (i : Nat) : Nat := (ws.getD i 0).toNat
  let n := l.number
  match kind with
  | 5 =>
    let s := s.setGroups n (setMap s.device l.groups ((ws.drop 1).map BitVec.toNat))
    if l.state = .loading || l.state = .reviving then s.startTiles n else s
  | 6 => if l.state = .waiting then s.dropShare l else if l.state = .ending || l.state = .ended then s else s.beginEnding n
  | 19 => (s.setGroups n (setMap s.device l.groups ((ws.drop 1).map BitVec.toNat))).sendSys l.device 10 [l.issued]
  | 24 => s.mapLaunch n fun o => { o with mapKnown := true }
  | 7 => if l.state = .running then s.mapLaunch n fun o => { o with state := .parking, holdExchange := true } else s
  | 9 => if l.state = .waiting then s.mapLaunch n fun o => { o with state := .ready } else s
  | 12 =>
    let c := Cap.ofWords (w 3) (w 4) (w 5) (w 6)
    let s := s.mapLaunch n fun o => { o with remoteCaps := o.remoteCaps ++ [(w 1, w 2, c)] }
    match s.place n (w 1) with
    | some (d, i) => if d = s.device && (s.tileAt i).any (fun t => t.launch = some n) then s.placeCap i (w 2) c else s
    | none => s
  | 17 => if l.state = .loading then s.unloadNow l else s
  | _ => s

/-- Once every device has acknowledged the changes of a rank map, the groups that moved may be revived (R407). -/
def State.mapAcked (s : State) (n : Nat) : State :=
  match s.launchAt n with
  | none => s
  | some l =>
    if l.mapOwed ≠ 0 then s
    else
      let s := s.mapLaunch n fun o => { o with movers := [], mapKnown := o.mapKnown || o.movers.contains s.device }
      (l.movers.filter (· ≠ s.device)).foldl (fun s d => s.sendSys d 24 [n]) s

/-- Traffic from a share of a device reaches the lead (R388, R403, R405-R407, R468). -/
def State.shareSays (s : State) (l : Launch) (d kind : Nat) (ws : List Word) : State :=
  let w (i : Nat) : Nat := (ws.getD i 0).toNat
  let n := l.number
  let joined (o : Launch) : Launch := { o with ready := if o.ready.contains d then o.ready else o.ready ++ [d] }
  match kind with
  | 1 => s.launchDone n (w 1) (ws.getD 2 0)
  | 3 => s.mapLaunch n fun o => { o with shares := o.shares ++ [(d, w 1)] }
  | 4 => (s.mapLaunch n joined).setGroups n (setClusters d l.groups ((ws.drop 1).map BitVec.toNat))
  | 10 => (s.mapLaunch n fun o => { o with mapOwed := o.mapOwed - 1 }).mapAcked n
  | 18 =>
    let s := (s.mapLaunch n fun o => { o with mapOwed := o.mapOwed + (s.peersOf l).length, movers := o.movers ++ [d] }).setGroups n
      (setClusters d l.groups ((ws.drop 1).map BitVec.toNat))
    let map := ((s.launchAt n).map fun l => l.groups.map (·.cluster)).getD []
    (s.peersOf l).foldl (fun s p => s.sendSys p 19 (n :: map)) s
  | 8 => s.mapLaunch n fun o => { o with peerSweeps := o.peerSweeps ++ [(d, decide (w 1 = 1), w 2, w 3)] }
  | 11 =>
    let first := if ws.length < 7 then [] else [Cap.ofWords (w 3) (w 4) (w 5) (w 6)]
    s.mapLaunch n fun o =>
      { joined o with unaudited := o.unaudited + w 1, lost := o.lost + w 2, outgoing := o.outgoing ++ first }
  | 13 => s.mapLaunch n fun o => o.summarise
      { body := [ws.getD 1 0, ws.getD 2 0, ws.getD 3 0, ws.getD 4 0], source := w 5, injected := decide (w 6 = 1), endpoint := w 7, time := w 8,
        device := w 9 }
  | 14 => if l.state = .running then s.mapLaunch n fun o => { o with state := .parking, holdExchange := true } else s
  | 15 =>
    let s := s.mapLaunch n fun o => { o with failed := true }
    if l.state = .ending || l.state = .ended then s else s.beginEnding n
  | 16 => if l.state = .running || l.state = .ending then s
          else (s.mapLaunch n fun o => { o with ready := o.ready.filter (· ≠ d) }).sendSys d 17 [n]
  | _ => s

/-- A SYS packet of a device arrives (R405-R407, R483): launch traffic goes to the launch that it names. -/
def State.sysArrives (s : State) (d : Nat) (words : List Word) : State :=
  let kind := (words.headD 0).toNat / 2 ^ 16
  let ws := words.drop 1
  let n := (ws.headD 0).toNat
  let share := (s.launchAt (s.launchKey d n)).filter fun l => l.device = d
  let lead := (s.launchAt n).filter fun l => l.device = s.device && (s.peersOf l).contains d
  if kind = 2 then (if share.isSome then s else s.takeShare d ws)
  else if [5, 6, 7, 9, 12, 17, 19, 24].contains kind then (share.map fun l => s.leadSays l kind ws).getD s
  else (lead.map fun l => s.shareSays l d kind ws).getD s

end Sys2Proof.Machine
end

