-- ==== Sys2Proof/Machine/Serve.lean ====
section
/-! DEFINITION. The homes at work: requests and notices that reach them, their answers, merges of fold lines, grants, and the DMEM path
through the L2 (R66-R73, R76, R82, R110, R115-R121, R149-R157, R182, R188, R445, R484, R486). -/

namespace Sys2Proof.Machine

open Sys2Proof

/-! ### Answers (R67, R484, R486) -/

/-- Answer a request of another device (R481-R484): DATA with the poison bits, or an ACK with the reason of a refusal or the fields that a control
operation returns; `conf`: the data is a confidential page's (R461). -/
def State.answerPeer (s : State) (device serial : Nat) (h : HomeId) (destination buffer : Nat) (g domain : BitVec 16) (reason : Option Nat)
    (data : Option (List Word × Nat)) (fields : List Word) (conf : Bool := false) : State :=
  let op := if data.isSome && reason.isNone then 5 else 6
  let words := match reason, data with
    | none, some d => d.1
    | none, none => fields
    | some _, _ => []
  let opfield := match reason, data with
    | some r, _ => 1 + 2 * r
    | none, some d => d.2
    | none, none => 0
  s.sendPacket device { op := op, vn := 6, bytes := 8 * words.length, flits := flitsOf (8 * words.length) (s.sealed domain && conf), conf := conf,
                        source := s.homeEndpoint h, destination := destination, opfield := BitVec.ofNat 9 opfield, buffer := buffer,
                        generation := g, domain := domain, serial := serial, words := words }

/-- Keep the refusal bits of a rank's tag for its next summary (R486). -/
def State.noteRefusal (s : State) (source tag : Nat) (mask : BitVec 64) : State :=
  let mine (p : Nat × Nat × BitVec 64) : Bool := p.1 = source && p.2.1 = tag
  let old := ((s.fabric.refusals.find? mine).map (·.2.2)).getD 0
  { s with fabric := { s.fabric with refusals := (source, tag, old ||| mask) :: s.fabric.refusals.filter fun p => !mine p } }

/-- The data of a read of another device (R483): words, and a poison bit for each sector. -/
def State.readData (s : State) (r : Request) : List Word × Nat :=
  match r.kind with
  | .load off n =>
    let base := ((s.entry r.home r.buffer).map (·.base)).getD 0
    let ks := ((s.locateN r.claim 0 (base + off) n).1).getD []
    let bytes := ks.map s.mem.read
    let bad := ((List.range ((n + 63) / 64)).filter fun k => (ks.drop (64 * k)).head?.any fun a => s.poisoned (a / 64)).foldl (fun b k => b + 2 ^ k) 0
    ((List.range ((n + 7) / 8)).map fun i => word (leNat ((bytes.drop (8 * i)).take 8)), bad)
  | _ => ([], 0)

/-- Whether a read reaches a confidential page (R170, R461). -/
def State.readsConf (s : State) (r : Request) : Bool :=
  match r.home, r.kind with
  | .die _, .load off _ => (s.entry r.home r.buffer).any fun e => match s.walk (e.base + off) with
    | .leaf _ _ _ _ p | .hold _ _ _ p => pteBit p 9
    | _ => false
  | _, _ => false

/-- The home has answered a request, through its tile's port where it is a tile's (R421): it leaves the queue, the L1 knows of it (R110), and its answer goes to the tile or to the other device. The
tile's log has no record of a refused notice (R74). -/
def State.answered (s : State) (r : Request) (reason : Option Nat) : State :=
  let s := match r.home with
    | .tile i => s.mapTile i fun t => (t.countPacket 5 false).countPacket 6 true
    | _ => s
  let s := { s with requests := s.requests.filter fun o => o ≠ r }.acked r
  match r.remote with
  | some (device, serial) =>
    let data := match r.kind with
      | .load _ _ => some (s.readData r)
      | _ => none
    let s := match reason with
      | some _ => if data.isNone then s.noteRefusal r.principal r.batch.1 r.batch.2 else s
      | none => s
    s.answerPeer device serial r.home r.principal r.buffer r.generation r.domain reason data [] (s.readsConf r)
  | none =>
    let kind : ReplyKind := match reason, r.kind with
      | none, _ | some _, .notice _ _ => .done
      | some c, k => .refused c k.place.2
    { s with replies := s.replies ++ [{ tile := r.tile, serial := r.serial, buffer := r.buffer, generation := r.generation, domain := r.domain, kind := kind }] }

/-- Whether a serial of a tile's requests comes before another (R422): 24 bits that wrap. -/
def serialBefore (a b : Nat) : Bool := a ≠ b && (b + 2 ^ 24 - a % 2 ^ 24) % 2 ^ 24 < 2 ^ 23

/-- Whether a tile of another device has an earlier request at a home (R72); a reclaim that stays pending lets later requests pass (R76). -/
def State.peerEarlier (s : State) (device serial principal : Nat) (home : HomeId) : Bool :=
  (s.requests.any fun o => o.principal = principal && o.home = home && o.remote.any fun p => p.1 = device && serialBefore p.2 serial) ||
  s.controls.any fun o => o.principal = principal && o.home = home && o.device = device && o.operation ≠ 10 && serialBefore o.serial serial

/-- Whether a home must serve an earlier request of the same tile first (R72). Those of a tile of another device go by their serials, transitions among
them. -/
def State.laterOf (s : State) (r : Request) : Bool :=
  match r.remote with
  | none => (s.requests.takeWhile fun o => o ≠ r).any fun o => o.tile = r.tile && o.principal = r.principal && o.home = r.home
  | some (d, n) => s.peerEarlier d n r.principal r.home

/-- Serve a request at its home (R66): one whose page is waited on stays, a merge that reaches a migrating page is held (R188). An exhausted pool
is reason 12 to another device (R153, log 75). -/
def State.serveRequest (s : State) (r : Request) : State :=
  if s.laterOf r then s
  else match s.mergeHeld r with
  | some s => s
  | none => match s.serve r with
    | .waits s => s
    | .done s => s.answered r none
    | .refused c s => s.answered r (some c)
    | .exhausted s => s.answered r (some 12)

/-- The n-th request reaches its home (R66). -/
def execHomeAccessRequest (n : Nat) (s : State) : Host.Outcome State Fault Refusal :=
  match s.requests[n]? with
  | none => .next s
  | some r => .next (s.serveRequest r)

/-- The n-th request reaches its L2 slice, if it is one for DMEM (R117-R120, R172). -/
def execL2Request (n : Nat) (s : State) : Host.Outcome State Fault Refusal :=
  match s.requests[n]? with
  | none => .next s
  | some r => match r.home with
    | .die _ => .next (s.serveRequest r)
    | _ => .next s

/-- The n-th reply reaches its tile (R67, R110, R115) or the router of a parked one (R422); one whose record finds no free fault log entry waits. -/
def execHomeReplyArrival (n : Nat) (s : State) : Host.Outcome State Fault Refusal :=
  match s.replies[n]? with
  | none => .next s
  | some p =>
    let q := s.replyArrives p
    if q.1 then .next q.2 else .next s

/-! ### Fold lines on a migrating page (R82, R188) -/

/-- The n-th request, if it is a merge, reaches its home (R82): on a migrating page it is held (R188). -/
def execFoldLineMerge (n : Nat) (s : State) : Host.Outcome State Fault Refusal :=
  match s.requests[n]? with
  | none => .next s
  | some r => match r.kind with
    | .merge _ => .next (s.serveRequest r)
    | _ => .next s

/-- The slice releases the lines held on a range, and the L1s issue their merges again (R188); that of a tile whose clock is stopped keeps the line, which
a later drain or eviction merges. -/
def State.releaseMerges (s : State) (va span : Nat) : State :=
  let within' (l : L1Line) : Bool := l.heldMerge && (l.update.bind s.lineAddress).any fun a => va < a + 256 && a < va + span
  let free (t : Tile) : Tile := { t with l1 := t.l1.map fun l => if within' l then { l with heldMerge := false } else l }
  let back := s.tile.index
  let parked := s.mapTiles (fun t => t.parked) free
  let s' : State := { parked with spores := s.spores.map fun (p : Spore) => { p with tiles := p.tiles.map free } }
  ((s'.allTiles.filter fun t => t.l1.any within').foldl (fun s t =>
    let s := s.switchTo t.index
    let ls := s.tile.l1.filter within'
    let s := { s with tile := { s.tile with l1 := s.tile.l1.filter fun l => !within' l } }
    ls.foldl (fun s l => s.postLine l) s) s').switchTo back

/-! ### Grants (R151, R152) -/

/-- A home answers the grant request of a tile that a store under the cap of a register stalls for (R152). -/
def execSnapshotGrantRequest (tile : Nat) (r : Reg) (line : Nat) (s : State) : Host.Outcome State Fault Refusal :=
  match s.tileAt tile with
  | none => .next s
  | some t =>
    let c := t.rc r
    let storing : Bool := match t.wait with
      | some w => (match w.kind with
        | .drain _ | .copy _ => true
        | _ => false)
      | none => false
    match s.homeOf c with
    | none => .next s
    | some h =>
      if storing && !t.parked && c.depth ≠ 0 && c.eff.w && !c.lent && 256 * line < c.length.toNat then
        eventAs tile (grantLine r c h (256 * line) line) s
      else .next s

/-! ### Requests of other devices for a transition (R71, R76, R149-R157, R483) -/

/-- What a home answers to a control request: a grant with the words of its answer. -/
inductive Verdict where
  | grant (words : List Word) (s : State)
  | refuse (reason : Nat) (s : State)
  | pending (s : State)
deriving DecidableEq, Repr

/-- The n-th operand of a control request. -/
def Control.arg (r : Control) (i : Nat) : Nat := r.operands.getD i 0

/-- The principal of a control request: the endpoint that it comes from, or the one that a launch controller acts for (R59, log 11). -/
def Control.holder (r : Control) : Nat :=
  let named := if r.operation = 0 then r.arg 2 else if r.operation = 1 then r.arg 0 else 0
  if named = 0 then r.principal else named

/-- The claim of a control request: another device's, so it reaches the L2 that the buffer number names (R117). -/
def Control.claim (r : Control) : Claim :=
  { home := r.home, buffer := r.buffer, generation := r.generation, domain := r.domain, principal := r.holder, site := some (r.buffer % 4),
    who := .remote r.device r.serial }

/-- Refuse a control request with a violation (R67, R68). -/
def State.deny (s : State) (r : Control) (reason : Nat) : Verdict := .refuse reason (s.refuse r.claim 3 0 reason)

/-- The answer of a granted transition: the fields of the buffer's entry, now under number `b`. -/
def State.allow (s : State) (r : Control) (b : Nat) : Verdict := .grant (((s.entry r.home b).map DirEntry.fields).getD []) s

/-- The states of a buffer that read and fold shares name. -/
def sharedStates : List DirState := [.readShared, .foldShared]

/-- The directory events of R71 that a CTRL request names (log 11). -/
def State.eventOn (s : State) (r : Control) (e : DirEntry) : Verdict :=
  let h := r.home
  let b := r.buffer
  let cap : Cap := { mode := CapMode.ofCode (r.arg 1 % 4), weight := BitVec.ofNat 17 (r.arg 0) }
  let exclusive : Verdict :=
    let q := s.bump h b fun e => { e with state := .exclusive, count := 0, foldOp := 0, owner := r.principal }
    q.2.2.allow r q.1
  match r.operation with
  | 0 => if e.owes cap then (s.giveBack h e cap).allow r b else s.deny r 2
  | 1 =>
    let q := s.bump h b fun e => { e with state := .inTransit, owner := r.holder }
    q.2.2.allow r q.1
  | 2 | 3 => (s.change h b fun e => { e with state := .exclusive, owner := r.arg 0 }).allow r b
  | 4 => (s.change h b fun e => { e with state := .readShared, count := 65536, foldOp := 0, owner := r.principal }).allow r b
  | 5 =>
    if e.depth ≠ 0 then s.deny r 12
    else if !validFoldOp (BitVec.ofNat 5 (r.arg 1)) then s.deny r 11
    else (s.change h b fun e => { e with state := .foldShared, count := 65536, foldOp := BitVec.ofNat 5 (r.arg 1), owner := r.principal }).allow r b
  | 6 => (s.change h b fun e => { e with state := .execShared, count := 1, owner := r.principal }).allow r b
  | 7 => if e.count ≥ 2 ^ 24 - 1 then s.deny r 9 else (s.change h b fun e => { e with count := e.count + 1 }).allow r b
  | 8 => if e.count ≤ 1 then s.deny r 2 else (s.change h b fun e => { e with count := e.count - 1 }).allow r b
  | 9 => if e.count = 65536 then exclusive else s.deny r 2
  | 10 => if reclaimable e cap then exclusive else .pending s
  | 11 =>
    let n := r.arg 0
    if e.depth ≠ 0 || n % 256 ≠ 0 || n = 0 || e.length ≤ n || r.arg 1 ≠ e.base || r.arg 2 ≠ e.length then s.deny r 10
    else match s.carve h e n r.principal with
      | some (lo, hi, s) =>
        let parent := lo.link.getD b
        .grant ((((s.entry h parent).map DirEntry.fields).getD []) ++ lo.fields ++ hi.fields) s
      | none => .refuse 10 s
  | _ => match s.entry h (r.arg 0) with
    | none => s.deny r 10
    | some o =>
      match (if o.generation.toNat = r.arg 1 then s.mergeable h e o r.principal else none) with
      | none => s.deny r 10
      | some p =>
        let (p, s) := s.mergeInto h e o p r.principal
        .grant ([b, o.number, p].flatMap fun n => ((s.entry h n).map DirEntry.fields).getD []) s

/-- The snapshot and keep operations that a CTRL request names (R154-R157, R165); an exhausted pool is reason 12 (log 75). -/
def State.snapshotOn (s : State) (r : Control) (e : DirEntry) : Verdict :=
  let h := r.home
  let b := r.buffer
  let push (region : Bool) (rdepth first last owner : Nat) : Verdict :=
    if e.depth ≥ 7 then s.deny r 9
    else if s.poolFree h e.domain = 0 then .refuse 12 s
    else (s.pushLevel h b region rdepth first last owner Config.tiles 0).allow r b
  let reject : Verdict := match s.rejectTop r.claim with
    | (true, s) => s.allow r b
    | (false, s) => .pending s
  let top := (s.stackOf h b).head?
  match r.operation with
  | 13 => push false 0 0 e.lastLine 0
  | 16 => push true (r.arg 2) (r.arg 0) (r.arg 1) r.principal
  | 14 => if top.any (!·.region) then (s.acceptTop h b).allow r b else s.deny r 12
  | 15 => if top.any (!·.region) then reject else s.deny r 12
  | 19 => if top.any (·.region) then (s.acceptTop h b).allow r b else s.deny r 12
  | _ => if top.isSome then reject else s.deny r 12

/-- The states that the entry of a control request may have, whether it must be the requester's, and the reason otherwise (R71). -/
def Control.needs (r : Control) : List DirState × Bool × Nat :=
  let mode := CapMode.ofCode (r.arg 1 % 4)
  match r.operation with
  | 0 => ([mode.state], mode = .exclusive, if mode = .exclusive then 3 else 2)
  | 1 | 4 | 5 | 6 | 13 | 16 | 21 => ([.exclusive], true, 3)
  | 2 | 3 => ([.inTransit], false, 3)
  | 7 | 8 => ([.execShared], false, 2)
  | 9 => (sharedStates, false, 2)
  | 10 => ([mode.state], false, 2)
  | 11 | 12 => ([.exclusive], true, 10)
  | 14 | 15 | 19 | 20 => ([.exclusive], true, 12)
  | _ =>
    let mode := CapMode.ofCode (r.arg 0 % 4)
    ([mode.state], mode = .exclusive, if mode = .exclusive then 3 else 2)

/-- Whether a Shunter holds a buffer that it copies (R94): the events of its source go by its name. -/
def DirEntry.copied (e : DirEntry) : Bool := e.state = .exclusive && (endpointShunter e.owner).isSome

/-- A request of another device for a transition of an entry (R71, R149-R157, R483). -/
def State.controlOn (s : State) (r : Control) (e : DirEntry) : Verdict :=
  let (states, owned, bad) := r.needs
  let check :=
    if (r.operation = 2 || r.operation = 3) && e.copied then s.checkControl r.claim [.exclusive] false bad
    else s.checkControl r.claim states owned bad
  match check with
  | some c => if (r.operation = 11 || r.operation = 12) && c = 3 then s.deny r 10 else s.deny r c
  | none =>
    if r.operation ≤ 12 then s.eventOn r e
    else if r.operation ≤ 16 || r.operation = 19 || r.operation = 20 then s.snapshotOn r e
    else if r.operation = 18 then .grant [s.infoWord r.home e] s
    else if r.operation = 21 then
      let line := r.arg 0
      match s.checkAccess r.claim e.base (256 * line) (min 256 (e.length - 256 * line)) 1 0 with
      | some c => .refuse c (s.refuse r.claim 1 (256 * line) c)
      | none => match s.firstWrite r.claim line with
        | .yes s => .grant [] s
        | .exhausted s => .refuse 12 s
        | .waits s => .pending s
    else s.deny r 4

/-- A CTRL request at its home: a cancel takes back a reclaim that is still pending, and its answer says whether there was one (R76). -/
def State.control (s : State) (r : Control) : Verdict :=
  if r.operation = 17 then
    let mine (o : Control) : Bool := o.operation = 10 && o.principal = r.principal && o.home = r.home && o.buffer = r.buffer
    .grant [if s.controls.any mine then 1 else 0] { s with controls := s.controls.filter fun o => !mine o }
  else if s.asleep r.home || s.peerEarlier r.device r.serial r.principal r.home then .pending s
  else match s.entry r.home r.buffer with
    | none => s.deny r 1
    | some e => (s.failLevels r.home r.buffer).controlOn r (((s.failLevels r.home r.buffer).entry r.home r.buffer).getD e)

/-- A home goes on with a reject that is in progress, whatever its owner does meanwhile (R159); the level goes when the owner, or its device,
has the answer. -/
def State.resumeReject (s : State) (l : LevelRecord) : State :=
  if s.asleep l.home then s
  else match s.entry l.home l.buffer with
    | none => s
    | some e => (s.rejectCopies { home := l.home, buffer := l.buffer, generation := e.generation, domain := e.domain, principal := e.owner }).2

/-- The n-th control request reaches its home (R71): a reclaim stays pending until its weight is counted (R76). After the last of them the home goes
on with its n-th reject in progress (R159). -/
def execHomeControlRequest (n : Nat) (s : State) : Host.Outcome State Fault Refusal :=
  match s.controls[n]? with
  | none => match (s.levels.filter fun l => l.operation = 2)[n - s.controls.length]? with
    | none => .next s
    | some l => .next (s.resumeReject l)
  | some r =>
    let answer (s : State) (reason : Option Nat) (words : List Word) : State :=
      { s with controls := s.controls.filter fun o => o ≠ r }.answerPeer r.device r.serial r.home r.principal r.buffer r.generation r.domain reason
        none words
    match s.control r with
    | .pending s => .next s
    | .grant ws s => .next (answer s none ws)
    | .refuse c s => .next (answer s (some c) [])

end Sys2Proof.Machine
end

