-- ==== Sys2Proof/Machine/Pages.lean ====
section
/-! DEFINITION. The translation-fault service, walks and first touch as events, migration and host-resident pages, the HBM4 controllers
and the scrubs (R122-R124, R167-R190, R435-R439, R458). -/

namespace Sys2Proof.Machine

open Sys2Proof

/-! ### CXL.mem requests (R143, R184, R493) -/

/-- Add a violation item of the host port to the log of domain 0 (R493); its reason is a value that the spec does not state. -/
def State.hostViolation (s : State) (addr : Nat) : State :=
  let reason := (Config.freeValue s.draws).toNat % 16
  { s with draws := s.draws + 1 }.postItem 0 1 1 false 0 (violationWords (hostEndpoint s.device) 0 0 0 reason 1 (addr % 2 ^ 48) 0 s.clock)

/-- A CXL.mem request has completed: a read with its data and the poison indication. -/
def State.hostDone (s : State) (r : CxlRequest) (data : List Byte) (bad : Bool) : State :=
  { s with host := { s.host with completions := if r.write then s.host.completions else (data, bad) :: s.host.completions } }

/-- A CXL.mem request that cannot be applied (R184, R493): a read completes with zero data and poison, a write is dropped and recorded. -/
def State.failHost (s : State) (r : CxlRequest) : State :=
  let s := { s with host := { s.host with waiting := s.host.waiting.erase r } }
  if r.write then s.hostViolation r.addr else s.hostDone r (List.replicate 64 0) true

/-- The cap of the host port endpoint under which a request to a device virtual address goes on (R143, R493): one of an exclusive cap, or
for a read a read share, whose rights allow it. -/
def State.hostCap (s : State) (r : CxlRequest) : Option Cap :=
  (s.host.handles.map (·.2)).find? fun c =>
    c.kind = .dmem && (if r.write then c.mode = .exclusive && c.eff.w else (c.mode = .exclusive || c.mode = .read) && c.eff.r) &&
      c.base.toNat ≤ r.addr && r.addr + 64 ≤ c.base.toNat + c.length.toNat && s.hostClear c.domain

/-- The claim of the host port endpoint under a cap (R66): it reaches the L2 of die 0 (log 84). -/
def State.hostClaim (s : State) (c : Cap) (h : HomeId) : Claim :=
  { home := h, buffer := c.buffer.toNat, generation := c.generation, domain := c.domain, principal := hostEndpoint s.device,
    range := c.range, who := .host }

/-- Apply a CXL.mem request to a device virtual address (R143, R493): true when it has completed, false while it waits on a translation.
A write is a clean write of its 64 bytes (R330); no tile's log records it. A read of a poisoned sector returns the stored bytes with the
mark (R330, R441). -/
def State.hostApply (s : State) (r : CxlRequest) : Bool × State :=
  match s.hostCap r with
  | none => (true, s.failHost r)
  | some c => match s.homeOf c with
    | none => (true, s.failHost r)
    | some h =>
      let q := s.hostClaim c h
      let off := r.addr - c.base.toNat
      if r.write then
        match s.applyStore q c.base.toNat Config.tiles (r.data.zipIdx.map fun b => (off + b.2, b.1)) [] ((List.range 64).map (off + ·)) false with
        | .done s => (true, s.hostDone r [] false)
        | .refused _ s | .exhausted s => (true, s.failHost r)
        | .waits s => (false, s)
      else
        let s := s.sliceCheck q r.addr
        match s.checkAccess q c.base.toNat off 64 0 0 with
        | some reason => (true, (s.refuse q 0 off reason).failHost r)
        | none => match s.locateN q 0 r.addr 64 with
          | (none, s) => (false, s)
          | (some ks, s) =>
            let key := ks.headD 0
            let s := s.detect h q.buffer off key
            (true, s.hostDone r (ks.map s.mem.read) (s.poisoned (key / 64)))

/-- The host port endpoint serves CXL.mem requests in the order in which it accepted them (R143): those behind one that waits on a
translation wait too. -/
def State.drainHost (s : State) : List CxlRequest → State
  | [] => { s with host := { s.host with waiting := [] } }
  | r :: rs =>
    let q := s.hostApply r
    if q.1 then State.drainHost q.2 rs
    else { q.2 with host := { q.2.host with waiting := { r with since := some (r.since.getD q.2.clock) } :: rs } }

/-- Serve the CXL.mem requests that have waited, once the pages they need may be there. -/
def State.wakeHost (s : State) : State := s.drainHost s.host.waiting

/-! ### Walks, faults and their answers (R171-R181, R184, R185) -/

/-- The offset, length, access code and fold op of what a request asks of its page; none for a notice, which needs no page (R172, R180). -/
def ReqKind.span : ReqKind → Option (Nat × Nat × Nat × BitVec 5)
  | .load off n => some (off, n, 0, 0)
  | .store bytes _ _ =>
    let first := (bytes.map (·.1)).foldl min (2 ^ 48)
    if bytes.isEmpty then none else some (first, (bytes.map (·.1)).foldl max 0 + 1 - first, 1, 0)
  | .merge u => some (u.firstByte, foldBytes u.op, 2, u.op)
  | .notice _ _ => none

/-- The n-th request is translated at its slice when it is one for DMEM that the slice admits and that misses in the L2 (R171, R172): a walk fills the
TLB, or its page is waited on. A walk is one step but for the second read of a critical leaf (R175, R176, log 72). -/
def execPageWalk (n : Nat) (s : State) : Host.Outcome State Fault Refusal :=
  match s.requests[n]? with
  | none => .next s
  | some r =>
    match r.home, s.entry r.home r.buffer, r.kind.span with
    | .die _, some e, some (off, len, access, op) =>
      let a := r.claim.asker access
      let s := s.sliceCheck r.claim (e.base + off)
      if (s.checkAccess r.claim e.base off len access op).isSome || (access = 0 && s.l2Hit a (e.base + off)) then .next s
      else .next (s.translateAt a (e.base + off)).2
    | _, _, _ => .next s

/-- The first-touch unit of a die installs a pre-zeroed frame for the page of an address (R178, R179); an installed entry stays. -/
def execFirstTouchService (die : Nat) (va : Nat) (s : State) : Host.Outcome State Fault Refusal :=
  match s.walk va with
  | .touch _ size entryAt e => match s.firstTouch die size entryAt e with
    | some s => .next s.wakeHost
    | none => .next s
  | _ => .next s

/-- The words of a fault message (R180). -/
def PageWait.words (w : PageWait) : List Word :=
  [word (w.va + w.reason.getD 0 * 2 ^ 48 + w.access * 2 ^ 52), word (w.slice + w.principal * 2 ^ 32),
   word (w.buffer + w.generation.toNat * 2 ^ 24 + w.domain.toNat * 2 ^ 40), w.entry]

/-- The Station core that gets the fault message of an address (R180): core `va[22:21]` of IO die 4 + `va[23]`, the eight counted from 0. -/
def faultCore (va : Nat) : Nat := va / 2 ^ 23 % 2 * 4 + va / 2 ^ 21 % 4

/-- The fault message of the n-th wait reaches its Station core (R23, R180); a wait on a migration sends none (R187). -/
def execFaultMessage (n : Nat) (s : State) : Host.Outcome State Fault Refusal :=
  match s.paging.waits[n]? with
  | none => .next s
  | some w =>
    if w.received || w.reason.isNone then .next s
    else
      let waits := s.paging.waits.map fun o => if o = w then { o with received := true } else o
      .next { s with paging := { s.paging with waits := waits }, stationFaults := s.stationFaults ++ [(faultCore w.va, w.words)] }

/-- Retry (R181): every request that waits on the page walks again. -/
def execFaultAnswerRetry (n : Nat) (s : State) : Host.Outcome State Fault Refusal :=
  match s.paging.waits[n]? with
  | none => .next s
  | some w => if w.received then .next { s with paging := { s.paging with waits := s.paging.waits.erase w } }.wakeHost else .next s

/-- Jobs that wait on a denied page stop (R184): one that needs a copy of a line is refused as if the pool were empty. -/
def State.denyJobs (s : State) (w : PageWait) : State :=
  let hit (j : Job) : Bool := w.who.contains (.job j.tile j.number) && !j.ended && j.since.isSome && j.outcome.isNone
  (s.allTiles.flatMap fun t => t.jobs.filter hit).foldl (fun s j => s.conclude j (if j.copying then .shadowExhausted else .translationFault)) s

/-- Whether a posted request is one of those that wait on a page (R181). -/
def PageWait.holds (w : PageWait) (r : Request) : Bool := w.who.contains r.claim.who

/-- Posted requests that wait on a denied page are refused (R182, R184): a write that needs a copy as if the pool were empty, with reason 12 (log 75),
others with reason 0 (log 75). -/
def State.denyPosted (s : State) (w : PageWait) : State :=
  let reason (s : State) (r : Request) : Nat := match r.kind with
    | .store _ _ _ | .merge _ => if s.owesCopy r.home r.buffer (r.kind.place.2 / 256) then 12 else 0
    | .load _ _ | .notice _ _ => 0
  (s.requests.filter w.holds).foldl (fun s r => s.answered r (some (reason s r))) s

/-- Grant requests of other devices that wait on a denied page are refused as if the pool were empty (R152, R184, log 75). -/
def State.denyGrants (s : State) (w : PageWait) : State :=
  (s.controls.filter fun r => r.operation = 21 && w.who.contains (.remote r.device r.serial)).foldl (fun s r =>
    { s with controls := s.controls.filter fun o => o ≠ r }.answerPeer r.device r.serial r.home r.principal r.buffer r.generation r.domain (some 12)
      none []) s

/-- The instructions that wait on a denied page have their answer (R182): a load or fetch whose request waits there, and one that waits for a drain of the
tile's write-backs or merges there. -/
def State.denyTiles (s : State) (w : PageWait) : State :=
  let drains (t : Tile) : Bool := (t.wait.any fun o => match o.kind with
      | .drain _ => true
      | _ => false) && s.requests.any fun r => r.tile = t.index && r.remote.isNone && w.holds r
  s.mapTiles (fun t => w.who.contains (.tile t.index t.unitKey) || drains t) fun t =>
    { t with wait := t.wait.map fun o => if o.kind.faultWait then { o with denied := true } else o }

/-- Deny (R181, R182, R184): every request that waits on the page gets an error response. -/
def execFaultAnswerDeny (n : Nat) (s : State) : Host.Outcome State Fault Refusal :=
  match s.paging.waits[n]? with
  | none => .next s
  | some w =>
    if !w.received then .next s
    else
      let s := (s.denyTiles w)
      let s := { s with paging := { s.paging with waits := s.paging.waits.erase w } }
      let s := ((s.denyPosted w).denyGrants w).denyJobs w
      .next (if w.who.contains .host then (s.host.waiting.take 1).foldl State.failHost s else s).wakeHost

/-- An invalidate request over a page-aligned range (R185): what is held on its pages walks again, and held lines are released (R188). -/
def execTranslationInvalidate (va : Nat) (span : Nat) (dropL2 : Bool) (s : State) : Host.Outcome State Fault Refusal :=
  if va % 4096 ≠ 0 || span % 4096 ≠ 0 then .next s else .next ((s.invalidate va span dropL2).releaseMerges va span).wakeHost

/-! ### Frames (R178, R179, R437) -/

/-- The DMEM buffer that covers an address. -/
def State.bufferAt (s : State) (va : Nat) : Option DirEntry :=
  s.dirs.find? fun e => (match e.home with
    | .die _ => true
    | _ => false) && e.state ≠ .free && e.state ≠ .carved && e.base ≤ va && va < e.base + e.length

/-- Whether a run of frame bytes may be given to a page: aligned, in HBM4 below the page tables, in no pool, not mapped by a buffer, and
not withheld (R44, R168, R437). -/
def State.frameFree (s : State) (frame n : Nat) : Bool :=
  let meets (a m : Nat) : Bool := a < frame + n && frame < a + m
  frame % n = 0 && !(meets s.paging.root 4096) && frame + n ≤ Config.frameEnd - 4096 * s.paging.tables &&
  !(s.paging.pools.any fun p => meets p.2.2 (pageSize p.2.1)) &&
  !(s.paging.moving.any fun p => meets p.2.2 (pageSize p.2.1)) &&
  s.frameClean frame n &&
  !(s.dirs.any fun e => (match e.home with
      | .die _ => e.state ≠ .free
      | _ => false) && e.pages.any fun va => (s.frameOf va).any fun pa => meets (pa / 4096 * 4096) 4096)

/-- The translation-fault service refills the pool of a size at a die with a pre-zeroed frame (R178, R179). -/
def execFirstTouchPoolRefill (die : Nat) (size : Nat) (frame : Nat) (s : State) : Host.Outcome State Fault Refusal :=
  if die ≥ 4 || size > 11 || !s.frameFree frame (pageSize size) then .next s
  else .next { s.zeroRange (hbmKey frame) (pageSize size) with paging := { s.paging with pools := s.paging.pools ++ [(die, size, frame)] } }

/-- Station firmware has tested a withheld frame or unit and returns it to use (R437). -/
def execWithheldFrameRelease (sector : Nat) (s : State) : Host.Outcome State Fault Refusal :=
  .next { s with withheld := s.withheld.filter fun w => w ≠ sector }

/-- The buffer that covers a frame address, with the offset of the byte in it: the home that counts its poison (R438). -/
def State.bufferOfFrame (s : State) (pa : Nat) : Option (DirEntry × Nat) :=
  s.dirs.findSome? fun e =>
    if e.home.isDmem && e.state ≠ .free && e.state ≠ .carved then (s.offsetIn e (hbmKey pa)).map fun off => (e, off) else none

/-- A controller reads a sector (R435, R438): an armed error of it is detected, and counted at the buffer that covers it, if any. -/
def State.readSector (s : State) (pa : Nat) : State :=
  match s.bufferOfFrame pa with
  | some (e, off) => s.detect e.home e.number off (hbmKey pa)
  | none => s.detectFree (.die 0) (hbmKey pa)

/-- The armed sectors of an array: those whose keys pass a test. -/
def State.armedIn (s : State) (p : Nat → Bool) : List Nat :=
  s.armed.filterMap fun a => match a.item with
    | .sector k => if p (k * 64) then some (k * 64) else none
    | _ => none

/-- The controllers read every sector of a run of frame bytes (R435). -/
def State.readFrames (s : State) (frame n : Nat) : State :=
  (s.armedIn fun k => hbmKey frame ≤ k && k < hbmKey (frame + n)).foldl (fun s k => s.readSector (k - hbmKey 0)) s

/-! ### Migration and host-resident pages (R186-R190) -/

/-- The bits of an entry that its new form keeps: crit, conf (R170). -/
def pteKept (e : Nat) : Nat := (if pteBit e 8 then 2 ^ 8 else 0) + (if pteBit e 9 then 2 ^ 9 else 0)

/-- Set mig = 1 in the run of a leaf and invalidate the page (R186 step 1, R189). -/
def State.startMove (s : State) (page size entryAt e target : Nat) (dropL2 : Bool) : State :=
  let s := (s.setRun size entryAt (e + 2 ^ 10)).invalidate page (pageSize size) dropL2
  { s with paging := { s.paging with moving := s.paging.moving ++ [(page, size, target)] } }

/-- Write the last form of an entry and invalidate again (R186 step 3, R187-R189): everything held on the page walks again. -/
def State.endMove (s : State) (page size entryAt v target : Nat) : State :=
  let s := { (s.setRun size entryAt v) with paging := { s.paging with moving := s.paging.moving.erase (page, size, target) } }
  ((s.invalidate page (pageSize size) false).releaseMerges page (pageSize size)).wakeHost

/-- Copy bytes with their poison marks (R186, R441): reads that hit the L2 see the old place until the page has moved (R187). -/
def State.moveBytes (s : State) (src dst n : Nat) : State :=
  let here (m : PoisonMark) : Bool := src ≤ m.sector * 64 && m.sector * 64 < src + n
  let moved := (s.poison.filter here).map fun m => { m with sector := (m.sector * 64 - src + dst) / 64 }
  { s.zeroRange dst n with mem := (s.mem.zero dst n).writeN dst (s.mem.readN src n), poison := moved ++ s.poison }

/-- A page has moved from one frame to another: the marks of the old one go, and the L2 lines of the page stand for the new one (R187). -/
def State.leaveFrame (s : State) (old new n : Nat) : State :=
  let here (m : PoisonMark) : Bool := hbmKey old ≤ m.sector * 64 && m.sector * 64 < hbmKey old + n
  { s with
    poison := s.poison.filter fun m => !here m
    paging := { s.paging with l2 := s.paging.l2.map fun l =>
      if old ≤ l.frame && l.frame < old + n then { l with frame := l.frame - old + new } else l } }

/-- Cycles of 24 hours at 2.5 GHz (R9, R437). -/
def dayCycles : Nat := 24 * 3600 * 2500000000

/-- Whether a sector was corrected three times within 24 hours (R437). -/
def State.wornOut (s : State) (sector : Nat) : Bool :=
  let times := (s.correctedSectors.filter fun p => p.1 = sector).map (·.2)
  times.any fun t => 3 ≤ (times.filter fun u => t ≤ u && u < t + dayCycles).length

/-- Withhold the sectors of an old frame that are poisoned or were corrected three times within 24 hours (R437). -/
def State.retireFrame (s : State) (frame n : Nat) : State :=
  let inside (k : Nat) : Bool := hbmKey frame ≤ k * 64 && k * 64 < hbmKey frame + n
  let worn := ((s.correctedSectors.map (·.1)).eraseDups).filter fun k => inside k && s.wornOut k
  { s.withhold (((s.poison.map PoisonMark.sector).filter inside) ++ worn) with
    correctedSectors := s.correctedSectors.filter fun p => !inside p.1 }

/-- The service migrates a page to a new frame (R186): the first event sets mig = 1, invalidates and copies; the second writes the new
frame with mig = 0 and invalidates again. Pages of the system window are never migrating (R171). -/
def execPageMigration (va : Nat) (frame : Nat) (s : State) : Host.Outcome State Fault Refusal :=
  if inWindow va then .next s
  else match s.walk va with
    | .leaf page size old entryAt e =>
      if !s.frameFree frame (pageSize size) then .next s
      else
        let s := (s.readFrames old (pageSize size)).retireFrame old (pageSize size)
        .next ((s.startMove page size entryAt e frame false).moveBytes (hbmKey old) (hbmKey frame) (pageSize size))
    | .hold page size entryAt e =>
      if s.paging.moving.contains (page, size, frame) then
        .next ((s.leaveFrame (pteFrame e) frame (pageSize size)).endMove page size entryAt
          (3 + 4 * size + pteKept e + frame + pteVersion e * 2 ^ 48) frame)
      else .next s
    | _ => .next s

/-- The data key of a domain, or of the device for an open one (R189, R458, R471). -/
def State.dataKey (s : State) (d : BitVec 16) (label : Nat) : Nat :=
  if s.sealed d then Config.deriveKey (((s.descriptor d).map (·.secret)).getD 0) [label, d.toNat] else Config.deriveKey 0 [label, s.device]

/-- The domain of a page: that of a buffer on it, else domain 0. -/
def State.pageDomain (s : State) (page n : Nat) : BitVec 16 :=
  ((s.dirs.find? fun e => (match e.home with
    | .die _ => true
    | _ => false) && e.state ≠ .free && e.base < page + n && page < e.base + e.length).map (·.domain)).getD 0

/-- The bytes of a sector as the host holds them (R189, R458): those of a sealed domain encrypted. -/
def State.hostForm (s : State) (d : BitVec 16) (va : Nat) (bytes : List Byte) : List Byte :=
  if s.sealed d then Config.cipher (s.dataKey d 5) (va / 64) bytes else bytes

/-- The MAC of a host-resident sector (R189). -/
def State.hostMac (s : State) (d : BitVec 16) (va version : Nat) (bytes : List Byte) : BitVec 64 := Config.mac (s.dataKey d 6) va version bytes

/-- Write one sector of a page to host memory with its MAC in the eighth of a page that follows (R189); a poison mark goes with it. -/
def State.sectorOut (s : State) (d : BitVec 16) (page n frame host version i : Nat) : State :=
  let src := hbmKey frame + 64 * i
  let dst := Space.host.base + host
  let bytes := s.hostForm d (page + 64 * i) (s.mem.readN src 64)
  let mem := (s.mem.writeN (dst + 64 * i) bytes).writeN (dst + n + 8 * i) (leBytes 8 (s.hostMac d (page + 64 * i) version bytes).toNat)
  let poison := s.poison.map fun m => if m.sector = src / 64 then { m with sector := (dst + 64 * i) / 64 } else m
  { s with mem := mem, poison := poison }

/-- The service moves a page out to host memory (R189), in the two events of a migration. The host addresses a page needs are 4 KiB
aligned (R170). -/
def execPageOutToHost (va : Nat) (host : Nat) (s : State) : Host.Outcome State Fault Refusal :=
  if inWindow va || host % 4096 ≠ 0 || 2 ^ 48 ≤ host then .next s
  else match s.walk va with
    | .leaf page size old entryAt e =>
      let n := pageSize size
      let d := s.pageDomain page n
      let s := (s.readFrames old n).startMove page size entryAt e (2 ^ 48 + host) true
      let s := (List.range (n / 64)).foldl (fun s i => s.sectorOut d page n old host ((pteVersion e + 1) % 2 ^ 16) i) s
      .next (s.retireFrame old n)
    | .hold page size entryAt e =>
      if s.paging.moving.contains (page, size, 2 ^ 48 + host) then
        .next (s.endMove page size entryAt (2 + 4 * size + 2 ^ 7 + pteKept e + host + (pteVersion e + 1) % 2 ^ 16 * 2 ^ 48) (2 ^ 48 + host))
      else .next s
    | _ => .next s

/-- Whether every sector of a host-resident page passes its check (R190). -/
def State.hostPasses (s : State) (d : BitVec 16) (page n host version : Nat) : Bool :=
  let src := Space.host.base + host
  (List.range (n / 64)).all fun i =>
    leNat (s.mem.readN (src + n + 8 * i) 8) = (s.hostMac d (page + 64 * i) version (s.mem.readN (src + 64 * i) 64)).toNat

/-- Copy one sector of a host-resident page back (R190); `bad`: it is poisoned. -/
def State.sectorIn (s : State) (d : BitVec 16) (page frame host : Nat) (bad : Bool) (i : Nat) : State :=
  let src := Space.host.base + host + 64 * i
  let dst := hbmKey frame + 64 * i
  let s := { s with mem := s.mem.writeN dst (s.hostForm d (page + 64 * i) (s.mem.readN src 64)),
                    poison := s.poison.map fun m => if m.sector = src / 64 then { m with sector := dst / 64 } else m }
  if !bad then s
  else match s.bufferAt (page + 64 * i) with
    | some e => s.markPoison e.home e.number (page + 64 * i - e.base) dst 71 false
    | none => s.markPoison (.die 0) (2 ^ 24) 0 dst 71 false

/-- The service copies a host-resident page back into a frame (R190): a page that fails its check is poisoned whole and recorded in the
log of its domain; the entry is installed and the page's requests retried in either case. -/
def execPageInFromHost (va : Nat) (frame : Nat) (s : State) : Host.Outcome State Fault Refusal :=
  match s.walk va with
  | .bad 1 page _ entryAt e =>
    let size := pteSize e
    let n := pageSize size
    if !s.frameFree frame n then .next s
    else
      let d := s.pageDomain page n
      let host := pteHost e
      let bad := !(s.hostPasses d page n host (pteVersion e))
      let s := s.zeroRange (hbmKey frame) n
      let s := (List.range (n / 64)).foldl (fun s i => s.sectorIn d page frame host bad i) s
      let s := s.setRun size entryAt (3 + 4 * size + pteKept e + frame + pteVersion e * 2 ^ 48)
      let s := if bad then s.postItem d 3 1 false 0 [2, page] else s
      .next { s with paging := { s.paging with waits := s.paging.waits.filter fun w => !(w.page < page + n && page < w.page + w.span) } }.wakeHost
  | _ => .next s

/-! ### The HBM4 controllers and the scrubs (R122-R124, R435-R438) -/

/-- Eight clean bytes reach a sector that no buffer covers (R330, R439): a mark that they clear is recorded as its poison was. -/
def State.cleanFree (s : State) (pa : Nat) : State :=
  let s' := (s.cleanBytes (.die 0) (2 ^ 24) 0 (2 ^ 20) ((List.range 8).map fun i => (pa + i, hbmKey pa + i))).getD s
  if s.poisoned (hbmKey pa / 64) && !s'.poisoned (hbmKey pa / 64) then
    s'.postItem 0 2 1 (s.injected.contains (hbmKey pa / 64)) 0 (poisonPayload 0 0 66 (hbmKey pa / 64 * 64 - (HomeId.die 0).space.base) (s.homeEndpoint (.die 0)))
  else s'

/-- A controller accepts a read or a write of eight bytes at a frame address, and serves it (R123, R124): what it reads goes to the
Station core that asked, before the mark of its sector (R438). A write of eight bytes reads the sector first (R458). A Station core holds no cap, so
it asks for nothing that meets a buffer (R22). -/
def execHbm4Request (pa : Nat) (store : Bool) (value : Word) (s : State) : Host.Outcome State Fault Refusal :=
  if Config.frameEnd ≤ pa then .fault (.noSuchAddress pa)
  else if (List.range 8).any fun i => (s.bufferOfFrame (pa / 8 * 8 + i)).isSome then .next s
  else
    let a := pa / 8 * 8
    let s := s.readSector (a / 64 * 64)
    if store then .next ({ s with mem := s.mem.writeN (hbmKey a) (leBytes 8 value.toNat) }.cleanFree a)
    else
      let bad : Word := if s.poisoned (hbmKey a / 64) then 1 else 0
      .next { s with station := word (leNat (s.mem.readN (hbmKey a) 8)) :: bad :: s.station }

/-- The HBM4 controller of a stack has read every sector of it (R122, R436): errors are corrected or detected as by any reader. -/
def execScrubHbm4 (stk : Nat) (s : State) : Host.Outcome State Fault Refusal :=
  let mine (key : Nat) : Bool := hbmKey 0 ≤ key && key < hbmKey Config.frameEnd && (key - hbmKey 0) / 256 % 8 = stk
  .next ((s.armedIn mine).foldl (fun s k => s.readSector (k - hbmKey 0)) s)

/-- A TMEM bank (of a tile) or a CMEM bank (of a cluster) has read every row (R436). -/
def execScrubSram (cmem : Bool) (index : Nat) (s : State) : Host.Outcome State Fault Refusal :=
  let h := if cmem then HomeId.cluster index else .tile index
  let size := if cmem then Config.cmemSize else Config.tmemSize
  let base := h.space.base
  let read (s : State) (k : Nat) : State :=
    match s.dirs.find? fun e => e.home = h && e.state ≠ .free && e.state ≠ .carved && e.base ≤ k - base && k - base < e.base + e.length with
    | some e => s.detect h e.number (k - base - e.base) k
    | none => s.detectFree h k
  .next ((s.armedIn fun k => base ≤ k && k < base + size).foldl read s)

end Sys2Proof.Machine
end

