-- ==== Sys2Proof/Machine/Fabric.lean ====
section
/-! DEFINITION. The Junctions at work: packets that arrive or pass, acknowledgements, resends, ports and the fabric table, and dies that
fail (R26, R31, R206, R338, R445, R460-R462, R472-R490). -/

namespace Sys2Proof.Machine

open Sys2Proof

/-- The device of an endpoint (R29). -/
def deviceOf (e : Nat) : Nat := e / 2 ^ 13

/-! ### Caps that enter the device (R26, R487) -/

/-- The entry kept here for the buffer of a kind 4 cap that enters (R26): what the cap says of it. -/
def State.mirror (s : State) (c : Cap) : State :=
  if c.kind ≠ .remote then s
  else
    let h := HomeId.remote c.location.toNat
    if s.dirs.any fun e => e.home = h && e.number = c.buffer.toNat && e.generation = c.generation then s
    else
      let e : DirEntry :=
        { home := h, number := c.buffer.toNat, base := c.base.toNat, length := c.length.toNat, generation := c.generation, domain := c.domain,
          owner := 0, foldOp := c.foldOp, depth := c.depth.toNat, count := if c.mode = .exclusive then 0 else 65536,
          state := (match c.mode with
            | .exclusive => .inTransit
            | .read => .readShared
            | .fold => .foldShared
            | .exec => .execShared) }
      { s with dirs := s.dirs.filter (fun (o : DirEntry) => !(o.home = h && o.number = c.buffer.toNat)) ++ [e] }

/-- A cap as the receiving Junction rewrites it (R26): kind 3 at home, kind 4 elsewhere, with a new check. -/
def State.enterCap (s : State) (c : Cap) : Cap :=
  match c.kind with
  | .dmem | .remote => s.sign { c with kind := if c.location.toNat = s.device then .dmem else .remote }
  | .null => c
  | _ => s.sign c

/-- The number under which a launch that another device names stands here. -/
def State.keyFrom (s : State) (peer number : Nat) : Nat :=
  s.launchKey (if number < 2 ^ 64 then peer else number / 2 ^ 64 - 1) (number % 2 ^ 64)

/-- The buffer of a kind 4 cap whose message comes back: its home has made the Undeliverable return, and the entry kept here follows it (R71, R100). -/
def State.mirrorBack (s : State) (c : Cap) (owner : Nat) : State :=
  (s.mirror c).mapEntry (.remote c.location.toNat) c.buffer.toNat fun (e : DirEntry) =>
    if e.state = .inTransit then { e with state := .exclusive, owner := owner } else e

/-- The caps of a message as it enters: a return brings the TMEM and CMEM buffers of this device back to their sender (R100). -/
def State.enterCaps (s : State) (m : Msg) : List Cap → List Cap × State
  | [] => ([], s)
  | c :: cs =>
    let c := s.enterCap c
    let (c, s) :=
      if m.type ≠ 0xFD then (c, s.mirror c)
      else if c.kind = .tmem || c.kind = .cmem then s.undeliver c m.senderEp
      else (c, if c.kind = .remote then s.mirrorBack c m.senderEp else s)
    let (cs, s) := State.enterCaps s m cs
    (c :: cs, s)

/-- A message enters from another device (R26, R487): it goes on in the on-die network. -/
def State.enterMsg (s : State) (peer : Nat) (m : Msg) : State :=
  let (caps, s) := s.enterCaps m m.caps
  let dest : Dest := match m.dest with
    | .rank l r => .rank (s.keyFrom peer l) r
    | .endpoint e => .endpoint e
  let m := { m with caps := caps, dest := dest, senderLaunch := s.keyFrom peer m.senderLaunch, seq := s.msgSeq }
  { s with net := s.net ++ [m], msgSeq := s.msgSeq + 1 }

/-! ### Acknowledgements and paths (R477, R479) -/

/-- Tell a device that one of its packets has entered (R477). -/
def State.ackTo (s : State) (peer : Nat) : State :=
  { s with fabric := { s.fabric with sent :=
      { op := 8, vn := 7, bytes := 16, flits := 1, source := controllerEndpoint s.device 0, destination := controllerEndpoint peer 0,
        words := [word (s.fabric.sent.length % 65536), 1] } :: s.fabric.sent } }

/-- The first `n` of a list that pass a test are dropped. -/
def dropFirst {α : Type} (p : α → Bool) : Nat → List α → List α
  | 0, l => l
  | _, [] => []
  | n + 1, x :: xs => if p x then dropFirst p n xs else x :: dropFirst p (n + 1) xs

/-- Packets that wait for a path record take those that are free (R477). -/
def State.drainWaiting (s : State) : State :=
  let ps := s.fabric.waiting
  ps.foldl (fun s p => s.sendPacket (deviceOf p.destination) p) { s with fabric := { s.fabric with waiting := [] } }

/-- A destination Junction acknowledges packets in order (R477): they are no longer kept, and their path may change once none is left. -/
def State.ackedPackets (s : State) (device count : Nat) : State :=
  let f := s.fabric
  let to' (p : Packet) : Bool := deviceOf p.destination = device
  let gone := (f.kept.filter to').take count
  let lower (q : Path) : Path := if q.device = device then { q with unacked := q.unacked - count } else q
  let flits := (gone.map (·.flits)).sum
  let port := ((f.paths.find? fun q => q.device = device).map (·.port)).getD 0
  { s with fabric := { f with kept := dropFirst to' count f.kept, paths := (f.paths.map lower).filter fun q => q.unacked > 0,
                              queued := f.queued.set port (f.load port - flits) } }.drainWaiting

/-- An acknowledgement of packets reaches the sending Junction (R477). -/
def execArrivalAck (device : Nat) (count : Nat) (s : State) : Host.Outcome State Fault Refusal := .next (s.ackedPackets device count)

/-- A port is down (R479): every destination on it gets a new path, on which its kept packets are sent again in their order. -/
def State.dropPort (s : State) (port : Nat) : State :=
  let f := { s.fabric with ports := s.fabric.ports.set port .down, queued := s.fabric.queued.set port 0 }
  let move (f : Fabric) (q : Path) : Fabric :=
    match f.route q.device with
    | none => f
    | some r =>
      let c := f.choose r
      let again := (f.kept.filter fun p => deviceOf p.destination = q.device).map fun p => { p with via := c.2, hop := 1 }
      { f with paths := f.paths.map fun o => if o.device = q.device then { o with port := c.1, via := c.2 } else o,
               sent := again.reverse ++ f.sent, queued := f.queued.set c.1 (f.load c.1 + (again.map (·.flits)).sum) }
  { s with fabric := (f.paths.filter fun q => q.port = port).foldl move f }

/-- After 16 failures of one flit a port goes down (R479). -/
def execPortDown (port : Nat) (s : State) : Host.Outcome State Fault Refusal :=
  if s.fabric.up port then .next (s.dropPort port) else .next s

/-- A port trains (R472, R488, R489): native where the peer offers it, else UALink; one that offers neither stays down and is reported. -/
def execPortTraining (port : Nat) (peerNative : Bool) (peerUalink : Bool) (s : State) : Host.Outcome State Fault Refusal :=
  if port ≥ 72 then .next s
  else
    let mode : PortMode := if peerNative then .native else if peerUalink then .ualink else .down
    let s := { s with fabric := { s.fabric with ports := s.fabric.ports.set port mode } }
    .next (if mode = .down then { s with station := word port :: s.station } else s)

/-- Station firmware loads the fabric table (R475): a device whose path exceeds 6 hops is absent. -/
def execFabricTableLoad (entries : List (Nat × Nat × Nat × BitVec 72)) (s : State) : Host.Outcome State Fault Refusal :=
  let good := entries.filter fun e => e.1 < 2 ^ 19 && e.1 ≠ s.device && e.2.1 < 72 && 1 ≤ e.2.2.1 && e.2.2.1 ≤ 6
  .next { s with fabric := { s.fabric with routes := good.map fun e => ⟨e.1, e.2.1, e.2.2.1, e.2.2.2⟩ } }

/-- Every millisecond the Junction draws its intermediates among its neighbours (R476); the draws are free values (log 6). -/
def execIntermediateRedraw (s : State) : Host.Outcome State Fault Refusal :=
  let near := (s.fabric.routes.filter fun r => r.hops = 1 && s.fabric.up r.port).map fun r => (r.device, r.port)
  let pick (a : List (Nat × Nat) × List (Nat × Nat)) (i : Nat) : List (Nat × Nat) × List (Nat × Nat) :=
    match a.2[(Config.freeWord (s.draws + i)).toNat % max 1 a.2.length]? with
    | some x => (a.1 ++ [x], a.2.erase x)
    | none => a
  let drawn := ((List.range near.length).foldl pick ([], near)).1
  .next { s with fabric := { s.fabric with intermediates := drawn }, draws := s.draws + near.length }

/-- Station firmware clears the mark that a device is unreachable (R485). -/
def execUnreachableMarkClear (device : Nat) (s : State) : Host.Outcome State Fault Refusal :=
  .next { s with fabric := { s.fabric with unreachable := s.fabric.unreachable.filter fun d => d ≠ device } }

/-! ### Requests that get no answer (R485) -/

/-- Whether a request asks a peer for its summary of a tag (R486). -/
def Ask.summarises (a : Ask) (peer tag : Nat) : Bool := a.op = 4 && a.key = 22 && a.device = peer && a.args.getD 1 0 = word tag

/-- A summary reply is ORed into the tag's summary, and its peer no longer waited for (R486). -/
def Tile.sumreply (t : Tile) (peer tag : Nat) (mask : BitVec 64) : Tile :=
  let i : Fin 4 := Fin.ofNat 4 tag
  let b := t.batches.get i
  if !b.peers.contains peer then t
  else
    let b' : Batch := { b with summary := b.summary ||| mask, peers := b.peers.filter (· ≠ peer) }
    { t with batches := t.batches.set i.val b', asks := t.asks.filter fun a => !(a.summarises peer tag) }

/-- A peer is unreachable (R485): remote stores and folds to it are refused with reason 8 and complete, those of jobs among them, and a summary that a tile
waits for has every bit set (R486). -/
def State.markUnreachable (s : State) (d : Nat) : State :=
  let refused (a : Ask) : Ask := if a.device = d && a.op = 2 && !a.done then { a with done := true, reason := some 8 } else a
  let fail (t : Tile) : Tile :=
    let t : Tile := { t with jobs := t.jobs.map fun j => { j with asks := j.asks.map refused } }
    let t := (t.remotes.filter fun m => m.device = d).foldl (fun (t : Tile) m => { t with remotes := t.remotes.erase m }.refuseRemote m) t
    ((List.range 4).filter fun k => t.asks.any fun a => a.summarises d k).foldl (fun t k => t.sumreply d k (BitVec.allOnes 64)) t
  let touched (t : Tile) : Bool := (t.remotes.any fun m => m.device = d) || (t.asks.any fun a => a.device = d) || t.jobs.any fun j => j.asks.any fun a => a.device = d
  let s := s.mapTiles touched fail
  { s with fabric := { s.fabric with unreachable := if s.fabric.unreachable.contains d then s.fabric.unreachable else d :: s.fabric.unreachable } }

/-- Count a resent request. -/
def Ask.again (a o : Ask) : Ask := if o = a then { o with resent := o.resent + 1 } else o

/-- Send an unanswered read, write or control request of a tile again (R485). -/
def State.resendAsk (s : State) (t : Tile) (a : Ask) : State :=
  let p := s.requestOf (t.principal s.device) a.op a.device a.buffer (if a.op = 4 then 0 else a.key)
    (if a.op = 1 then 64 else if a.op = 2 then 80 else 32) (8 * a.args.length) a.serial 0 a.generation t.mdomain
  (s.mapTile t.index fun t =>
    { t with asks := t.asks.map a.again, jobs := t.jobs.map fun j => { j with asks := j.asks.map a.again } }).sendPacket a.device
    { p with words := a.args, opfield := if a.mark then 1 else 0 }

/-- Send an unanswered request of a cluster's Shunter again. -/
def State.resendShunter (s : State) (k : Nat) (x : Transfer) (a : Ask) : State :=
  let c := (x.msg.caps.find? fun c => c.buffer.toNat = a.buffer).getD Cap.null
  (s.mapCluster k fun cl => { cl with transfers := cl.transfers.map fun y => { y with asks := y.asks.map a.again } }).shunterSend k c a

/-- The reply wait of 50 µs of a tile's n-th outstanding request expires (R485): the request is sent again with its serial, up to seven
times; then the peer is unreachable. The requests of the stalled instruction come first, then the remote stores, then those of the jobs that the
tile lent caps to, and those of its cluster's Shunter. -/
def execReplyTimeout (tile : Nat) (n : Nat) (s : State) : Host.Outcome State Fault Refusal :=
  match s.tileAt tile with
  | none => .next s
  | some t =>
    let asks := (t.asks ++ t.jobs.flatMap (·.asks)).filter fun a => !a.done
    let k := clusterOf tile
    let shunter : List (Transfer × Ask) := ((s.clusterAt k).map fun c => c.transfers.flatMap fun x => (x.asks.filter fun a => !a.done).map fun a => (x, a)).getD []
    let try' (a : Ask) (again : State) : Host.Outcome State Fault Refusal :=
      if a.resent ≥ 7 then .next (s.markUnreachable a.device) else .next again
    match asks[n]?, t.remotes[n - asks.length]?, shunter[n - asks.length - t.remotes.length]? with
    | some a, _, _ => try' a (s.resendAsk t a)
    | none, some m, _ =>
      if m.resent ≥ 7 then .next (s.markUnreachable m.device)
      else
        let back := s.tile.index
        let s := s.switchTo tile
        let s := { s with tile := { s.tile with remotes := s.tile.remotes.map fun o => if o = m then { o with resent := o.resent + 1 } else o } }
        .next ((s.sendRemote m).switchTo back)
    | none, none, some q => try' q.2 (s.resendShunter k q.1 q.2)
    | none, none, none => .next s

/-! ### Batch summaries (R338, R486) -/

/-- Answer the summary request of a rank's tag, and clear its record (R486). -/
def State.summaryReply (s : State) (source tag serial : Nat) (domain : BitVec 16) : State :=
  let mine (p : Nat × Nat × BitVec 64) : Bool := p.1 = source && p.2.1 = tag
  let mask := ((s.fabric.refusals.find? mine).map (·.2.2)).getD 0
  let s := { s with fabric := { s.fabric with refusals := s.fabric.refusals.filter fun p => !mine p } }
  s.sendPacket (deviceOf source) { op := 7, vn := 6, bytes := 8, flits := flitsOf 8 false, source := dmemHomeEndpoint s.device 0,
                                   destination := source, btag := tag, serial := serial, domain := domain, words := [mask] }

/-- A peer home answers a batch summary request (R486). -/
def execSummaryRequest (source : Nat) (tag : Nat) (s : State) : Host.Outcome State Fault Refusal := .next (s.summaryReply source tag 0 0)

/-- The summary reply of a peer reaches the tile that closes a tag (R486). -/
def execSumreplyArrival (tile : Nat) (peer : Nat) (tag : Nat) (mask : BitVec 64) (s : State) : Host.Outcome State Fault Refusal :=
  .next (s.mapTile tile fun t => t.sumreply peer tag mask)

/-- The n-th reply of other devices on its way to a tile reaches it (R484): it completes a remote store, whose refusal sets the bits of its
numbers, or answers the stalled instruction. -/
def execRemoteAckArrival (tile : Nat) (n : Nat) (s : State) : Host.Outcome State Fault Refusal :=
  match (s.replies.filter fun p => p.peer && p.tile = tile)[n]? with
  | none => .next s
  | some p => .next (s.replyArrives p).2

/-! ### Packets that arrive (R461, R462, R481-R488) -/

/-- A barrier arrival or release of a launch across devices (R206, log 24). -/
def State.barrierSays (s : State) (peer kind n domain : Nat) : State :=
  if kind = 20 then
    match s.barrier n domain with
    | some b => s.putBarrier { b with arrivals := b.arrivals + 1 }
    | none => s
  else match s.barrier (s.launchKey peer n) domain with
    | some b => s.putBarrier { b with round := b.round + 1, released := b.released ++ [(b.round, s.clock)] }
    | none => s

/-- A binding of a rank of another device to a barrier domain, made or ended (R205, log 24). -/
def State.bindingSays (s : State) (launch domain rank : Nat) (l : Level) (on : Bool) : State :=
  match s.barrier launch domain with
  | none => s
  | some b =>
    let others := b.bound.filter fun p => p ≠ (rank, l)
    s.putBarrier { b with bound := if on then others ++ [(rank, l)] else others }

/-- A SYS packet (R483): an arrival acknowledgement, a barrier's, the firing of a linked halt group (R431), or launch traffic. A cap in it, that of a rank or of a completion message,
is rewritten and checked anew as it enters, and a buffer that stays on the other device has an entry here (R26, R58). -/
def State.takeSys (s : State) (peer : Nat) (words : List Word) : State :=
  let kind := (words.headD 0).toNat / 2 ^ 16
  let arg (i : Nat) : Nat := (words.getD i 0).toNat
  if kind = 0 then s.ackedPackets peer (arg 1)
  else if (kind = 11 || kind = 12) && words.length ≥ 8 then
    let c := s.enterCap (Cap.ofWords (arg 4) (arg 5) (arg 6) (arg 7))
    ((s.mirror c).mapEntry (.remote c.location.toNat) c.buffer.toNat fun (e : DirEntry) =>
      if e.state = .inTransit then { e with state := .exclusive } else e).sysArrives peer (words.take 4 ++ c.words.map word)
  else if kind = 20 || kind = 21 then s.barrierSays peer kind (arg 1) (arg 2)
  else if kind = 22 then s.haltMembers [arg 1] (arg 2)
  else if kind = 23 then s.bindingSays (s.launchKey (arg 2) (arg 1)) (arg 3) (arg 4) (Fin.ofNat 4 (arg 5)) (arg 6 = 1)
  else s.sysArrives peer words

/-- Open a sealed packet (R461, R462): none when its epoch, its counter or its tag fails. -/
def State.openPacket (s : State) (p : Packet) (peer : Nat) : Option State :=
  let k := s.fabric.keyState p.domain peer
  let epoch : Option Nat := if p.epoch = k.recvEpoch % 16 then some k.recvEpoch
    else if p.epoch = (k.recvEpoch + 1) % 16 then some (k.recvEpoch + 1) else none
  match epoch with
  | none => none
  | some e =>
    let seen := if e = k.recvEpoch then k.seen else []
    let top := seen.foldl max 0
    if seen.contains p.counter || p.counter + 1024 ≤ top then none
    else if p.tag ≠ Config.tag (s.fabricKey p.domain peer s.device e) p.counter p.bytesOf then none
    else
      let window := (p.counter :: seen).filter fun c => max top p.counter < c + 1024
      some { s with fabric := s.fabric.putKey { k with recvEpoch := e, seen := window } }

/-- Whether the tag that a packet must carry holds, with the key state after it (R461, R462, R488). -/
def State.letIn (s : State) (p : Packet) (peer : Nat) : Option State :=
  if p.sealed then s.openPacket p peer
  else if p.op = 0 && s.sealed p.domain then none
  else if p.msg.any fun m => !m.caps.isEmpty then
    (if p.tag = Config.tag (portKey peer s.device) p.counter p.bytesOf then some s else none)
  else some s

/-- A reply for a tile of this device (R484): it goes to where the tile runs now (R428). -/
def State.replyFor (s : State) (i : Nat) (p : Packet) (kind : ReplyKind) : State :=
  { s with replies := s.replies ++
    [{ tile := s.relocateTile p.domain i, serial := p.serial, buffer := p.buffer, generation := p.generation, peer := true, domain := p.domain, kind := kind }] }

/-- The answer that a reply gives to a request. -/
def ReplyKind.answer (k : ReplyKind) (a : Ask) : Ask :=
  match k with
  | .done => { a with done := true }
  | .refused reason _ => { a with done := true, reason := some reason }
  | .data ws bad => { a with done := true, words := ws, bad := bad }

/-- A reply reaches its tile's queue or its Shunter (R98, R484); no other agent awaits one. -/
def State.takeAnswer (s : State) (p : Packet) (kind : ReplyKind) : State :=
  match endpointTile p.destination, endpointShunter p.destination with
  | some i, _ => s.replyFor i p kind
  | none, some k => s.shunterReply (s.relocate p.domain k) p.serial kind.answer
  | none, none => s

/-- The home that a request packet goes to (R30, R428): a tile's or a cluster's, where it is now, or that of the buffer's die. -/
def State.homeAt (s : State) (p : Packet) : HomeId :=
  match endpointTile p.destination, endpointClusterHome p.destination with
  | some i, _ => .tile (s.relocateTile p.domain i)
  | none, some k => .cluster (s.relocate p.domain k)
  | none, none => .die (p.buffer % 4)

/-- A packet whose tag fails (R462, R488): it is discarded with an integrity item for a sealed domain; a request gets an error response, a
reply is delivered as poisoned data, and a message is not acknowledged. After eight failures of one message its port goes down. -/
def State.failPacket (s : State) (p : Packet) (peer : Nat) : State :=
  let s := if s.sealed p.domain then s.postItem p.domain 3 1 false 0 [1 + peer * 2 ^ 32, p.counter] else s
  if p.op = 0 then
    let key := peer * 2 ^ 24 + p.serial
    let n := ((s.fabric.failures.find? fun f => f.1 = key).map (·.2)).getD 0 + 1
    let others := s.fabric.failures.filter fun f => f.1 ≠ key
    let port := ((s.fabric.route peer).map (·.port)).getD 0
    if n ≥ 8 then { s with fabric := { s.fabric with failures := others } }.dropPort port
    else { s with fabric := { s.fabric with failures := (key, n) :: others } }
  else if p.op ≤ 4 then
    (s.answerPeer peer p.serial (s.homeAt p) p.source p.buffer p.generation p.domain (some 8) none []).ackTo peer
  else if p.op = 5 then (s.takeAnswer p (.data p.words true)).ackTo peer
  else s.ackTo peer

/-- The request that a RDREQ, WRREQ or FOLDREQ makes at its home (R483, R484); the opfield of a WRREQ carries the poison mark of its sector (R441, log 83). -/
def Packet.request (p : Packet) (home : HomeId) (peer : Nat) : Request :=
  let word' (i : Nat) : Nat := (p.words.getD i 0).toNat
  let kind : ReqKind :=
    if p.op = 1 then .load p.offset p.bytes
    else if p.op = 2 then
      let offsets := (List.range 64).filter fun i => word' 1 / 2 ^ i % 2 = 1
      let data := (p.words.drop 2).flatMap fun w => leBytes 8 w.toNat
      .store (offsets.map fun i => (p.offset + i, data.getD i 0)) (if p.opfield = 0 then [] else [p.offset / 64])
        (if p.opfield = 0 then offsets.map fun i => p.offset + i else [])
    else
      let op := p.opfield.setWidth 5
      .merge { home := home, buffer := p.buffer, generation := p.generation, op := op, line := p.offset / 256,
               words := ((p.words.drop 2).zipIdx).map fun w => if word' 1 / 2 ^ w.2 % 2 = 1 then some w.1 else none,
               domain := p.domain, principal := p.source }
  { serial := p.serial, tile := Config.tiles, principal := p.source, home := home, buffer := p.buffer, generation := p.generation,
    domain := p.domain, kind := kind, remote := some (peer, p.serial), batch := (p.btag, BitVec.ofNat 64 (word' 0)) }

/-- The control request that a CTRL packet makes (R483). -/
def Packet.control (p : Packet) (home : HomeId) (peer : Nat) : Control :=
  { principal := p.source, device := peer, serial := p.serial, home := home, buffer := p.buffer, generation := p.generation,
    domain := p.domain, operation := (p.words.headD 0).toNat, operands := (p.words.drop 1).map BitVec.toNat }

/-- A request that this device has already passed on (R479): a resent one is discarded. -/
def State.passedOn (s : State) (p : Packet) : Bool := s.fabric.passed.contains (p.source, p.serial)

/-- A packet to a reserved endpoint is returned to its sender as an undeliverable message (R31), with its caps if it is a message. -/
def State.returnPacket (s : State) (p : Packet) : State :=
  let w := p.destination % 2 ^ 30 + 2 ^ 32
  s.carry { sender := 0, senderEp := p.source, senderLaunch := 0, dest := .endpoint p.source, type := 0xFD, payload := [word w], caps := [],
            counted := false } p.domain

/-- A packet that has been admitted does its work (R483). -/
def State.perform (s : State) (p : Packet) (peer : Nat) : State :=
  let once (s : State) : State := { s with fabric := { s.fabric with passed := (p.source, p.serial) :: s.fabric.passed } }
  match p.op with
  | 0 => match p.msg with
    | some m =>
      let next := ((s.fabric.recvSeq.find? fun q => q.1 = peer).map (·.2)).getD 0
      if p.serial < next then s
      else { s.enterMsg peer m with fabric := { s.fabric with
        recvSeq := (peer, p.serial + 1) :: s.fabric.recvSeq.filter fun q => q.1 ≠ peer
        failures := s.fabric.failures.filter fun f => f.1 ≠ peer * 2 ^ 24 + p.serial } }
    | none => s
  | 1 | 2 | 3 => if s.passedOn p then s else once { s with requests := s.requests ++ [p.request (s.homeAt p) peer] }
  | 4 =>
    if s.passedOn p then s
    else if (p.words.headD 0).toNat = 22 then once (s.summaryReply p.source (p.words.getD 1 0).toNat p.serial p.domain)
    else once { s with controls := s.controls ++ [p.control (s.homeAt p) peer] }
  | 5 => s.takeAnswer p (.data p.words (p.opfield.getLsbD 0))
  | 6 => s.takeAnswer p (if p.opfield.getLsbD 0 then .refused (p.opfield.toNat / 2 % 16) p.offset else if p.words.isEmpty then .done else .data p.words false)
  | 7 => match endpointTile p.destination with
    | some i => s.mapTile (s.relocateTile p.domain i) fun t => (t.sumreply peer p.btag (p.words.headD 0)).countPacket 6 false
    | none => s
  | _ => s.takeSys peer p.words

/-- Whether a message of a device comes after one that has not arrived (R479, R482). -/
def State.early (s : State) (p : Packet) (peer : Nat) : Bool :=
  p.op = 0 && (((s.fabric.recvSeq.find? fun q => q.1 = peer).map (·.2)).getD 0) < p.serial

/-- Whether the header of a packet is one that a Junction discards (R483): a reserved op or bit, or a network that is not its op's. -/
def Packet.malformed (p : Packet) : Bool :=
  p.reserved || p.op > 8 || (if p.op = 0 then p.vn > 4 else p.vn ≠ opNetwork p.op 0)

/-- Forward a packet by this device's own table entry (R475, R476, R478): the intermediate clears the via field. -/
def State.forward (s : State) (p : Packet) : State :=
  let p := if p.via = some s.device then { p with via := none } else p
  let target := p.via.getD (deviceOf p.destination)
  match s.fabric.route target with
  | none => { s with fabric := { s.fabric with discards := s.fabric.discards + 1 } }
  | some _ =>
    if p.hop ≥ 6 then { s with fabric := { s.fabric with discards := s.fabric.discards + 1 } }
    else { s with fabric := { s.fabric with sent := { p with hop := p.hop + 1 } :: s.fabric.sent } }

/-- The n-th packet that reached a Junction is handled (R483): those of one device in their order. A UALink request without a header of the
part (op 16 and above here) changes nothing and adds a violation item to the log of domain 0 (R490). -/
def execJunctionPacket (n : Nat) (s : State) : Host.Outcome State Fault Refusal :=
  match s.fabric.inbox[n]? with
  | none => .next s
  | some p =>
    let peer := deviceOf p.source
    let rest := { s with fabric := { s.fabric with inbox := s.fabric.inbox.eraseIdx n } }
    if (s.fabric.inbox.take n).any fun o => deviceOf o.source = peer && deviceOf o.destination = deviceOf p.destination then .next s
    else if p.op ≥ 16 then .next (rest.postItem 0 1 1 false 0 (violationWords p.source p.buffer p.generation.toNat 0 4 (if p.op = 17 then 1 else 0) p.offset 0 s.clock))
    else if p.malformed then .next { rest with fabric := { rest.fabric with discards := rest.fabric.discards + 1 } }
    else if deviceOf p.destination ≠ s.device then .next (rest.forward p)
    else if p.op ≠ 0 && !endpointValid p.destination then .next ((rest.returnPacket p).ackTo peer)
    else if s.early p peer then .next s
    else match rest.letIn p peer with
      | none => .next (rest.failPacket p peer)
      | some s => if p.op = 8 && (p.words.headD 0).toNat / 2 ^ 16 = 0 then .next (s.perform p peer) else .next ((s.perform p peer).ackTo peer)

/-! ### Dies that fail (R445) -/

/-- The end of a launch whose die has failed (R396, R445, R468): a share tells its lead. -/
def State.failLaunch (s : State) (die : Nat) (l : Launch) : State :=
  let e : Summary := { body := [0, word die, 0, 0], source := 5, injected := false, endpoint := controllerEndpoint s.device die,
                       time := s.clock, device := s.device }
  let s := (s.mapLaunch l.number fun o => { o.summarise e with failed := true }).beginEnding l.number
  if l.device = s.device then s else s.sendSys l.device 15 [l.issued]

/-- After 16 failed resends of one flit a die has failed: every launch with clusters on it ends (R445). -/
def execDieFailure (die : Nat) (s : State) : Host.Outcome State Fault Refusal :=
  let ends (l : Launch) : Bool :=
    (match l.state with
     | .loading | .running | .parking | .parked | .reviving => true
     | _ => false) && l.groups.any fun g => g.device = s.device && g.cluster / 64 = die
  .next ((s.launches.filter ends).foldl (fun s l => s.failLaunch die l) s)

end Sys2Proof.Machine
end

