-- ==== Sys2Proof/Machine/Fetch.lean ====
section
/-! DEFINITION. Instruction fetch and the prefix (R115, R139, R182, R215, R230-R231, R241, R250, R442, R456). -/

namespace Sys2Proof.Machine

open Sys2Proof

/-- The cap that a tile fetches under: the Lichen share in M-mode (R456), the code cap `c30` in U-mode (R250). -/
def Tile.codeCap (t : Tile) : Cap := if t.mode = .m then t.lichenShare else t.c.get 30

/-- The line of an offset that the instruction cache holds, by its tag (R109, R115). -/
def Tile.iline (t : Tile) (c : Cap) (line : Nat) : Option ILine :=
  t.icache.find? fun l => l.kind = c.kind && l.location = c.location.toNat && l.buffer = c.buffer.toNat && l.generation = c.generation && l.line = line

/-- The sectors of a line of a code buffer, each with its bytes and its poison mark, that another device answers: one RDREQ for each (R484). -/
def peerSectors (c : Cap) (off : Nat) : List Nat → Act (List (List Byte × Bool))
  | [] => pure []
  | k :: ks => do
    if c.length.toNat ≤ 64 * k then return []
    let a ← askPeer 30 c 1 (64 * k) off [] (.reply off)
    let rest ← peerSectors c off ks
    return (((a.words.flatMap fun (w : Word) => leBytes 8 w.toNat) ++ List.replicate 64 0).take 64, a.bad) :: rest

/-- The content of a line of a code buffer, read at its home by a fetch of the word at `off` (R115, R119, R250): the home checks it, and it may wait
on a translation. A refusal raises cause 24 with the offset (log 14). The poisoned sectors are noted with their keys. -/
def readLine (c : Cap) (h : HomeId) (off : Nat) : Act (List Byte × List (Nat × Nat)) := do
  let line := off / 256
  if c.kind = .remote then
    let got ← peerSectors c off ((List.range 4).map (4 * line + ·))
    return (got.flatMap (·.1), (got.zipIdx.filter fun p => p.1.2).map fun p => (p.2, 0))
  else
    let s ← get
    if s.asleep h then stall .inject
    let q := s.claim h c s.tile
    let n := min 256 (c.length.toNat - 256 * line)
    set (s.sliceCheck q (c.base.toNat + 256 * line))
    let s ← get
    match s.checkAccess q c.base.toNat (256 * line) n 0 0 with
    | some reason =>
      set (s.refuse q 0 off reason)
      capTrap 30 reason true 24 (word off)
    | none =>
      match s.locateN q 3 (c.base.toNat + 256 * line) n with
      | (none, s) => do
        set s
        holdOn off false
      | (some ks, s) =>
        let s := (ks.filter (· % 64 = 0)).foldl (fun s k => s.detect h c.buffer.toNat (256 * line) k) s
        set s
        return (ks.map s.mem.read, (ks.zipIdx.filter fun p => p.2 % 64 = 0 && s.poisoned (p.1 / 64)).map fun p => (p.2 / 64, p.1))

/-- The line of the word at an offset of the code buffer: an instruction cache hit asks no home (R115, R139); a miss fills a line, and the
oldest fill goes when the 256 lines are in use (log 70). A fill that reports a poisoned sector sets Z (R440). -/
def fetchLine (c : Cap) (h : HomeId) (off : Nat) : Act ILine := do
  match (← curTile).iline c (off / 256) with
  | some l => return l
  | none =>
    let (data, bad) ← readLine c h off
    let l : ILine := { kind := c.kind, location := c.location.toNat, buffer := c.buffer.toNat, generation := c.generation, line := off / 256,
                       data := data, bad := bad }
    let dev := (← get).device
    onTile fun t =>
      let t := if bad.isEmpty then t else t.setZ dev c.kind c.location.toNat c.buffer.toNat c.generation
      { t with icache := (l :: t.icache).take 256 }
    return l

/-- Fetch the word at `pc` (R250): cause 1 outside the buffer, cause 0 at a `pc` that is not a multiple of 4, to which a loop start
written by software can lead (R215, R241, log 69); a code cap that is no exec share with R raises cause 24 (R56, log 14); a poisoned
sector is consumed (R442). -/
def fetch : Act (BitVec 32) := do
  let s ← get
  let t := s.tile
  let c := t.codeCap
  if t.pc.toNat + 4 > c.length.toNat then trap 1 t.pc
  if t.pc.toNat % 4 ≠ 0 then trap 0 t.pc
  if !(c.mode = .exec && c.eff.r) then capTrap 30 0 false 24 t.pc
  match s.homeOf c with
  | none => capTrap 30 0 false 24 t.pc
  | some h =>
    let l ← fetchLine c h t.pc.toNat
    match l.bad.find? fun p => p.1 = t.pc.toNat % 256 / 64 with
    | some p => consume t.pc c (some p.2)
    | none => return BitVec.ofNat 32 (leNat ((l.data.drop (t.pc.toNat % 256)).take 4))

/-- The fetch of a prefix's second word at the end of an active loop, where the prefix is illegal: its traps come first, with `mepc` at
the prefix, and a stall leaves the prefix to be retried (R231, R241). -/
def fetchSecond (n : BitVec 8) : Act Unit := do
  let pc := (← curTile).pc
  onTile fun t => { t with kpre := some n, pc := pc + 4 }
  tryCatch (do let _ ← fetch; pure ()) fun
    | .wait k => do
      onTile fun t => { t with kpre := none, pc := pc }
      stall k
    | e => throw e

/-- `kpre kN` (R230): latch N; the unit retires with the next instruction. A second prefix is illegal, and so is one at the end of an
active loop, once its second word is fetched (R231), with its own word as value whatever the second is (log 89). -/
def execKpre (n : BitVec 8) (s : State) : Host.Outcome State Fault Refusal :=
  if s.tile.misplaced {} then finish s (EStateM.run (illegal (.kpre n)) s)
  else if s.tile.atLoopEnd then finish s (EStateM.run (do fetchSecond n; illegal (.kpre n)) s)
  else finish s (EStateM.run (do
    onTile fun t => { t with kpre := some n, pc := t.pc + 4, halted := t.halted || t.debugStep = some false, debugStep := if t.debugStep = some false then none else t.debugStep }
    throw .leave) s)

end Sys2Proof.Machine
end

