-- ==== Sys2Proof/Machine/HostPort.lean ====
section
/-! DEFINITION. The host port endpoint: CXL.mem requests, the message rings in host memory, cap handles, host windows and the registers of
BAR0 (R49, R59, R99, R143, R331, R334, R459, R460, R491-R496). -/

namespace Sys2Proof.Machine

open Sys2Proof

/-! ### CXL.mem (R143, R493) -/

/-- The enable bit of `hctl` (R494). -/
def HostPort.enable (h : HostPort) : Bool := h.hctl.getLsbD 0

/-- The device virtual address of a host address under the decoder (R493). -/
def HostPort.decode (h : HostPort) (addr : Nat) : Option Nat :=
  h.decoder.bind fun d => if d.1 ≤ addr && addr + 64 ≤ d.1 + d.2.1 then some (addr - d.1 + d.2.2) else none

/-- The host reads or writes a 64-byte sector over CXL.mem (R143, R493): the request goes behind those accepted before it. An address
outside the decoder's range reaches no buffer. -/
def execCxlMemRequest (store : Bool) (addr : Nat) (value : BitVec 512) (s : State) : Host.Outcome State Fault Refusal :=
  let sector := addr / 64 * 64
  let r : CxlRequest := { write := store, addr := (s.host.decode sector).getD (2 ^ 48), data := if store then leBytes 64 value.toNat else [] }
  .next (s.drainHost (s.host.waiting ++ [r]))

/-- The n-th CXL.mem request has waited 1,000 µs on a translation (R493). -/
def execCxlMemWaitExpired (n : Nat) (s : State) : Host.Outcome State Fault Refusal :=
  match s.host.waiting[n]? with
  | none => .next s
  | some r =>
    if r.since.any fun c => c + 2500000 ≤ s.clock then .next (s.failHost r).wakeHost else .next s

/-! ### The rings in host memory (R494, R495) -/

/-- Read a word of host memory. -/
def State.hostWord (s : State) (a : Nat) : Word := word (leNat (s.mem.readN (Space.host.base + a) 8))

/-- Whether a ring size is one that R494 gives: a power of two from 16 to 4,096. -/
def ringSize (v : Word) : Bool := (List.range 9).any fun i => v.toNat = 16 * 2 ^ i

/-- Whether the receive ring has room (R495): one entry stays free, so that equal indexes mean an empty ring. -/
def HostPort.room (h : HostPort) : Bool :=
  h.enable && ringSize h.rqsize && (h.rqtail.toNat + 1) % h.rqsize.toNat ≠ h.rqhead.toNat % h.rqsize.toNat

/-- Write an entry of sixteen words to the receive ring (R495). -/
def State.postReceive (s : State) (words : List Word) : State :=
  let h := s.host
  let place := Space.host.base + h.rqbase.toNat + 128 * (h.rqtail.toNat % h.rqsize.toNat)
  { s with mem := s.mem.writeN place (words.flatMap fun w => leBytes 8 w.toNat),
           host := { h with rqtail := word ((h.rqtail.toNat + 1) % h.rqsize.toNat) } }

/-- Words of an entry whose content the spec does not state (log 6). -/
def State.drawn (s : State) (n : Nat) : List Word × State :=
  ((List.range n).map fun i => Config.freeValue (s.draws + i), { s with draws := s.draws + n })

/-- A receive entry of a refused submission (R495): its index, the launch it names, its handles and the reason; no message stands in
words 0 and 4 to 10. -/
def State.refuseEntry (s : State) (w : List Word) (reason : Nat) : State :=
  let index := s.host.sqhead.toNat % s.host.sqsize.toNat
  let hs := (w.getD 2 0).toNat
  let word2 := hs % 2 ^ 12 + hs / 2 ^ 16 % 2 ^ 12 * 2 ^ 16 + 2 ^ 32 + reason % 256 * 2 ^ 40 + index * 2 ^ 48
  let q := s.drawn 8
  q.2.postReceive ([q.1.getD 0 0, w.getD 1 0, word word2, 0] ++ q.1.drop 1 ++ [0, 0, 0, 0, 0])

/-! ### Submissions (R495, R496) -/

/-- What a submission comes to. -/
inductive Submitted where
  /-- The entry waits (R83 step 3): a CXL.mem request to a buffer that it sends has not completed. -/
  | waits
  | refused (reason : Nat) (s : State)
  | done (s : State)

/-- The fields that must be zero, and the ranges, of an entry (R331, R495, R496). -/
def entryClean (w : List Word) : Bool :=
  let n (i : Nat) : Nat := (w.getD i 0).toNat
  let ctl := SendWord.ofWord (w.getD 0 0)
  let win := n 3 / 2 % 2 = 1
  ctl.clean && ctl.k ≤ 2 && n 2 / 2 ^ 12 % 16 = 0 && n 2 / 2 ^ 28 % 16 = 0 && n 2 / 2 ^ 34 = 0 && n 3 < 4 && n 14 = 0 && n 15 = 0 &&
  (if win then n 11 < 2 ^ 48 && 0 < n 12 && n 12 < 2 ^ 40 && n 13 / 8 % 2 ^ 29 = 0 && ctl.k ≠ 0 && n 2 % 2 ^ 12 = 0
   else n 11 = 0 && n 12 = 0 && n 13 = 0)

/-- The cap in a handle (R495): null when the handle is free. -/
def HostPort.handle (h : HostPort) (i : Nat) : Cap := ((h.handles.find? fun p => p.1 = i).map (·.2)).getD Cap.null

/-- Empty handles. -/
def State.emptyHandles (s : State) (is : List Nat) : State :=
  { s with host := { s.host with handles := s.host.handles.filter fun p => !is.contains p.1 } }

/-- Free the caps of handles (R77, R318, R495), in order; a refusal of the home ends it. -/
def State.freeHandles (s : State) : List Nat → Submitted
  | [] => .done s
  | i :: is =>
    let c := s.host.handle i
    match c.kind with
    | .null => .refused 4 s
    | .host => State.freeHandles (s.emptyHandles [i]) is
    | _ =>
      match s.homeOf c with
      | none => .refused 4 s
      | some h =>
        let q := s.hostClaim c h
        match s.checkControl q [c.mode.state] true, s.entry h q.buffer with
        | none, some e => State.freeHandles (((s.tellPeer c 0 [c.weight.toNat, c.mode.code, hostEndpoint s.device]).giveBack h e c).emptyHandles [i]) is
        | some r, _ => .refused r (s.refuse q 3 0 r)
        | none, none => .refused 1 s

/-- Why a window makes no cap (R496): the domain or hostclear, or the range. -/
def State.windowReason (s : State) (d : BitVec 16) (base len : Nat) : Option Nat :=
  let mine := s.host.windows.filter fun p => p.1 = d
  if mine.isEmpty || !s.hostClear d then some 8
  else if mine.any fun p => p.2.1 ≤ base && base + len ≤ p.2.1 + p.2.2 then none
  else some 5

/-- The kind 5 cap of a window (R496). -/
def State.windowCap (s : State) (d : BitVec 16) (w : List Word) : Cap :=
  let r := (w.getD 13 0).toNat
  s.sign { base := (w.getD 11 0).setWidth 48, length := (w.getD 12 0).setWidth 40, kind := .host, location := BitVec.ofNat 20 s.device,
           rights := { r := r % 2 = 1, w := r / 2 % 2 = 1, s := r / 4 % 2 = 1 }, mode := .exclusive,
           buffer := BitVec.ofNat 24 s.host.made, weight := 65536, format := BitVec.ofNat 32 (r / 2 ^ 32), domain := d }

/-- Why a cap in a handle cannot be sent to a rank (R60, R83 step 1, R98): `device`, that of the destination. A cap that fails R60 in
something else than its domain fails for a reason that R69 does not list: none is chosen here (log 6). -/
def State.handleReason (s : State) (d : BitVec 16) (device : Nat) (c : Cap) : Option Nat :=
  if c.kind = .null || !c.eff.s then some 4
  else if c.domain ≠ d then some 6
  else if !s.capPasses { s.tile with mdomain := d } c true then some ((Config.freeValue s.draws).toNat % 16)
  else if device ≠ s.device && !c.eff.e then some 8
  else none

/-- Step 4 of R83 for the caps of a submission, in slot order (R84): a refusal undoes the Send transitions granted before it. -/
def State.sendHandles (s : State) : List Cap → Except (Nat × State) (List Cap × State)
  | [] => .ok ([], s)
  | c :: cs =>
    let own : Option Nat × State × Cap := match c.kind, s.homeOf c with
      | .handle, some h | .slot, some h => match s.checkRing h c with
        | none => (none, s, c)
        | some r => (some r, s.refuse (s.hostClaim c h) 3 0 r, c)
      | .tmem, some h | .cmem, some h | .dmem, some h | .remote, some h =>
        if c.mode ≠ .exclusive then
          if c.kind = .cmem && (s.entry h c.buffer.toNat).any (s.rangeLeaves (s.hostClaim c h)) then (some 5, s.refuse (s.hostClaim c h) 3 0 5, c)
          else (none, s, c)
        else match s.checkControl (s.hostClaim c h) [.exclusive] true with
          | some r => (some r, s.refuse (s.hostClaim c h) 3 0 r, c)
          | none =>
            let (b, g, s) := (s.tellPeer c 1 [hostEndpoint s.device]).bump h c.buffer.toNat fun e => { e with state := .inTransit, owner := hostEndpoint s.device }
            (none, s, s.sign { c with buffer := BitVec.ofNat 24 b, generation := g })
      | .host, _ => (none, s, c)
      | _, _ => (some 4, s, c)
    match own with
    | (some r, s, _) => .error (r, s)
    | (none, s, c') => match State.sendHandles s cs with
      | .ok (cs', s) => .ok (c' :: cs', s)
      | .error (r, s) =>
        let (back, s) := s.undeliver c' (hostEndpoint s.device)
        .error (r, { s with host := { s.host with handles := s.host.handles.map fun p => if p.2 = c then (p.1, back) else p } })

/-- Whether a CXL.mem request that the endpoint has accepted and not completed goes to a buffer of a cap (R143, R83 step 3). -/
def State.hostBusy (s : State) (c : Cap) : Bool :=
  c.kind = .dmem && s.host.waiting.any fun r => c.base.toNat ≤ r.addr && r.addr < c.base.toNat + c.length.toNat

/-- Send the message of a submission (R83, R331, R495, R496). The sender field of a message of the host port endpoint, which has no rank,
and the reason of a rank that the launch lacks, are values that the spec does not state (log 6). -/
def State.submit (s : State) (w : List Word) : Submitted :=
  let ctl := SendWord.ofWord (w.getD 0 0)
  let launch := (w.getD 1 0).toNat
  let hs := (w.getD 2 0).toNat
  let win := (w.getD 3 0).toNat / 2 % 2 = 1
  let names := ([hs % 2 ^ 12, hs / 2 ^ 16 % 2 ^ 12].take ctl.k).drop (if win then 1 else 0)
  let caps := names.map s.host.handle
  if 0xF0 ≤ ctl.type.toNat then .refused 4 s
  else match s.place launch ctl.rank with
    | none => .refused ((Config.freeValue s.draws).toNat % 16) { s with draws := s.draws + 1 }
    | some (device, _) =>
      let d := s.domainOf launch
      let bad := if win then s.windowReason d (w.getD 11 0).toNat (w.getD 12 0).toNat else none
      match bad, caps.findSome? (s.handleReason d device) with
      | some r, _ => .refused r s
      | none, some r => .refused r { s with draws := s.draws + 1 }
      | none, none =>
        if names.length = 2 && names[0]? = names[1]? then .refused 4 s
        else if device ≠ s.device && s.offRoster d device then
          .refused 8 (s.rosterItem d (hostEndpoint s.device) ((caps.head?.map (·.buffer.toNat)).getD 0) ((caps.head?.map (·.generation)).getD 0) 0)
        else if caps.any s.hostBusy then .waits
        else match s.sendHandles caps with
          | .error (r, s) => .refused r s
          | .ok (sent, s) =>
            let made := if win then [s.windowCap d w] else []
            let s := { s with host := { s.host with made := if win then (s.host.made + 1) % 2 ^ 24 else s.host.made } }
            let all := made ++ sent
            let m : Msg :=
              { sender := (Config.freeValue s.draws).toNat % 2 ^ 30, senderEp := hostEndpoint s.device, senderLaunch := launch,
                dest := .rank launch ctl.rank, type := ctl.type, payload := (w.drop 4).take ctl.n, caps := all,
                hint := BitVec.ofNat 2 (hs / 2 ^ 32), places := all.map fun _ => 0, placed := all.isEmpty }
            .done ({ s with draws := s.draws + 1 }.emptyHandles names |>.sendMsg m d)

/-- Read the next submission entry (R495): it sends a message, frees handles, or is refused with a receive entry. While the receive ring
has no room for one the entry waits. -/
def execSubmissionEntry (s : State) : Host.Outcome State Fault Refusal :=
  let h := s.host
  let n := h.sqsize.toNat
  if !h.room || !ringSize h.sqsize || h.sqhead.toNat % n = h.sqtail.toNat % n then .next s
  else
    let at' := h.sqbase.toNat + 128 * (h.sqhead.toNat % n)
    let w := (List.range 16).map fun i => s.hostWord (at' + 8 * i)
    let hs := (w.getD 2 0).toNat
    let named := [hs % 2 ^ 12, hs / 2 ^ 16 % 2 ^ 12].take (SendWord.ofWord (w.getD 0 0)).k
    let out := if !entryClean w then .refused 9 s
      else if (w.getD 3 0).toNat % 2 = 1 then (if named.any fun i => s.hostBusy (s.host.handle i) then .waits else s.freeHandles named)
      else s.submit w
    let past (s : State) : State := { s with host := { s.host with sqhead := word ((h.sqhead.toNat + 1) % n) } }
    match out with
    | .waits => .next s
    | .done s => .next (past s)
    | .refused r s => .next (past (s.refuseEntry w r))

/-! ### Messages to the host (R99, R495) -/

/-- The first free handles (log 12). -/
def HostPort.freeSlots (h : HostPort) (n : Nat) : List Nat :=
  ((List.range 4096).filter fun i => !(h.handles.any fun p => p.1 = i)).take n

/-- The n-th message of the network enters the receive ring (R99, R495), its caps checked as they enter (R59, R60) and owned by the endpoint
from then on (R71); one that fails is null in its handle. A message that finds no room stays. What stands in the payload words that the
message does not carry is a value that the spec does not state (log 6). -/
def execHostEndpointDelivery (n : Nat) (s : State) : Host.Outcome State Fault Refusal :=
  match s.net[n]? with
  | none => .next s
  | some m =>
    let slots := s.host.freeSlots m.caps.length
    if m.dest ≠ .endpoint (hostEndpoint s.device) || s.mustWait m || !s.host.room || slots.length < m.caps.length then .next s
    else
      let s := m.caps.foldl (fun s c => s.deliverCap c (hostEndpoint s.device)) (s.dropNet m)
      let kept := m.caps.map fun (c : Cap) => if s.capPasses { s.tile with mdomain := c.domain } c true then c else Cap.null
      let s := { s with host := { s.host with handles := s.host.handles ++ slots.zip kept } }
      let q := s.drawn (7 - m.payload.length)
      .next (q.2.postReceive ([({ msg := m } : QMsg).header, word m.senderLaunch, word (slots.getD 0 0 + slots.getD 1 0 * 2 ^ 16), 0] ++
        m.payload ++ q.1 ++ [0, 0, 0, 0, 0]))

/-! ### Registers and tables (R491, R493, R494, R496) -/

/-- What a read of a register of BAR0 returns (R494); the feature block's copy lies from `featbase` on. -/
def HostPort.bar0Read (h : HostPort) (addr : Nat) : Option Word :=
  match addr with
  | 0x000 => some h.sqbase
  | 0x008 => some h.sqsize
  | 0x010 => some h.sqtail
  | 0x018 => some h.sqhead
  | 0x020 => some h.rqbase
  | 0x028 => some h.rqsize
  | 0x030 => some h.rqhead
  | 0x038 => some h.rqtail
  | 0x040 => some h.hctl
  | 0x048 => some h.featbase
  | _ => none

/-- The 32-bit word at an offset of the PCIe configuration space of function 0, which a configuration read returns (R492): the identity in its
header, whose layout is PCIe's (log 6); what else the space holds, the CXL DVSECs among it, is free. -/
def configRead (offset : Nat) : BitVec 32 :=
  let vendor := 0x1F3A
  match offset with
  | 0x00 => BitVec.ofNat 32 (vendor + 0x9416 * 2 ^ 16)
  | 0x08 => BitVec.ofNat 32 (revision.toNat % 256 + 0x120000 * 2 ^ 8)
  | 0x2C => BitVec.ofNat 32 (vendor + (if Config.moduleForm then 0x0001 else 0x0002) * 2 ^ 16)
  | o => Config.pcieWord o

/-- The host writes a register of BAR0 (R494): while `hctl` bit 0 is 1, only `hctl`. -/
def execBar0RegisterWrite (addr : Nat) (value : Word) (s : State) : Host.Outcome State Fault Refusal :=
  let h := s.host
  if addr = 0x040 then .next { s with host := { h with hctl := value } }
  else if h.enable then .next s
  else match addr with
    | 0x000 => .next { s with host := { h with sqbase := value } }
    | 0x008 => .next { s with host := { h with sqsize := value } }
    | 0x010 => .next { s with host := { h with sqtail := value } }
    | 0x020 => .next { s with host := { h with rqbase := value } }
    | 0x028 => .next { s with host := { h with rqsize := value } }
    | 0x030 => .next { s with host := { h with rqhead := value } }
    | _ => .next s

/-- Station firmware loads the host window table (R496): at most 64 entries, bases and lengths multiples of 4 KiB. -/
def execHostWindowTableLoad (entries : List (BitVec 16 × Nat × Nat)) (s : State) : Host.Outcome State Fault Refusal :=
  if entries.length ≤ 64 && entries.all fun e => e.2.1 % 4096 = 0 && e.2.2 % 4096 = 0 && e.2.1 + e.2.2 ≤ 2 ^ 48 then
    .next { s with host := { s.host with windows := entries } }
  else .next s

/-- Station firmware programs the decoder (R493). -/
def execHdmDecoderProgram (base size window : Nat) (s : State) : Host.Outcome State Fault Refusal :=
  if size % 2 ^ 28 = 0 && size ≤ 2 ^ 39 && window % 2 ^ 28 = 0 then
    .next { s with host := { s.host with decoder := some (base, size, window) } }
  else .next s

/-- An IDE_KM request programs the keys of the host link (R491), in an SPDM session only. -/
def execIdeKmRequest (key : Nat) (s : State) : Host.Outcome State Fault Refusal :=
  match s.trust.spdm with
  | .secure _ => .next { s with host := { s.host with ide := some key } }
  | _ => .next s

end Sys2Proof.Machine
end

