-- ==== Sys2Proof/Machine/Trust.lean ====
section
/-! DEFINITION. The root of trust: domain descriptors, session logs, heartbeats, receipts, error summaries and the SPDM responder (R68, R416,
R452-R453, R461, R463-R471). -/

namespace Sys2Proof.Machine

open Sys2Proof

/-! ### Time and words -/

/-- Device time in ns since boot (R463): a cycle of the 2.5 GHz clock takes 0.4 ns. -/
def nsOf (cycles : Nat) : Nat := cycles * 2 / 5

/-- The words of a number, lowest first. -/
def natWords (n v : Nat) : List Nat := (List.range n).map fun i => v / 2 ^ (64 * i) % 2 ^ 64

/-- A SHA-384 digest (R463). -/
def digest384 (words : List Nat) : Nat := Config.digest words % 2 ^ 384

/-- A signature of words under the attestation key (R465). -/
def Trust.sign (t : Trust) (words : List Nat) : Nat := Config.signature t.attestation (digest384 words) % 2 ^ 768

/-! ### Session logs (R463-R466) -/

/-- The first words of an item (R463). -/
def LogItem.header (i : LogItem) : List Nat :=
  [i.type + i.units * 2 ^ 8 + (if i.injected then 2 ^ 16 else 0) + i.domain.toNat * 2 ^ 32, i.sequence % 2 ^ 64, i.time % 2 ^ 64, i.launch % 2 ^ 64]

/-- Payload words of an item (R463, R464): what the type gives, then zeros. -/
def LogItem.body (i : LogItem) : List Nat := (i.payload ++ List.replicate (16 * i.units) 0).take (16 * i.units - 10)

/-- The words of an item without its chain value. -/
def LogItem.open' (i : LogItem) : List Nat := i.header ++ i.body

/-- The words of an item (R463). -/
def LogItem.words (i : LogItem) : List Nat := i.open' ++ natWords 6 i.chain

/-- Units of a log that hold no unread item (R466). -/
def SessionLog.free (l : SessionLog) : Nat := l.size - l.used

/-- Write the units of an item into the ring of a domain's log (R452, R463), where its pages are mapped; `place`: its first unit. -/
def State.writeUnits (s : State) (d : BitVec 16) (size place : Nat) (words : List Nat) : State :=
  match s.descriptor d with
  | none => s
  | some e => (List.range (words.length / 16)).foldl (fun s j =>
      s.writeWindow (e.logbase + 128 * ((place + j) % size)) ((words.drop (16 * j)).take 16)) s

/-- Change the log of a domain. -/
def State.mapLog (s : State) (d : BitVec 16) (f : SessionLog → SessionLog) : State :=
  { s with trust := { s.trust with logs := s.trust.logs.map fun l => if l.domain = d then f l else l } }

/-- Append an item to a log that has room for it (R463): its sequence, time and chain value; `payload` from the header and the chain value
before it. -/
def State.appendItem (s : State) (l : SessionLog) (type units : Nat) (injected : Bool) (launch : Nat) (payload : List Nat) : State :=
  let time := max (nsOf s.clock) l.lastTime
  let i : LogItem := { type := type, units := units, injected := injected, domain := l.domain, sequence := l.sequence, time := time,
                       launch := launch, payload := payload, chain := 0 }
  let i := { i with chain := digest384 (natWords 6 l.chain ++ i.open') }
  let place := (l.items.map (·.units)).sum
  (s.mapLog l.domain fun l => { l with items := l.items ++ [i], sequence := l.sequence + 1, used := l.used + units, chain := i.chain,
                                       lastTime := time }).writeUnits l.domain l.size place i.words

/-- A violation item counts for its launch (R467). -/
def State.countViolation (s : State) (type launch : Nat) : State :=
  if type = 1 then s.mapLaunch launch fun l => { l with violations := l.violations + 1 } else s

/-- The writer takes an item (R466): with fewer than u + 2 free units it is dropped and counted; a domain without a log keeps none. -/
def State.writeItem (s : State) (p : PendingItem) : State :=
  match s.trust.logs.find? fun l => l.domain = p.domain with
  | none => s.countViolation p.type p.launch
  | some l =>
    let s := s.countViolation p.type p.launch
    if l.free < p.units + 2 then s.mapLog p.domain fun l => { l with dropped := l.dropped + 1 }
    else s.appendItem l p.type p.units p.injected p.launch p.payload

/-- The items of a violation record (R68): one in the log of the domain presented, one without the principal in the recorded domain's. -/
def State.violationItems (s : State) (v : Violation) : List PendingItem :=
  let words (principal : Nat) : List Nat :=
    violationWords principal v.buffer v.genPresented.toNat v.genRecorded.toNat v.reason v.access v.offset v.domain.toNat v.time
  let launch := (s.launchAtEndpoint v.principal).getD 0
  ⟨v.domain, 1, 1, false, launch, words v.principal⟩ :: (v.recorded.toList.map fun d => ⟨d, 1, 1, false, 0, words 0⟩)

/-- The root of trust writes the oldest violation entry of a home, which frees it (R68), or else the next item that waits (R463). -/
def execLogItemWrite (s : State) : Host.Outcome State Fault Refusal :=
  match s.violations, s.trust.pending with
  | v :: vs, _ => .next ((s.violationItems v).foldl State.writeItem { s with violations := vs })
  | [], p :: ps => .next ({ s with trust := { s.trust with pending := ps } }.writeItem p)
  | [], [] => .next s

/-- Append a heartbeat (R465, R466): while 2 units are free. -/
def State.beat (s : State) (l : SessionLog) : State :=
  if l.free < 2 then s
  else
    let time := max (nsOf s.clock) l.lastTime
    let i : LogItem := { type := 6, units := 2, injected := false, domain := l.domain, sequence := l.sequence, time := time, launch := 0,
                         payload := [l.heartbeats % 2 ^ 64, l.dropped % 2 ^ 64, l.violationsDropped % 2 ^ 64, 0], chain := 0 }
    let sign := s.trust.sign ((i.header ++ i.payload) ++ natWords 6 l.chain)
    (s.appendItem l 6 2 false 0 (i.payload ++ natWords 12 sign)).mapLog l.domain fun l =>
      { l with heartbeats := l.heartbeats + 1, dropped := 0, violationsDropped := 0 }

/-- Open the log of a domain with heartbeat 0 (R465). -/
def State.openLog (s : State) (d : BitVec 16) (logsize : Nat) : State :=
  let l : SessionLog := { domain := d, size := 2 ^ logsize }
  { s with trust := { s.trust with logs := s.trust.logs.filter (fun (o : SessionLog) => o.domain ≠ d) ++ [l] } }.beat l

/-- The heartbeat of a log (R465): no earlier than 10 ms − 50 µs after the one before it. -/
def execHeartbeat (domain : BitVec 16) (s : State) : Host.Outcome State Fault Refusal :=
  match s.trust.logs.find? fun l => l.domain = domain with
  | none => .next s
  | some l =>
    let last := ((l.items.filter fun i => i.type = 6).getLast?).map (·.time)
    if last.all fun t => t + 9950000 ≤ nsOf s.clock then .next (s.beat l) else .next s

/-! ### Receipts and error summaries (R467, R468) -/

/-- The 416 bytes of a receipt before its signature (R467). -/
def State.receiptWords (s : State) (l : Launch) (chain : Nat) : List Nat :=
  let m (i : Nat) : List Nat := natWords 6 (s.trust.measurements.getD i 0)
  let count (i : Nat) : Nat := l.sources.getD i 0 % 2 ^ 32
  let r := l.record
  [l.issued, r.domain.toNat + l.endMode * 2 ^ 16, nsOf l.postTime, nsOf l.startTime, nsOf l.endTime,
   r.clusters + r.priority * 2 ^ 16 + (if s.sealed r.domain then 2 ^ 24 else 0) + l.parks % 2 ^ 32 * 2 ^ 32,
   l.audited % 2 ^ 32 + l.unaudited % 2 ^ 32 * 2 ^ 32, count 0 + count 6 * 2 ^ 32, count 1 + l.lost % 2 ^ 32 * 2 ^ 32, l.violations % 2 ^ 32] ++
  natWords 6 l.codeHash ++ natWords 6 l.recordHash ++ m 3 ++ m 4 ++ m 5 ++ m 2 ++ natWords 6 chain

/-- The root of trust writes the receipt of a launch that has ended, on the device that accepted it, and keeps it (R467). -/
def execReceiptWrite (launch : Nat) (s : State) : Host.Outcome State Fault Refusal :=
  match s.launchAt launch with
  | none => .next s
  | some l =>
    if l.state ≠ .ended || l.device ≠ s.device || s.trust.receipts.any fun p => p.1 = launch then .next s
    else
      let chain := ((s.trust.logs.find? fun o => o.domain = l.record.domain).map (·.chain)).getD 0
      let body := s.receiptWords l chain
      let words := body ++ natWords 12 (s.trust.sign body)
      let s := s.writeItem ⟨l.record.domain, 7, 5, false, launch, words⟩
      .next { s with trust := { s.trust with receipts := s.trust.receipts ++ [(launch, words)] } }

/-- Launches of the device that ended after a launch (R468). -/
def State.endedAfter (s : State) (l : Launch) : Nat := (s.launches.filter fun o => o.state = .ended && l.number < o.number).length

/-- Domain-0 firmware releases the error summary of a launch (R468): it is dropped once 1,024 later launches of the device have ended. -/
def execErrorSummaryRelease (launch : Nat) (s : State) : Host.Outcome State Fault Refusal :=
  match s.launchAt launch with
  | none => .next s
  | some l =>
    if l.state ≠ .ended then .next s
    else if 1024 ≤ s.endedAfter l then .next (s.mapLaunch launch fun o => { o with released := true, summary := [], overflow := 0 })
    else .next (s.mapLaunch launch fun o => { o with released := true })

/-- Domain-0 firmware releases the double-fatal spore of a tile (R403, R416). -/
def execDoubleFatalSporeRelease (tile : Nat) (s : State) : Host.Outcome State Fault Refusal :=
  .next { s with reserve := s.reserve.filter (fun r => r.tile ≠ tile),
                 spores := s.spores.filter fun p => !(p.dfatal && p.tiles.any fun t => t.index = tile) }

/-! ### Domain descriptors (R452, R453, R460, R470) -/

/-- The bits of a descriptor, without keys (R452). -/
def Descriptor.bits (d : Descriptor) : Nat :=
  let b (v : Bool) (i : Nat) : Nat := if v then 2 ^ i else 0
  d.domain.toNat + b d.isSealed 16 + b d.debug 17 + b d.inject 18 + b d.hostclear 19 + b d.keyed 20 + d.slot * 2 ^ 32 +
    d.roster.length * 2 ^ 64 + d.arenabase * 2 ^ 76 + d.arenasize * 2 ^ 94 + d.logbase * 2 ^ 128 + d.logsize * 2 ^ 176

/-- The descriptor that firmware asks for (R452): without a secret; its roster holds this device (R460). -/
def Descriptor.ofBits (device : Nat) (v : BitVec 256) : Descriptor :=
  let n := v.toNat
  {
    domain := BitVec.ofNat 16 n, isSealed := v.getLsbD 16, debug := v.getLsbD 17, inject := v.getLsbD 18, hostclear := v.getLsbD 19, keyed := false,
    slot := n / 2 ^ 32 % 2 ^ 10, roster := if v.getLsbD 16 then [device] else [], arenabase := n / 2 ^ 76 % 2 ^ 18, arenasize := n / 2 ^ 94 % 2 ^ 18,
    logbase := n / 2 ^ 128 % 2 ^ 48, logsize := n / 2 ^ 176 % 2 ^ 5, secret := 0 }

/-- Register 6 is extended at every descriptor change (R470): every domain with debug = 1, in domain order. -/
def State.extendDebug (s : State) : State :=
  let debugged := ((s.trust.descriptors.filter (·.debug)).map (·.domain.toNat)).insertionSort (· ≤ ·)
  let old := s.trust.measurements
  { s with trust := { s.trust with measurements := old.set 6 (digest384 (natWords 6 (old.getD 6 0) ++ debugged)) } }

/-- A change of a descriptor is logged (R464 type 9, R471) and measured (R470). -/
def State.noteDescriptor (s : State) (d : Descriptor) : State :=
  (s.postItem d.domain 9 1 false 0 (natWords 4 d.bits)).extendDebug

/-- Whether a DMEM range, in GiB, stays clear of those of other domains, of domain 0's and of the system window (R45, R47). -/
def State.rangeClear (s : State) (base size : Nat) : Bool :=
  base + size ≤ Config.domain0Base / 2 ^ 30 &&
  !(s.trust.descriptors.any fun e => base < e.arenabase + e.arenasize && e.arenabase < base + size)

/-- Whether the root of trust creates a descriptor (R452, R453): its fields in range, its domain new, and for a sealed domain a key slot
that no other holds. -/
def State.descriptorOk (s : State) (v : BitVec 256) : Bool :=
  let d := Descriptor.ofBits s.device v
  d.domain ≠ 0 && !(s.trust.descriptors.any fun e => e.domain = d.domain) && v.toNat / 2 ^ 21 % 2 ^ 11 = 0 && v.toNat / 2 ^ 42 % 2 ^ 22 = 0 &&
  v.toNat / 2 ^ 112 % 2 ^ 16 = 0 && v.toNat / 2 ^ 181 = 0 && 1 ≤ d.arenasize && s.rangeClear d.arenabase d.arenasize &&
  d.logbase % 4096 = 0 && Config.systemWindow ≤ d.logbase && 10 ≤ d.logsize && d.logsize ≤ 20 &&
  (!d.isSealed || (1 ≤ d.slot && !(s.trust.descriptors.any fun e => e.isSealed && e.slot = d.slot)))

/-- Domain-0 firmware creates a descriptor, and its log opens (R452, R465). -/
def execDescriptorCreate (bits : BitVec 256) (s : State) : Host.Outcome State Fault Refusal :=
  if !s.descriptorOk bits then .next s
  else
    let d := Descriptor.ofBits s.device bits
    let s := { s with trust := { s.trust with descriptors := s.trust.descriptors ++ [d] } }
    .next ((s.openLog d.domain d.logsize).noteDescriptor d)

/-- Whether a domain has a launch, spore, or buffer on the device (R453, R471); the steps of R403 of its launches must be complete. -/
def State.domainBusy (s : State) (d : BitVec 16) : Bool :=
  (s.launches.any fun l => l.record.domain = d && l.state ≠ .ended) || (s.spores.any fun p => p.domain = d && !p.dfatal) ||
  (s.dirs.any fun e => e.domain = d && e.state ≠ .free)

/-- Domain-0 firmware deletes the descriptor of a domain that has nothing on the device (R453): its log and keys go with it. -/
def execDescriptorDelete (domain : BitVec 16) (s : State) : Host.Outcome State Fault Refusal :=
  match s.descriptor domain with
  | none => .next s
  | some d =>
    if s.domainBusy domain || s.spores.any (fun p => p.domain = domain) || s.dmemPools.any fun p => p.1 = domain then .next s
    else
      let t := s.trust
      let s := { s with
        trust := { t with descriptors := t.descriptors.erase d, logs := t.logs.filter (fun l => l.domain ≠ domain),
                          pending := t.pending.filter fun p => p.domain ≠ domain }
        fabric := { s.fabric with keys := s.fabric.keys.filter fun k => k.domain ≠ domain } }
      .next s.extendDebug

/-! ### SPDM (R471) -/

/-- Answer on the DOE mailbox: the request and the answer join the transcript. -/
def State.spdmSay (s : State) (phase : SpdmPhase) (code : Nat) (asked words : List Nat) : State :=
  { s with trust := { s.trust with spdm := phase, answers := (code, words) :: s.trust.answers, transcript := s.trust.transcript ++ asked ++ (code :: words) } }

/-- Answer ERROR: nothing else changes. -/
def State.spdmError (s : State) : State := { s with trust := { s.trust with answers := (0x7F, []) :: s.trust.answers } }

/-- Whether the mailbox answers (R512 step 5). -/
def State.spdmUp (s : State) : Bool := 5 ≤ s.power.bootStep

/-- Whether algorithms are agreed. -/
def SpdmPhase.agreed : SpdmPhase → Bool
  | .algorithms | .exchanged | .secure _ => true
  | _ => false

/-- Answer a request when the responder is up and in a phase that admits it, else ERROR. -/
def State.spdm (s : State) (ok : Bool) (f : State → State) : Host.Outcome State Fault Refusal :=
  if !s.spdmUp then .next s else if ok then .next (f s) else .next s.spdmError

/-- GET_VERSION: version 1.3; a new exchange begins. -/
def execSpdmGetVersion (s : State) : Host.Outcome State Fault Refusal :=
  s.spdm true fun s => { s with trust := { s.trust with transcript := [] } }.spdmSay .version 0x04 [0x84] [0x13]

/-- GET_CAPABILITIES. -/
def execSpdmGetCapabilities (s : State) : Host.Outcome State Fault Refusal :=
  s.spdm (s.trust.spdm = .version) fun s => s.spdmSay .capabilities 0x61 [0xE1] []

/-- NEGOTIATE_ALGORITHMS: the algorithms of R471, if the requester supports them. -/
def execSpdmNegotiateAlgorithms (supported : Bool) (s : State) : Host.Outcome State Fault Refusal :=
  s.spdm (s.trust.spdm = .capabilities && supported) fun s => s.spdmSay .algorithms 0x63 [0xE3] []

/-- The digest of certificate slot 0. -/
def Trust.chainDigest (t : Trust) : Nat := digest384 [t.attestation]

/-- GET_DIGESTS. -/
def execSpdmGetDigests (s : State) : Host.Outcome State Fault Refusal :=
  s.spdm s.trust.spdm.agreed fun s => s.spdmSay s.trust.spdm 0x01 [0x81] [s.trust.chainDigest]

/-- GET_CERTIFICATE: a part of the chain of slot 0. -/
def execSpdmGetCertificate (slot offset length : Nat) (s : State) : Host.Outcome State Fault Refusal :=
  s.spdm (s.trust.spdm.agreed && slot = 0) fun s =>
    s.spdmSay s.trust.spdm 0x02 [0x82, slot, offset, length]
      ((List.range length).map fun i => (Config.certificate s.trust.attestation slot (offset + i)).toNat)

/-- CHALLENGE: signed with the attestation key over the exchange. -/
def execSpdmChallenge (nonce : Nat) (s : State) : Host.Outcome State Fault Refusal :=
  s.spdm s.trust.spdm.agreed fun s =>
    s.spdmSay s.trust.spdm 0x03 [0x83, nonce] [s.trust.chainDigest, s.trust.sign (s.trust.transcript ++ [0x83, nonce])]

/-- GET_MEASUREMENTS: index 0 tells their number, 0xFF asks for all, 1 to 7 for one (R470). -/
def execSpdmGetMeasurements (index : Nat) (s : State) : Host.Outcome State Fault Refusal :=
  s.spdm (s.trust.spdm.agreed && (index ≤ 7 || index = 0xFF)) fun s =>
    let m := if index = 0 then [7] else if index = 0xFF then s.trust.measurements.drop 1 else [s.trust.measurements.getD index 0]
    s.spdmSay s.trust.spdm 0x60 [0xE0, index] (m ++ [s.trust.sign (s.trust.transcript ++ [0xE0, index] ++ m)])

/-- KEY_EXCHANGE: the responder's share is a value that the spec does not state (log 6). -/
def execSpdmKeyExchange (share : Nat) (s : State) : Host.Outcome State Fault Refusal :=
  s.spdm (s.trust.spdm = .algorithms) fun s =>
    let mine := (Config.freeWord s.draws).toNat
    { s with draws := s.draws + 1 }.spdmSay .exchanged 0x64 [0xE4, share] [mine, s.trust.sign (s.trust.transcript ++ [0xE4, share, mine])]

/-- FINISH: when the requester's verification of the exchange agrees, the session of a domain's tenant is secure. -/
def execSpdmFinish (domain : BitVec 16) (verify : Nat) (s : State) : Host.Outcome State Fault Refusal :=
  s.spdm (s.trust.spdm = .exchanged && verify = Config.digest s.trust.transcript) fun s => s.spdmSay (.secure domain) 0x65 [0xE5, verify] []

/-- Whether a session is open. -/
def SpdmPhase.session : SpdmPhase → Bool
  | .secure _ => true
  | _ => false

/-- HEARTBEAT of a session. -/
def execSpdmHeartbeat (s : State) : Host.Outcome State Fault Refusal :=
  s.spdm s.trust.spdm.session fun s => s.spdmSay s.trust.spdm 0x68 [0xE8] []

/-- END_SESSION. -/
def execSpdmEndSession (s : State) : Host.Outcome State Fault Refusal :=
  s.spdm s.trust.spdm.session fun s => s.spdmSay .algorithms 0x6C [0xEC] []

/-! ### Vendor-defined requests of a domain's tenant (R468, R471) -/

/-- Answer a vendor-defined request; a request for another domain, or outside a session, is refused. -/
def State.tenant (s : State) (d : BitVec 16) (ok : Bool) (f : State → State × List Nat) : Host.Outcome State Fault Refusal :=
  s.spdm (s.trust.spdm = .secure d && ok) fun s =>
    let r := f s
    { r.1 with trust := { r.1.trust with answers := (0x7E, r.2) :: r.1.trust.answers } }

/-- Change the descriptor of a domain; each change is logged (R471). -/
def State.changeDescriptor (s : State) (d : BitVec 16) (f : Descriptor → Descriptor) : State :=
  match s.descriptor d with
  | none => s
  | some e =>
    { s with trust := { s.trust with descriptors := s.trust.descriptors.map fun (o : Descriptor) => if o.domain = d then f o else o } }.noteDescriptor (f e)

/-- Install a domain secret (R471): refused while the domain has launches, spores or buffers on the device. Keys are derived anew, from epoch 0
(R461). -/
def execInstallDomainSecret (domain : BitVec 16) (secret : BitVec 256) (s : State) : Host.Outcome State Fault Refusal :=
  s.tenant domain ((s.descriptor domain).isSome && !s.domainBusy domain) fun s =>
    let s := s.changeDescriptor domain fun e => { e with keyed := true, secret := secret.toNat }
    ({ s with fabric := { s.fabric with keys := s.fabric.keys.filter fun k => k.domain ≠ domain } }, [])

/-- Set the roster and the debug, inject and hostclear bits of a domain (R460, R471): the roster always includes this device, and an open domain
has none. -/
def execSetRosterAndPermissions (domain : BitVec 16) (roster : List Nat) (debug inject hostclear : Bool) (s : State) :
    Host.Outcome State Fault Refusal :=
  let all := if roster.contains s.device then roster.eraseDups else s.device :: roster.eraseDups
  s.tenant domain ((s.descriptor domain).isSome && all.length ≤ 4095) fun s =>
    (s.changeDescriptor domain fun e =>
      { e with roster := if e.isSealed then all else [], debug := debug, inject := inject, hostclear := hostclear }, [])

/-- The unread items of a log, oldest first (R466). -/
def SessionLog.unread (l : SessionLog) : List LogItem :=
  let back := l.items.reverse.foldl (fun (r : Nat × List LogItem) i =>
    if i.units ≤ r.1 then (r.1 - i.units, i :: r.2) else (0, r.2)) (l.used, [])
  back.2

/-- Read the log of a domain (R471): its unread items. -/
def execReadSessionLog (domain : BitVec 16) (s : State) : Host.Outcome State Fault Refusal :=
  s.tenant domain true fun s =>
    (s, ((s.trust.logs.find? fun l => l.domain = domain).map fun l => l.unread.flatMap LogItem.words).getD [])

/-- Advance the read pointer of a domain's log (R466, R471). -/
def execAdvanceLogReadPointer (domain : BitVec 16) (units : Nat) (s : State) : Host.Outcome State Fault Refusal :=
  s.tenant domain true fun s => (s.mapLog domain fun l => { l with used := l.used - units }, [])

/-- The words of an error summary entry (R468). -/
def Summary.words (e : Summary) : List Nat :=
  (e.body.map BitVec.toNat) ++ [e.source + (if e.injected then 2 ^ 8 else 0) + e.endpoint * 2 ^ 32, nsOf e.time, e.device, 0]

/-- Read the error summary of a launch of the tenant's own domain (R468): its entries, and the count of those that did not fit. -/
def execReadErrorSummary (launch : Nat) (s : State) : Host.Outcome State Fault Refusal :=
  match s.launchAt launch with
  | none => s.spdm false id
  | some l => s.tenant l.record.domain true fun s => (s, l.summary.flatMap Summary.words ++ [l.overflow % 2 ^ 32])

/-- The mirror root of trust on IO die 1 takes over the same state (R469). -/
def execRootOfTrustFailover (s : State) : Host.Outcome State Fault Refusal := .next { s with trust := { s.trust with mirror := true } }

end Sys2Proof.Machine
end

