-- ==== Sys2Proof/Machine/Power.lean ====
section
/-! DEFINITION. Bring-up, power and temperature (R101, R457, R469-R470, R497-R498, R512-R518). -/

namespace Sys2Proof.Machine

open Sys2Proof

/-! ### The feature block (R497, R498) -/

/-- An entry of the feature block: identifier, major and minor version, body. -/
structure Feature where
  id : Nat
  major : Nat
  minor : Nat
  body : List Nat

/-- The words of feature entries from a word offset on (R497). -/
def featureChain (at' : Nat) : List Feature → List Nat
  | [] => []
  | f :: fs =>
    let n := f.body.length + 2
    [f.id + f.major * 2 ^ 16 + f.minor * 2 ^ 24 + n * 2 ^ 32 + (if fs.isEmpty then 0 else at' + n) * 2 ^ 44, f.major] ++ f.body ++
      featureChain (at' + n) fs

/-- A mask of the ports in a mode, as two words. -/
def Fabric.portMask (f : Fabric) (m : PortMode) : List Nat :=
  natWords 2 (((f.ports.zipIdx).filter fun p => p.1 = m).foldl (fun a p => a + 2 ^ p.2) 0)

/-- The entries of this part (R498); pod and point, the header version, the negotiated link of CXL and the algorithm masks are values that the
spec does not state (log 6). -/
def State.features (s : State) : List Feature :=
  let free (i : Nat) : Nat := (Config.freeValue (s.draws + i)).toNat
  [⟨0x0001, 1, 0, [0x9416, revision.toNat, s.device, free 0, free 1]⟩, ⟨0x0002, 1, 0, [scanHash.toNat]⟩, ⟨0x0003, 1, 0, [free 2, 1]⟩,
   ⟨0x0004, 1, 0, [0x1F]⟩, ⟨0x0010, 1, 0, s.fabric.portMask .native⟩, ⟨0x0011, 1, 0, s.fabric.portMask .ualink⟩, ⟨0x0012, 3, 1, [free 3]⟩,
   ⟨0x0013, 1, 3, [free 4]⟩]

/-- Boot firmware maps the first 2 MiB of the system window, to the last 2 MiB of HBM4 (log 23), and writes the feature block there (R497). -/
def State.writeFeatures (s : State) : State :=
  let s := { s with paging := { s.paging with tables := 512 } }
  let q := s.pageEntry Config.systemWindow
  let s := q.2.setPte q.1 (3 + 4 * 5 + (Config.frameEnd - 2 ^ 21))
  { s with draws := s.draws + 5 }.writeWindow Config.systemWindow (featureChain 0 s.features)

/-! ### Bring-up (R512-R514) -/

/-- Set a measurement register (R470). -/
def State.measure (s : State) (i : Nat) (words : List Nat) : State :=
  { s with trust := { s.trust with measurements := s.trust.measurements.set i (digest384 (i :: words)) } }

/-- Whether a reading holds step 4 (R518). -/
def Power.cold (p : Power) : Bool := p.dieTemps.any (· < 10) || p.stackTemps.any (· < 10)

/-- Steps 4 to 7 of the boot sequence (R512): held at step 3 while a sensor reads below 10 °C (R518). Links and fabric ports train by events of
their own; domain 0's log, whose size the spec does not state (log 28), opens at step 7 (R465). -/
def State.bootOn (s : State) : State :=
  if s.power.bootStep ≠ 3 || s.power.cold then s
  else ({ s.writeFeatures with power := { s.power with bootStep := 7 } }).openLog 0 10

/-- Steps 1 to 3 of the boot sequence (R469, R512, R513): a bundle that does not verify, or a mirror that disagrees on measurement 1, stops the
device after step 2. What the images hold is not in the spec: the digests are those of opaque functions (log 5). -/
def State.boot (s : State) : State :=
  let s := s.measure 1 []
  if !(Config.imageVerifies 1 && Config.imageVerifies 2) then { s with power := { s.power with bootStep := 2, bootFailed := true } }
  else
    let s := (((s.measure 2 []).measure 3 []).measure 4 []).measure 5 []
    let s := s.measure 7 [revision.toNat, scanHash.toNat]
    let key := Config.deriveKey 1 ((s.trust.measurements.drop 1).take 4)
    { s with trust := { s.trust with attestation := key }, power := { s.power with bootStep := 3 } }.bootOn

/-- Power-on or fundamental reset (R512-R514): every launch ends without a message and every spore context is gone; the save counters persist.
The agenda of turns and the count of free values are the model's own and go on (logs 1 and 6). -/
def execColdReset (s : State) : Host.Outcome State Fault Refusal :=
  let r := State.reset
  .next { r with turns := s.turns, draws := s.draws, device := s.device,
                 trust := { r.trust with counters := s.trust.counters },
                 power := { r.power with dieTemps := s.power.dieTemps, stackTemps := s.power.stackTemps } }.boot

/-- The input power is removed (R518). -/
def execPowerRemoval (s : State) : Host.Outcome State Fault Refusal := .next { s with power := { s.power with powered := false } }

/-! ### Power and temperature (R515-R518) -/

/-- The average of a window is reported (R515, R517). -/
def execPowerReport (watts : Nat) (s : State) : Host.Outcome State Fault Refusal := .next { s with power := { s.power with watts := watts } }

/-- Power management closes a 1 ms window (R515): the level that the draw requires moves by one, and throttling rises to it. -/
def execThrottleWindow (s : State) : Host.Outcome State Fault Refusal :=
  let p := s.power
  let need := if 2800 < p.watts then min 7 (p.powerLevel + 1) else p.powerLevel - 1
  .next { s with power := { p with powerLevel := need, throttle := if p.throttle < need then p.throttle + 1 else p.throttle } }

/-- A reading at the trip limit (R518). -/
def Power.trips (p : Power) : Bool := p.dieTemps.any (110 ≤ ·) || p.stackTemps.any (100 ≤ ·)

/-- A reading above the limit (R518). -/
def Power.hot (p : Power) : Bool := p.dieTemps.any (95 < ·) || p.stackTemps.any (85 < ·)

/-- Every reading at least 3 °C below its limit (R518). -/
def Power.cool (p : Power) : Bool := p.dieTemps.all (· ≤ 92) && p.stackTemps.all (· ≤ 82)

/-- The sensors are read (R518): a trip stops every clock, a hot window raises the throttle level and a cool one lowers it towards what the draw
requires; a boot that step 4 held goes on. -/
def execThermalSample (dieTemps stackTemps : List Int) (s : State) : Host.Outcome State Fault Refusal :=
  let p := { s.power with dieTemps := dieTemps, stackTemps := stackTemps }
  if p.trips then .next { s with power := { p with tripped := true } }
  else
    let throttle := if p.hot then min 7 (p.throttle + 1) else if p.cool && p.powerLevel < p.throttle then p.throttle - 1 else p.throttle
    .next ({ s with power := { p with throttle := throttle } }.bootOn)

/-- A tile is reset or power-gated (R101): it holds what a reset leaves (R233, R457), `tilerank` and `mdomain` 0 among it, and its messages return until
it is loaded again; those that a park had absorbed return at once (log 62). -/
def execTileResetOrPowerGate (tile : Nat) (s : State) : Host.Outcome State Fault Refusal :=
  match s.tileAt tile with
  | none => .next s
  | some t =>
    let u := { t.warm s.device s.clock with gated := true, launch := t.launch, homeName := t.homeName, mdomain := 0 }
    .next (t.parkBuffer.foldl State.refuseGated (s.putTile u))

end Sys2Proof.Machine
end

