-- ==== Sys2Proof/Machine/Dispatch.lean ====
section
/-! DEFINITION. The meaning of each instruction: one arm per constructor. -/

namespace Sys2Proof.Machine

open Sys2Proof

/-- The effect of an instruction. -/
def exec (i : Instr) (s : State) : Host.Outcome State Fault Refusal :=
  match i with
  | .lui d imm => Sys2Proof.Machine.execLui d imm s
  | .auipc d imm => Sys2Proof.Machine.execAuipc d imm s
  | .jal d imm => Sys2Proof.Machine.execJal d imm s
  | .jalr d a imm => Sys2Proof.Machine.execJalr d a imm s
  | .beq a b imm => Sys2Proof.Machine.execBeq a b imm s
  | .bne a b imm => Sys2Proof.Machine.execBne a b imm s
  | .blt a b imm => Sys2Proof.Machine.execBlt a b imm s
  | .bge a b imm => Sys2Proof.Machine.execBge a b imm s
  | .bltu a b imm => Sys2Proof.Machine.execBltu a b imm s
  | .bgeu a b imm => Sys2Proof.Machine.execBgeu a b imm s
  | .lb d a imm => Sys2Proof.Machine.execLb d a imm s
  | .lh d a imm => Sys2Proof.Machine.execLh d a imm s
  | .lw d a imm => Sys2Proof.Machine.execLw d a imm s
  | .ld d a imm => Sys2Proof.Machine.execLd d a imm s
  | .lbu d a imm => Sys2Proof.Machine.execLbu d a imm s
  | .lhu d a imm => Sys2Proof.Machine.execLhu d a imm s
  | .lwu d a imm => Sys2Proof.Machine.execLwu d a imm s
  | .sb a b imm => Sys2Proof.Machine.execSb a b imm s
  | .sh a b imm => Sys2Proof.Machine.execSh a b imm s
  | .sw a b imm => Sys2Proof.Machine.execSw a b imm s
  | .sd a b imm => Sys2Proof.Machine.execSd a b imm s
  | .addi d a imm => Sys2Proof.Machine.execAddi d a imm s
  | .slti d a imm => Sys2Proof.Machine.execSlti d a imm s
  | .sltiu d a imm => Sys2Proof.Machine.execSltiu d a imm s
  | .xori d a imm => Sys2Proof.Machine.execXori d a imm s
  | .ori d a imm => Sys2Proof.Machine.execOri d a imm s
  | .andi d a imm => Sys2Proof.Machine.execAndi d a imm s
  | .slli d a h => Sys2Proof.Machine.execSlli d a h s
  | .srli d a h => Sys2Proof.Machine.execSrli d a h s
  | .srai d a h => Sys2Proof.Machine.execSrai d a h s
  | .addiw d a imm => Sys2Proof.Machine.execAddiw d a imm s
  | .slliw d a sh => Sys2Proof.Machine.execSlliw d a sh s
  | .srliw d a sh => Sys2Proof.Machine.execSrliw d a sh s
  | .sraiw d a sh => Sys2Proof.Machine.execSraiw d a sh s
  | .add d a b => Sys2Proof.Machine.execAdd d a b s
  | .sll d a b => Sys2Proof.Machine.execSll d a b s
  | .slt d a b => Sys2Proof.Machine.execSlt d a b s
  | .sltu d a b => Sys2Proof.Machine.execSltu d a b s
  | .xor d a b => Sys2Proof.Machine.execXor d a b s
  | .srl d a b => Sys2Proof.Machine.execSrl d a b s
  | .or d a b => Sys2Proof.Machine.execOr d a b s
  | .and d a b => Sys2Proof.Machine.execAnd d a b s
  | .sub d a b => Sys2Proof.Machine.execSub d a b s
  | .sra d a b => Sys2Proof.Machine.execSra d a b s
  | .mul d a b => Sys2Proof.Machine.execMul d a b s
  | .mulh d a b => Sys2Proof.Machine.execMulh d a b s
  | .mulhsu d a b => Sys2Proof.Machine.execMulhsu d a b s
  | .mulhu d a b => Sys2Proof.Machine.execMulhu d a b s
  | .div d a b => Sys2Proof.Machine.execDiv d a b s
  | .divu d a b => Sys2Proof.Machine.execDivu d a b s
  | .rem d a b => Sys2Proof.Machine.execRem d a b s
  | .remu d a b => Sys2Proof.Machine.execRemu d a b s
  | .clmul d a b => Sys2Proof.Machine.execClmul d a b s
  | .clmulr d a b => Sys2Proof.Machine.execClmulr d a b s
  | .clmulh d a b => Sys2Proof.Machine.execClmulh d a b s
  | .addw d a b => Sys2Proof.Machine.execAddw d a b s
  | .sllw d a b => Sys2Proof.Machine.execSllw d a b s
  | .srlw d a b => Sys2Proof.Machine.execSrlw d a b s
  | .subw d a b => Sys2Proof.Machine.execSubw d a b s
  | .sraw d a b => Sys2Proof.Machine.execSraw d a b s
  | .mulw d a b => Sys2Proof.Machine.execMulw d a b s
  | .divw d a b => Sys2Proof.Machine.execDivw d a b s
  | .divuw d a b => Sys2Proof.Machine.execDivuw d a b s
  | .remw d a b => Sys2Proof.Machine.execRemw d a b s
  | .remuw d a b => Sys2Proof.Machine.execRemuw d a b s
  | .csrrw d a csr => Sys2Proof.Machine.execCsrrw d a csr s
  | .csrrs d a csr => Sys2Proof.Machine.execCsrrs d a csr s
  | .csrrc d a csr => Sys2Proof.Machine.execCsrrc d a csr s
  | .csrrwi d u csr => Sys2Proof.Machine.execCsrrwi d u csr s
  | .csrrsi d u csr => Sys2Proof.Machine.execCsrrsi d u csr s
  | .csrrci d u csr => Sys2Proof.Machine.execCsrrci d u csr s
  | .ecall => Sys2Proof.Machine.execEcall s
  | .ebreak => Sys2Proof.Machine.execEbreak s
  | .wfi => Sys2Proof.Machine.execWfi s
  | .mret => Sys2Proof.Machine.execMret s
  | .lpSet a l => Sys2Proof.Machine.execLpSet a l s
  | .kpre n => Sys2Proof.Machine.execKpre n s
  | .vaddVv d a b t => Sys2Proof.Machine.execVaddVv d a b t s
  | .vsubVv d a b t => Sys2Proof.Machine.execVsubVv d a b t s
  | .vmulVv d a b t => Sys2Proof.Machine.execVmulVv d a b t s
  | .vmulhVv d a b t => Sys2Proof.Machine.execVmulhVv d a b t s
  | .vmulhuVv d a b t => Sys2Proof.Machine.execVmulhuVv d a b t s
  | .vandVv d a b t => Sys2Proof.Machine.execVandVv d a b t s
  | .vorVv d a b t => Sys2Proof.Machine.execVorVv d a b t s
  | .vxorVv d a b t => Sys2Proof.Machine.execVxorVv d a b t s
  | .vsllVv d a b t => Sys2Proof.Machine.execVsllVv d a b t s
  | .vsrlVv d a b t => Sys2Proof.Machine.execVsrlVv d a b t s
  | .vsraVv d a b t => Sys2Proof.Machine.execVsraVv d a b t s
  | .vminVv d a b t => Sys2Proof.Machine.execVminVv d a b t s
  | .vmaxVv d a b t => Sys2Proof.Machine.execVmaxVv d a b t s
  | .vminuVv d a b t => Sys2Proof.Machine.execVminuVv d a b t s
  | .vmaxuVv d a b t => Sys2Proof.Machine.execVmaxuVv d a b t s
  | .vseqVv d a b t => Sys2Proof.Machine.execVseqVv d a b t s
  | .vsltVv d a b t => Sys2Proof.Machine.execVsltVv d a b t s
  | .vsltuVv d a b t => Sys2Proof.Machine.execVsltuVv d a b t s
  | .vsel d a b t => Sys2Proof.Machine.execVsel d a b t s
  | .vaddVx d a b t => Sys2Proof.Machine.execVaddVx d a b t s
  | .vsubVx d a b t => Sys2Proof.Machine.execVsubVx d a b t s
  | .vmulVx d a b t => Sys2Proof.Machine.execVmulVx d a b t s
  | .vmulhVx d a b t => Sys2Proof.Machine.execVmulhVx d a b t s
  | .vmulhuVx d a b t => Sys2Proof.Machine.execVmulhuVx d a b t s
  | .vandVx d a b t => Sys2Proof.Machine.execVandVx d a b t s
  | .vorVx d a b t => Sys2Proof.Machine.execVorVx d a b t s
  | .vxorVx d a b t => Sys2Proof.Machine.execVxorVx d a b t s
  | .vsllVx d a b t => Sys2Proof.Machine.execVsllVx d a b t s
  | .vsrlVx d a b t => Sys2Proof.Machine.execVsrlVx d a b t s
  | .vsraVx d a b t => Sys2Proof.Machine.execVsraVx d a b t s
  | .vminVx d a b t => Sys2Proof.Machine.execVminVx d a b t s
  | .vmaxVx d a b t => Sys2Proof.Machine.execVmaxVx d a b t s
  | .vminuVx d a b t => Sys2Proof.Machine.execVminuVx d a b t s
  | .vmaxuVx d a b t => Sys2Proof.Machine.execVmaxuVx d a b t s
  | .vseqVx d a b t => Sys2Proof.Machine.execVseqVx d a b t s
  | .vsltVx d a b t => Sys2Proof.Machine.execVsltVx d a b t s
  | .vsltuVx d a b t => Sys2Proof.Machine.execVsltuVx d a b t s
  | .vfaddVv d a b t => Sys2Proof.Machine.execVfaddVv d a b t s
  | .vfsubVv d a b t => Sys2Proof.Machine.execVfsubVv d a b t s
  | .vfmulVv d a b t => Sys2Proof.Machine.execVfmulVv d a b t s
  | .vfmaVv d a b t => Sys2Proof.Machine.execVfmaVv d a b t s
  | .vfmsVv d a b t => Sys2Proof.Machine.execVfmsVv d a b t s
  | .vfnmaVv d a b t => Sys2Proof.Machine.execVfnmaVv d a b t s
  | .vfminVv d a b t => Sys2Proof.Machine.execVfminVv d a b t s
  | .vfmaxVv d a b t => Sys2Proof.Machine.execVfmaxVv d a b t s
  | .vfeqVv d a b t => Sys2Proof.Machine.execVfeqVv d a b t s
  | .vfltVv d a b t => Sys2Proof.Machine.execVfltVv d a b t s
  | .vfleVv d a b t => Sys2Proof.Machine.execVfleVv d a b t s
  | .vfsgnjVv d a b t => Sys2Proof.Machine.execVfsgnjVv d a b t s
  | .vfclass d a t => Sys2Proof.Machine.execVfclass d a t s
  | .vfcvtIf d a t => Sys2Proof.Machine.execVfcvtIf d a t s
  | .vfcvtFi d a t => Sys2Proof.Machine.execVfcvtFi d a t s
  | .vncvt d a p => Sys2Proof.Machine.execVncvt d a p s
  | .vwcvt d a p => Sys2Proof.Machine.execVwcvt d a p s
  | .vfaddVx d a b t => Sys2Proof.Machine.execVfaddVx d a b t s
  | .vfsubVx d a b t => Sys2Proof.Machine.execVfsubVx d a b t s
  | .vfmulVx d a b t => Sys2Proof.Machine.execVfmulVx d a b t s
  | .vfmaVx d a b t => Sys2Proof.Machine.execVfmaVx d a b t s
  | .vfmsVx d a b t => Sys2Proof.Machine.execVfmsVx d a b t s
  | .vfnmaVx d a b t => Sys2Proof.Machine.execVfnmaVx d a b t s
  | .vfminVx d a b t => Sys2Proof.Machine.execVfminVx d a b t s
  | .vfmaxVx d a b t => Sys2Proof.Machine.execVfmaxVx d a b t s
  | .vfeqVx d a b t => Sys2Proof.Machine.execVfeqVx d a b t s
  | .vfltVx d a b t => Sys2Proof.Machine.execVfltVx d a b t s
  | .vfleVx d a b t => Sys2Proof.Machine.execVfleVx d a b t s
  | .vfsgnjVx d a b t => Sys2Proof.Machine.execVfsgnjVx d a b t s
  | .vredsum d a b t => Sys2Proof.Machine.execVredsum d a b t s
  | .vredmax d a b t => Sys2Proof.Machine.execVredmax d a b t s
  | .vredmin d a b t => Sys2Proof.Machine.execVredmin d a b t s
  | .vfredsum d a b t => Sys2Proof.Machine.execVfredsum d a b t s
  | .vfredmax d a b t => Sys2Proof.Machine.execVfredmax d a b t s
  | .vfredmin d a b t => Sys2Proof.Machine.execVfredmin d a b t s
  | .vslideup d a b t => Sys2Proof.Machine.execVslideup d a b t s
  | .vslidedn d a b t => Sys2Proof.Machine.execVslidedn d a b t s
  | .vgather d a b t => Sys2Proof.Machine.execVgather d a b t s
  | .vpopc d a => Sys2Proof.Machine.execVpopc d a s
  | .vfirst d a => Sys2Proof.Machine.execVfirst d a s
  | .vfdiv d a b t => Sys2Proof.Machine.execVfdiv d a b t s
  | .vfsqrt d a t => Sys2Proof.Machine.execVfsqrt d a t s
  | .vfrcp d a => Sys2Proof.Machine.execVfrcp d a s
  | .vfexp2 d a => Sys2Proof.Machine.execVfexp2 d a s
  | .vclmul d a b => Sys2Proof.Machine.execVclmul d a b s
  | .vclmulh d a b => Sys2Proof.Machine.execVclmulh d a b s
  | .vcfg d a m t => Sys2Proof.Machine.execVcfg d a m t s
  | .vmvVx d b t => Sys2Proof.Machine.execVmvVx d b t s
  | .vmvXv d a b t => Sys2Proof.Machine.execVmvXv d a b t s
  | .vmvVv d a t => Sys2Proof.Machine.execVmvVv d a t s
  | .vid d t => Sys2Proof.Machine.execVid d t s
  | .vmvVk d n w => Sys2Proof.Machine.execVmvVk d n w s
  | .capAlloc d a k => Sys2Proof.Machine.execCapAlloc d a k s
  | .capFree a => Sys2Proof.Machine.execCapFree a s
  | .capCarve d a b => Sys2Proof.Machine.execCapCarve d a b s
  | .capMerge d a b => Sys2Proof.Machine.execCapMerge d a b s
  | .capNarrow d a b => Sys2Proof.Machine.execCapNarrow d a b s
  | .capSplitR d a b => Sys2Proof.Machine.execCapSplitR d a b s
  | .capSplitF d a b => Sys2Proof.Machine.execCapSplitF d a b s
  | .capJoin d a b => Sys2Proof.Machine.execCapJoin d a b s
  | .capReclaim d a => Sys2Proof.Machine.execCapReclaim d a s
  | .capSealX d a => Sys2Proof.Machine.execCapSealX d a s
  | .capMov d a => Sys2Proof.Machine.execCapMov d a s
  | .capGet d a b => Sys2Proof.Machine.execCapGet d a b s
  | .capFmt d a b => Sys2Proof.Machine.execCapFmt d a b s
  | .cldB d src cs imm => Sys2Proof.Machine.execCldB d src cs imm s
  | .cldH d src cs imm => Sys2Proof.Machine.execCldH d src cs imm s
  | .cldW d src cs imm => Sys2Proof.Machine.execCldW d src cs imm s
  | .cldD d src cs imm => Sys2Proof.Machine.execCldD d src cs imm s
  | .cldBu d src cs imm => Sys2Proof.Machine.execCldBu d src cs imm s
  | .cldHu d src cs imm => Sys2Proof.Machine.execCldHu d src cs imm s
  | .cldWu d src cs imm => Sys2Proof.Machine.execCldWu d src cs imm s
  | .cstB d src cs imm => Sys2Proof.Machine.execCstB d src cs imm s
  | .cstH d src cs imm => Sys2Proof.Machine.execCstH d src cs imm s
  | .cstW d src cs imm => Sys2Proof.Machine.execCstW d src cs imm s
  | .cstD d src cs imm => Sys2Proof.Machine.execCstD d src cs imm s
  | .cfoldW d src cs imm => Sys2Proof.Machine.execCfoldW d src cs imm s
  | .cfoldD d src cs imm => Sys2Proof.Machine.execCfoldD d src cs imm s
  | .vcld d src cs e => Sys2Proof.Machine.execVcld d src cs e s
  | .vclds d src cs e => Sys2Proof.Machine.execVclds d src cs e s
  | .vcldx d src cs e => Sys2Proof.Machine.execVcldx d src cs e s
  | .vcst d src cs e => Sys2Proof.Machine.execVcst d src cs e s
  | .vcsts d src cs e => Sys2Proof.Machine.execVcsts d src cs e s
  | .vcstx d src cs e => Sys2Proof.Machine.execVcstx d src cs e s
  | .msgSend a b => Sys2Proof.Machine.execMsgSend a b s
  | .msgSendc d a b h => Sys2Proof.Machine.execMsgSendc d a b h s
  | .msgRecv => Sys2Proof.Machine.execMsgRecv s
  | .msgPeek d => Sys2Proof.Machine.execMsgPeek d s
  | .hret => Sys2Proof.Machine.execHret s
  | .xfer a b h => Sys2Proof.Machine.execXfer a b h s
  | .batchClose d t => Sys2Proof.Machine.execBatchClose d t s
  | .xferCp d a b => Sys2Proof.Machine.execXferCp d a b s
  | .mxMma d src cs cb m => Sys2Proof.Machine.execMxMma d src cs cb m s
  | .mxZero d n => Sys2Proof.Machine.execMxZero d n s
  | .mxLoad d a b n => Sys2Proof.Machine.execMxLoad d a b n s
  | .mxOut d a b n => Sys2Proof.Machine.execMxOut d a b n s
  | .mxPoll d a => Sys2Proof.Machine.execMxPoll d a s
  | .mxCancel d a => Sys2Proof.Machine.execMxCancel d a s
  | .ringInit d a b => Sys2Proof.Machine.execRingInit d a b s
  | .ringRsv d a => Sys2Proof.Machine.execRingRsv d a s
  | .ringPub a => Sys2Proof.Machine.execRingPub a s
  | .ringTake d a => Sys2Proof.Machine.execRingTake d a s
  | .ringDoneSlot a => Sys2Proof.Machine.execRingDoneSlot a s
  | .ringDoneDismantle d a b => Sys2Proof.Machine.execRingDoneDismantle d a b s
  | .fcvtN d a b => Sys2Proof.Machine.execFcvtN d a b s
  | .fcvtW d a b => Sys2Proof.Machine.execFcvtW d a b s
  | .rgnOpen d => Sys2Proof.Machine.execRgnOpen d s
  | .rgnKeep d a b => Sys2Proof.Machine.execRgnKeep d a b s
  | .rgnClose => Sys2Proof.Machine.execRgnClose s
  | .rgnAbort c => Sys2Proof.Machine.execRgnAbort c s
  | .snapTake a => Sys2Proof.Machine.execSnapTake a s
  | .snapAccept a => Sys2Proof.Machine.execSnapAccept a s
  | .snapReject a => Sys2Proof.Machine.execSnapReject a s
  | .snapInfo d a => Sys2Proof.Machine.execSnapInfo d a s
  | .barJoin a l => Sys2Proof.Machine.execBarJoin a l s
  | .barArrive l => Sys2Proof.Machine.execBarArrive l s
  | .barWait l => Sys2Proof.Machine.execBarWait l s
  | .xchBegin a t l => Sys2Proof.Machine.execXchBegin a t l s
  | .xchSend a => Sys2Proof.Machine.execXchSend a s
  | .xchEnd d => Sys2Proof.Machine.execXchEnd d s
  | .gangForm m => Sys2Proof.Machine.execGangForm m s
  | .gangSplit => Sys2Proof.Machine.execGangSplit s
  | .gangJoin => Sys2Proof.Machine.execGangJoin s
  | .waitQ d q => Sys2Proof.Machine.execWaitQ d q s
  | .waitJob d a => Sys2Proof.Machine.execWaitJob d a s
  | .lnchPost d a b => Sys2Proof.Machine.execLnchPost d a b s
  | .lnchDone a => Sys2Proof.Machine.execLnchDone a s
  | .sysPark d a k => Sys2Proof.Machine.execSysPark d a k s
  | .sysRevive d a => Sys2Proof.Machine.execSysRevive d a s
  | .sysHalt a => Sys2Proof.Machine.execSysHalt a s
  | .illegalInstruction w => Sys2Proof.Machine.execIllegalInstruction w s
  | .handlerActivation => Sys2Proof.Machine.execHandlerActivation s
  | .messageArrival n => Sys2Proof.Machine.execMessageArrival n s
  | .shunterPlacement cluster => Sys2Proof.Machine.execShunterPlacement cluster s
  | .transferCopy cluster n => Sys2Proof.Machine.execTransferCopy cluster n s
  | .shunterCopyJob tile job => Sys2Proof.Machine.execShunterCopyJob tile job s
  | .homeAccessRequest n => Sys2Proof.Machine.execHomeAccessRequest n s
  | .homeControlRequest n => Sys2Proof.Machine.execHomeControlRequest n s
  | .foldLineMerge n => Sys2Proof.Machine.execFoldLineMerge n s
  | .homeReplyArrival n => Sys2Proof.Machine.execHomeReplyArrival n s
  | .snapshotGrantRequest tile r line => Sys2Proof.Machine.execSnapshotGrantRequest tile r line s
  | .l2Request n => Sys2Proof.Machine.execL2Request n s
  | .pageWalk n => Sys2Proof.Machine.execPageWalk n s
  | .firstTouchService die va => Sys2Proof.Machine.execFirstTouchService die va s
  | .faultMessage n => Sys2Proof.Machine.execFaultMessage n s
  | .faultAnswerRetry n => Sys2Proof.Machine.execFaultAnswerRetry n s
  | .faultAnswerDeny n => Sys2Proof.Machine.execFaultAnswerDeny n s
  | .faultWaitExpired => Sys2Proof.Machine.execFaultWaitExpired s
  | .translationInvalidate va span dropL2 => Sys2Proof.Machine.execTranslationInvalidate va span dropL2 s
  | .pageMigration va frame => Sys2Proof.Machine.execPageMigration va frame s
  | .pageOutToHost va host => Sys2Proof.Machine.execPageOutToHost va host s
  | .pageInFromHost va frame => Sys2Proof.Machine.execPageInFromHost va frame s
  | .hbm4Request pa store value => Sys2Proof.Machine.execHbm4Request pa store value s
  | .scrubHbm4 stk => Sys2Proof.Machine.execScrubHbm4 stk s
  | .scrubSram cmem index => Sys2Proof.Machine.execScrubSram cmem index s
  | .stepGrant cluster => Sys2Proof.Machine.execStepGrant cluster s
  | .slotCounterAdvance cluster => Sys2Proof.Machine.execSlotCounterAdvance cluster s
  | .stepRetire cluster => Sys2Proof.Machine.execStepRetire cluster s
  | .accumulatorJobRun tile => Sys2Proof.Machine.execAccumulatorJobRun tile s
  | .jobEnd tile job => Sys2Proof.Machine.execJobEnd tile job s
  | .auditSegmentSign tile => Sys2Proof.Machine.execAuditSegmentSign tile s
  | .auditReplay n => Sys2Proof.Machine.execAuditReplay n s
  | .auditVerdict n => Sys2Proof.Machine.execAuditVerdict n s
  | .quarantineRelease cluster => Sys2Proof.Machine.execQuarantineRelease cluster s
  | .barrierRelease launch domain => Sys2Proof.Machine.execBarrierRelease launch domain s
  | .exchangeArrival n => Sys2Proof.Machine.execExchangeArrival n s
  | .terminationSweep launch => Sys2Proof.Machine.execTerminationSweep launch s
  | .rollback => Sys2Proof.Machine.execRollback s
  | .sidingRelease tile => Sys2Proof.Machine.execSidingRelease tile s
  | .remoteAckArrival tile n => Sys2Proof.Machine.execRemoteAckArrival tile n s
  | .summaryRequest source tag => Sys2Proof.Machine.execSummaryRequest source tag s
  | .sumreplyArrival tile peer tag mask => Sys2Proof.Machine.execSumreplyArrival tile peer tag mask s
  | .replyTimeout tile n => Sys2Proof.Machine.execReplyTimeout tile n s
  | .junctionPacket n => Sys2Proof.Machine.execJunctionPacket n s
  | .arrivalAck device count => Sys2Proof.Machine.execArrivalAck device count s
  | .intermediateRedraw => Sys2Proof.Machine.execIntermediateRedraw s
  | .portDown port => Sys2Proof.Machine.execPortDown port s
  | .portTraining port peerNative peerUalink => Sys2Proof.Machine.execPortTraining port peerNative peerUalink s
  | .fabricTableLoad entries => Sys2Proof.Machine.execFabricTableLoad entries s
  | .dieFailure die => Sys2Proof.Machine.execDieFailure die s
  | .cxlMemRequest store addr value => Sys2Proof.Machine.execCxlMemRequest store addr value s
  | .cxlMemWaitExpired n => Sys2Proof.Machine.execCxlMemWaitExpired n s
  | .submissionEntry => Sys2Proof.Machine.execSubmissionEntry s
  | .hostEndpointDelivery n => Sys2Proof.Machine.execHostEndpointDelivery n s
  | .bar0RegisterWrite addr value => Sys2Proof.Machine.execBar0RegisterWrite addr value s
  | .spdmGetVersion => Sys2Proof.Machine.execSpdmGetVersion s
  | .spdmGetCapabilities => Sys2Proof.Machine.execSpdmGetCapabilities s
  | .spdmNegotiateAlgorithms supported => Sys2Proof.Machine.execSpdmNegotiateAlgorithms supported s
  | .spdmGetDigests => Sys2Proof.Machine.execSpdmGetDigests s
  | .spdmGetCertificate slot offset length => Sys2Proof.Machine.execSpdmGetCertificate slot offset length s
  | .spdmChallenge nonce => Sys2Proof.Machine.execSpdmChallenge nonce s
  | .spdmGetMeasurements index => Sys2Proof.Machine.execSpdmGetMeasurements index s
  | .spdmKeyExchange share => Sys2Proof.Machine.execSpdmKeyExchange share s
  | .spdmFinish domain verify => Sys2Proof.Machine.execSpdmFinish domain verify s
  | .spdmHeartbeat => Sys2Proof.Machine.execSpdmHeartbeat s
  | .spdmEndSession => Sys2Proof.Machine.execSpdmEndSession s
  | .installDomainSecret domain secret => Sys2Proof.Machine.execInstallDomainSecret domain secret s
  | .setRosterAndPermissions domain roster debug inject hostclear => Sys2Proof.Machine.execSetRosterAndPermissions domain roster debug inject hostclear s
  | .readSessionLog domain => Sys2Proof.Machine.execReadSessionLog domain s
  | .advanceLogReadPointer domain units => Sys2Proof.Machine.execAdvanceLogReadPointer domain units s
  | .readErrorSummary launch => Sys2Proof.Machine.execReadErrorSummary launch s
  | .descriptorCreate bits => Sys2Proof.Machine.execDescriptorCreate bits s
  | .descriptorDelete domain => Sys2Proof.Machine.execDescriptorDelete domain s
  | .logItemWrite => Sys2Proof.Machine.execLogItemWrite s
  | .heartbeat domain => Sys2Proof.Machine.execHeartbeat domain s
  | .receiptWrite launch => Sys2Proof.Machine.execReceiptWrite launch s
  | .launchRecordCheck n => Sys2Proof.Machine.execLaunchRecordCheck n s
  | .shareCheck launch device answer => Sys2Proof.Machine.execShareCheck launch device answer s
  | .placement die => Sys2Proof.Machine.execPlacement die s
  | .launchStart launch => Sys2Proof.Machine.execLaunchStart launch s
  | .victimPark launch => Sys2Proof.Machine.execVictimPark launch s
  | .launchRevival launch => Sys2Proof.Machine.execLaunchRevival launch s
  | .launchEnding launch => Sys2Proof.Machine.execLaunchEnding launch s
  | .domainSwitch cluster domain => Sys2Proof.Machine.execDomainSwitch cluster domain s
  | .managementPark endpoint k area => Sys2Proof.Machine.execManagementPark endpoint k area s
  | .sporeOut n => Sys2Proof.Machine.execSporeOut n s
  | .haltGroupFire die group => Sys2Proof.Machine.execHaltGroupFire die group s
  | .debugHalt tile => Sys2Proof.Machine.execDebugHalt tile s
  | .debugResume tile => Sys2Proof.Machine.execDebugResume tile s
  | .debugStepInstruction tile => Sys2Proof.Machine.execDebugStepInstruction tile s
  | .debugStepCycle tile => Sys2Proof.Machine.execDebugStepCycle tile s
  | .debugRead tile item => Sys2Proof.Machine.execDebugRead tile item s
  | .debugWrite tile item value => Sys2Proof.Machine.execDebugWrite tile item value s
  | .faultLogResend tile => Sys2Proof.Machine.execFaultLogResend tile s
  | .faultLogAck tile entry => Sys2Proof.Machine.execFaultLogAck tile entry s
  | .fatalFault tile code => Sys2Proof.Machine.execFatalFault tile code s
  | .fatalRecordCollect tile => Sys2Proof.Machine.execFatalRecordCollect tile s
  | .waitLimitExpired => Sys2Proof.Machine.execWaitLimitExpired s
  | .svcInterfaceVersion => Sys2Proof.Machine.execSvcInterfaceVersion s
  | .svcCycleCount => Sys2Proof.Machine.execSvcCycleCount s
  | .svcFreshRandom => Sys2Proof.Machine.execSvcFreshRandom s
  | .svcUserRecord => Sys2Proof.Machine.execSvcUserRecord s
  | .svcErrorInjection => Sys2Proof.Machine.execSvcErrorInjection s
  | .loopCsrWrite which value => Sys2Proof.Machine.execLoopCsrWrite which value s
  | .mdomainWrite value => Sys2Proof.Machine.execMdomainWrite value s
  | .minjectWrite value => Sys2Proof.Machine.execMinjectWrite value s
  | .mfaultlogSelect value => Sys2Proof.Machine.execMfaultlogSelect value s
  | .mfaultlogRelease value => Sys2Proof.Machine.execMfaultlogRelease value s
  | .csrRegisterWrite csr value => Sys2Proof.Machine.execCsrRegisterWrite csr value s
  | .coldReset => Sys2Proof.Machine.execColdReset s
  | .throttleWindow => Sys2Proof.Machine.execThrottleWindow s
  | .powerReport watts => Sys2Proof.Machine.execPowerReport watts s
  | .thermalSample dieTemps stackTemps => Sys2Proof.Machine.execThermalSample dieTemps stackTemps s
  | .unreachableMarkClear device => Sys2Proof.Machine.execUnreachableMarkClear device s
  | .withheldFrameRelease sector => Sys2Proof.Machine.execWithheldFrameRelease sector s
  | .firstTouchPoolRefill die size frame => Sys2Proof.Machine.execFirstTouchPoolRefill die size frame s
  | .rootOfTrustFailover => Sys2Proof.Machine.execRootOfTrustFailover s
  | .doubleFatalSporeRelease tile => Sys2Proof.Machine.execDoubleFatalSporeRelease tile s
  | .errorSummaryRelease launch => Sys2Proof.Machine.execErrorSummaryRelease launch s
  | .hostWindowTableLoad entries => Sys2Proof.Machine.execHostWindowTableLoad entries s
  | .hdmDecoderProgram base size window => Sys2Proof.Machine.execHdmDecoderProgram base size window s
  | .ideKmRequest key => Sys2Proof.Machine.execIdeKmRequest key s
  | .tileResetOrPowerGate tile => Sys2Proof.Machine.execTileResetOrPowerGate tile s
  | .powerRemoval => Sys2Proof.Machine.execPowerRemoval s

end Sys2Proof.Machine
end

