-- ==== Sys2Proof/Machine/Step.lean ====
section
/-! DEFINITION. One step of the machine (log 1), and the placing of a word where the next step fetches it (log 7). -/

namespace Sys2Proof.Machine

open Sys2Proof

/-! ### What a tile does instead of an instruction -/

/-- A tile that takes no step: parked, halted, reset or gated, stopped by a fatal event, or loaded and not started (R101, R399, R415, R417,
R431). -/
def Tile.still (t : Tile) : Bool :=
  t.parked || t.halted || t.gated || t.hold = .fatal || (t.launch.isSome && !t.started)

/-- What comes before the next instruction of the current tile, if anything: Lichen's disposition of a trap (R261, R408), the wait in Lichen of
a tile that has no image to run (log 7), a rollback that waited for its level (R373), the next trap of a revived cap (R62) or of a cap that a
handler was given (R61), the end of a bounded wait (R182, R236), and a handler (R195), which a follower of a gang takes too (R201). A trap
waits while no fault log entry is free (R413). -/
def State.instead (s : State) : Option (Host.Outcome State Fault Refusal) :=
  let t := s.tile
  if t.still then some (.next s)
  else match t.lichen with
    | some k => some (dispose k s)
    | none =>
      if t.hold ≠ .free || (t.mode = .m && t.lichenShare.kind = .null) then some (.next s)
      else if t.rollbackDue then some (execRollback s)
      else match t.reviveTraps, t.slotTraps with
        | r :: rs, _ =>
          if t.freeEntry.isNone then some (.next s)
          else some (.next (({ s with tile := { t with reviveTraps := rs, mcapinfo := capInfo r.val 0 0 false } }).takeTrap 25 (word r.val)))
        | [], _ :: _ => some (.next s.takeSlotTrap)
        | [], [] =>
          if s.waitOver then some (execWaitLimitExpired s)
          else if s.faultWaitOver then some (execFaultWaitExpired s)
          else if t.handlerDue then some (execHandlerActivation s)
          else none

/-- The end of a debug step (R434), and the cycle at which the clock of a tile that has just halted stops (R431). -/
def State.closeStep (s : State) (before : Tile) : State :=
  let t := s.tile
  let ends := !t.halted && (t.debugStep = some false || (t.debugStep.isSome && before.lichen.isSome))
  let t := if ends then { t with halted := true, debugStep := none } else t
  { s with tile := if t.halted && !before.halted then { t with stopTime := s.clock } else t }

/-- Do something with the next state of an outcome. -/
def andThen (o : Host.Outcome State Fault Refusal) (f : State → State) : Host.Outcome State Fault Refusal :=
  match o with
  | .next s => .next (f s)
  | .fault r => .fault r
  | .refused r => .refused r

/-! ### Instructions -/

/-- The followers of the current tile, when it leads a gang (R199, R200), in the order of their positions. -/
def State.followers (s : State) : List Nat :=
  if s.tile.leads then (s.others.filter fun t => sameGang s.tile t && t.gang.member).map (·.index) else []

/-- Whether followers of the current tile still have its last instruction before them (R200), one that was parked before it among them (R203). -/
def State.lagging (s : State) : Bool :=
  s.tile.leads && ((s.others.any fun t => t.lag && t.gang.member && sameGang s.tile t) || s.turns.any fun o => match o with
    | .follow i _ => (s.tileAt i).any fun t => sameGang s.tile t && t.gang.member
    | _ => false)

/-- The followers take an instruction that the leader has completed (R200, R201): each has it in hand at the leader's address, beside how the leader, in
the state `at'`, resolved it. -/
def State.pass (s at' : State) (followers : List Nat) (i : Instr) : State :=
  if s.tile.wait.isSome then s
  else
    let s := s.mapTiles (fun u => followers.contains u.index) fun u =>
      { u with pc := at'.tile.pc, gang := { u.gang with resolved := at'.resolution i } }
    { s with turns := followers.map (fun j => Turn.follow j i) ++ s.turns }

/-- Decode and run a fetched word (R223), and then do something that depends on the instruction and the state that it began in. -/
def runWord (w : BitVec 32) (after : State → Instr → State → State) (s : State) : Host.Outcome State Fault Refusal :=
  match decode w with
  | .ok i => andThen (exec i s) (after s i)
  | .error _ => execIllegalInstruction w s

/-- The current tile fetches and runs its next instruction. -/
def runNext (after : State → Instr → State → State) (s : State) : Host.Outcome State Fault Refusal :=
  match EStateM.run fetch s with
  | .ok w s => runWord w after s
  | .error e t => finish s (.error e t)

/-- After an instruction of a tile that leads a gang, its followers take it (R200). -/
def State.lead (at' : State) (i : Instr) (s : State) : State :=
  match i with
  | .gangForm _ | .gangJoin | .gangSplit => s
  | _ => s.pass at' at'.followers i

/-- A follower leaves its gang when it resolved a branch or a `jalr` otherwise than its leader (R201). -/
def State.partGang (at' : State) (i : Instr) (s : State) : State :=
  let t := s.tile
  if t.gang.member && !t.leads && t.wait.isNone && at'.resolution i ≠ t.gang.resolved then s.leaveGang else s

/-- A follower that was parked before its leader's last instruction has made it up (R203). -/
def State.catchUp (at' : State) (i : Instr) (s : State) : State :=
  if s.tile.wait.isSome then s else State.partGang at' i { s with tile := { s.tile with lag := false } }

/-- A step of the current tile. A follower of a gang runs no instruction of its own but one that it was parked before, and a leader waits for its
followers (R200, R203). -/
def tileStep (s : State) : Host.Outcome State Fault Refusal :=
  let follows := s.tile.gang.member && !s.tile.leads
  andThen (match s.instead with
    | some o => o
    | none =>
      if follows && s.tile.lag then runNext State.catchUp s
      else if follows || s.lagging then .next s
      else runNext State.lead s) fun u => u.closeStep s.tile

/-- What a follower does for an instruction of its leader: `gang.form` is illegal in a gang (R199). -/
def followInstr (i : Instr) (s : State) : Host.Outcome State Fault Refusal :=
  match i with
  | .gangForm m => execIllegalInstruction ((instrWord (.gangForm m)).setWidth 32) s
  | _ => exec i s

/-- A follower takes an instruction of its leader (R200, R201): one that stalls, whose clock is stopped, or that does something else first keeps it for
later, and a tile that has left the gang drops it. -/
def followStep (j : Nat) (i : Instr) (s : State) : Host.Outcome State Fault Refusal :=
  let back := s.tile.index
  let s := s.switchTo j
  let later (u : State) : State :=
    if u.tile.parked then { u with tile := { u.tile with lag := true } } else { u with turns := u.turns ++ [.follow j i] }
  if !s.tile.gang.member || s.tile.leads then .next (s.switchTo back)
  else andThen (match s.instead with
    | some o => andThen o fun u =>
        let u := u.closeStep s.tile
        if u.tile.gang.member then later u else u
    | none => andThen (followInstr i s) fun u =>
        let u := u.closeStep s.tile
        if u.tile.gang.member && u.tile.wait.isSome then later u else State.partGang s i u) fun u => u.switchTo back

/-! ### Turns (log 1) -/

/-- Whether an event is one that an agent takes of its own accord: those that are part of an instruction are not. -/
def Instr.ownTurn (i : Instr) : Bool :=
  (encodeNat i).isNone && match i with
    | .illegalInstruction _ | .loopCsrWrite _ _ | .mdomainWrite _ | .minjectWrite _ | .mfaultlogSelect _ | .mfaultlogRelease _
    | .csrRegisterWrite _ _ => false
    | _ => true

/-- Whether the device runs at all: it has power, no thermal trip has stopped its clocks, and its boot has not failed (R513, R518). -/
def Power.runs (p : Power) : Bool := p.powered && !p.tripped && !p.bootFailed

/-- Whether an event can happen to a device that does not run. -/
def Instr.wakes (i : Instr) : Bool := match i with
  | .coldReset | .powerRemoval => true
  | _ => false

/-- The next agent takes its turn. -/
def takeTurn (s : State) : Host.Outcome State Fault Refusal :=
  match s.turns with
  | [] => if s.power.runs then tileStep s else .next s
  | o :: rest =>
    let s := { s with turns := rest }
    match o with
    | .pass n => .next { s with clock := s.clock + n }
    | .run j => if s.power.runs then tileStep (s.switchTo j) else .next s
    | .event i => if Instr.ownTurn i && (s.power.runs || Instr.wakes i) then exec i s else .next s
    | .follow j i => if s.power.runs then followStep j i s else .next s

/-- One step of the machine takes one cycle (log 2). -/
def step (s : State) : Host.Outcome State Fault Refusal := takeTurn { s with clock := s.clock + 1 }

/-! ### Placing an instruction -/

/-- The Lichen share of a state whose next word is placed by hand: the heap of cluster 0 below its shadow pool at reset (R43, log 7). -/
def placedShare : Cap :=
  { base := 0x20000, length := 0xEE0000, kind := .cmem, location := 0, rights := { r := true, s := true }, mode := .exec,
    buffer := 0, generation := 1, weight := 0 }

/-- The directory entry of that share. -/
def placedEntry : DirEntry :=
  { home := .cluster 0, number := 0, base := 0x20000, length := 0xEE0000, state := .execShared, generation := 1, count := 1,
    domain := 0, owner := 0 }

/-- The state with an instruction's word where the current tile fetches next (log 7). -/
def State.withFetchWord (s : State) (nbits w : Nat) : State :=
  { s with turns := [], dirs := placedEntry :: s.dirs.filter (fun e => !(e.home = .cluster 0 && e.number = 0)),
           tile := { s.tile with lichenShare := placedShare },
           mem := s.mem.writeN ((Space.cmem 0).base + 0x20000 + s.tile.pc.toNat) (bytesOfWord (BitVec.ofNat 32 (w % 2 ^ nbits))) }

end Sys2Proof.Machine
end

