-- ==== Sys2Proof/Safety.lean ====
section
/-! DEFINITION. What a safe run is, and the terms in which claims are stated. -/

namespace Sys2Proof

open Sys2Proof.Machine

/-- A step that answers a next state. -/
def Steps (s t : State) : Prop := step s = .next t

/-- A state from which the next `n` steps all answer a next state. -/
def SafeFor : Nat → State → Prop
  | 0, _ => True
  | n + 1, s => ∃ t, Steps s t ∧ SafeFor n t

namespace Machine

/-- No armed error waits in an item, and the current level has no open region: a read detects nothing (R435) and a write needs no undo
record (R368). -/
structure State.Quiet (s : State) : Prop where
  armed : s.armed = []
  regions : s.tile.openRegions = []

/-- Quiet, and no prefix is latched (R230). -/
structure State.Plain (s : State) : Prop extends s.Quiet where
  kpre : s.tile.kpre = none

/-- Plain, and not at the end of an active hardware loop, where a jump is illegal (R268). -/
structure State.Straight (s : State) : Prop extends s.Plain where
  loop : s.tile.atLoopEnd = false

/-- A latched prefix goes only before a form whose rs2 field is 0 (R231). -/
def State.TakesRs2 (s : State) (b : Reg) : Prop := s.tile.kpre = none ∨ b = 0

/-- The integer rs2 operand (R230): word N of the constant window under a prefix, else the register. -/
def State.rs2Of (s : State) (b : Reg) : Word :=
  match s.tile.kpre with
  | some k => s.window s.tile.index k.toNat
  | none => s.tile.rx b

/-- The state in which the current tile has become `t` and has retired the instruction. -/
def State.retired (s : State) (t : Tile) : State := { s with tile := t.retire }

/-- The state after an instruction whose one result is a value for `x[d]`. -/
def State.wroteX (s : State) (d : Reg) (v : Word) : State := s.retired (s.tile.setX d v)

/-- The state after an instruction whose one result is a value for `v[d]`. -/
def State.wroteV (s : State) (d : Reg) (v : VReg) : State := s.retired (s.tile.setV d v)

/-- The state after an instruction whose results are values for cap registers, written in order. -/
def State.wroteC (s : State) (rs : List (Reg × Cap)) : State := s.retired (rs.foldl (fun t p => t.setC p.1 p.2) s.tile)

/-- The tile that is current takes an instruction of its own next: the device runs, no turn is agreed, and nothing comes before the instruction
(R195, R261, R373, R62, R182), it is in no gang, and no instruction of it stalls. -/
structure State.RunsOwn (s : State) : Prop where
  power : s.power.runs = true
  turns : s.turns = []
  still : s.tile.still = false
  lichen : s.tile.lichen = none
  hold : s.tile.hold = .free
  image : s.tile.mode = .u ∨ s.tile.lichenShare.kind ≠ .null
  rollbacks : s.tile.rollbacks = []
  revived : s.tile.reviveTraps = []
  slots : s.tile.slotTraps = []
  wait : s.tile.wait = none
  handler : s.tile.handlerDue = false
  alone : s.tile.gang.member = false

/-- The same state one cycle later. -/
def State.tick (s : State) : State := { s with clock := s.clock + 1 }

/-- The instructions whose operands name a place that may not exist: a frame address (R44) and a TMEM offset of the debug port (R32). -/
def placeExists : Instr → Prop
  | .hbm4Request pa _ _ => pa < 2 ^ 39
  | .debugRead _ item => scanOutside item = none
  | .debugWrite _ item _ => scanOutside item = none
  | _ => True

/-- Quotient and remainder of two integers by the rule of R254: rounded towards zero, all ones and the dividend for a zero divisor. -/
def divRem (a b : Int) : Int × Int := if b = 0 then (-1, a) else (a.tdiv b, a - b * a.tdiv b)

/-- The product over the two-element field: bit `k` is the parity of the pairs of one bits whose places add up to `k` (R255). -/
def carrylessBit (x y : Word) (k : Nat) : Bool :=
  (List.range 64).foldl (fun p i => p ^^ (y.getLsbD i && decide (i ≤ k) && x.getLsbD (k - i))) false

/-- An ordinary load of `n` bytes at an address is in order: aligned, permitted (R34, R36), and its sector not poisoned (R442). -/
def State.canLoad (s : State) (addr : Word) (n : Nat) : Prop :=
  addr.toNat % n = 0 ∧ s.tile.privateAllows addr.toNat n false = true ∧ s.poisoned (tmemKey s.tile.index addr.toNat / 64) = false

/-- The little-endian number in `n` bytes of the tile's own TMEM (R257). -/
def State.ownBytes (s : State) (addr : Word) (n : Nat) : Nat := leNat (s.mem.readN (tmemKey s.tile.index addr.toNat) n)

/-- In `t` the `n` bytes at an address of the tile's own TMEM are the low ones of `v`, lowest first, and every other byte reads as in `s`. -/
def State.bytesStored (s t : State) (addr v : Word) (n : Nat) : Prop :=
  (∀ i < n, t.mem.read (tmemKey s.tile.index addr.toNat + i) = v.extractLsb' (8 * i) 8) ∧
  (∀ k, (k < tmemKey s.tile.index addr.toNat ∨ tmemKey s.tile.index addr.toNat + n ≤ k) → t.mem.read k = s.mem.read k)

/-- `t` is `s` after a store of the low `n` bytes of `v` at an address of the tile's own TMEM: those bytes, lowest first; every other byte reads as
before; the tile has only retired, and the rest of the machine is the same. -/
def State.storedOwn (s t : State) (addr v : Word) (n : Nat) : Prop :=
  s.bytesStored t addr v n ∧ t = { s with mem := t.mem, tile := s.tile.retire }

/-- The bytes of a sector that an aligned access of `n` bytes touches. -/
def accessMask (addr : Word) (n : Nat) : BitVec 64 := BitVec.ofNat 64 ((2 ^ n - 1) * 2 ^ (addr.toNat % 64))

/-- The instruction `i` stores the low `n` bytes of `v` at an address of the tile's own TMEM and retires. A poisoned sector counts those bytes as clean
(R330), and with its 64th clean byte it is poisoned no more, which the fault log records (R439). -/
def State.storesOwn (s : State) (i : Instr) (addr v : Word) (n : Nat) : Prop :=
  let sector := tmemKey s.tile.index addr.toNat / 64
  (s.poisoned sector = false → ∃ t : State, exec i s = .next t ∧ s.storedOwn t addr v n) ∧
  ∀ m, s.markOf sector = some m →
    let clean := m.clean ||| accessMask addr n
    (clean ≠ BitVec.allOnes 64 → ∃ t : State, exec i s = .next t ∧ s.bytesStored t addr v n ∧
      t = { s with mem := t.mem, tile := s.tile.retire,
                   poison := s.poison.map fun o => if o.sector = sector then { o with clean := clean } else o }) ∧
    (clean = BitVec.allOnes 64 → s.tile.freeEntry ≠ none →
      ∃ t : State, exec i s = .next t ∧ s.bytesStored t addr v n ∧ t.poisoned sector = false)

/-- The outcome of a branch (R224, R252): to its target when it is taken, to the next word when not, and cause 0 for a taken target that is not a
multiple of 4. -/
def State.branched (s : State) (taken : Bool) (target : Word) : State :=
  if !taken then s.retired s.tile
  else if target.toNat % 4 = 0 then { s with tile := s.tile.retireTo target }
  else s.takeTrap 0 target

/-- A CSR access that R234 admits: the CSR exists, is not M-mode state named from U-mode, and is not read-only state that is written. -/
def State.mayCsr (s : State) (n : Nat) (write : Bool) : Prop :=
  csrExists n = true ∧ ¬(csrMachine n = true ∧ s.tile.mode = .u) ∧ ¬(write = true ∧ csrReadOnly n = true)

/-! ### Vector results -/

/-- The mask of an element-wise instruction can be read: it is not used, or no lane of `v0` is poisoned (R314). -/
def State.maskClean (s : State) : Prop := s.tile.vmk = false ∨ (s.tile.v.get 0).poison = 0

/-- An integer wrapped to `w` bits (R14). -/
def wrap (w : Nat) (z : Int) : Nat := (z % 2 ^ w).toNat

/-- The elements of width `w` that an element-wise write of `v[d]` leaves (R291): `f` for the active ones, the old ones elsewhere. -/
def State.Elementwise (s : State) (d : Reg) (w : Nat) (r : VReg) (f : Nat → Nat) : Prop :=
  ∀ k, w * k + w ≤ 1024 → r.el w k = if s.tile.active w k then f k % 2 ^ w else (s.tile.v.get d).el w k

/-- The mask bits that a compare of elements of width `w` leaves in `v[d]` (R296): bit `k` for each active element `k`, the old ones elsewhere. -/
def State.Bitwise (s : State) (d : Reg) (w : Nat) (r : VReg) (p : Nat → Bool) : Prop :=
  ∀ k < 1024, r.bit k = if s.tile.active w k then p k else (s.tile.v.get d).bit k

/-- The instruction `i` retires, and all it changes is `v[d]`, which gets the elements that `f` gives. -/
def State.GivesElements (s : State) (i : Instr) (d : Reg) (w : Nat) (f : Nat → Nat) : Prop :=
  ∃ r, exec i s = .next (s.wroteV d r) ∧ s.Elementwise d w r f

/-- The instruction `i` retires, and all it changes is `v[d]`, which gets the mask bits that `p` gives. -/
def State.GivesBits (s : State) (i : Instr) (d : Reg) (w : Nat) (p : Nat → Bool) : Prop :=
  ∃ r, exec i s = .next (s.wroteV d r) ∧ s.Bitwise d w r p

/-- The leaves of a float reduction: the active elements, and the identity elsewhere (R308). -/
def State.leavesOf (s : State) (v : VReg) (w ident : Nat) : List Nat :=
  (List.range (1024 / w)).map fun k => if s.tile.active w k then v.el w k else ident

/-- The mask bits that a scan reads (R310). -/
def State.scanned (s : State) (a : Reg) : List Bool :=
  (List.range (min s.tile.vlen 128)).map fun k => (s.tile.v.get a).bit k && (!s.tile.vmk || (s.tile.v.get 0).bit k)

/-! ### Caps -/

/-- No armed error waits, and nothing of the tile is on its way: its L1 and its send buffer are empty, no request or reply of a home waits, no remote
store and no request to another device is outstanding, and no Deny answer has come for its wait. -/
structure State.Drained (s : State) : Prop where
  armed : s.armed = []
  cache : s.tile.l1 = []
  requests : s.requests = []
  replies : s.replies = []
  remotes : s.tile.remotes = []
  asks : s.tile.asks = []
  sending : s.tile.sending = none
  denied : ∀ w, s.tile.wait = some w → w.denied = false

/-- Quiet and drained, and no buffer has a snapshot level, no sector is poisoned, and no instruction waits on the release path. -/
structure State.Settled (s : State) : Prop extends s.Quiet, s.Drained where
  levels : s.levels = []
  poison : s.poison = []
  release : s.tile.releasePath = []

/-- The check code and the fields of a cap that an instruction moves may change only in an ordinary cap: it is not null, no ring cap, and not lent
(R318, R65). -/
def Cap.Ordinary (c : Cap) : Prop := c.kind ≠ .null ∧ c.kind ≠ .handle ∧ c.kind ≠ .slot ∧ c.lent = false

/-- A register that an instruction may write a cap to: not `c30` (R223), and it holds no lent cap. -/
def State.TakesCap (s : State) (d : Reg) : Prop := d ≠ 30 ∧ (s.tile.rc d).lent = false

/-- The home of a cap on this device runs, and keeps for its buffer the entry `e`, in the state `st`, under the cap's generation and domain; the cap's range
lies in the buffer and in the home's heap, and touches the system window only under domain 0 (R25, R43, R45, R66). -/
structure State.Keeps (s : State) (c : Cap) (h : HomeId) (e : DirEntry) (st : DirState) : Prop where
  kind : c.kind = .tmem ∨ c.kind = .cmem ∨ c.kind = .dmem
  lent : c.lent = false
  home : s.homeOf c = some h
  awake : s.asleep h = false
  entry : s.entry h c.buffer.toNat = some e
  kept : s.gone e = false
  state : e.state = st
  fits : s.rangeLeaves (s.claim h c s.tile) e = false
  window : (s.claim h c s.tile).inWindow e = false
  generation : e.generation = c.generation
  domain : e.domain = c.domain

/-- The tile owns the exclusive buffer of a cap: the entry names it as the owner (R66). -/
structure State.Owns (s : State) (c : Cap) (h : HomeId) (e : DirEntry) : Prop extends s.Keeps c h e .exclusive where
  mode : c.mode = .exclusive
  owner : e.owner = s.tile.principal s.device

/-- `t` is `s` after the instruction has written cap registers, in order, and has dropped the lines of caps that it took away (R113); memory is as
before. -/
def State.movedCaps (s t : State) (rs : List (Reg × Cap)) (gone : List Cap) : Prop :=
  t.tile = (gone.foldl Tile.forget (rs.foldl (fun t p => t.setC p.1 p.2) s.tile)).retire ∧ t.mem = s.mem

/-- The entry of a buffer after an instruction. -/
def State.nowHas (t : State) (h : HomeId) (b : Nat) (p : DirEntry → Prop) : Prop := ∃ e, t.entry h b = some e ∧ p e

/-! ### Access under caps -/

/-- The tile's own TMEM holds the buffer of a cap, which the tile owns; the whole range of the cap lies in the buffer (R66, R106). -/
structure State.HoldsOwn (s : State) (c : Cap) (e : DirEntry) : Prop extends s.Owns c (.tile s.tile.index) e where
  tmem : c.kind = .tmem
  own : s.relocateTile c.domain c.location.toNat = s.tile.index
  low : e.base ≤ c.base.toNat
  high : c.base.toNat + c.length.toNat ≤ e.base + e.length
  depth : c.depth = 0

/-- The key of the byte at an offset of a cap of the tile's own TMEM. -/
def State.ownKey (s : State) (c : Cap) (off : Nat) : Nat := tmemKey s.tile.index (c.base.toNat + off)

/-- `t` is `s` after a store of bytes at keys, one after the other: a key that no byte was stored at reads as before, and the instruction has retired. -/
def State.storedCells (s t : State) (cells : List (Nat × Byte)) : Prop :=
  t = { s with mem := s.mem.writeCells cells, tile := s.tile.retire } ∧ ∀ k, (∀ p ∈ cells, p.1 ≠ k) → t.mem.read k = s.mem.read k

/-- R329: the offset of element `k` of a vector access in the three modes. -/
def State.pvOff (s : State) (rs : Reg) (e : BitVec 5) (w : Nat) (m : PvMode) (k : Nat) : Nat :=
  let x := s.tile.rx rs
  let r : Reg := Fin.ofNat 32 e.toNat
  match m with
  | .unit => (x + e.setWidth 64 * 128 + BitVec.ofNat 64 (k * w / 8)).toNat
  | .stride => (x + BitVec.ofNat 64 k * s.tile.rx r).toNat
  | .index => (x + BitVec.ofNat 64 ((s.tile.v.get r).el w k)).toNat

/-! ### Messages and jobs -/

/-- A cap that a send may take (R83, R84): it carries S and is not lent; the tile owns its buffer, or it is a share of a buffer whose home runs, a ring
cap that its home admits, or a host cap. -/
def State.Sendable (s : State) (c : Cap) : Prop :=
  c.lent = false ∧ c.rights.s = true ∧
  ((∃ h e, s.Owns c h e ∧ e.generation ≠ 0xFFFF) ∨ (c.mode ≠ .exclusive ∧ ∃ h e st, s.Keeps c h e st) ∨ c.kind = .host ∨
    ((c.kind = .handle ∨ c.kind = .slot) ∧ ∃ h, s.homeOf c = some h ∧ s.asleep h = false ∧ s.checkRing h c = none))

/-- What a send makes of a cap (R71, R83): the buffer of an exclusive cap is In transit from the sender, under a generation one higher, which the cap in the
message carries; any other cap goes as it is. -/
def State.SentAs (s t : State) (c c' : Cap) : Prop :=
  (∀ h e, s.Owns c h e → c' = s.sign { c with generation := c.generation + 1, depth := BitVec.ofNat 3 e.depth } ∧
    t.nowHas h c.buffer.toNat fun o => o.state = .inTransit ∧ o.owner = s.tile.principal s.device ∧ o.generation = e.generation + 1) ∧
  ((∀ h e, ¬ s.Owns c h e) → c' = c)

/-- The instruction `i` retires and puts one message, with its caps as sent, at the end of the network; the registers of the caps are null, `msgsent` counts it
in U-mode, and no other register and no byte of memory changes. -/
def State.SendsMsg (s : State) (i : Instr) (rs : List Reg) (m : Msg) : Prop :=
  ∃ t sent, exec i s = .next t ∧ t.net = s.net ++ [{ m with caps := sent, seq := s.msgSeq }] ∧ List.Forall₂ (s.SentAs t) (rs.map s.tile.rc) sent ∧
    t.msgSeq = s.msgSeq + 1 ∧ t.tile.msgsent = s.tile.msgsent + (if s.tile.mode = .u then 1 else 0) ∧
    (∀ r ∈ rs, t.tile.rc r = Cap.null) ∧ (∀ r, r ∉ rs → t.tile.rc r = s.tile.rc r) ∧ t.tile.x = s.tile.x ∧ t.tile.v = s.tile.v ∧ t.mem = s.mem

/-- `t` is after the tile has taken the message `q` from its queue (R335): header, payload and caps are in their registers, the queue has lost the entry, the
count of messages received has risen if the message counts, and no other register and no byte of memory has changed. -/
def State.Received (s t : State) (x : Bool) (q : QMsg) : Prop :=
  t.tile.rx 10 = q.header ∧ (∀ i < 7, t.tile.rx (Fin.ofNat 32 (11 + i)) = q.msg.payload.getD i 0) ∧
  (∀ r : Reg, r.val < 10 ∨ 17 < r.val → t.tile.rx r = s.tile.rx r) ∧
  t.tile.rc 28 = q.msg.caps.getD 0 (s.tile.rc 28) ∧ t.tile.rc 29 = q.msg.caps.getD 1 (s.tile.rc 29) ∧
  (∀ r : Reg, r ≠ 28 → r ≠ 29 → t.tile.rc r = s.tile.rc r) ∧
  (if x then t.tile.xqueue = s.tile.xqueue.eraseP (fun m => m.kept.isNone) ∧ t.tile.queues = s.tile.queues
   else t.tile.queues = s.tile.queues.set s.tile.level.val ((s.tile.queues.get s.tile.level).eraseP fun m => m.kept.isNone) ∧ t.tile.xqueue = s.tile.xqueue) ∧
  t.tile.v = s.tile.v ∧ t.tile.level = s.tile.level ∧ t.mem = s.mem

/-- What a submission of a job may find (R353): fewer than 64 unended jobs and no pending error. -/
structure State.TakesJob (s : State) : Prop extends s.Settled where
  room : (s.tile.jobs.filter fun j => !j.ended).length < 64
  clean : s.tile.jobs.find? (·.pending) = none

/-- A cap that a job may borrow: not lent yet, and its home, if it has one, runs. -/
def State.Lendable (s : State) (c : Cap) : Prop := c.lent = false ∧ ∀ h, s.homeOf c = some h → s.asleep h = false

/-- The instruction `i` retires and queues one job of the tile (R353): its number goes to `x[d]`, its caps are lent, and no other register, but the
stochastic state, and no byte of memory changes. -/
def State.Submits (s : State) (i : Instr) (d : Reg) (kind : JobKind) (audited : Bool) (rs : List Reg) (seed : Word) : Prop :=
  ∃ t j, exec i s = .next t ∧ t.tile.jobs = s.tile.recycle.jobs ++ [j] ∧ j.number = s.tile.rank % 2 ^ 30 * 2 ^ 18 + s.tile.jobSerial % 2 ^ 18 ∧
    j.kind = kind ∧ j.status = .queued ∧ j.audited = audited ∧ j.tile = s.tile.index ∧ j.ended = false ∧ j.region = none ∧
    j.lent = rs.map (fun r => (bankOf s.tile r, r)) ∧ t.tile.jobSerial = s.tile.jobSerial + 1 ∧
    (∀ r ∈ rs, t.tile.rc r = s.sign { s.tile.rc r with lent := true }) ∧ (∀ r, r ∉ rs → t.tile.rc r = s.tile.rc r) ∧
    (∀ r, t.tile.rx r = if r = d ∧ d ≠ 0 then BitVec.ofNat 64 j.number else s.tile.rx r) ∧ t.tile.srseed = seed ∧ t.tile.v = s.tile.v ∧ t.mem = s.mem

/-- A ring cap that its home admits (R344): the ring `g` of the cluster `k`. -/
structure State.AtRing (s : State) (c : Cap) (k : Nat) (g : Ring) : Prop where
  home : s.homeOf c = some (.cluster k)
  awake : s.asleep (.cluster k) = false
  admitted : s.checkRing (.cluster k) c = none
  ring : s.ring k c.buffer.toNat = some g
  lent : c.lent = false

/-- The ring of a buffer after an instruction. -/
def State.ringNow (t : State) (k b : Nat) (p : Ring → Prop) : Prop := ∃ g, t.ring k b = some g ∧ p g

/-- No buffer is under a region level, so no instruction of another level is refused for it (R162). -/
def State.NoRegionLevels (s : State) : Prop := ∀ l ∈ s.levels, l.region = false

/-! ### Events -/

/-- `t` is `s` after Lichen has answered a service (R261): the status in `a0`, the result, if the service has one, in `a1`, and the tile back in the mode
it came from after the `ecall`; every other register and memory are as before. -/
def State.Served (s t : State) (status : Nat) (result : Option Word) : Prop :=
  t.tile.pc = ((s.tile.lichen.map (·.pc)).getD s.tile.mepc) + 4 ∧ t.tile.mode = s.tile.mpp ∧ t.tile.lichen = none ∧
  (∀ r, t.tile.rx r = if r = 10 then BitVec.ofNat 64 status else if r = 11 then result.getD (s.tile.rx 11) else s.tile.rx r) ∧
  t.tile.v = s.tile.v ∧ t.tile.c = s.tile.c ∧ t.mem = s.mem

/-- The tiles have different indexes. -/
def State.Numbered (s : State) : Prop := (s.allTiles.map (·.index)).Nodup

/-- The instruction `i` answers a next state in which the tile `n`, which was `u`, is `u'`, and memory is as before. -/
def State.MakesTile (s : State) (i : Instr) (n : Nat) (u' : Tile) : Prop := ∃ t, exec i s = .next t ∧ t.tileAt n = some u' ∧ t.mem = s.mem
/-- The n-th message of the network may enter the tile `u` of index `i` of this device (R194): it is placed, nothing of its stream is before it, its launch takes
messages, and the tile is neither parked nor gated. -/
structure State.Enters (s : State) (n : Nat) (m : Msg) (i : Nat) (u : Tile) : Prop where
  here : s.net[n]? = some m
  first : s.mustWait m = false
  goes : s.destTile m.dest = some i
  tile : s.tileAt i = some u
  placed : m.placed = true
  parked : u.parked = false
  gated : u.gated = false

/-- The n-th request is next for its home on this device, which runs and keeps the buffer, at no depth, under the generation and domain of the request (R66). -/
structure State.Serves (s : State) (n : Nat) (r : Request) (e : DirEntry) : Prop where
  here : s.requests[n]? = some r
  first : s.laterOf r = false
  plain : r.ring = none
  local' : r.remote = none
  awake : s.asleep r.home = false
  entry : s.entry r.home r.buffer = some e
  kept : s.gone e = false
  generation : e.generation = r.generation
  domain : e.domain = r.domain
  fits : s.rangeLeaves r.claim e = false
  window : r.claim.inWindow e = false
  depth : e.depth = 0
  armed : s.armed = []
  clean : s.poison = []

/-- `t` is after a home has answered the request `r` of a tile: the request has left the queue, and the answer is the last reply. -/
def State.Answers (s t : State) (r : Request) (k : ReplyKind) : Prop :=
  t.requests = s.requests.filter (fun o => decide (o ≠ r)) ∧
  t.replies = s.replies ++ [{ tile := r.tile, serial := r.serial, buffer := r.buffer, generation := r.generation, domain := r.domain, kind := k }]
/-- Every entry of the run of a page holds `v` (R168, R169). -/
def State.RunIs (t : State) (size entryAt v : Nat) : Prop := ∀ a ∈ runOf size entryAt, t.pte a = v % 2 ^ 64

/-- The run of a page lies outside a frame of the page's size. -/
def RunApart (size entryAt frame : Nat) : Prop := ∀ a ∈ runOf size entryAt, a + 8 ≤ frame ∨ frame + pageSize size ≤ a

/-- No L1 holds a merge back (R188), and no CXL.mem request waits (R143). -/
structure State.NoHeld (s : State) : Prop where
  lines : ∀ u ∈ s.allTiles, ∀ l ∈ u.l1, l.heldMerge = false
  host : s.host.waiting = []

/-- No TLB entry covers an address of a range (R185). -/
def State.TlbClear (t : State) (va span : Nat) : Prop := ∀ x ∈ t.paging.tlb, x.va + pageSize x.size ≤ va ∨ va + span ≤ x.va
/-- A job of a tile, by its number, after an event. -/
def State.JobIs (t : State) (tile number : Nat) (p : Job → Prop) : Prop := ∃ u o, t.tileAt tile = some u ∧ o ∈ u.jobs ∧ o.number = number ∧ p o

/-- The tile `i` holds the job, which has not ended, and the cluster that runs it is not stopped. -/
structure State.HasJob (s : State) (i : Nat) (j : Job) : Prop where
  tile : j.tile = i
  live : (s.tileAt i).bind (fun u => u.liveJob j.number) = some j
  open' : j.outcome = none
  runs : (s.clusterAt j.cluster).any (·.stopped) = false
/-- A packet to a device may leave at once (R475-R477): the device has a route, a path record is free, and nothing waits for one. -/
structure State.CanSend (s : State) (d : Nat) : Prop where
  route : s.fabric.route d ≠ none
  paths : s.fabric.paths.length < 4096
  waiting : s.fabric.waiting = []

/-- The packet that left last is `p`, but for what the path and the seal add. -/
def State.JustSent (t : State) (p : Packet → Prop) : Prop := ∃ x xs, t.fabric.sent = x :: xs ∧ p x

/-- The n-th packet of the inbox is the next of its sender, is for this device, and carries no seal and no caps; a message is the next in sequence (R479, R482, R483). -/
structure State.NextPacket (s : State) (n : Nat) (p : Packet) : Prop where
  here : s.fabric.inbox[n]? = some p
  first : ∀ o ∈ s.fabric.inbox.take n, deviceOf o.source ≠ deviceOf p.source
  good : p.malformed = false
  mine : deviceOf p.destination = s.device
  plain : p.sealed = false
  domain : s.sealed p.domain = false
  caps : ∀ m, p.msg = some m → m.caps = []
  order : p.op = 0 → p.serial = ((s.fabric.recvSeq.find? fun q => q.1 = deviceOf p.source).map (·.2)).getD 0
/-- The SPDM responder answers the request `i` with a code and words in the phase `p`; no tile and no memory changes (R471). -/
def State.SpdmSays (s : State) (i : Instr) (p : SpdmPhase) (code : Nat) (words : List Nat → Prop) : Prop :=
  ∃ t ws, exec i s = .next t ∧ t.trust.spdm = p ∧ t.trust.answers = (code, ws) :: s.trust.answers ∧ words ws ∧ t.tile = s.tile ∧ t.mem = s.mem

/-- The responder answers ERROR, and nothing else changes. -/
def State.SpdmErrs (s : State) (i : Instr) : Prop :=
  exec i s = .next { s with trust := { s.trust with answers := (0x7F, []) :: s.trust.answers } }

/-- The word at a host address. -/
def State.hostNow (t : State) (a : Nat) : Word := BitVec.ofNat 64 (leNat (t.mem.readN (Space.host.base + a) 8))
/-- A launch of the device, by its number, after an event. -/
def State.LaunchIs (t : State) (n : Nat) (p : Launch → Prop) : Prop := ∃ l : Launch, t.launchAt n = some l ∧ p l

/-- A tile, by its index, after an event. -/
def State.TileIs (t : State) (i : Nat) (p : Tile → Prop) : Prop := ∃ u : Tile, t.tileAt i = some u ∧ p u

/-- A cluster, by its index, after an event. -/
def State.ClusterIs (t : State) (k : Nat) (p : Cluster → Prop) : Prop := ∃ c : Cluster, t.clusterAt k = some c ∧ p c

/-- The launch `n` of this device alone is loading, and all it needs is one cluster `k` of its domain for its rank group `j`: it names no initial
buffers, no other device takes part, and no rank asked for its end. -/
structure State.LoadsOne (s : State) (n : Nat) (l : Launch) (j k : Nat) : Prop where
  here : s.launchAt n = some l
  state : l.state = .loading
  own : l.device = s.device
  alone : s.peersOf l = []
  done : l.done = none
  placed : ∀ g ∈ l.groups, g.device = s.device → g.placed = true
  todo : s.toLoad l = [(j, k)]
  domain : s.inDomain k l.record.domain = true
  offer : l.offer = []
  buffers : l.buffers = []
  caps : l.record.caps = []
  remote : l.remoteCaps = []
/-- A mode field of a PMP configuration byte of the encoding NA4 becomes OFF, and the two reserved bits are 0 (R235). -/
def pmpLegal (b : Nat) : Nat := if b / 8 % 4 = 2 then b / 128 % 2 * 128 + b % 8 else b / 128 % 2 * 128 + b % 32


end Machine

end Sys2Proof
end

