-- ==== Sys2Proof/Certificates/Slice0/Obligations.lean ====
section
/-! DEFINITION. The statements for the provers. -/

open Sys2Proof Sys2Proof.Machine

/-! ### Decoding and the step -/

/-- R223: when the current tile is to run an instruction of its own and the word that it fetches at `pc` decodes to `i`, the step is `exec i` at
the state that the fetch leaves, one cycle later. Around it the step adds only what a gang leader hands its followers (R200) and the end of a
debug step (R434), neither of which concerns a tile in no gang that is not being stepped.
That the current tile acts while `State.turns` is empty, and that a step takes one cycle, is the model's choice (logs 1 and 2). -/
def Obligations.StepRunsDecoded : Prop :=
  ∀ (s u t : State) (w : BitVec 32) (i : Instr),
    s.RunsOwn → EStateM.run fetch s.tick = .ok w u → u.tile.gang.member = false → decode w = .ok i →
    exec i u = .next t → t.tile.halted = false → t.tile.debugStep = none → step s = .next t

/-- R115, R139, R250: under a code cap that is an exec share with R, the fetch of a word in the buffer gives the four bytes at offset `pc`, lowest first: from the line that
the instruction cache holds, which changes nothing, when its sector there is not poisoned; and from the memory of the cluster on a miss that the home admits, which fills the
line and changes nothing else. A fetch that would pass the end of the buffer raises cause 1 with `mtval` = `pc`, and one at a `pc` that is not a multiple of 4 cause 0.
That a cap without those rights raises cause 24, and that a misaligned `pc` raises cause 0, is the model's reading (logs 14 and 69); the order in which full lines go is
its choice (log 70). -/
def Obligations.FetchResults : Prop :=
  ∀ s : State,
    let c := s.tile.codeCap
    let pc := s.tile.pc.toNat
    let n := min 256 (c.length.toNat - 256 * (pc / 256))
    let may : Prop := pc + 4 ≤ c.length.toNat ∧ pc % 4 = 0 ∧ c.mode = .exec ∧ c.eff.r = true
    (∀ l : ILine, may → s.homeOf c ≠ none → s.tile.iline c (pc / 256) = some l → (∀ p ∈ l.bad, p.1 ≠ pc % 256 / 64) →
      EStateM.run fetch s = .ok (BitVec.ofNat 32 (leNat ((l.data.drop (pc % 256)).take 4))) s) ∧
    (∀ k, may → c.kind = .cmem → s.homeOf c = some (.cluster k) → s.tile.iline c (pc / 256) = none → s.asleep (.cluster k) = false →
      s.checkAccess (s.claim (.cluster k) c s.tile) c.base.toNat (256 * (pc / 256)) n 0 0 = none → s.armed = [] → s.poison = [] →
      ∃ l : ILine, l.line = pc / 256 ∧ l.bad = [] ∧ l.data = s.mem.readN ((Space.cmem k).base + (c.base.toNat + 256 * (pc / 256))) n ∧
        EStateM.run fetch s = .ok (BitVec.ofNat 32 (leNat (s.mem.readN ((Space.cmem k).base + (c.base.toNat + pc)) 4)))
          { s with tile := { s.tile with icache := (l :: s.tile.icache).take 256 } }) ∧
    (may → s.homeOf c = none → EStateM.run fetch s = .error (.trap 24 s.tile.pc) { s with tile := { s.tile with mcapinfo := capInfo 30 0 0 false } }) ∧
    (c.length.toNat < pc + 4 → EStateM.run fetch s = .error (.trap 1 s.tile.pc) s) ∧
    (pc + 4 ≤ c.length.toNat → pc % 4 ≠ 0 → EStateM.run fetch s = .error (.trap 0 s.tile.pc) s)

/-- R217, R230, R252, R267, R284, R293, R317, R346, R351, R352, R356, R366: the words that the chapters assemble, and words of the
base formats written out bit by bit, decode to the instructions they stand for; every family has one. -/
def Obligations.WordsDecode : Prop :=
  decode 0b0000000_01011_01010_000_01010_0110011 = .ok (.add 10 10 11) ∧
  decode 0b111111111111_00101_000_00101_0010011 = .ok (.addi 5 5 (BitVec.ofInt 12 (-1))) ∧
  decode 0b000000001000_00110_011_00101_0000011 = .ok (.ld 5 6 8) ∧ decode 0b0000000_00101_00110_011_01000_0100011 = .ok (.sd 6 5 8) ∧
  decode 0b0000000_00110_00101_000_01000_1100011 = .ok (.beq 5 6 0b0000000_01000) ∧
  decode 0b0_0000000000_1_00000000_00001_1101111 = .ok (.jal 1 0b0_0000000000_1_00000000) ∧
  decode 0b010000_000011_00110_101_00101_0010011 = .ok (.srai 5 6 3) ∧ decode 0b0000101_00111_00110_011_00101_0110011 = .ok (.clmulh 5 6 7) ∧
  decode 0b0000001_00111_00110_100_00101_0111011 = .ok (.divw 5 6 7) ∧ decode 0x00000073 = .ok .ecall ∧ decode 0x00100073 = .ok .ebreak ∧
  decode 0x10500073 = .ok .wfi ∧ decode 0x30200073 = .ok .mret ∧ decode 0x0036507B = .ok (.lpSet 12 3) ∧
  decode 0x80871073 = .ok (.csrrw 0 14 0x808) ∧ decode 0x8C80507B = .ok (.kpre 200) ∧ decode 0x00058533 = .ok (.add 10 11 0) ∧
  decode 0x363392AB = .ok (.cldD 5 7 3 3) ∧ decode 0x8A45855B = .ok (.mxMma 10 11 4 5 2) ∧ decode 0x230606DB = .ok (.mxMma 13 12 16 17 0) ∧
  decode 0x007342DB = .ok (.fcvtN 5 6 7) ∧ decode 0x1C20A20B = .ok (.vfmaVv 4 1 2 2) ∧ decode 0x1C62528B = .ok (.vfredsum 5 4 6 2) ∧
  decode 0x0413728B = .ok (.vcfg 5 6 1 2) ∧ decode 0x20C0438B = .ok (.vmvVk 7 12 2) ∧ decode 0x1402318B = .ok (.vfmulVx 3 4 0 2) ∧
  decode 0x28548A2B = .ok (.capSplitR 20 9 5) ∧ decode 0x0655F02B = .ok (.xfer 11 5 3) ∧ decode 0x0AD6532B = .ok (.msgSendc 6 12 13 1) ∧
  decode 0x0000602B = .ok .msgRecv ∧ decode 0x0058B85B = .ok (.ringInit 16 17 5) ∧ decode 0x0204BA5B = .ok (.ringRsv 20 9) ∧
  decode 0x040A305B = .ok (.ringPub 20) ∧ decode 0x06083B5B = .ok (.ringTake 22 16) ∧ decode 0x080B305B = .ok (.ringDoneSlot 22) ∧
  decode 0x0200165B = .ok (.mxZero 12 1) ∧ decode 0x42B2165B = .ok (.mxLoad 12 4 11 1) ∧ decode 0x84B2155B = .ok (.mxOut 10 4 11 2) ∧
  decode 0x000322DB = .ok (.mxPoll 5 6) ∧ decode 0x020322DB = .ok (.mxCancel 5 6) ∧ decode 0x0000057B = .ok (.rgnOpen 10) ∧
  decode 0x106284FB = .ok (.rgnKeep 9 5 6) ∧ decode 0x2000007B = .ok .rgnClose ∧ decode 0x3030007B = .ok (.rgnAbort 3) ∧
  decode 0x0004907B = .ok (.snapTake 9) ∧ decode 0x1004907B = .ok (.snapAccept 9) ∧ decode 0x2004907B = .ok (.snapReject 9) ∧
  decode 0x300492FB = .ok (.snapInfo 5 9) ∧ decode 0x0012A07B = .ok (.barJoin 5 1) ∧ decode 0x1010207B = .ok (.barArrive 1) ∧
  decode 0x2010207B = .ok (.barWait 1) ∧ decode 0x312A207B = .ok (.xchBegin 20 2 1) ∧ decode 0x4004207B = .ok (.xchSend 8) ∧
  decode 0x5000237B = .ok (.xchEnd 6) ∧ decode 0x00F0307B = .ok (.gangForm 0x0F) ∧ decode 0x1000307B = .ok .gangSplit ∧
  decode 0x2000307B = .ok .gangJoin ∧ decode 0x004042FB = .ok (.waitQ 5 4) ∧ decode 0x100542FB = .ok (.waitJob 5 10) ∧
  decode 0x00A4E2FB = .ok (.lnchPost 5 9 10) ∧ decode 0x1005607B = .ok (.lnchDone 10) ∧ decode 0x000372FB = .ok (.sysPark 5 6 0) ∧
  decode 0x100372FB = .ok (.sysRevive 5 6) ∧ decode 0x2003707B = .ok (.sysHalt 6)

/-- R215-R222: no bit of an encoding is dropped: the decoder reads the word that the encoder writes for a well-formed instruction, with every
operand at every value, as that instruction. -/
def Obligations.DecodeEncode : Prop :=
  ∀ (i : Instr) (w : BitVec 32), wellFormed i = true → encode i = [w] → decode w = .ok i

/-- R223: a word that the decoder accepts is the word that the encoder writes for what was read: no two words are one instruction. -/
def Obligations.EncodeDecode : Prop :=
  ∀ (w : BitVec 32) (i : Instr), decode w = .ok i → encode i = [w]

/-- R223, R254 and the chapters of every other instruction: no instruction and no event of another agent is refused or stops the machine; each
answers a next state from every state, except the three that name an address which the part does not have. -/
def Obligations.EveryInstructionAnswers : Prop :=
  (∀ (i : Instr) (s : State), placeExists i → ∃ t : State, exec i s = .next t) ∧
  ∀ (s : State) (pa off n : Nat) (item : ScanItem) (w v : Word) (b : Bool),
    (2 ^ 39 ≤ pa → exec (.hbm4Request pa b v) s = .fault (.noSuchAddress pa)) ∧
    (scanOutside item = some off → exec (.debugRead n item) s = .fault (.noSuchAddress off) ∧ exec (.debugWrite n item w) s = .fault (.noSuchAddress off))

/-! ### Integer instructions -/

/-- R254: `lui` and the register-immediate instructions write their result to `x[d]`, retire, and change nothing else. -/
def Obligations.ImmediateResults : Prop :=
  ∀ (s : State) (d a : Reg) (imm : BitVec 12) (u : BitVec 20) (h : BitVec 6) (sh : BitVec 5), s.Plain →
    let x := s.tile.rx a
    exec (.lui d u) s = .next (s.wroteX d ((u ++ (0 : BitVec 12)).signExtend 64)) ∧
    exec (.auipc d u) s = .next (s.wroteX d (s.tile.pc + (u ++ (0 : BitVec 12)).signExtend 64)) ∧
    exec (.addi d a imm) s = .next (s.wroteX d (x + imm.signExtend 64)) ∧
    exec (.slti d a imm) s = .next (s.wroteX d (if x.toInt < imm.toInt then 1 else 0)) ∧
    exec (.sltiu d a imm) s = .next (s.wroteX d (if x.toNat < (imm.signExtend 64).toNat then 1 else 0)) ∧
    exec (.xori d a imm) s = .next (s.wroteX d (x ^^^ imm.signExtend 64)) ∧
    exec (.ori d a imm) s = .next (s.wroteX d (x ||| imm.signExtend 64)) ∧
    exec (.andi d a imm) s = .next (s.wroteX d (x &&& imm.signExtend 64)) ∧
    exec (.slli d a h) s = .next (s.wroteX d (x <<< h.toNat)) ∧
    exec (.srli d a h) s = .next (s.wroteX d (x >>> h.toNat)) ∧
    exec (.srai d a h) s = .next (s.wroteX d (x.sshiftRight h.toNat)) ∧
    exec (.addiw d a imm) s = .next (s.wroteX d ((x.setWidth 32 + (imm.signExtend 32)).signExtend 64)) ∧
    exec (.slliw d a sh) s = .next (s.wroteX d ((x.setWidth 32 <<< sh.toNat).signExtend 64)) ∧
    exec (.srliw d a sh) s = .next (s.wroteX d ((x.setWidth 32 >>> sh.toNat).signExtend 64)) ∧
    exec (.sraiw d a sh) s = .next (s.wroteX d (((x.setWidth 32).sshiftRight sh.toNat).signExtend 64))

/-- R230, R254: the 64-bit register instructions write their result to `x[d]`, retire, and change nothing else; the second operand is word N of
the constant window under a prefix. -/
def Obligations.RegisterResults : Prop :=
  ∀ (s : State) (d a b : Reg), s.Quiet → s.TakesRs2 b →
    let x := s.tile.rx a
    let y := s.rs2Of b
    exec (.add d a b) s = .next (s.wroteX d (x + y)) ∧
    exec (.sub d a b) s = .next (s.wroteX d (x - y)) ∧
    exec (.sll d a b) s = .next (s.wroteX d (x <<< (y.toNat % 64))) ∧
    exec (.srl d a b) s = .next (s.wroteX d (x >>> (y.toNat % 64))) ∧
    exec (.sra d a b) s = .next (s.wroteX d (x.sshiftRight (y.toNat % 64))) ∧
    exec (.slt d a b) s = .next (s.wroteX d (if x.toInt < y.toInt then 1 else 0)) ∧
    exec (.sltu d a b) s = .next (s.wroteX d (if x.toNat < y.toNat then 1 else 0)) ∧
    exec (.xor d a b) s = .next (s.wroteX d (x ^^^ y)) ∧
    exec (.or d a b) s = .next (s.wroteX d (x ||| y)) ∧
    exec (.and d a b) s = .next (s.wroteX d (x &&& y)) ∧
    exec (.mul d a b) s = .next (s.wroteX d (x * y)) ∧
    exec (.mulh d a b) s = .next (s.wroteX d (BitVec.ofInt 64 (x.toInt * y.toInt / 2 ^ 64))) ∧
    exec (.mulhsu d a b) s = .next (s.wroteX d (BitVec.ofInt 64 (x.toInt * y.toNat / 2 ^ 64))) ∧
    exec (.mulhu d a b) s = .next (s.wroteX d (BitVec.ofNat 64 (x.toNat * y.toNat / 2 ^ 64)))

/-- R254: division and remainder are defined for every operand: by zero they give all ones and the dividend, and -2^63 by -1 (-2^31 in a W form)
gives itself and 0. -/
def Obligations.DivisionResults : Prop :=
  ∀ (s : State) (d a b : Reg), s.Quiet → s.TakesRs2 b →
    let x := s.tile.rx a
    let y := s.rs2Of b
    let xw := x.setWidth 32
    let yw := y.setWidth 32
    exec (.div d a b) s = .next (s.wroteX d (BitVec.ofInt 64 (divRem x.toInt y.toInt).1)) ∧
    exec (.rem d a b) s = .next (s.wroteX d (BitVec.ofInt 64 (divRem x.toInt y.toInt).2)) ∧
    exec (.divu d a b) s = .next (s.wroteX d (BitVec.ofInt 64 (divRem x.toNat y.toNat).1)) ∧
    exec (.remu d a b) s = .next (s.wroteX d (BitVec.ofInt 64 (divRem x.toNat y.toNat).2)) ∧
    exec (.divw d a b) s = .next (s.wroteX d ((BitVec.ofInt 32 (divRem xw.toInt yw.toInt).1).signExtend 64)) ∧
    exec (.remw d a b) s = .next (s.wroteX d ((BitVec.ofInt 32 (divRem xw.toInt yw.toInt).2).signExtend 64)) ∧
    exec (.divuw d a b) s = .next (s.wroteX d ((BitVec.ofInt 32 (divRem xw.toNat yw.toNat).1).signExtend 64)) ∧
    exec (.remuw d a b) s = .next (s.wroteX d ((BitVec.ofInt 32 (divRem xw.toNat yw.toNat).2).signExtend 64))

/-- R254: a W form computes on the low 32 bits of its operands and writes the sign-extended 32-bit result. -/
def Obligations.WordFormResults : Prop :=
  ∀ (s : State) (d a b : Reg), s.Quiet → s.TakesRs2 b →
    let x := (s.tile.rx a).setWidth 32
    let y := (s.rs2Of b).setWidth 32
    exec (.addw d a b) s = .next (s.wroteX d ((x + y).signExtend 64)) ∧
    exec (.subw d a b) s = .next (s.wroteX d ((x - y).signExtend 64)) ∧
    exec (.sllw d a b) s = .next (s.wroteX d ((x <<< (y.toNat % 32)).signExtend 64)) ∧
    exec (.srlw d a b) s = .next (s.wroteX d ((x >>> (y.toNat % 32)).signExtend 64)) ∧
    exec (.sraw d a b) s = .next (s.wroteX d ((x.sshiftRight (y.toNat % 32)).signExtend 64)) ∧
    exec (.mulw d a b) s = .next (s.wroteX d ((x * y).signExtend 64))

/-- R255: bit `k` of the carry-less product is the parity of the bit pairs that meet there; `clmul` writes bits 63:0, `clmulr` bits 126:63 and
`clmulh` bits 127:64. -/
def Obligations.CarrylessResults : Prop :=
  ∀ (s : State) (d a b : Reg), s.Quiet → s.TakesRs2 b →
    let x := s.tile.rx a
    let y := s.rs2Of b
    ∃ p q r : Word, exec (.clmul d a b) s = .next (s.wroteX d p) ∧ exec (.clmulr d a b) s = .next (s.wroteX d q) ∧
      exec (.clmulh d a b) s = .next (s.wroteX d r) ∧
      ∀ k < 64, p.getLsbD k = carrylessBit x y k ∧ q.getLsbD k = carrylessBit x y (k + 63) ∧ r.getLsbD k = carrylessBit x y (k + 64)

/-! ### Loads, stores, jumps and CSRs -/

/-- R257: `lb`, `lh`, `lw` and `ld` sign-extend 1, 2, 4 and 8 bytes, `lbu`, `lhu` and `lwu` zero-extend; a load changes only `x[d]`, and no byte of
memory. -/
def Obligations.LoadResults : Prop :=
  ∀ (s : State) (d a : Reg) (imm : BitVec 12), s.Plain →
    let ea := s.tile.rx a + imm.signExtend 64
    (s.canLoad ea 1 → exec (.lb d a imm) s = .next (s.wroteX d ((BitVec.ofNat 8 (s.ownBytes ea 1)).signExtend 64))) ∧
    (s.canLoad ea 2 → exec (.lh d a imm) s = .next (s.wroteX d ((BitVec.ofNat 16 (s.ownBytes ea 2)).signExtend 64))) ∧
    (s.canLoad ea 4 → exec (.lw d a imm) s = .next (s.wroteX d ((BitVec.ofNat 32 (s.ownBytes ea 4)).signExtend 64))) ∧
    (s.canLoad ea 8 → exec (.ld d a imm) s = .next (s.wroteX d (BitVec.ofNat 64 (s.ownBytes ea 8)))) ∧
    (s.canLoad ea 1 → exec (.lbu d a imm) s = .next (s.wroteX d (BitVec.ofNat 64 (s.ownBytes ea 1)))) ∧
    (s.canLoad ea 2 → exec (.lhu d a imm) s = .next (s.wroteX d (BitVec.ofNat 64 (s.ownBytes ea 2)))) ∧
    (s.canLoad ea 4 → exec (.lwu d a imm) s = .next (s.wroteX d (BitVec.ofNat 64 (s.ownBytes ea 4))))

/-- R257: `sb`, `sh`, `sw` and `sd` write the low 1, 2, 4 and 8 bytes of the rs2 operand at the effective address, when it is aligned and
permitted (R36), and no other byte; in a poisoned sector those bytes count as clean (R330, R439). -/
def Obligations.StoreResults : Prop :=
  ∀ (s : State) (a b : Reg) (imm : BitVec 12), s.Quiet → s.TakesRs2 b →
    let ea := s.tile.rx a + imm.signExtend 64
    let may (n : Nat) : Prop := ea.toNat % n = 0 ∧ s.tile.privateAllows ea.toNat n true = true
    (may 1 → s.storesOwn (.sb a b imm) ea (s.rs2Of b) 1) ∧
    (may 2 → s.storesOwn (.sh a b imm) ea (s.rs2Of b) 2) ∧
    (may 4 → s.storesOwn (.sw a b imm) ea (s.rs2Of b) 4) ∧
    (may 8 → s.storesOwn (.sd a b imm) ea (s.rs2Of b) 8)

/-- R36: a misaligned ordinary load raises cause 4 and a misaligned store cause 6, an access that no region of the private area permits cause 5
or 7, each with the effective address; the misalignment comes first. -/
def Obligations.PrivateAccessTraps : Prop :=
  ∀ (s : State) (d a b : Reg) (imm : BitVec 12), s.Plain →
    let ea := s.tile.rx a + imm.signExtend 64
    (ea.toNat % 8 ≠ 0 → exec (.ld d a imm) s = .next (s.takeTrap 4 ea) ∧ exec (.sd a b imm) s = .next (s.takeTrap 6 ea)) ∧
    (ea.toNat % 4 ≠ 0 → exec (.lw d a imm) s = .next (s.takeTrap 4 ea) ∧ exec (.lwu d a imm) s = .next (s.takeTrap 4 ea) ∧
      exec (.sw a b imm) s = .next (s.takeTrap 6 ea)) ∧
    (ea.toNat % 2 ≠ 0 → exec (.lh d a imm) s = .next (s.takeTrap 4 ea) ∧ exec (.lhu d a imm) s = .next (s.takeTrap 4 ea) ∧
      exec (.sh a b imm) s = .next (s.takeTrap 6 ea)) ∧
    (s.tile.privateAllows ea.toNat 1 false = false → exec (.lb d a imm) s = .next (s.takeTrap 5 ea) ∧ exec (.lbu d a imm) s = .next (s.takeTrap 5 ea)) ∧
    (s.tile.privateAllows ea.toNat 1 true = false → exec (.sb a b imm) s = .next (s.takeTrap 7 ea)) ∧
    (ea.toNat % 2 = 0 →
      (s.tile.privateAllows ea.toNat 2 false = false → exec (.lh d a imm) s = .next (s.takeTrap 5 ea) ∧ exec (.lhu d a imm) s = .next (s.takeTrap 5 ea)) ∧
      (s.tile.privateAllows ea.toNat 2 true = false → exec (.sh a b imm) s = .next (s.takeTrap 7 ea))) ∧
    (ea.toNat % 4 = 0 →
      (s.tile.privateAllows ea.toNat 4 false = false → exec (.lw d a imm) s = .next (s.takeTrap 5 ea) ∧ exec (.lwu d a imm) s = .next (s.takeTrap 5 ea)) ∧
      (s.tile.privateAllows ea.toNat 4 true = false → exec (.sw a b imm) s = .next (s.takeTrap 7 ea))) ∧
    (ea.toNat % 8 = 0 → s.tile.privateAllows ea.toNat 8 false = false → exec (.ld d a imm) s = .next (s.takeTrap 5 ea)) ∧
    (ea.toNat % 8 = 0 → s.tile.privateAllows ea.toNat 8 true = false → exec (.sd a b imm) s = .next (s.takeTrap 7 ea))

/-- R224, R252: a branch compares `x[a]` with the rs2 operand; a jump writes `pc` + 4 to `x[d]` and goes to its target, which is computed before
`x[d]` is written. -/
def Obligations.BranchAndJumpResults : Prop :=
  ∀ (s : State) (d a b : Reg) (imm : BitVec 12) (j : BitVec 20), s.Quiet → s.tile.atLoopEnd = false →
    let x := s.tile.rx a
    let y := s.rs2Of b
    let target := s.tile.pc + branchOffset imm
    (s.TakesRs2 b →
      exec (.beq a b imm) s = .next (s.branched (decide (x = y)) target) ∧
      exec (.bne a b imm) s = .next (s.branched (decide (x ≠ y)) target) ∧
      exec (.blt a b imm) s = .next (s.branched (decide (x.toInt < y.toInt)) target) ∧
      exec (.bge a b imm) s = .next (s.branched (decide (y.toInt ≤ x.toInt)) target) ∧
      exec (.bltu a b imm) s = .next (s.branched (decide (x.toNat < y.toNat)) target) ∧
      exec (.bgeu a b imm) s = .next (s.branched (decide (y.toNat ≤ x.toNat)) target)) ∧
    (s.tile.kpre = none →
      (let t := s.tile.pc + jumpOffset j
       t.toNat % 4 = 0 → exec (.jal d j) s = .next { s with tile := (s.tile.setX d (s.tile.pc + 4)).retireTo t }) ∧
      (let t := (x + imm.signExtend 64) &&& ~~~ 1
       t.toNat % 4 = 0 → exec (.jalr d a imm) s = .next { s with tile := (s.tile.setX d (s.tile.pc + 4)).retireTo t }) ∧
      (let t := s.tile.pc + jumpOffset j
       t.toNat % 4 ≠ 0 → exec (.jal d j) s = .next (s.takeTrap 0 t)) ∧
      (let t := (x + imm.signExtend 64) &&& ~~~ 1
       t.toNat % 4 ≠ 0 → exec (.jalr d a imm) s = .next (s.takeTrap 0 t)))

/-- R266: retirement advances `pc` by 4, except at the end of an active hardware loop in U-mode at the loop's level: there the pending writes take
effect, the count falls by one (or takes the pending count), and `pc` goes to the loop's start while the count is not 0. -/
def Obligations.RetirementAndLoopBack : Prop :=
  ∀ t : Tile,
    (¬(t.mode = .u ∧ t.loop.count ≠ 0 ∧ t.pc = t.loop.stop ∧ t.level = t.loop.level) →
      t.retire.pc = t.pc + 4 ∧ t.retire.loop = t.loop) ∧
    ((t.mode = .u ∧ t.loop.count ≠ 0 ∧ t.pc = t.loop.stop ∧ t.level = t.loop.level) →
      let c := t.loop.pendCount.getD (t.loop.count - 1)
      t.retire.loop.count = c ∧ t.retire.loop.start = t.loop.pendStart.getD t.loop.start ∧ t.retire.loop.stop = t.loop.pendStop.getD t.loop.stop ∧
      t.retire.loop.pendCount = none ∧ t.retire.loop.pendStart = none ∧ t.retire.loop.pendStop = none ∧
      t.retire.pc = if c ≠ 0 then t.loop.pendStart.getD t.loop.start else t.pc + 4) ∧
    t.retire.minstret = t.minstret + 1 ∧ t.retire.kpre = none ∧ t.retire.x = t.x ∧ t.retire.v = t.v ∧ t.retire.c = t.c ∧ t.retire.cBank = t.cBank ∧
    t.retire.mode = t.mode ∧ t.retire.level = t.level

/-- R259: a CSR instruction that writes gives the CSR `x[a]`, the old value with its bits set, or with its bits cleared, and `x[d]` the old value; with
`x0` or a zero immediate as source, `csrrs` and `csrrc` only read. `minject` is stated apart: its write arms an error. -/
def Obligations.CsrResults : Prop :=
  ∀ (s : State) (d a : Reg) (u : BitVec 5) (csr : BitVec 12), s.Plain →
    let n := csr.toNat
    let old := s.csrRead n
    let x := s.tile.rx a
    let z := u.setWidth 64
    let wrote (v : Word) : State :=
      let u := s.csrWrite n (s.tile.beforeRetire n v)
      State.wroteX { u with tile := u.tile.afterSelect s.tile n } d old
    (s.mayCsr n false →
      exec (.csrrs d 0 csr) s = .next (s.wroteX d old) ∧ exec (.csrrc d 0 csr) s = .next (s.wroteX d old) ∧
      exec (.csrrsi d 0 csr) s = .next (s.wroteX d old) ∧ exec (.csrrci d 0 csr) s = .next (s.wroteX d old)) ∧
    (s.mayCsr n true → n ≠ 0x7C4 →
      (csrReserved n x = false → exec (.csrrw d a csr) s = .next (wrote x)) ∧
      (csrReserved n z = false → exec (.csrrwi d u csr) s = .next (wrote z)) ∧
      (a ≠ 0 → csrReserved n (old ||| x) = false → exec (.csrrs d a csr) s = .next (wrote (old ||| x))) ∧
      (a ≠ 0 → csrReserved n (old &&& ~~~ x) = false → exec (.csrrc d a csr) s = .next (wrote (old &&& ~~~ x))) ∧
      (u ≠ 0 → csrReserved n (old ||| z) = false → exec (.csrrsi d u csr) s = .next (wrote (old ||| z))) ∧
      (u ≠ 0 → csrReserved n (old &&& ~~~ z) = false → exec (.csrrci d u csr) s = .next (wrote (old &&& ~~~ z))))

/-- R234: a CSR instruction on a CSR that does not exist, on M-mode state from U-mode, that writes read-only state, or that writes a value with a bit set in a
reserved field raises cause 2 with the word, and nothing else happens; with `x0` or a zero immediate as source, the set and clear forms do not write. -/
def Obligations.CsrRefusals : Prop :=
  ∀ (s : State) (d a : Reg) (u : BitVec 5) (csr : BitVec 12), s.Plain →
    let trapped (i : Instr) : Prop := exec i s = .next (s.takeTrap 2 (instrWord i))
    let n := csr.toNat
    let old := s.csrRead n
    let x := s.tile.rx a
    let z := u.setWidth 64
    let reads (i : Instr) : Prop := exec i s = .next (s.wroteX d old)
    (¬ s.mayCsr n true → trapped (.csrrw d a csr) ∧ trapped (.csrrwi d u csr) ∧
      (a ≠ 0 → trapped (.csrrs d a csr) ∧ trapped (.csrrc d a csr)) ∧ (u ≠ 0 → trapped (.csrrsi d u csr) ∧ trapped (.csrrci d u csr))) ∧
    (¬ s.mayCsr n false → trapped (.csrrs d 0 csr) ∧ trapped (.csrrc d 0 csr) ∧ trapped (.csrrsi d 0 csr) ∧ trapped (.csrrci d 0 csr)) ∧
    (s.mayCsr n true → (csrReserved n x = true → trapped (.csrrw d a csr)) ∧ (csrReserved n z = true → trapped (.csrrwi d u csr)) ∧
      (a ≠ 0 → (csrReserved n (old ||| x) = true → trapped (.csrrs d a csr)) ∧ (csrReserved n (old &&& ~~~ x) = true → trapped (.csrrc d a csr))) ∧
      (u ≠ 0 → (csrReserved n (old ||| z) = true → trapped (.csrrsi d u csr)) ∧ (csrReserved n (old &&& ~~~ z) = true → trapped (.csrrci d u csr)))) ∧
    (s.mayCsr n false → reads (.csrrs d 0 csr) ∧ reads (.csrrc d 0 csr) ∧ reads (.csrrsi d 0 csr) ∧ reads (.csrrci d 0 csr))

/-- R233, R235, R259: what a write leaves in a CSR is what the next read gives: the whole value, or the bits that the CSR has. -/
def Obligations.CsrReadBack : Prop :=
  ∀ (s : State) (v : Word),
    let back (n : Nat) : Word := (s.csrWrite n v).csrRead n
    back 0x801 = (v.setWidth 32).setWidth 64 ∧ back 0x803 = v ∧ back 0x804 = (v.setWidth 5).setWidth 64 ∧ back 0x805 = (v.setWidth 2).setWidth 64 ∧
    back 0x809 = (v.setWidth 48).setWidth 64 ∧ back 0x340 = v ∧ back 0x341 = v &&& ~~~ 3 ∧ back 0x305 = v &&& ~~~ 3 ∧ back 0x342 = (v.setWidth 63).setWidth 64 ∧ back 0x343 = v ∧
    back 0xB00 = v ∧ back 0xB02 = v ∧ back 0x7C3 = (v.setWidth 33).setWidth 64 ∧
    (s.tile.loop.count = 0 → back 0x806 = v ∧ back 0x807 = v ∧ back 0x808 = v) ∧
    (s.tile.loop.count ≠ 0 → back 0x806 = s.tile.loop.start ∧ back 0x807 = s.tile.loop.stop ∧ back 0x808 = s.tile.loop.count)

/-! ### Exceptions and returns -/

/-- R235, R239, R415: a precise trap from U-mode saves the address of the instruction, or of its prefix, in `mepc`, whose two low bits are 0, the cause in `mcause`, the value in `mtval`
and the mode in `mstatus.mpp`, and goes on in M-mode at `mtvec`; no register of the x, v and c files and no byte of memory changes. A cause other than 8 needs
a free entry of the fault log, which takes the record (R411, R412). A trap in M-mode is fatal: the tile stops, and entry 15 of the log, if it is free, takes code 68. -/
def Obligations.ExceptionEntry : Prop :=
  ∀ (s : State) (cause : Nat) (value : Word),
    let t := s.takeTrap cause value
    (s.tile.mode = .u → (cause = 8 ∨ s.tile.freeEntry.isSome = true) →
      t.tile.mepc = s.tile.unitPc &&& ~~~ 3 ∧ t.tile.mcause = BitVec.ofNat 64 cause ∧ t.tile.mtval = value ∧ t.tile.mpp = .u ∧ t.tile.mode = .m ∧
      t.tile.pc = s.tile.mtvec ∧ t.tile.kpre = none ∧ t.tile.x = s.tile.x ∧ t.tile.v = s.tile.v ∧ t.tile.c = s.tile.c ∧
      t.tile.cBank = s.tile.cBank ∧ t.tile.level = s.tile.level ∧ t.tile.mscratch = s.tile.mscratch ∧ t.tile.mtvec = s.tile.mtvec ∧
      t.mem = s.mem ∧ t.dirs = s.dirs ∧
      (cause ≠ 8 → ∃ i, s.tile.freeEntry = some i ∧ (t.tile.faultLog.get i).code = cause ∧ (t.tile.faultLog.get i).place = s.tile.unitPc &&& ~~~ 3 ∧
        (t.tile.faultLog.get i).what = value)) ∧
    (s.tile.mode = .m → t.tile.hold = .fatal ∧
      ((s.tile.faultLog.get 15).cls = 0 → (t.tile.faultLog.get 15).code = 68 ∧ (t.tile.faultLog.get 15).cls = 2))

/-- R221, R223, R260: `ecall` raises cause 8 from U-mode and 11 from M-mode with `mtval` = 0, `ebreak` cause 3 with `mtval` = `pc`, and a word that is no
instruction cause 2 with `mtval` = the word. -/
def Obligations.TrapInstructions : Prop :=
  ∀ (s : State) (w : BitVec 32), s.Straight →
    (s.tile.mode = .u → exec .ecall s = .next (s.takeTrap 8 0)) ∧
    (s.tile.mode = .m → exec .ecall s = .next (s.takeTrap 11 0)) ∧
    exec .ebreak s = .next (s.takeTrap 3 s.tile.pc) ∧
    exec (.illegalInstruction w) s = .next (s.takeTrap 2 (w.setWidth 64))

/-- R230, R263, R264, R265: `mret` returns to the saved mode and `pc` and leaves `mpp` at U; in U-mode it raises cause 2. `wfi` goes on when a queue holds
a message, and stalls when none does. `lp.set` sets the loop registers, and skips the body for a count of 0. `kpre` latches its word number and
goes to the next word. -/
def Obligations.ReturnWaitLoopPrefix : Prop :=
  ∀ (s : State) (a : Reg) (l n : BitVec 8), s.Straight →
    (s.tile.mode = .m → ∃ t : State, exec .mret s = .next t ∧ t.tile.mode = s.tile.mpp ∧ t.tile.mpp = .u ∧ t.tile.pc = s.tile.mepc ∧ t.tile.x = s.tile.x ∧
      t.tile.v = s.tile.v ∧ t.tile.c = s.tile.c ∧ t.tile.mepc = s.tile.mepc ∧ t.mem = s.mem) ∧
    (s.tile.mode = .u → exec .mret s = .next (s.takeTrap 2 (instrWord .mret))) ∧
    (s.tile.gang.member = false → s.tile.anyQueued = true → exec .wfi s = .next (s.retired s.tile)) ∧
    (s.tile.gang.member = false → s.tile.anyQueued = false → exec .wfi s = .next (s.stallOn .wfi)) ∧
    (l ≠ 0 → ∃ t : State, exec (.lpSet a l) s = .next t ∧ t.tile.loop.start = s.tile.pc + 4 ∧ t.tile.loop.stop = s.tile.pc + 4 * l.setWidth 64 ∧
      t.tile.loop.count = s.tile.rx a ∧ t.tile.loop.level = s.tile.level ∧
      t.tile.pc = (if s.tile.rx a = 0 then s.tile.pc + 4 * l.setWidth 64 + 4 else s.tile.pc + 4) ∧ t.tile.x = s.tile.x ∧ t.mem = s.mem) ∧
    (s.tile.debugStep = none → exec (.kpre n) s = .next { s with tile := { s.tile with kpre := some n, pc := s.tile.pc + 4 } })

/-! ### Vector instructions -/

/-- R291, R296: an integer element-wise instruction, on two vectors or on a vector and the low `w` bits of the rs2 operand, writes its result to the active
elements of `v[d]` and leaves the others; it retires and changes nothing else. -/
def Obligations.VectorIntegerResults : Prop :=
  ∀ (s : State) (d a b : Reg) (t : BitVec 2), s.maskClean →
    let w := 2 ^ (3 + t.toNat)
    let va := s.tile.v.get a
    let vb := s.tile.v.get b
    let z := (s.rs2Of b).toNat % 2 ^ w
    let vv (i : Instr) (f : Nat → Nat → Nat) : Prop := s.GivesElements i d w fun k => f (va.el w k) (vb.el w k)
    let vx (i : Instr) (f : Nat → Nat → Nat) : Prop := s.GivesElements i d w fun k => f (va.el w k) z
    (s.Plain →
      vv (.vaddVv d a b t) (fun x y => (x + y)) ∧
      vv (.vsubVv d a b t) (fun x y => wrap w ((x : Int) - y)) ∧
      vv (.vmulVv d a b t) (fun x y => (x * y)) ∧
      vv (.vmulhVv d a b t) (fun x y => wrap w (signedOf w x * signedOf w y / 2 ^ w)) ∧
      vv (.vmulhuVv d a b t) (fun x y => (x * y / 2 ^ w)) ∧
      vv (.vandVv d a b t) (fun x y => (x &&& y)) ∧
      vv (.vorVv d a b t) (fun x y => (x ||| y)) ∧
      vv (.vxorVv d a b t) (fun x y => (x ^^^ y)) ∧
      vv (.vsllVv d a b t) (fun x y => (x * 2 ^ (y % w))) ∧
      vv (.vsrlVv d a b t) (fun x y => (x / 2 ^ (y % w))) ∧
      vv (.vsraVv d a b t) (fun x y => wrap w (signedOf w x / 2 ^ (y % w))) ∧
      vv (.vminVv d a b t) (fun x y => (if signedOf w x ≤ signedOf w y then x else y)) ∧
      vv (.vmaxVv d a b t) (fun x y => (if signedOf w x ≤ signedOf w y then y else x)) ∧
      vv (.vminuVv d a b t) (fun x y => (if x ≤ y then x else y)) ∧
      vv (.vmaxuVv d a b t) (fun x y => (if x ≤ y then y else x))) ∧
    (s.Quiet → s.TakesRs2 b →
      vx (.vaddVx d a b t) (fun x y => (x + y)) ∧
      vx (.vsubVx d a b t) (fun x y => wrap w ((x : Int) - y)) ∧
      vx (.vmulVx d a b t) (fun x y => (x * y)) ∧
      vx (.vmulhVx d a b t) (fun x y => wrap w (signedOf w x * signedOf w y / 2 ^ w)) ∧
      vx (.vmulhuVx d a b t) (fun x y => (x * y / 2 ^ w)) ∧
      vx (.vandVx d a b t) (fun x y => (x &&& y)) ∧
      vx (.vorVx d a b t) (fun x y => (x ||| y)) ∧
      vx (.vxorVx d a b t) (fun x y => (x ^^^ y)) ∧
      vx (.vsllVx d a b t) (fun x y => (x * 2 ^ (y % w))) ∧
      vx (.vsrlVx d a b t) (fun x y => (x / 2 ^ (y % w))) ∧
      vx (.vsraVx d a b t) (fun x y => wrap w (signedOf w x / 2 ^ (y % w))) ∧
      vx (.vminVx d a b t) (fun x y => (if signedOf w x ≤ signedOf w y then x else y)) ∧
      vx (.vmaxVx d a b t) (fun x y => (if signedOf w x ≤ signedOf w y then y else x)) ∧
      vx (.vminuVx d a b t) (fun x y => (if x ≤ y then x else y)) ∧
      vx (.vmaxuVx d a b t) (fun x y => (if x ≤ y then y else x)))

/-- R291, R296, R299: a compare writes one mask bit for each active element and leaves the other bits of `v[d]`; a float compare with a NaN gives 0. `vsel` picks,
for every element below the length and whatever `mk`, by the mask bit. -/
def Obligations.VectorCompareResults : Prop :=
  ∀ (s : State) (d a b : Reg) (t : BitVec 2), s.maskClean →
    let w := 2 ^ (3 + t.toNat)
    let u := floatWidth t
    let F := (floatOf t).value
    let va := s.tile.v.get a
    let vb := s.tile.v.get b
    let z (n : Nat) : Nat := (s.rs2Of b).toNat % 2 ^ n
    (s.Plain →
      s.GivesBits (.vseqVv d a b t) d w (fun k => decide (va.el w k = vb.el w k)) ∧
      s.GivesBits (.vsltVv d a b t) d w (fun k => decide (signedOf w (va.el w k) < signedOf w (vb.el w k))) ∧
      s.GivesBits (.vsltuVv d a b t) d w (fun k => decide (va.el w k < vb.el w k)) ∧
      s.GivesBits (.vfeqVv d a b t) d u (fun k => decide ((F (va.el u k)).cmp (F (vb.el u k)) = some .eq)) ∧
      s.GivesBits (.vfltVv d a b t) d u (fun k => decide ((F (va.el u k)).cmp (F (vb.el u k)) = some .lt)) ∧
      s.GivesBits (.vfleVv d a b t) d u
        (fun k => decide ((F (va.el u k)).cmp (F (vb.el u k)) = some .lt ∨ (F (va.el u k)).cmp (F (vb.el u k)) = some .eq)) ∧
      ((s.tile.v.get 0).poison = 0 → ∃ r, exec (.vsel d a b t) s = .next (s.wroteV d r) ∧
        ∀ k, w * k + w ≤ 1024 → r.el w k =
          if s.tile.vlen ≤ k then (s.tile.v.get d).el w k else if (s.tile.v.get 0).bit k then va.el w k else vb.el w k)) ∧
    (s.Quiet → s.TakesRs2 b →
      s.GivesBits (.vseqVx d a b t) d w (fun k => decide (va.el w k = z w)) ∧
      s.GivesBits (.vsltVx d a b t) d w (fun k => decide (signedOf w (va.el w k) < signedOf w (z w))) ∧
      s.GivesBits (.vsltuVx d a b t) d w (fun k => decide (va.el w k < z w)) ∧
      s.GivesBits (.vfeqVx d a b t) d u (fun k => decide ((F (va.el u k)).cmp (F (z u)) = some .eq)) ∧
      s.GivesBits (.vfltVx d a b t) d u (fun k => decide ((F (va.el u k)).cmp (F (z u)) = some .lt)) ∧
      s.GivesBits (.vfleVx d a b t) d u (fun k => decide ((F (va.el u k)).cmp (F (z u)) = some .lt ∨ (F (va.el u k)).cmp (F (z u)) = some .eq)))

/-- R297-R299: a float element-wise instruction computes the exact value and rounds it once to the type, nearest with ties to even; `vfmin` and `vfmax` order -0
below +0 and give the canonical NaN for a NaN; `vfsgnj` takes the sign of the second operand. -/
def Obligations.VectorFloatResults : Prop :=
  ∀ (s : State) (d a b : Reg) (t : BitVec 2), s.maskClean →
    let w := floatWidth t
    let F := (floatOf t).value
    let N := (floatOf t).nearest
    let va := s.tile.v.get a
    let vb := s.tile.v.get b
    let vd := s.tile.v.get d
    let n := (s.rs2Of b).toNat % 2 ^ w
    let vv (i : Instr) (f : Nat → Nat → Nat → Nat) : Prop := s.GivesElements i d w fun k => f (va.el w k) (vb.el w k) (vd.el w k)
    let vx (i : Instr) (f : Nat → Nat → Nat → Nat) : Prop := s.GivesElements i d w fun k => f (va.el w k) n (vd.el w k)
    (s.Plain →
      vv (.vfaddVv d a b t) (fun x y _ => N ((F x).add (F y))) ∧
      vv (.vfsubVv d a b t) (fun x y _ => N ((F x).add (F y).neg)) ∧
      vv (.vfmulVv d a b t) (fun x y _ => N ((F x).mul (F y))) ∧
      vv (.vfmaVv d a b t) (fun x y z => N (((F x).mul (F y)).add (F z))) ∧
      vv (.vfmsVv d a b t) (fun x y z => N (((F x).mul (F y)).add (F z).neg)) ∧
      vv (.vfnmaVv d a b t) (fun x y z => N (((F x).mul (F y)).neg.add (F z))) ∧
      vv (.vfminVv d a b t) (fun x y _ => if F x = .nan ∨ F y = .nan then (floatOf t).canonicalNan else if floatKey w x ≤ floatKey w y then x else y) ∧
      vv (.vfmaxVv d a b t) (fun x y _ => if F x = .nan ∨ F y = .nan then (floatOf t).canonicalNan else if floatKey w x ≤ floatKey w y then y else x) ∧
      vv (.vfsgnjVv d a b t) (fun x y _ => x % 2 ^ (w - 1) + y / 2 ^ (w - 1) * 2 ^ (w - 1))) ∧
    (s.Quiet → s.TakesRs2 b →
      vx (.vfaddVx d a b t) (fun x y _ => N ((F x).add (F y))) ∧
      vx (.vfsubVx d a b t) (fun x y _ => N ((F x).add (F y).neg)) ∧
      vx (.vfmulVx d a b t) (fun x y _ => N ((F x).mul (F y))) ∧
      vx (.vfmaVx d a b t) (fun x y z => N (((F x).mul (F y)).add (F z))) ∧
      vx (.vfmsVx d a b t) (fun x y z => N (((F x).mul (F y)).add (F z).neg)) ∧
      vx (.vfnmaVx d a b t) (fun x y z => N (((F x).mul (F y)).neg.add (F z))) ∧
      vx (.vfminVx d a b t) (fun x y _ => if F x = .nan ∨ F y = .nan then (floatOf t).canonicalNan else if floatKey w x ≤ floatKey w y then x else y) ∧
      vx (.vfmaxVx d a b t) (fun x y _ => if F x = .nan ∨ F y = .nan then (floatOf t).canonicalNan else if floatKey w x ≤ floatKey w y then y else x) ∧
      vx (.vfsgnjVx d a b t) (fun x y _ => x % 2 ^ (w - 1) + y / 2 ^ (w - 1) * 2 ^ (w - 1)))

/-- R299-R303, R312: the element-wise instructions of one vector operand, of FP32 and FP64 alone, and of 64-bit elements. -/
def Obligations.VectorUnaryResults : Prop :=
  ∀ (s : State) (d a b : Reg) (t : BitVec 2) (q : BitVec 1), s.Plain → s.maskClean →
    let va := s.tile.v.get a
    let vb := s.tile.v.get b
    let u := wideWidth q
    let G := (wideFloat q).value
    s.GivesElements (.vmvVv d a t) d (2 ^ (3 + t.toNat)) (fun k => va.el (2 ^ (3 + t.toNat)) k) ∧
    s.GivesElements (.vfclass d a t) d (floatWidth t) (fun k => floatClass (floatOf t) (va.el (floatWidth t) k)) ∧
    s.GivesElements (.vfdiv d a b q) d u (fun k => (wideFloat q).nearest ((G (va.el u k)).div (G (vb.el u k)))) ∧
    s.GivesElements (.vfsqrt d a q) d u (fun k => (wideFloat q).nearest (G (va.el u k)).sqrt) ∧
    s.GivesElements (.vfrcp d a) d 32 (fun k => rcpFp32 (fp32.value (va.el 32 k))) ∧
    s.GivesElements (.vfexp2 d a) d 32 (fun k => exp2Fp32 (fp32.value (va.el 32 k))) ∧
    s.GivesElements (.vclmul d a b) d 64 (fun k => clProduct (va.el 64 k) (vb.el 64 k) 64) ∧
    s.GivesElements (.vclmulh d a b) d 64 (fun k => clProduct (va.el 64 k) (vb.el 64 k) 64 / 2 ^ 64)

/-- R285, R286, R304, R305: the conversions round under `rmode` where they narrow, here in the five modes that draw nothing, and are exact where they widen; under stochastic rounding `fcvt.n` takes one draw of 16 bits, which moves the generator on by sixteen steps (R280). A
pack writes part `p` of `v[d]` in the format of `vfmt`, an unpack reads it; the format must be one that the conversions take. -/
def Obligations.ConversionResults : Prop :=
  ∀ (s : State) (d a b : Reg) (t : BitVec 2) (p : BitVec 5), s.maskClean →
    let w := floatWidth t
    let va := s.tile.v.get a
    let vd := s.tile.v.get d
    let R (f : Elem) (x : Machine.Num) : Nat := f.round s.tile.rmode.toNat s.tile.rsat 0 x
    let g := Descr.ofBits s.tile.vfmt
    let c := g.width
    let h := Descr.ofBits ((s.rs2Of b).setWidth 32)
    let x := fp32.value ((s.tile.rx a).setWidth 32).toNat
    let seed := drawSteps 16 s.tile.srseed
    (s.Plain → s.tile.rmode ≠ 5 →
      s.GivesElements (.vfcvtIf d a t) d w (fun k => R (floatOf t) ((Elem.int true w 0).value (va.el w k))) ∧
      s.GivesElements (.vfcvtFi d a t) d w (fun k => R (.int true w 0) ((floatOf t).value (va.el w k))) ∧
      (g.narrow = true → 32 * (p.toNat + 1) * c ≤ 1024 →
        s.GivesElements (.vwcvt d a p) d 32 (fun k => fp32.nearest (g.elem.value (va.el c (32 * p.toNat + k)))) ∧
        ∃ r, exec (.vncvt d a p) s = .next (s.wroteV d r) ∧
          (∀ k < 32, r.el c (32 * p.toNat + k) =
            if s.tile.active 32 k then R g.elem (fp32.value (va.el 32 k)) % 2 ^ c else vd.el c (32 * p.toNat + k)) ∧
          ∀ k, c * k + c ≤ 1024 → (k < 32 * p.toNat ∨ 32 * p.toNat + 32 ≤ k) → r.el c k = vd.el c k)) ∧
    (s.Quiet → s.TakesRs2 b → h.narrow = true →
      (s.tile.rmode ≠ 5 → exec (.fcvtN d a b) s = .next (s.wroteX d (BitVec.ofNat 64 (R h.elem x)))) ∧
      (s.tile.rmode = 5 → exec (.fcvtN d a b) s = .next (({ s with tile := { s.tile with srseed := seed } } : State).wroteX d
        (BitVec.ofNat 64 (h.elem.round 5 s.tile.rsat (seed.toNat % 2 ^ 16) x)))) ∧
      exec (.fcvtW d a b) s = .next (s.wroteX d (BitVec.ofNat 64 (fp32.nearest (h.elem.value ((s.tile.rx a).toNat % 2 ^ h.width))))))

/-- R307, R308: an integer reduction combines element 0 of `v[b]` with every active element of `v[a]` in ascending order; a float reduction combines it with the root of
the fixed tree over all elements, inactive ones as the identity. Only element 0 of `v[d]` is written. -/
def Obligations.ReductionResults : Prop :=
  ∀ (s : State) (d a b : Reg) (t : BitVec 2), s.Plain → s.maskClean →
    let w := 2 ^ (3 + t.toNat)
    let u := floatWidth t
    let f := floatOf t
    let va := s.tile.v.get a
    let vb := s.tile.v.get b
    let vd := s.tile.v.get d
    let fold (o : Nat → Nat → Nat) : Nat := ((List.range (1024 / w)).filter (s.tile.active w)).foldl (fun z k => o z (va.el w k)) (vb.el w 0)
    let tree (o : Nat → Nat → Nat) (ident : Nat) : Nat := o (vb.el u 0) (reduceTree o (1024 / u).log2 (s.leavesOf va u ident))
    let gives (i : Instr) (n v : Nat) : Prop :=
      ∃ r, exec i s = .next (s.wroteV d r) ∧ r.el n 0 = v % 2 ^ n ∧ ∀ k, 0 < k → n * k + n ≤ 1024 → r.el n k = vd.el n k
    gives (.vredsum d a b t) w (fold fun x y => (x + y) % 2 ^ w) ∧
    gives (.vredmax d a b t) w (fold fun x y => if signedOf w x ≤ signedOf w y then y else x) ∧
    gives (.vredmin d a b t) w (fold fun x y => if signedOf w x ≤ signedOf w y then x else y) ∧
    gives (.vfredsum d a b t) u (tree (fun x y => f.nearest ((f.value x).add (f.value y))) (2 ^ (u - 1))) ∧
    gives (.vfredmax d a b t) u (tree (floatMax f u) (f.nearest (.inf true))) ∧
    gives (.vfredmin d a b t) u (tree (floatMin f u) (f.nearest (.inf false)))

/-- R309, R312: slides move elements by the rs2 operand (a slide up leaves the elements below it, a slide down gives 0 beyond the end), `vgather` indexes `v[a]` by
`v[b]` with 0 beyond the end, and the moves write a scalar, a word of the constant window or the element's number to every active element. -/
def Obligations.PermuteAndMoveResults : Prop :=
  ∀ (s : State) (d a b : Reg) (t : BitVec 2) (n : BitVec 8), s.maskClean →
    let w := 2 ^ (3 + t.toNat)
    let count := 1024 / w
    let va := s.tile.v.get a
    let vb := s.tile.v.get b
    let x := (s.rs2Of b).toNat
    (s.Quiet → s.TakesRs2 b →
      (∃ r, exec (.vslideup d a b t) s = .next (s.wroteV d r) ∧
        ∀ k, w * k + w ≤ 1024 → r.el w k = if s.tile.active w k && x ≤ k then va.el w (k - x) else (s.tile.v.get d).el w k) ∧
      s.GivesElements (.vslidedn d a b t) d w (fun k => if k + x < count then va.el w (k + x) else 0) ∧
      s.GivesElements (.vmvVx d b t) d w (fun _ => x)) ∧
    (s.Plain →
      s.GivesElements (.vgather d a b t) d w (fun k => if vb.el w k < count then va.el w (vb.el w k) else 0) ∧
      s.GivesElements (.vmvVk d n t) d w (fun _ => (s.window s.tile.index n.toNat).toNat) ∧
      s.GivesElements (.vid d t) d w (fun k => k))

/-- R310-R312: `vpopc` counts the set bits below the length, `vfirst` gives the number of the first or all ones, `vcfg` sets the length to at most the element count
and `mk`, and `vmv.xv` sign-extends an element or gives 0 beyond the end. -/
def Obligations.ScanAndConfigResults : Prop :=
  ∀ (s : State) (d a b : Reg) (m : BitVec 1) (t : BitVec 2), s.maskClean →
    let w := 2 ^ (3 + t.toNat)
    let va := s.tile.v.get a
    let q := s.scanned a
    let n := min (s.tile.rx a).toNat (1024 / w)
    let k := (s.rs2Of b).toNat
    (s.Plain →
      (va.poison = 0 → exec (.vpopc d a) s = .next (s.wroteX d (BitVec.ofNat 64 (q.filter id).length))) ∧
      (va.poison = 0 → exec (.vfirst d a) s =
        .next (s.wroteX d (if q.any id then BitVec.ofNat 64 (q.idxOf true) else BitVec.allOnes 64))) ∧
      exec (.vcfg d a m t) s = .next (({ s with tile := { s.tile with vlen := n, vmk := decide (m = 1) } } : State).wroteX d (BitVec.ofNat 64 n))) ∧
    (s.Quiet → s.TakesRs2 b → va.poison = 0 →
      exec (.vmvXv d a b t) s = .next (s.wroteX d (if k < 1024 / w then BitVec.ofInt 64 (signedOf w (va.el w k)) else 0)))

/-- R313: a lane is poisoned after a write when a field in it came from poison, stays as it was when the write leaves some bit of it, and is clean when clean fields
replace all of it; the origin is that of the first source that brought poison. -/
def Obligations.LanePoison : Prop :=
  ∀ (d a b : VReg) (fs : List Field) (j : Nat), j < 16 →
    let covers (p : Field → Bool) (k : Nat) : Prop := ∃ f ∈ fs, p f = true ∧ f.pos ≤ k ∧ k < f.pos + f.width
    ((∃ k, 64 * j ≤ k ∧ k < 64 * j + 64 ∧ covers Field.bad k) → (d.write a b fs).poison.getLsbD j = true) ∧
    ((∀ k, 64 * j ≤ k → k < 64 * j + 64 → ¬ covers Field.bad k ∧ covers (fun f => !f.bad) k) → (d.write a b fs).poison.getLsbD j = false) ∧
    ((∀ k, 64 * j ≤ k → k < 64 * j + 64 → ¬ covers Field.bad k) → (∃ k, 64 * j ≤ k ∧ k < 64 * j + 64 ∧ ¬ covers (fun f => !f.bad) k) →
      (d.write a b fs).poison.getLsbD j = d.poison.getLsbD j) ∧
    ((∃ f ∈ fs, f.pa = true) → (d.write a b fs).origin = a.origin)

/-! ### Caps -/

/-- R322, R325, R326: `cap.narrow` gives a shorter length and the rights that both fields have, `cap.fmt` a new format, each nulling another source register and
recomputing the check; `cap.mov` moves a cap, and changes nothing when source and destination are one; `cap.get` reads a word, with the check as 0 in U-mode. -/
def Obligations.CapRegisterResults : Prop :=
  ∀ (s : State) (d a b : Reg), s.Quiet →
    let c := s.tile.rc a
    let v := (s.rs2Of b).toNat
    let moves (c' : Cap) : State := s.wroteC ((if d = a then [] else [(a, Cap.null)]) ++ [(d, c')])
    (s.TakesRs2 b → a ≠ 30 → s.TakesCap d → c.Ordinary →
      (v / 2 ^ 46 = 0 → v % 2 ^ 40 ≠ 0 → v % 2 ^ 40 ≤ c.length.toNat →
        exec (.capNarrow d a b) s =
          .next (moves (s.sign { c with length := BitVec.ofNat 40 v, rights := c.rights.and (Rights.ofCode (v / 2 ^ 40)) }))) ∧
      (v % 2 ^ 32 / 2 ^ 30 = 0 → exec (.capFmt d a b) s = .next (moves (s.sign { c with format := BitVec.ofNat 32 v })))) ∧
    (s.tile.kpre = none → a ≠ 30 → s.TakesCap d → c.lent = false →
      exec (.capMov d a) s = .next (if d = a then s.retired s.tile else s.wroteC [(d, c), (a, Cap.null)])) ∧
    (s.TakesRs2 b → v ≤ 3 →
      exec (.capGet d a b) s = .next (s.wroteX d (BitVec.ofNat 64 (if v = 3 ∧ s.tile.mode = .u then c.words.getD 3 0 % 2 ^ 48 else c.words.getD v 0))))

/-- R319: an allocation gives an Exclusive entry of the length asked for, owned by the requester, in the heap and apart from every allocated buffer of the home; every byte
of its units reads 0, and every byte outside them is as before. -/
def Obligations.AllocatedBuffer : Prop :=
  ∀ (s t : State) (h : HomeId) (n owner quota : Nat) (domain : BitVec 16) (e : DirEntry), s.alloc h n owner domain quota = some (e, t) →
    let units := (n + 255) / 256 * 256
    let key := h.space.base + e.base
    e.home = h ∧ e.length = n ∧ e.state = .exclusive ∧ e.owner = owner ∧ e.domain = domain ∧ e.depth = 0 ∧ e.count = 0 ∧
    (s.heapOf h).1 ≤ e.base ∧ e.base + units ≤ (s.heapOf h).2 ∧
    (∀ o ∈ s.dirs, o.home = h → o.state ≠ .free → o.base + (o.length + 255) / 256 * 256 ≤ e.base ∨ e.base + units ≤ o.base) ∧
    t.entry h e.number = some e ∧
    (∀ k, key ≤ k → k < key + units → t.mem.read k = 0) ∧ (∀ k, (k < key ∨ key + units ≤ k) → t.mem.read k = s.mem.read k) ∧
    t.tile = s.tile

/-- R71, R77, R319, R320: `cap.alloc` writes the exclusive cap of the new buffer with all rights, or the null cap when the home has none; `cap.free` gives the buffer back, its generation
one higher, or takes a share's weight or count off, and nulls the register; a weight that the home does not count is refused with reason 2 and nothing is given back. -/
def Obligations.AllocAndFreeResults : Prop :=
  ∀ (s : State) (d a : Reg) (h : HomeId) (e : DirEntry), s.Settled → s.tile.kpre = none →
    let c := s.tile.rc a
    (∀ k : BitVec 5, k = 1 ∨ k = 2 → s.TakesCap d → s.tile.rx a ≠ 0 → (s.tile.rx a).toNat < 2 ^ 40 →
      let own := if k = 1 then HomeId.tile s.tile.index else .cluster (clusterOf s.tile.index)
      match s.alloc own (s.tile.rx a).toNat (s.tile.principal s.device) s.tile.mdomain 0 with
      | none => exec (.capAlloc d a k) s = .next (s.wroteC [(d, Cap.null)])
      | some (e, s') => exec (.capAlloc d a k) s =
          .next (s'.wroteC [(d, s.sign
            { base := BitVec.ofNat 48 e.base, length := (s.tile.rx a).setWidth 40, kind := if k = 1 then .tmem else .cmem,
              location := BitVec.ofNat 20 (if k = 1 then s.tile.homeName else clusterOf s.tile.homeName), rights := ⟨true, true, true, true, true, true⟩,
              mode := .exclusive, buffer := BitVec.ofNat 24 e.number, generation := e.generation, weight := 65536, domain := s.tile.mdomain })])) ∧
    (a ≠ 30 → s.Owns c h e → ∃ t : State, exec (.capFree a) s = .next t ∧ s.movedCaps t [(a, Cap.null)] [c] ∧
      (e.link = none → e.generation ≠ 0xFFFF →
        t.nowHas h c.buffer.toNat fun o => o.state = .free ∧ o.generation = e.generation + 1 ∧ o.owner = 0 ∧ o.count = 0)) ∧
    (a ≠ 30 → c.mode ≠ .exclusive → s.Keeps c h e c.mode.state →
      let w := if c.mode = .exec then 1 else c.weight.toNat
      (w ≤ e.count → ∃ t : State, exec (.capFree a) s = .next t ∧ s.movedCaps t [(a, Cap.null)] [c] ∧
        (w < e.count → t.nowHas h c.buffer.toNat fun o => o.state = e.state ∧ o.generation = e.generation ∧ o.count = e.count - w) ∧
        (w = e.count → e.link = none → e.generation ≠ 0xFFFF →
          t.nowHas h c.buffer.toNat fun o => o.state = .free ∧ o.generation = e.generation + 1)) ∧
      (e.count < w → ∃ u : State, exec (.capFree a) s = .next (u.takeTrap 24 2) ∧ u.dirs = s.dirs ∧ u.tile.c = s.tile.c ∧ u.mem = s.mem))

/-- R78, R79, R321: `cap.carve` of an exclusive DMEM cap with P that spans its entry, at a multiple of 256 inside the range, completes: the home holds two exclusive buffers of the
two parts, owned by the tile, linked to the parent, which is Carved with two children and a generation one higher, and the tile the cap of each. `cap.merge` of two adjacent
children of one Carved parent that the tile owns completes, whatever their order: the parent is Exclusive again with a generation one higher and the sum of the poison counts, both
children are free with a generation one higher, and the result carries the rights that both had. Children of no common parent, or apart, are refused with reason 10. That the home
has a number left for each child is said by the size of its directory. -/
def Obligations.CarveAndMergeResults : Prop :=
  ∀ (s : State) (d a b : Reg), s.Settled → d ≠ 30 → a ≠ 30 → (s.tile.rc d).lent = false →
    let ca := s.tile.rc a
    let cb := s.tile.rc b
    let me := s.tile.principal s.device
    (∀ (h : HomeId) (e : DirEntry),
      let n := (s.rs2Of b).toNat
      s.TakesRs2 b → s.Owns ca h e → ca.kind = .dmem → ca.rights.p = true → ca.depth = 0 → d ≠ a → n % 256 = 0 → 0 < n → n < ca.length.toNat →
      e.base = ca.base.toNat → e.length = ca.length.toNat → e.depth = 0 → s.dirs.length < 2 ^ 20 →
      ∃ (t : State) (lo hi : DirEntry) (p : Nat), exec (.capCarve d a b) s = .next t ∧ s.movedCaps t [(d, s.issue ca lo), (a, s.issue ca hi)] [ca] ∧
        lo.base = e.base ∧ lo.length = n ∧ hi.base = e.base + n ∧ hi.length = e.length - n ∧ lo.link = some p ∧ hi.link = some p ∧
        lo.state = .exclusive ∧ hi.state = .exclusive ∧ lo.owner = me ∧ hi.owner = me ∧ lo.domain = e.domain ∧ hi.domain = e.domain ∧
        t.nowHas h lo.number (fun o => o = lo) ∧ t.nowHas h hi.number (fun o => o = hi) ∧ lo.number ≠ hi.number ∧
        t.nowHas h p (fun o => o.state = .carved ∧ o.count = 2 ∧ o.base = e.base ∧ o.length = e.length ∧ o.generation = e.generation + 1) ∧
        (e.generation ≠ 0xFFFF → p = e.number)) ∧
    (∀ (h : HomeId) (ea eb : DirEntry),
      s.tile.kpre = none → s.Owns ca h ea → s.Owns cb h eb → a ≠ b → b ≠ 30 → ca.kind = cb.kind → ca.location = cb.location → ca.depth = 0 → cb.depth = 0 →
      (∀ q, s.entry h q.number = some q → q.state = .carved → ea.link = some q.number → eb.link = some q.number → ea.number ≠ eb.number → ea.depth = 0 → eb.depth = 0 →
        (ea.base + ea.length = eb.base ∨ eb.base + eb.length = ea.base) →
        ∃ (t : State) (e : DirEntry), exec (.capMerge d a b) s = .next t ∧
          s.movedCaps t [(a, Cap.null), (b, Cap.null), (d, s.issue { ca with rights := ca.rights.and cb.rights } e)] [ca, cb] ∧
          e.state = .exclusive ∧ e.owner = me ∧ e.base = q.base ∧ e.length = q.length ∧ e.generation = q.generation + 1 ∧
          e.poison = min 65535 (ea.poison + eb.poison) ∧ t.nowHas h e.number (fun o => o = e) ∧ (q.generation ≠ 0xFFFF → e.number = q.number) ∧
          (ea.generation ≠ 0xFFFF → t.nowHas h ea.number (fun o => o.state = .free ∧ o.generation = ea.generation + 1)) ∧
          (eb.generation ≠ 0xFFFF → t.nowHas h eb.number (fun o => o.state = .free ∧ o.generation = eb.generation + 1))) ∧
      (ea.link = none ∨ ea.link ≠ eb.link ∨ (ea.base + ea.length ≠ eb.base ∧ eb.base + eb.length ≠ ea.base) →
        ∃ u : State, exec (.capMerge d a b) s = .next (u.takeTrap 24 10) ∧ u.dirs = s.dirs ∧ u.tile.c = s.tile.c ∧ u.mem = s.mem))

/-- R71, R72, R74: a split of an exclusive cap divides the whole weight of 65,536 between two shares and posts a notice to the home, which makes the entry shared with that
weight outstanding when it serves the notice; a split of a share divides its weight and involves no home; a split of an exec share adds one to the home's count, and may
name `c30` as its source. -/
def Obligations.SplitResults : Prop :=
  (∀ (s : State) (n : Nat) (r : Request) (e : DirEntry) (m : DirState) (op : BitVec 5),
    s.Serves n r e → r.kind = .notice m op → e.state = .exclusive → e.owner = r.principal →
    ∃ t : State, exec (.homeAccessRequest n) s = .next t ∧ s.Answers t r .done ∧ t.mem = s.mem ∧
      t.nowHas r.home r.buffer fun o => o.state = m ∧ o.count = 65536 ∧ o.foldOp = op ∧ o.generation = e.generation ∧ o.owner = e.owner) ∧
  ∀ (s : State) (d a b : Reg), s.Settled → s.TakesRs2 b → d ≠ 30 → (s.tile.rc d).lent = false → d ≠ a →
    let c := s.tile.rc a
    let v := (s.rs2Of b).toNat
    let w := v % 2 ^ 17
    let halves (c : Cap) : List (Reg × Cap) :=
      [(a, s.sign { c with weight := c.weight - BitVec.ofNat 17 w }), (d, s.sign { c with weight := BitVec.ofNat 17 w })]
    let posts (i : Instr) (h : HomeId) (c' : Cap) (m : DirState) (op : BitVec 5) : Prop :=
      exec i s = .next { s with
        tile := ((halves c').foldl (fun t p => t.setC p.1 p.2) (({ s.tile with serial := s.tile.serial + 1 } : Tile).countPacket 5 true) : Tile).retire
        requests := [{ serial := s.tile.serial, tile := s.tile.index, principal := s.tile.principal s.device, home := h, buffer := c.buffer.toNat,
                       generation := c.generation, domain := c.domain, kind := .notice m op }] }
    (a ≠ 30 ∨ c.mode = .exec) → c.Ordinary → c.kind ≠ .host → c.rights.p = true → (1 ≤ w ∧ w + 1 ≤ c.weight.toNat ∨ c.mode = .exec) →
    v / 2 ^ 37 = 0 → v / 2 ^ 17 % 2 ^ 15 = 0 →
    (v / 2 ^ 17 = 0 → c.mode = .read → exec (.capSplitR d a b) s = .next (s.wroteC (halves c))) ∧
    (v / 2 ^ 17 = 0 → c.mode = .fold → exec (.capSplitF d a b) s = .next (s.wroteC (halves c))) ∧
    (∀ (h : HomeId) (e : DirEntry),
      (v / 2 ^ 17 = 0 → s.Owns c h e → posts (.capSplitR d a b) h { c with mode := .read, foldOp := 0 } .readShared 0) ∧
      (let f : BitVec 5 := BitVec.ofNat 5 (v / 2 ^ 32)
       validFoldOp f = true → c.depth = 0 → s.Owns c h e → posts (.capSplitF d a b) h { c with mode := .fold, foldOp := f } .foldShared f) ∧
      (v / 2 ^ 17 = 0 → c.mode = .exec → s.Keeps c h e .execShared → e.count < 2 ^ 24 - 1 →
        ∃ t : State, exec (.capSplitR d a b) s = .next t ∧ s.movedCaps t [(d, s.sign c)] [] ∧
          t.nowHas h c.buffer.toNat fun o => o.state = .execShared ∧ o.count = e.count + 1 ∧ o.generation = e.generation))

/-- R71, R75, R76, R324: a join of shares adds their weights; when the sum is 65,536, and at a reclaim whose weight is the home's count, the buffer becomes Exclusive for the
tile under a generation one higher, with the buffer's whole range; a join of exec shares takes one off the count; a seal makes the buffer exec-shared under the
same generation. A reclaim waits while other shares are outstanding. -/
def Obligations.JoinReclaimSealResults : Prop :=
  ∀ (s : State) (d a b : Reg) (h : HomeId) (e : DirEntry), s.Settled → s.tile.kpre = none → d ≠ 30 → a ≠ 30 → (s.tile.rc d).lent = false →
    let c := s.tile.rc a
    let cb := s.tile.rc b
    let sum := c.weight.toNat + cb.weight.toNat
    let j := { c with rights := c.rights.and cb.rights, z := c.z || cb.z }
    let mine (o : DirEntry) : Prop := o.state = .exclusive ∧ o.generation = e.generation + 1 ∧ o.count = 0 ∧ o.owner = s.tile.principal s.device
    let next := { e with state := .exclusive, count := 0, foldOp := 0, owner := s.tile.principal s.device, generation := e.generation + 1, dies := 0 }
    (a ≠ b → b ≠ 30 → s.Keeps c h e c.mode.state → c.mode ≠ .exclusive → cb.lent = false → cb.mode = c.mode → cb.kind = c.kind → cb.location = c.location →
      cb.buffer = c.buffer → cb.domain = c.domain → cb.generation = c.generation → cb.foldOp = c.foldOp →
      (c.mode ≠ .exec → sum < 65536 →
        exec (.capJoin d a b) s = .next (s.wroteC [(a, Cap.null), (b, Cap.null), (d, s.sign { j with weight := BitVec.ofNat 17 sum })])) ∧
      (c.mode ≠ .exec → sum = 65536 → e.count = 65536 → e.generation ≠ 0xFFFF → ∃ t : State, exec (.capJoin d a b) s = .next t ∧
        s.movedCaps t [(a, Cap.null), (b, Cap.null), (d, s.issue j next)] [c] ∧ t.nowHas h c.buffer.toNat mine) ∧
      (c.mode = .exec → 1 < e.count → ∃ t : State, exec (.capJoin d a b) s = .next t ∧ s.movedCaps t [(a, Cap.null), (b, Cap.null), (d, s.sign j)] [] ∧
        t.nowHas h c.buffer.toNat fun o => o.state = .execShared ∧ o.count = e.count - 1 ∧ o.generation = e.generation)) ∧
    (s.Keeps c h e c.mode.state → c.mode ≠ .exclusive → e.generation ≠ 0xFFFF →
      let last := e.count = (if c.mode = .exec then 1 else c.weight.toNat)
      (last → ∃ t : State, exec (.capReclaim d a) s = .next t ∧ s.movedCaps t [(a, Cap.null), (d, s.issue c next)] [c] ∧ t.nowHas h c.buffer.toNat mine) ∧
      (¬ last → exec (.capReclaim d a) s = .next (s.stallOn (.reclaim a)))) ∧
    (s.Owns c h e → c.rights.p = true → ∃ t : State, exec (.capSealX d a) s = .next t ∧
      s.movedCaps t ((if d = a then [] else [(a, Cap.null)]) ++ [(d, s.sign { c with mode := .exec, weight := 0 })]) [] ∧
      t.nowHas h c.buffer.toNat fun o => o.state = .execShared ∧ o.count = 1 ∧ o.generation = e.generation ∧ o.owner = e.owner)

/-! ### Access under caps -/

/-- R64, R318, R322, R327: a cap instruction that fails raises cause 24 with the reason, and an access under a cap that lacks the right or goes beyond the length raises it with the
offset; `mcapinfo` names the register (R238), and nothing else happens. A fold that is not aligned raises cause 6 first. A trap that finds the fault log
full waits and changes nothing (R413, `State.trapFrom`). -/
def Obligations.CapTraps : Prop :=
  ∀ (s : State) (d a b : Reg) (imm : BitVec 4), s.Quiet →
    let c := s.tile.rc a
    let v := (s.rs2Of b).toNat
    let fails (i : Instr) (reason : Nat) : Prop :=
      exec i s = .next (s.trapFrom { s with tile := { s.tile with mcapinfo := BitVec.ofNat 64 (a.val + reason * 2 ^ 6) } } 24 (BitVec.ofNat 64 reason))
    let off (n : Nat) : Word := s.tile.rx b + imm.setWidth 64 * BitVec.ofNat 64 n
    let bad (i : Instr) (n : Nat) : Prop :=
      exec i s = .next (s.trapFrom { s with tile := { s.tile with mcapinfo := BitVec.ofNat 64 a.val } } 24 (off n))
    let outside (n : Nat) : Prop := c.length.toNat < (off n).toNat + n
    (s.TakesRs2 b → d ≠ 30 → a ≠ 30 →
      (c.kind = .null ∨ c.kind = .handle ∨ c.kind = .slot →
        fails (.capNarrow d a b) 4 ∧ fails (.capFmt d a b) 4 ∧ fails (.capSplitR d a b) 4 ∧ fails (.capSplitF d a b) 4 ∧ fails (.capCarve d a b) 4) ∧
      (c.Ordinary →
        (v / 2 ^ 46 ≠ 0 → fails (.capNarrow d a b) 9) ∧
        (v / 2 ^ 46 = 0 → (v % 2 ^ 40 = 0 ∨ c.length.toNat < v % 2 ^ 40) → fails (.capNarrow d a b) 5) ∧
        (v % 2 ^ 32 / 2 ^ 30 ≠ 0 → fails (.capFmt d a b) 4)) ∧
      (3 < v → fails (.capGet d a b) 9)) ∧
    (s.tile.kpre = none →
      (c.kind = .null ∨ c.eff.r = false ∨ c.kind = .host ∨ c.kind = .handle →
        bad (.cldB d b a imm) 1 ∧ bad (.cldH d b a imm) 2 ∧ bad (.cldW d b a imm) 4 ∧ bad (.cldD d b a imm) 8) ∧
      (c.kind = .null ∨ c.eff.w = false ∨ c.mode = .fold ∨ c.kind = .host ∨ c.kind = .handle →
        bad (.cstB d b a imm) 1 ∧ bad (.cstH d b a imm) 2 ∧ bad (.cstW d b a imm) 4 ∧ bad (.cstD d b a imm) 8) ∧
      (outside 1 → bad (.cldB d b a imm) 1 ∧ bad (.cldBu d b a imm) 1 ∧ bad (.cstB d b a imm) 1) ∧
      (outside 8 → bad (.cldD d b a imm) 8 ∧ bad (.cstD d b a imm) 8) ∧
      ((off 4).toNat % 4 ≠ 0 → exec (.cfoldW d b a imm) s = .next (s.takeTrap 6 (off 4))) ∧
      ((off 8).toNat % 8 ≠ 0 → exec (.cfoldD d b a imm) s = .next (s.takeTrap 6 (off 8))) ∧
      ((off 8).toNat % 8 = 0 → c.mode ≠ .fold → bad (.cfoldD d b a imm) 8))

/-- R106, R327: under an exclusive cap of the tile's own TMEM a scalar load writes the sign- or zero-extended bytes at the offset to `x[d]`, and a store writes the low bytes of
`x[d]` there, with no alignment asked for; nothing else changes. -/
def Obligations.CapLoadStoreResults : Prop :=
  ∀ (s : State) (d rs cs : Reg) (imm : BitVec 4) (e : DirEntry), s.Settled → s.tile.kpre = none →
    let c := s.tile.rc cs
    let off (n : Nat) : Nat := (s.tile.rx rs + imm.setWidth 64 * BitVec.ofNat 64 n).toNat
    let value (n : Nat) : Nat := leNat (s.mem.readN (s.ownKey c (off n)) n)
    let inside (n : Nat) : Prop := off n + n ≤ c.length.toNat
    s.HoldsOwn c e →
    (c.rights.r = true →
      (inside 1 → exec (.cldB d rs cs imm) s = .next (s.wroteX d ((BitVec.ofNat 8 (value 1)).signExtend 64))) ∧
      (inside 2 → exec (.cldH d rs cs imm) s = .next (s.wroteX d ((BitVec.ofNat 16 (value 2)).signExtend 64))) ∧
      (inside 4 → exec (.cldW d rs cs imm) s = .next (s.wroteX d ((BitVec.ofNat 32 (value 4)).signExtend 64))) ∧
      (inside 8 → exec (.cldD d rs cs imm) s = .next (s.wroteX d (BitVec.ofNat 64 (value 8)))) ∧
      (inside 1 → exec (.cldBu d rs cs imm) s = .next (s.wroteX d (BitVec.ofNat 64 (value 1)))) ∧
      (inside 2 → exec (.cldHu d rs cs imm) s = .next (s.wroteX d (BitVec.ofNat 64 (value 2)))) ∧
      (inside 4 → exec (.cldWu d rs cs imm) s = .next (s.wroteX d (BitVec.ofNat 64 (value 4))))) ∧
    (c.rights.w = true →
      let stores (i : Instr) (n : Nat) : Prop := inside n → ∃ t : State, exec i s = .next t ∧
        s.storedCells t ((List.range n).map fun k => (s.ownKey c (off n + k), (s.tile.rx d).extractLsb' (8 * k) 8))
      stores (.cstB d rs cs imm) 1 ∧ stores (.cstH d rs cs imm) 2 ∧ stores (.cstW d rs cs imm) 4 ∧ stores (.cstD d rs cs imm) 8)

/-- R80, R82: a fold combines nothing at the home yet: the operand goes to the tile's update line of the buffer, alone in its word at first, and combined under the
cap's fold op with what the word holds after that; no byte of memory and no register changes. -/
def Obligations.FoldResults : Prop :=
  ∀ (s : State) (d rs cs : Reg) (imm : BitVec 4) (h : HomeId) (n : Nat) (i : Instr), s.Plain →
    (n = 4 ∧ i = .cfoldW d rs cs imm ∨ n = 8 ∧ i = .cfoldD d rs cs imm) →
    let c := s.tile.rc cs
    let off := (s.tile.rx rs + imm.setWidth 64 * BitVec.ofNat 64 n).toNat
    let v : Word := BitVec.ofNat 64 ((s.tile.rx d).toNat % 2 ^ (8 * n))
    let k := off % 256 / n
    (c.kind = .tmem ∨ c.kind = .cmem ∨ c.kind = .dmem) → s.homeOf c = some h → c.lent = false → c.mode = .fold → c.rights.w = true → foldBytes c.foldOp = n →
    off % n = 0 → off + n ≤ c.length.toNat →
    let line (ws : List (Option Word)) (l : L1Line) : Prop := l.tagged c = true ∧ l.pin = none ∧ ∃ u, l.update = some u ∧ u.op = c.foldOp ∧ u.line = off / 256 ∧
      u.words = ws
    (s.tile.l1 = [] → ∃ t l, exec i s = .next t ∧ t = { s with tile := ({ s.tile with l1 := [l] } : Tile).retire } ∧
      line ((List.replicate (256 / n) none).set k (some v)) l) ∧
    (∀ l u w, s.tile.l1 = [l] → l.tagged c = true → l.line = off / 256 → l.pin = none → l.update = some u → u.op = c.foldOp → u.line = off / 256 →
      u.words[k]? = some (some w) →
      ∃ t l', exec i s = .next t ∧ t = { s with tile := ({ s.tile with l1 := [l'] } : Tile).retire } ∧ line (u.words.set k (some (foldWord c.foldOp w v))) l')

/-- R106, R329: a vector load under an exclusive cap of the tile's own TMEM writes the active elements from their offsets and keeps the others; a vector store writes the active
elements in ascending order, so that of two that overlap the higher remains; inactive elements are not touched. -/
def Obligations.VectorMemoryResults : Prop :=
  ∀ (s : State) (d rs cs : Reg) (e : BitVec 5) (en : DirEntry), s.Settled → s.tile.kpre = none → s.maskClean →
    let c := s.tile.rc cs
    let w := pvWidth c
    let n := w / 8
    let off := s.pvOff rs e w
    let els := (List.range 128).filter (s.tile.active w)
    let inside (m : PvMode) : Prop := (m = .index → (s.tile.v.get (Fin.ofNat 32 e.toNat)).poison = 0) ∧ ∀ k ∈ els, off m k + n ≤ c.length.toNat
    s.HoldsOwn c en →
    (c.rights.r = true →
      let loads (i : Instr) (m : PvMode) : Prop := inside m → s.GivesElements i d w fun k => leNat (s.mem.readN (s.ownKey c (off m k)) n)
      loads (.vcld d rs cs e) .unit ∧ loads (.vclds d rs cs e) .stride ∧ loads (.vcldx d rs cs e) .index) ∧
    (c.rights.w = true → (s.tile.v.get d).poison = 0 →
      let stores (i : Instr) (m : PvMode) : Prop := inside m → ∃ t : State, exec i s = .next t ∧
        s.storedCells t (els.flatMap fun k => (List.range n).map fun j =>
          (s.ownKey c (off m k + j), BitVec.ofNat 8 ((s.tile.v.get d).el w k / 2 ^ (8 * j))))
      stores (.vcst d rs cs e) .unit ∧ stores (.vcsts d rs cs e) .stride ∧ stores (.vcstx d rs cs e) .index)

/-! ### Messages, jobs and rings -/

/-- R71, R83, R331, R332: a send whose control word is in order puts a message with the payload of `x[b]` and on, and the caps of `c[d]` (`sendc`: one or two) or `c[b]` (`xfer`), into the
network. -/
def Obligations.MessageSendResults : Prop :=
  ∀ (s : State) (d a b : Reg) (hint : BitVec 2) (launch i : Nat), s.Settled → s.tile.kpre = none → s.tile.launch = some launch →
    (∀ o ∈ s.net, s.blocked o = false) →
    let v := (s.tile.rx a).toNat
    let rank := v % 2 ^ 30
    let n := v / 2 ^ 40 % 8
    let k := v / 2 ^ 43 % 4
    s.place launch rank = some (s.device, i) → v / 2 ^ 30 % 4 = 0 → v / 2 ^ 45 = 0 → (v / 2 ^ 32 % 2 ^ 8 < 0xF0 ∨ s.tile.mode = .m) →
    let payload := (List.range n).map fun j => s.tile.rx (Fin.ofNat 32 (b.val + j))
    let msg (ws : List Word) (caps : Nat) (hint : BitVec 2) : Msg :=
      { sender := s.tile.rank, senderEp := s.tile.principal s.device, senderLaunch := launch, dest := .rank launch rank, type := BitVec.ofNat 8 (v / 2 ^ 32),
        payload := ws, caps := [], hint := hint, places := List.replicate caps 0, placed := decide (caps = 0), counted := decide (s.tile.mode = .u) }
    (k = 0 → b.val + n ≤ 32 → s.SendsMsg (.msgSend a b) [] (msg payload 0 0)) ∧
    (k = 0 → n = 0 → b ≠ 30 → s.Sendable (s.tile.rc b) → s.SendsMsg (.xfer a b hint) [b] (msg [] 1 hint)) ∧
    (k = 1 → b.val + n ≤ 32 → d ≠ 30 → s.Sendable (s.tile.rc d) → s.SendsMsg (.msgSendc d a b hint) [d] (msg payload 1 hint)) ∧
    (let d' : Reg := d + 1
     k = 2 → b.val + n ≤ 32 → d.val < 29 → s.Sendable (s.tile.rc d) → s.Sendable (s.tile.rc d') →
      (s.homeOf (s.tile.rc d), (s.tile.rc d).buffer) ≠ (s.homeOf (s.tile.rc d'), (s.tile.rc d').buffer) →
      s.SendsMsg (.msgSendc d a b hint) [d, d'] (msg payload 2 hint))

/-- R196, R334-R336, R382: `msg.recv` delivers the next message of the level (at level 0 one of the exchange queue that has landed comes first) and waits when there is none, `msg.peek` reads its
header, and `hret` goes on with the next message's handler or returns to the level that was pre-empted. -/
def Obligations.MessageReceiveResults : Prop :=
  ∀ (s : State) (d : Reg), s.Plain →
    let free (q : QMsg) : Prop := q.failed = [] ∧ q.msg.caps.length ≤ 2 ∧ (q.msg.caps ≠ [] → (s.tile.rc 28).kind = .null) ∧
      (q.msg.caps.length = 2 → (s.tile.rc 29).kind = .null)
    (∀ x q, s.tile.nextMsg = some (x, q) →
      (free q → ∃ t : State, exec .msgRecv s = .next t ∧ s.Received t x q ∧
        t.tile.msgrecv = s.tile.msgrecv + (if q.msg.counted then 1 else 0)) ∧
      exec (.msgPeek d) s = .next (s.wroteX d q.header)) ∧
    (s.tile.nextMsg = none → exec .msgRecv s = .next (s.stallOn (.queue s.tile.level.val)) ∧ exec (.msgPeek d) s = .next (s.wroteX d 0)) ∧
    (s.tile.level ≠ 0 → s.tile.atLoopEnd = false → (s.tile.rc 28).kind = .null → (s.tile.rc 29).kind = .null →
      (freshHead (s.tile.queues.get s.tile.level) = none → ∃ t : State, exec .hret s = .next t ∧ t.tile.level = s.tile.prev.get s.tile.level ∧
        t.tile.pc = s.tile.retPc.get s.tile.level ∧ t.tile.x = s.tile.x ∧ t.tile.v = s.tile.v ∧ t.tile.c = s.tile.c ∧ t.mem = s.mem) ∧
      (∀ q, freshHead (s.tile.queues.get s.tile.level) = some q → free q → ∃ t : State, exec .hret s = .next t ∧ s.Received t false q ∧
        t.tile.pc = BitVec.ofNat 64 (s.tile.dispatchOf q.msg.type).entry)) ∧
    (s.tile.level = 0 → exec .hret s = .next (s.takeTrap 2 (instrWord .hret)))

/-- R337, R351-R353: `xfer.cp` and the `mx` instructions that submit a job check their operands, lend the caps, queue the job and write its number; `mx.out` under
stochastic rounding takes its 4,096 draws at issue. -/
def Obligations.JobSubmissionResults : Prop :=
  ∀ (s : State) (d a ca cb : Reg) (m : BitVec 2) (n : BitVec 5), s.TakesJob →
    let A := s.tile.rc ca
    let B := s.tile.rc cb
    let C := s.tile.rc a
    let same := s.tile.srseed
    (s.tile.kpre = none →
      (let len := (s.tile.rx d).toNat
       ca ≠ 30 → cb ≠ 30 → ca ≠ cb → s.Lendable A → s.Lendable B → A.mode = .exclusive → A.rights.w = true → A.kind ≠ .null → A.kind ≠ .handle →
        B.kind ≠ .null → B.kind ≠ .handle → B.eff.r = true → ¬(A.kind = .host ∧ B.kind = .host) →
        (s.hostClear s.tile.mdomain = true ∨ A.kind ≠ .host ∧ B.kind ≠ .host) → 1 ≤ len → len ≤ A.length.toNat → len ≤ B.length.toNat →
        s.Submits (.xferCp d ca cb) d (.copy A B len) false [ca, cb] same) ∧
      (let fp64 := (Descr.ofBits A.format).cls = 4
       let v := 4 * (s.tile.mxmode.toNat % 8) + m.toNat
       ∀ acc, s.tile.accOf v = some acc → ca ≠ 30 → cb ≠ 30 → A.isHandle false = true → B.isHandle false = true →
        s.homeOf A = some (.cluster (clusterOf s.tile.index)) → s.homeOf B = some (.cluster (clusterOf s.tile.index)) → A.buffer ≠ B.buffer →
        s.Lendable A → s.Lendable B → formatsOk (Descr.ofBits A.format) (Descr.ofBits B.format) = true → (fp64 → v % 2 = 0) → (s.tile.rx a).toNat < 2 ^ 32 →
        s.Submits (.mxMma d a ca cb m) d (.mma acc (decide fp64) (s.tile.rx a).toNat (s.tile.mxmode.getLsbD 3) A B) (s.selects s.tile) [ca, cb] same) ∧
      (∀ acc, s.tile.accOf n.toNat = some acc → s.Submits (.mxZero d n) d (.zero acc) false [] same)) ∧
    (s.TakesRs2 cb → a ≠ 30 → s.Lendable C → C.kind ≠ .null → C.kind ≠ .host → C.kind ≠ .handle →
      let off := (s.rs2Of cb).toNat
      (∀ acc, s.tile.accOf n.toNat = some acc → C.eff.r = true →
        (C.format = fmtF32 → off + 16384 ≤ C.length.toNat → s.Submits (.mxLoad d a cb n) d (.load acc false C off) false [a] same) ∧
        (C.format = fmtF64 → n.toNat % 2 = 0 → off + 32768 ≤ C.length.toNat → s.Submits (.mxLoad d a cb n) d (.load acc true C off) false [a] same)) ∧
      (let f := Descr.ofBits C.format
       let fp64 := s.tile.mxmode.getLsbD 4
       let rm : BitVec 4 := BitVec.ofNat 4 (s.tile.rmode.toNat + (if s.tile.rsat then 8 else 0))
       ∀ acc, s.tile.accOf n.toNat = some acc → f.valid = true → f.cls ≠ 7 → (f.layout = 0 ∨ f.layout = 2) → (fp64 = true → n.toNat % 2 = 0) →
        C.mode = .exclusive → C.rights.w = true → off + outSize f ≤ C.length.toNat →
        s.Submits (.mxOut d a cb n) d (.out acc fp64 C off rm same) false [a] (if s.tile.rmode = 5 then drawN 4096 same else same)))

/-- R338, R355, R356, R385, R386: `mx.poll` writes the poll word and clears a pending error, `mx.cancel` ends a job that is queued and not granted, `wait.job` waits for the end of a job and
takes its pending error as a trap, `wait.q` waits for a message and writes their number, and `batch.close` waits for the remote stores of a tag, and then writes their
refusals and clears the tag. A cancel of a job in a granted step takes effect at the step's end, and one of any other job changes nothing. -/
def Obligations.PollAndWaitResults : Prop :=
  ∀ (s : State) (d a : Reg) (q : BitVec 3) (tag : BitVec 2), s.Plain →
    let n := (s.tile.rx a).toNat
    let w := s.tile.pollWord n
    let closed (t : Tile) : Tile := { t with batches := t.batches.set tag.toNat {} }
    let b := s.tile.batches.get tag.toFin
    exec (.mxPoll d a) s = .next (s.retired (if w = 15 then s.tile.setX d w else (s.tile.setX d w).clearPending n)) ∧
    (w = 15 → exec (.mxCancel d a) s = .next (s.wroteX d 15)) ∧
    (∀ j, w ≠ 15 → s.tile.jobs.find? (fun j => decide (j.number = n)) = some j → j.ended = false → j.outcome ≠ some .rolledBack → (j.status = .queued ∨ j.status = .running) →
      (j.granted = false →
        ∃ t : State, exec (.mxCancel d a) s = .next t ∧ (d ≠ 0 → t.tile.rx d = BitVec.ofNat 64 (4 + j.steps % 2 ^ 32 * 256)) ∧ t.mem = s.mem) ∧
      (j.granted = true → exec (.mxCancel d a) s = .next (({ s with tile := { s.tile with
        jobs := s.tile.jobs.map fun o => if o.number = n then { o with outcome := some .cancelled } else o } } : State).wroteX d w))) ∧
    ((∀ j ∈ s.tile.jobs, j.number = n → j.ended = true ∨ j.outcome = some .rolledBack ∨ (j.status ≠ .queued ∧ j.status ≠ .running)) →
      exec (.mxCancel d a) s = .next (s.wroteX d w)) ∧
    (s.tile.jobs.find? (fun j => decide (j.number = n)) = none ∨ w = 15 → exec (.waitJob d a) s = .next (s.wroteX d w)) ∧
    (∀ j, w ≠ 15 → s.tile.jobs.find? (fun j => decide (j.number = n)) = some j →
      (j.ended = true → j.held = false → j.pending = false → exec (.waitJob d a) s = .next (s.wroteX d w)) ∧
      (j.ended = false ∨ j.held = true → exec (.waitJob d a) s = .next (s.stallOn (.job n))) ∧
      (j.ended = true → j.held = false → j.pending = true →
        exec (.waitJob d a) s = .next (s.trapFrom { s with tile := s.tile.clearPending n } (if j.status = .auditMismatch then 51 else 31) (BitVec.ofNat 64 n)))) ∧
    (4 < q.toNat → exec (.waitQ d q) s = .next (s.takeTrap 2 (instrWord (.waitQ d q)))) ∧
    (q.toNat ≤ 4 → s.tile.takeable q.toNat = 0 → exec (.waitQ d q) s = .next (s.stallOn (.queue q.toNat))) ∧
    (q.toNat ≤ 4 → s.tile.takeable q.toNat ≠ 0 → exec (.waitQ d q) s = .next (s.wroteX d (BitVec.ofNat 64 (s.tile.takeable q.toNat)))) ∧
    (b.count = 0 → exec (.batchClose d tag) s = .next (s.retired (closed (s.tile.setX d 0)))) ∧
    (let awaited := s.tile.remotes.any fun r => r.control.isEmpty && (decide (r.tag = tag.toNat) || r.also.any fun p => decide (p.1 = tag.toNat))
     b.count ≠ 0 → (∀ l ∈ s.tile.l1, l.kind ≠ .remote) →
      (awaited = true → exec (.batchClose d tag) s = .next (s.stallOn .batch)) ∧
      (awaited = false → b.peers = [] → exec (.batchClose d tag) s = .next (s.retired (closed (s.tile.setX d b.summary)))))

/-- R344-R346: `ring.init` turns an exclusive CMEM buffer of the tile's cluster into a ring of Free slots with two handles; `ring.rsv` reserves the next slot under a serial one higher, `ring.pub` publishes it,
`ring.take` takes the oldest Visible one, `ring.done` frees it or, of both handles, gives the whole buffer back; `ring.rsv` and `ring.take` give the null cap when there is no such slot. -/
def Obligations.RingResults : Prop :=
  ∀ (s : State) (d a b : Reg) (k : Nat), s.Settled →
    let c := s.tile.rc a
    let buf := c.buffer.toNat
    (∀ e : DirEntry,
      let n := (s.rs2Of b).toNat
      s.TakesRs2 b → a ≠ 30 → s.TakesCap d → d ≠ a → k = clusterOf s.tile.index → s.Owns c (.cluster k) e → e.generation ≠ 0xFFFF → c.kind = .cmem →
      c.rights.r = true → c.rights.w = true → c.rights.p = true → c.depth = 0 → c.base.toNat % 256 = 0 → 2 ≤ n → n ≤ 256 → n * 4352 ≤ c.length.toNat →
      let handle (r : Rights) : Cap := s.sign { base := c.base, length := BitVec.ofNat 40 (n * 4352), kind := .handle, location := c.location, rights := r, mode := .exclusive, buffer := c.buffer, generation := e.generation + 1, weight := 65536, format := c.format, domain := c.domain }
      ∃ t : State, exec (.ringInit d a b) s = .next t ∧ s.movedCaps t [(d, handle { r := true, s := true }), (a, handle { w := true, s := true })] [c] ∧
        t.ringNow k buf (fun g => g.slots = List.replicate n {} ∧ g.base = c.base.toNat ∧ g.generation = e.generation + 1 ∧ g.visible = 0) ∧
        t.nowHas (.cluster k) buf fun o => o.state = .exclusive ∧ o.owner = s.homeEndpoint (.cluster k)) ∧
    (s.tile.kpre = none → ∀ g : Ring, s.AtRing c k g →
      let i := g.slotOf c
      (c.isHandle true = true → s.TakesCap d → (g.slot g.rsv).state ≠ .free → exec (.ringRsv d a) s = .next (s.wroteC [(d, Cap.null)])) ∧
      (c.isHandle true = true → s.TakesCap d → (g.slot g.rsv).state = .free → g.rsv < g.slots.length → ∃ t : State, exec (.ringRsv d a) s = .next t ∧ t.mem = s.mem ∧
        t.ringNow k buf fun g' => (g'.slot g.rsv).state = .reserved ∧ (g'.slot g.rsv).serial = (g.slot g.rsv).serial + 1 ∧
          (∀ j, j ≠ g.rsv → g'.slot j = g.slot j) ∧ t.tile = (s.tile.setC d (s.slotCap c g' g.rsv true)).retire) ∧
      (c.isSlot true = true → a ≠ 30 → ∃ t : State, exec (.ringPub a) s = .next t ∧ s.movedCaps t [(a, Cap.null)] [c] ∧
        t.ringNow k buf fun g' => ((g'.slot i).state = .published ∨ (g'.slot i).state = .visible) ∧ (g'.slot i).serial = (g.slot i).serial) ∧
      (c.isHandle false = true → s.TakesCap d → g.visible = 0 → exec (.ringTake d a) s = .next (s.wroteC [(d, Cap.null)])) ∧
      (c.isHandle false = true → s.TakesCap d → g.visible ≠ 0 → g.head < g.slots.length → ∃ t : State, exec (.ringTake d a) s = .next t ∧ t.mem = s.mem ∧
        t.ringNow k buf fun g' => (g'.slot g.head).state = .taken ∧ g'.visible = g.visible - 1 ∧ (∀ j, j ≠ g.head → g'.slot j = g.slot j) ∧
          t.tile = (s.tile.setC d (s.slotCap c g' g.head false)).retire) ∧
      (c.isSlot false = true → a ≠ 30 → ∃ t : State, exec (.ringDoneSlot a) s = .next t ∧ s.movedCaps t [(a, Cap.null)] [c] ∧
        t.ringNow k buf fun g' => (g'.slot i).state = .free ∧ ∀ j, j ≠ i → g'.slot j = g.slot j) ∧
      (let o := s.tile.rc b
       ∀ e : DirEntry, c.isHandle true = true → o.isHandle false = true → o.buffer = c.buffer → o.generation = c.generation → o.location = c.location →
        o.domain = c.domain → o.lent = false → a ≠ 30 → b ≠ 30 → s.TakesCap d → (∀ x ∈ g.slots, x.state = .free) →
        s.entry (.cluster k) buf = some e → e.generation ≠ 0xFFFF →
        ∃ t : State, exec (.ringDoneDismantle d a b) s = .next t ∧ t.ring k buf = none ∧
          s.movedCaps t [(a, Cap.null), (b, Cap.null),
            (d, s.capOf { e with generation := e.generation + 1, owner := s.tile.principal s.device, dies := 0 } .cmem c.location.toNat g.rights g.format)] [] ∧
          t.nowHas (.cluster k) buf fun o => o.owner = s.tile.principal s.device ∧ o.generation = e.generation + 1))

/-! ### Regions and snapshots -/

/-- R165, R367, R368, R373, R374, R376, R377: `rgn.open` opens a region and writes 0 to `x[d]`; the first write of a register in it saves the old value; `rgn.abort` goes back to the instruction after the
`rgn.open` with the cause in `x[d]` and the saved registers restored; `rgn.close` of the outermost region releases what it held; `rgn.keep` pushes a level over the lines of a range. -/
def Obligations.RegionResults : Prop :=
  ∀ (s : State) (d a b : Reg) (cause : BitVec 8) (imm : BitVec 12), s.armed = [] → s.tile.kpre = none → s.tile.atLoopEnd = false →
    (s.tile.openRegions = [] → (s.tile.regions.toList.map List.length).sum < 8 → s.tile.undoUsed + 64 ≤ s.tile.undoSize →
      ∃ t r, exec (.rgnOpen d) s = .next t ∧ t.tile.openRegions = [r] ∧ r.dest = d ∧ r.pc = s.tile.pc ∧ r.saved = [] ∧ r.levelSeq = s.levelSeq ∧
        (∀ q, t.tile.rx q = if q = d then 0 else s.tile.rx q) ∧ t.tile.c = s.tile.c ∧ t.mem = s.mem) ∧
    ((s.tile.regions.toList.map List.length).sum ≥ 8 → exec (.rgnOpen d) s = .next (s.takeTrap 28 2)) ∧
    (s.tile.openRegions = [] → exec .rgnClose s = .next (s.takeTrap 2 (instrWord .rgnClose)) ∧
      exec (.rgnAbort cause) s = .next (s.takeTrap 2 (instrWord (.rgnAbort cause)))) ∧
    (∀ r rest, s.tile.openRegions = r :: rest →
      (d ≠ 0 → (r.saved.any fun o => decide (o.item = .x d)) = false → s.tile.undoUsed + 8 ≤ s.tile.undoSize → ∃ t : State, exec (.addi d a imm) s = .next t ∧
        t.tile.openRegions = { r with saved := .x d (s.tile.rx d) :: r.saved } :: rest ∧ t.tile.rx d = s.tile.rx a + imm.signExtend 64) ∧
      (s.tile.jobs = [] → s.levels = [] → s.spores = [] → s.undoLost = false → s.tile.remotes = [] → s.tile.rollbacks = [] → s.tile.failing = none →
        s.tile.gang.member = false → r.saved.Pairwise (fun o p => o.item ≠ p.item) →
        ∃ t : State, exec (.rgnAbort cause) s = .next t ∧ t.tile.pc = r.pc + 4 ∧ t.tile.openRegions = { r with saved := [], pinned := 0, slots := [] } :: rest ∧
          (r.dest ≠ 0 → t.tile.rx r.dest = 256 + cause.setWidth 64) ∧ (∀ n w, n ≠ r.dest → n ≠ 0 → Saved.x n w ∈ r.saved → t.tile.rx n = w) ∧
          (∀ n, n ≠ r.dest → (∀ w, Saved.x n w ∉ r.saved) → t.tile.rx n = s.tile.rx n)) ∧
      (rest = [] → s.tile.jobs = [] → s.levels = [] → s.spores = [] → s.undoLost = false → ∃ t : State, exec .rgnClose s = .next t ∧ t.tile.openRegions = [] ∧
        t.tile.releasePath = s.tile.releasePath ++ s.tile.siding.filter (fun h => decide (h.level = s.tile.level)) ∧
        t.tile.siding = s.tile.siding.filter (fun h => decide (h.level ≠ s.tile.level)) ∧ t.tile.x = s.tile.x ∧ t.tile.c = s.tile.c ∧ t.mem = s.mem) ∧
      (∀ (h : HomeId) (e : DirEntry),
        let c := s.tile.rc d
        let off := (s.tile.rx a).toNat
        let len := (s.tile.rx b).toNat
        s.Drained → d ≠ 30 → s.Owns c h e → c.rights.w = true → len ≠ 0 → off + len ≤ c.length.toNat → e.depth < 7 → s.poolFree h e.domain ≠ 0 →
        s.tile.undoUsed + 32 ≤ s.tile.undoSize →
        ∃ t : State, exec (.rgnKeep d a b) s = .next t ∧ t.nowHas h c.buffer.toNat (fun o => o.depth = e.depth + 1 ∧ o.state = .exclusive ∧ o.generation = e.generation) ∧
          t.tile.rc d = s.sign { c with depth := BitVec.ofNat 3 (e.depth + 1) } ∧ t.mem = s.mem ∧
          ∃ l, t.levels = s.levels ++ [l] ∧ l.home = h ∧ l.buffer = e.number ∧ l.level = e.depth + 1 ∧ l.region = true ∧ l.firstLine = off / 256 ∧
            l.lastLine = (off + len - 1) / 256 ∧ l.byTile = s.tile.index ∧ l.byLevel = s.tile.level))

/-- R148, R154-R157, R378: `snap.take` pushes a level and changes no byte, `snap.accept` drops the top level and changes no byte, `snap.reject` puts every line of the top level's copies back as
it was when it was copied and drops the level; each writes the new depth into the cap. `snap.info` reads the depth, the copies of the top level and the free units of the pool. -/
def Obligations.SnapshotResults : Prop :=
  ∀ (s : State) (d a : Reg) (h : HomeId) (e : DirEntry), s.Quiet → s.Drained → s.NoRegionLevels → s.tile.kpre = none → a ≠ 30 →
    let c := s.tile.rc a
    let buf := c.buffer.toNat
    let top := s.copiesAt h buf e.depth
    s.Owns c h e →
    let depthNow (t : State) (n : Nat) : Prop := t.nowHas h buf (fun o => o.depth = n ∧ o.state = .exclusive ∧ o.generation = e.generation) ∧
      t.tile.rc a = s.sign { c with depth := BitVec.ofNat 3 n } ∧ (∀ r, r ≠ a → t.tile.rc r = s.tile.rc r) ∧ t.tile.x = s.tile.x ∧ t.tile.v = s.tile.v
    let isTop (l : LevelRecord) : Bool := l.home = h && l.buffer = buf && l.level = e.depth
    (c.rights.n = true → e.depth < 7 → s.poolFree h e.domain ≠ 0 → ∃ t : State, exec (.snapTake a) s = .next t ∧ depthNow t (e.depth + 1) ∧ t.mem = s.mem ∧
      ∃ l, t.levels = s.levels ++ [l] ∧ l.home = h ∧ l.buffer = buf ∧ l.level = e.depth + 1 ∧ l.region = false) ∧
    (s.stackOf h buf ≠ [] → ∃ t : State, exec (.snapAccept a) s = .next t ∧ depthNow t (e.depth - 1) ∧ t.mem = s.mem ∧
      t.levels = s.levels.filter (fun l => !isTop l) ∧ t.copiesAt h buf e.depth = []) ∧
    (∀ i, h = .tile i → s.stackOf h buf ≠ [] → top.Pairwise (fun o p => o.line ≠ p.line) → (∀ o ∈ top, o.data.length ≤ 256) →
      ∃ t : State, exec (.snapReject a) s = .next t ∧ depthNow t (e.depth - 1) ∧ t.levels = s.levels.filter (fun l => !isTop l) ∧ t.copiesAt h buf e.depth = [] ∧
        (∀ o ∈ top, ∀ j, (hj : j < o.data.length) → t.mem.read (tmemKey i (e.base + 256 * o.line + j)) = o.data[j]) ∧
        ∀ key, (∀ o ∈ top, key < tmemKey i (e.base + 256 * o.line) ∨ tmemKey i (e.base + 256 * o.line) + o.data.length ≤ key) → t.mem.read key = s.mem.read key) ∧
    ((∀ l ∈ s.stackOf h buf, l.regionDepth < 16) → e.depth ≤ 7 → ∃ w : Word, exec (.snapInfo d a) s = .next (s.wroteX d w) ∧ w.toNat % 8 = e.depth ∧
      w.toNat / 2 ^ 8 % 2 ^ 32 = top.length % 2 ^ 32 ∧ w.toNat / 2 ^ 40 = min 0xFFFFFF (s.poolFree h e.domain))

/-! ### Barriers, exchange, gangs, launches -/

/-- R205-R210, R379-R383: a binding of a level joins a barrier domain, an arrival counts in its round, and a wait ends with the release of that round; an exchange phase begins after the round's
release, sends the next entry of its Timetable within three cycles of its start, and ends at its closing cycle with the number of entries not sent. -/
def Obligations.BarrierAndExchangeResults : Prop :=
  ∀ (s : State) (d a : Reg) (tt : BitVec 4) (l : BitVec 2) (launch : Nat), s.Settled → s.tile.kpre = none → s.tile.launch = some launch →
    let lv : Level := l.toFin
    let n := (s.tile.rx a).toNat
    (∀ b, (s.tile.binding lv).all (fun g => g.arrived.isNone) = true → s.tile.arrivalHeld lv = false → n < 64 → s.barrier launch n = some b →
      (b.bound.filter fun p => decide (p ≠ (s.tile.rank, lv))).length < b.members →
      ∃ t : State, exec (.barJoin a l) s = .next t ∧ t.tile = (s.tile.setBinding lv (some { domain := n })).retire ∧ t.mem = s.mem ∧
        ∃ b', t.barrier launch n = some b' ∧ (s.tile.rank, lv) ∈ b'.bound ∧ b'.members = b.members ∧ b'.arrivals = b.arrivals) ∧
    (∀ g b, s.tile.binding lv = some g → g.arrived = none → s.tile.arrivalHeld lv = false → s.barrier launch g.domain = some b →
      (∀ m, s.launchAt launch = some m → m.device = s.device) →
      ∃ t : State, exec (.barArrive l) s = .next t ∧ t.tile = (s.tile.setBinding lv (some { g with arrived := some b.round })).retire ∧ t.mem = s.mem ∧
        ∃ b', t.barrier launch g.domain = some b' ∧ b'.arrivals = b.arrivals + 1 ∧ b'.round = b.round ∧ b'.bound = b.bound) ∧
    (∀ g r b, s.tile.binding lv = some g → g.arrived = some r → s.barrier launch g.domain = some b →
      (∀ p, b.released.find? (fun p => decide (p.1 = r)) = some p →
        exec (.barWait l) s = .next (s.retired (s.tile.setBinding lv (some { g with arrived := none, released := some p.2 })))) ∧
      (b.released.find? (fun p => decide (p.1 = r)) = none → exec (.barWait l) s = .next (s.stallOn (.barrier lv)))) ∧
    (s.tile.binding lv = none → exec (.barArrive l) s = .next (s.takeTrap 2 (instrWord (.barArrive l))) ∧ exec (.barWait l) s = .next (s.takeTrap 2 (instrWord (.barWait l)))) ∧
    (∀ x g rel, s.timetable launch tt.toNat = some x → s.tile.binding lv = some g → (s.barrier launch g.domain).any s.oneDie = true → s.tile.level = 0 →
      s.tile.phase = none → g.arrived = none → s.tile.arrivalHeld lv = false → g.released = some rel → s.tile.xqueue = [] → (s.launchAt launch).any (·.holdExchange) = false →
      let k := (x.incoming s.tile.rank).length
      let phase (landing : Option Reg) : Phase := { table := tt.toNat, release := rel, landing := landing, closing := s.closingCycle launch x s.tile.rank }
      (k = 0 → exec (.xchBegin a tt l) s = .next (s.retired { s.tile with phase := some (phase none) })) ∧
      (let c := s.tile.rc a
       0 < k → k ≤ 32 → a ≠ 30 → c.kind = .tmem → c.mode = .exclusive → c.rights.w = true → c.depth = 0 → s.ownTmem c = true → 256 * k ≤ c.length.toNat → s.Lendable c →
        ∃ t : State, exec (.xchBegin a tt l) s = .next t ∧ t.tile.phase = some (phase (some a)) ∧ t.tile.rc a = s.sign { c with lent := true } ∧
          (∀ r, r ≠ a → t.tile.rc r = s.tile.rc r) ∧ t.tile.x = s.tile.x ∧ t.mem = s.mem)) ∧
    (∀ p x es e i, s.tile.phase = some p → s.timetable launch p.table = some x → x.senders.find? (fun q => decide (q.1 = s.tile.rank)) = some (s.tile.rank, es) →
      es[p.next]? = some e → s.place launch e.dest = some (s.device, i) →
      let size := min 256 (64 * e.flits - 32)
      let bytes := s.tile.exchangeBytes a size
      (size ≤ 128 ∨ a ≠ 31) →
      (e.start ≤ s.xchCycle → s.xchCycle ≤ e.start + 3 → ∃ t m, exec (.xchSend a) s = .next t ∧ t.net = s.net ++ [m] ∧ m.dest = .rank launch e.dest ∧
        m.sender = s.tile.rank ∧ m.landing = some (x.landing s.tile.rank e, bytes.1) ∧ m.landBad = bytes.2 ∧ t.tile.phase = some { p with next := p.next + 1 } ∧
        t.tile.x = s.tile.x ∧ t.tile.v = s.tile.v ∧ t.tile.c = s.tile.c ∧ t.mem = s.mem) ∧
      (s.xchCycle < e.start → exec (.xchSend a) s = .next (s.stallOn .early)) ∧
      (e.start + 3 < s.xchCycle → (s.tile.mode = .m ∨ s.tile.freeEntry.isSome = true) →
        exec (.xchSend a) s = .next (({ s with tile := { s.tile with phase := some { p with next := p.next + 1 } } } : State).takeTrap 27 (BitVec.ofNat 64 p.next)))) ∧
    (∀ p x es, s.tile.phase = some p → s.timetable launch p.table = some x → x.senders.find? (fun q => decide (q.1 = s.tile.rank)) = some (s.tile.rank, es) → s.net = [] →
      (p.closing ≤ s.xchCycle → ∃ t : State, exec (.xchEnd d) s = .next t ∧ t.tile.phase = none ∧ (d ≠ 0 → t.tile.rx d = BitVec.ofNat 64 (es.length - p.next)) ∧
        (∀ r, r ≠ d → t.tile.rx r = s.tile.rx r) ∧ t.mem = s.mem) ∧
      (s.xchCycle < p.closing → exec (.xchEnd d) s = .next (s.stallOn .xchEnd)))

/-- R199, R202, R384, R387-R389, R417, R426, R433: `gang.form` and `gang.join` complete when every tile of the mask has come, and wait until then, `gang.split` at the leader dissolves the gang; `lnch.post` writes
the controller's answer, `lnch.done` ends the launch; in M-mode `sys.park` stops its set or writes a status, `sys.revive` writes a status, and `sys.halt` fires the groups of its mask; U-mode takes cause 2.
That `lnch.done` waits while its launch is being parked is deduced (log 35). -/
def Obligations.GangLaunchSystemResults : Prop :=
  ∀ (s : State) (d a b : Reg) (m : BitVec 8) (k : BitVec 1) (launch : Nat), s.Plain →
    let all := s.named m
    let ids := all.map (·.index)
    let count (m : BitVec 8) : Nat := (maskMembers m).length
    let formed (leader : Nat) (u : Tile) : Gang := { mask := m, left := 0, leader := leader, position := maskPosition m u.gangIndex, member := true }
    (s.tile.launch = some launch → 2 ≤ count m → m.getLsbD s.tile.gangIndex = true → s.tile.gang.member = false → s.tile.level = 0 →
      let here : Prop := count m ≤ all.length ∧ ∀ u ∈ all, u.index = s.tile.index ∨ u.meets (fun w => decide (w.kind = .gangForm m)) = true
      (here → ∃ t : State, exec (.gangForm m) s = .next t ∧ t.tile.gang = formed ((maskMembers m).headD 0) s.tile ∧ t.tile.x = s.tile.x ∧ t.mem = s.mem ∧
        ∀ u ∈ t.others, u.index ∈ ids → u.gang.mask = m ∧ u.gang.member = true ∧ u.gang.leader = (maskMembers m).headD 0 ∧ u.gang.left = 0) ∧
      (¬ here → exec (.gangForm m) s = .next (s.stallOn (.gangForm m)))) ∧
    (s.tile.launch = some launch → s.tile.leads = true → s.tile.gang.mask.getLsbD s.tile.gangIndex = true → ∃ t : State, exec .gangSplit s = .next t ∧ t.tile = ({ s.tile with gang := {} } : Tile).retire ∧ t.mem = s.mem ∧
      t.others = s.others.map fun u => if (sameGang s.tile u : Bool) = true then
        ({ (if u.gang.member = true ∧ u.index ≠ s.tile.index then u.retire else u) with gang := {} } : Tile) else u) ∧
    (s.tile.launch = some launch → s.tile.gang.mask = m → m ≠ 0 →
      let here : Prop := count m ≤ all.length ∧ ∀ u ∈ all, u.index = s.tile.index ∨ (u.gang.mask = m ∧ u.pc = s.tile.pc ∧
        (u.meets (fun w => decide (w.kind = .gangJoin)) = true ∨ u.gang.member = true ∧ u.leads = false))
      (here → s.tile.index ∈ ids → (s.allTiles.map (·.index)).Nodup → ∃ t : State, exec .gangJoin s = .next t ∧ t.tile.gang = { s.tile.gang with left := 0, member := true } ∧ t.mem = s.mem ∧
        ∀ u ∈ t.others, u.index ∈ ids → u.gang.mask = m ∧ u.gang.member = true ∧ u.gang.left = 0) ∧
      (¬ here → exec .gangJoin s = .next (s.stallOn .gangJoin))) ∧
    (∀ v, a ≠ 30 → b ≠ 30 → s.tile.answer = some v → exec (.lnchPost d a b) s = .next (s.wroteX d v)) ∧
    (∀ l, s.tile.launch = some launch → s.launchAt launch = some l → l.number = launch → l.done = none → l.endable = true → l.device = s.device → l.state ≠ .parking → l.state ≠ .parked →
      ∃ t : State, exec (.lnchDone a) s = .next t ∧ t.tile.started = false ∧ t.mem = s.mem ∧
        ∃ l', t.launchAt launch = some l' ∧ l'.state = .ending ∧ l'.done = some (s.tile.rank, s.tile.rx a)) ∧
    (s.tile.mode = .m →
      let e := (s.tile.rx a).toNat
      let area := s.tile.sporeArea.toNat
      let status (n : Nat) : State := s.retired { s.tile.setX d (BitVec.ofNat 64 n) with sporeStatus := BitVec.ofNat 8 n }
      (∀ v, s.tile.answer = some v → exec (.sysPark d a k) s = .next (s.retired { s.tile.setX d (BitVec.ofNat 64 v.toNat) with sporeStatus := v.setWidth 8 })) ∧
      (∀ n, s.tile.answer = none → s.parkPending s.tile.index = false → s.parkCheck e (decide (k = 1)) area = .error n → exec (.sysPark d a k) s = .next (status n)) ∧
      (∀ u set, s.tile.answer = none → s.parkPending s.tile.index = false → s.parkCheck e (decide (k = 1)) area = .ok (u, set) →
        ∃ t : State, exec (.sysPark d a k) s = .next t ∧ t.mem = s.mem ∧ ∀ i ∈ set, ∀ v, t.tileAt i = some v → v.parked = true) ∧
      (s.reviveStatus (s.endpointHere e) area ≠ 0 → exec (.sysRevive d a) s = .next (status (s.reviveStatus (s.endpointHere e) area))) ∧
      (∀ p u, s.reviveStatus (s.endpointHere e) area = 0 → s.endpointHere e = some u → s.spores.find? (fun p => decide (p.area = area) && p.out) = some p →
        let s' := s.revive p u
        s'.Quiet → exec (.sysRevive d a) s = .next (s'.retired { s'.tile.setX d 0 with sporeStatus := 0 })) ∧
      ((s.tile.rx a).toNat < 2 ^ 16 → ∃ t : State, exec (.sysHalt a) s = .next t ∧ t.tile = s.tile.retire ∧ t.mem = s.mem ∧
        ∀ g, g < 16 → (s.tile.rx a).getLsbD g = true → (s.tile.index / 512, g) ∈ t.firing)) ∧
    (s.tile.mode = .u → exec (.sysPark d a k) s = .next (s.takeTrap 2 (instrWord (.sysPark d a k))) ∧ exec (.sysRevive d a) s = .next (s.takeTrap 2 (instrWord (.sysRevive d a))) ∧
      exec (.sysHalt a) s = .next (s.takeTrap 2 (instrWord (.sysHalt a))))
/-- R195, R236, R237, R261, R262, R267, R373, R374, R412, R414, R415, R431, R434, R443, R449, R451, R454: the events of one tile. Lichen answers the five services with status and result; a write by
event to a CSR does what the CSR gives; a handler is activated; a wait past its limit takes cause 26, one on a translation cause 48, one on the page of a copy cause 29; a rollback returns to
its region's open; fault log entries are resent, acknowledged and collected; a fatal fault stops the tile; halt groups, those of linked dies with them, and the debug port stop, resume, step, read and write.
That Lichen's services are one step of the tile is the model's choice (log 31), and so is where the links of halt groups stand (log 78). -/
def Obligations.TileEventResults : Prop :=
  ∀ (s : State) (v : Word) (n : Nat) (u : Tile), s.tileAt n = some u →
    (s.Quiet →
      (s.service = some 0 → ∃ t : State, exec .svcInterfaceVersion s = .next t ∧ s.Served t 0 (some 0x00010000)) ∧
      (s.service = some 1 → ∃ t : State, exec .svcCycleCount s = .next t ∧ s.Served t 0 (some (s.mcycle s.tile))) ∧
      (s.service = some 2 → ∃ t w, exec .svcFreshRandom s = .next t ∧ s.Served t 0 (some w)) ∧
      (s.service = some 3 → ∃ t : State, exec .svcUserRecord s = .next t ∧ s.Served t 0 none ∧
        ∃ item, t.trust.pending = s.trust.pending ++ [item] ∧ item.domain = s.tile.mdomain ∧
          item.payload.take 4 = [10, 11, 12, 13].map fun r => (s.tile.rx r).toNat) ∧
      (s.service = some 4 →
        let v := s.tile.rx 10
        let allowed : Prop := s.tile.mdomain = 0 ∨ (s.descriptor s.tile.mdomain).any (·.inject) = true
        (¬ allowed → ∃ t : State, exec .svcErrorInjection s = .next t ∧ s.Served t 2 none ∧ t.armed = []) ∧
        (allowed → s.tile.rejectsInjection v = true → ∃ t : State, exec .svcErrorInjection s = .next t ∧ s.Served t 3 none ∧ t.armed = []) ∧
        (allowed → s.tile.rejectsInjection v = false → ∃ t : State, exec .svcErrorInjection s = .next t ∧ t.tile.rx 10 = 0 ∧ t.tile.mode = s.tile.mpp ∧
          t.tile.pc = ((s.tile.lichen.map (·.pc)).getD s.tile.mepc) + 4) ∧
        (∀ j, allowed → Injection.ofWord v = some j → j.target = 0 ∨ j.target = 5 ∨ j.target = 6 ∨ j.target = 7 ∨ j.target = 9 ∨ j.target = 10 →
          ∃ t : State, exec .svcErrorInjection s = .next t ∧ s.Served t 0 none ∧
            (j.target = 6 → t.armed = [⟨.cap s.tile.index j.reg, j.uncorrectable, true⟩]))) ∧
      (∀ w : Fin 3, exec (.loopCsrWrite w v) s = .next (s.csrWrite (0x806 + w.val) v)) ∧
      (∀ csr, exec (.csrRegisterWrite csr v) s = .next (if csrReserved csr.toNat v = true then s else s.csrStore csr.toNat v))) ∧
    (s.service = some 3 → s.armed = [] → s.tile.inRegion = true → s.tile.undoUsed + 8 ≤ s.tile.undoSize →
      ∃ t : State, exec .svcUserRecord s = .next t ∧ s.Served t 4 none ∧ t.trust = s.trust) ∧
    (exec (.mdomainWrite v) s = .next (if csrReserved 0x7C2 v = false ∧ s.domainFree = true then { s with tile := { s.tile with mdomain := v.setWidth 16 } } else s)) ∧
    (Injection.ofWord v = none → exec (.minjectWrite v) s = .next s) ∧
    (∀ unc off r, Injection.ofWord v = some ⟨6, unc, r, off⟩ → ∃ t : State, exec (.minjectWrite v) s = .next t ∧ t.tile = s.tile ∧
      t.armed = ⟨.cap s.tile.index r, unc, true⟩ :: s.armed.filter fun a => decide (a.item ≠ .cap s.tile.index r)) ∧
    (let i : Fin 16 := Fin.ofNat 16 v.toNat
     let e := s.tile.faultLog.get i
     (csrReserved 0x7C1 v = true → exec (.mfaultlogSelect v) s = .next s ∧ exec (.mfaultlogRelease v) s = .next s) ∧
     (csrReserved 0x7C1 v = false → ∃ t : State, exec (.mfaultlogSelect v) s = .next t ∧ t.csrRead 0x7C1 = e.wordAt (v.toNat / 16 % 4) ∧ t.tile.faultLog = s.tile.faultLog) ∧
     (csrReserved 0x7C1 v = false → ∃ t : State, exec (.mfaultlogRelease v) s = .next t ∧ (∀ j, j ≠ i → t.tile.faultLog.get j = s.tile.faultLog.get j) ∧
       t.tile.faultLog.get i = if i = 15 ∨ (e.cls ≠ 0 ∧ e.acked = true) then {} else if e.cls = 0 then e else { e with released := true })) ∧
    (∀ l q, s.tile.atBoundary = true → s.tile.dueLevel = some l → freshHead (s.tile.queues.get l) = some q → s.tile.gang = {} → s.tile.regions.get l = [] →
      (q.failed = [] → ∃ t : State, exec .handlerActivation s = .next t ∧ t.tile.level = l ∧ t.tile.retPc.get l = s.tile.unitPc ∧ t.tile.prev.get l = s.tile.level ∧
        t.tile.pc = BitVec.ofNat 64 (s.tile.dispatchOf q.msg.type).entry ∧ ({ s with tile := { s.tile with level := l } } : State).Received t false q) ∧
      (q.failed ≠ [] → ∃ t : State, exec .handlerActivation s = .next t ∧ (s.tile.freeEntry ≠ none → t.tile.mcause = 25 ∧ t.tile.mode = .m))) ∧
    (∀ w value info, s.tile.wait = some w → s.waitReport w.kind = some (value, info) → w.limit ≠ 0 → (∀ r, w.kind = .reclaim r → s.reclaimReady r = false ∧ ((s.tile.rc r).kind = .remote → s.peerDown (s.tile.rc r).location.toNat = false)) →
      s.mustCancel = none → s.tile.canTrap = true →
      (w.since + w.limit.toNat ≤ s.clock → exec .waitLimitExpired s = .next (({ s with tile := { s.tile with waitinfo := info } } : State).takeTrap 26 value)) ∧
      (s.clock < w.since + w.limit.toNat → exec .waitLimitExpired s = .next s) ∧
      (∀ r, w.kind = .lent r → value = BitVec.ofNat 64 (6 + 256 * r.val) ∧ info = 0)) ∧
    (∀ off since, s.tile.waitOffset = some (off, since) → since + 2500 * ((s.launchOf s.tile).map (·.record.faultwait)).getD 10000 ≤ s.clock →
      (s.tile.canTrap = true → s.tile.sending = none →
        (s.tile.wait.map Wait.kind ≠ some (.copy off) → exec .faultWaitExpired s = .next (s.takeTrap 48 (BitVec.ofNat 64 off))) ∧
        (s.tile.wait.map Wait.kind = some (.copy off) → exec .faultWaitExpired s = .next (s.takeTrap 29 (BitVec.ofNat 64 off)))) ∧
      (s.tile.canTrap = false → exec .faultWaitExpired s = .next s)) ∧
    (∀ k cause r, s.tile.rollbacks.find? (fun p => decide (p.1 = s.tile.level)) = some (s.tile.level, k, cause) → s.tile.jobs = [] → s.levels = [] → s.spores = [] → s.undoLost = false →
      s.tile.remotes = [] → s.tile.gang = {} → s.tile.failing = none → ((s.tile.regions.get s.tile.level).take (s.tile.depth + 1 - k)).getLast? = some r →
      ∃ t : State, exec .rollback s = .next t ∧ t.tile.pc = r.pc + 4 ∧ t.tile.kpre = none ∧ t.tile.level = s.tile.level ∧
        t.tile.rgncause = BitVec.ofNat 64 (cause % 512 + k % 8 * 512 + s.tile.level.val * 4096) ∧ (r.dest ≠ 0 → t.tile.rx r.dest = BitVec.ofNat 64 cause) ∧
        t.tile.openRegions = { r with saved := [], pinned := 0, slots := [] } :: (s.tile.regions.get s.tile.level).drop (s.tile.depth + 1 - k) ∧
        (∀ q w, r.saved = [.x q w] → s.tile.depth = k → q ≠ r.dest → q ≠ 0 → t.tile.rx q = w)) ∧
    (s.MakesTile (.faultLogResend n) n
      { u with logCopies := ((List.finRange 16).filter fun i => i.val < 15 && (u.faultLog.get i).cls = 1 && !(u.faultLog.get i).acked).map (·.val) }) ∧
    (∀ i : Fin 16, i ≠ 15 → (let e := u.faultLog.get i
      i.val ∈ u.logCopies → e.cls = 1 → e.acked = false → ∃ (t : State) (u' : Tile), exec (.faultLogAck n i.val) s = .next t ∧ t.tileAt n = some u' ∧ i.val ∉ u'.logCopies ∧
        u'.faultLog.get i = (if e.trap = true ∧ e.released = false then { e with acked := true } else {}) ∧
        ∀ k l, u.launch = some k → s.launchAt k = some l → l.summary.length < 4096 →
          ∃ l', t.launchAt k = some l' ∧ l'.summary = l.summary ++ [s.recordSummary u e 0])) ∧
    (∀ code ∈ [64, 67, 68], s.Numbered → u.hold ≠ .fatal → u.parked = false → u.gated = false → (u.faultLog.get 15).cls = 0 →
      (code = 64 → u.inRegion = false ∧ u.rollbacks = []) → (code = 67 → u.rollbackDue = true) → (code = 68 → u.mode = .m) →
      ∃ (t : State) (u' : Tile), exec (.fatalFault n code) s = .next t ∧ t.tileAt n = some u' ∧ u'.hold = .fatal ∧ (u'.faultLog.get 15).cls = 2 ∧ (u'.faultLog.get 15).code = code ∧
        u'.x = u.x ∧ u'.v = u.v ∧ u'.c = u.c ∧ u'.pc = u.pc ∧ t.mem = s.mem) ∧
    ((u.faultLog.get 15).cls = 2 → u.index = n → ∃ (t : State) (u' : Tile), exec (.fatalRecordCollect n) s = .next t ∧ t.tileAt n = some u' ∧ u'.faultLog = u.faultLog.set 15 {} ∧
      (∀ c ∈ t.clusters, c.index = n / 8 → c.fatal = true) ∧
      ∀ l d, s.launchOf u = some l → s.place l.number l.record.faultrank = some (s.device, d) →
        ∃ m, t.net = s.net ++ [m] ∧ m.type = 0xFE ∧ m.dest = .rank l.number l.record.faultrank ∧ m.sender = u.rank) ∧
    (∀ die group, (∀ k ∈ s.haltLinks, k.device = s.device) → ((die, group) ∈ s.firing → s.MakesTile (.haltGroupFire die group) n
        (if (u.index / 512 = die ∨ ∃ k ∈ s.haltLinks, k.die = die ∧ k.group = group ∧ k.other = u.index / 512) ∧ group < 16 ∧ u.mhaltgrp.getLsbD group = true ∧ u.parked = false then { u.stopClock s.clock with halted := true, debugStep := none } else u)) ∧
      ((die, group) ∉ s.firing → exec (.haltGroupFire die group) s = .next s)) ∧
    (s.debugServes u = true → u.parked = false →
      (u.halted = false → s.MakesTile (.debugHalt n) n { u.stopClock s.clock with halted := true, debugStep := none }) ∧
      (u.halted = true → s.MakesTile (.debugResume n) n ({ u with halted := false, debugStep := none }.startClock s.clock)) ∧
      (u.halted = true → s.MakesTile (.debugStepInstruction n) n { { u with halted := false }.startClock s.clock with debugStep := some true }) ∧
      (u.halted = true → s.MakesTile (.debugStepCycle n) n { { u with halted := false }.startClock s.clock with debugStep := some false })) ∧
    (s.debugServes u = true →
      (∀ l r, exec (.debugRead n (.x l r)) s = .next { s with station := u.rxBank l r :: s.station }) ∧ (exec (.debugRead n .pc) s = .next { s with station := u.pc :: s.station }) ∧
      (∀ off, off + 8 ≤ 0xC0000 → exec (.debugRead n (.tmem off)) s =
        .next { s with station := BitVec.ofNat 64 (leNat (s.mem.readN (tmemKey u.index off) 8)) :: s.station }) ∧
      (∀ l r, s.MakesTile (.debugWrite n (.x l r) v) n (u.setXBank l r v)) ∧ (s.MakesTile (.debugWrite n .pc v) n { u with pc := v &&& ~~~ 3 }) ∧
      (∀ off, off + 8 ≤ 0xC0000 → ∃ t : State, exec (.debugWrite n (.tmem off) v) s = .next t ∧ ∀ i < 8, t.mem.read (tmemKey u.index off + i) = v.extractLsb' (8 * i) 8)) ∧
    (s.debugServes u = false → ∀ item, scanOutside item = none → exec (.debugRead n item) s = .next s ∧ exec (.debugWrite n item v) s = .next s)

/-- R66, R71, R72, R82, R88, R91, R94, R110, R118, R119, R142, R152, R173, R194, R205, R210, R382, R422: the events of the network and the homes. A message enters its queue, one for a full queue waits; the Shunter
takes a message with caps, decides, copies a unit of 256 bytes at a time and hands the message over; an exchange message lands; the Siding releases in order; a full barrier round is released; a home serves stores, folds, controls and grants; a reply reaches
its tile, or the section 7 of a parked one.
When an event happens is the agenda's choice (log 1). -/
def Obligations.NetworkAndHomeEvents : Prop :=
  ∀ (s : State) (n i : Nat) (u : Tile),
    (∀ m l r, s.Enters n m i u → m.landing = none → m.dest = .rank l r → s.takesMsgs l = true → s.groupOut l r = false → s.homesAwake m = true →
      let lv := (u.dispatchOf m.type).level
      ((u.queues.get lv).length < 32 → ∃ t u' caps failed, exec (.messageArrival n) s = .next t ∧ t.net = s.net.filter (fun o => decide (o ≠ m)) ∧ t.tileAt i = some u' ∧
        u'.queues = u.queues.set lv.val (u.queues.get lv ++ [{ msg := { m with caps := caps }, failed := failed }]) ∧ u'.x = u.x ∧ u'.c = u.c ∧ u'.pc = u.pc ∧ t.mem = s.mem ∧
        (m.caps = [] → caps = [] ∧ failed = []) ∧
        ∀ c h e, m.caps = [c] → c.mode = .exclusive → s.homeOf c = some h → s.entry h c.buffer.toNat = some e → e.state = .inTransit → e.generation = c.generation →
          t.nowHas h c.buffer.toNat fun o => o.state = .exclusive ∧ o.owner = u.principal s.device) ∧
      (32 ≤ (u.queues.get lv).length → exec (.messageArrival n) s = .next s)) ∧
    (∀ m l r c, s.net[n]? = some m → m.landing = none → m.placed = false → s.behind m = false → m.dest = .rank l r → s.takesMsgs l = true → s.groupOut l r = false →
      (s.destTile m.dest).bind s.tileAt = some u → u.parked = false → u.gated = false → s.homesAwake m = true → s.clusterAt (clusterOf u.index) = some c → c.stopped = false →
      (c.transfers.length < 64 → ∃ t : State, exec (.messageArrival n) s = .next t ∧ t.net = s.net.filter (fun o => decide (o ≠ m)) ∧ t.tile = s.tile ∧ t.mem = s.mem ∧
        t.ClusterIs (clusterOf u.index) fun d => d.transfers = c.transfers ++ [{ msg := m }]) ∧
      (64 ≤ c.transfers.length → exec (.messageArrival n) s = .next s)) ∧
    (∀ k c x l r, s.clusterAt k = some c → c.stopped = false → c.transfers.find? (fun x => !x.decided) = some x → x.msg.dest = .rank l r → s.takesMsgs l = true →
      s.groupOut l r = false → (s.destTile x.msg.dest).bind s.tileAt = some u → u.parked = false → u.gated = false → s.homesAwake x.msg = true →
      ((∀ c ∈ x.msg.caps, (s.choicesFor x.msg c u).1.head? = some .rights) → x.msg.replay = false → ∃ t : State, exec (.shunterPlacement k) s = .next t ∧
        t.net = s.net ++ [{ x.msg with placed := true, places := x.msg.caps.map fun _ => 0 }] ∧ t.tile = s.tile ∧ t.mem = s.mem ∧
        t.ClusterIs k fun d => d.transfers = c.transfers.filter fun y => decide (y.msg ≠ x.msg)) ∧
      (∀ src c' s', x.msg.caps = [src] → x.msg.senderEp / 2 ^ 13 = s.device → (s.choicesFor x.msg src u).1.head? = some .tmem → (s.allocCopy u src true).isSome = true →
        (s.deliverCap src (clusterEndpoint s.device k 8)).allocCopy u src true = some (c', s') →
        ∃ t : State, exec (.shunterPlacement k) s = .next t ∧ t.net = s'.net ∧ t.mem = s'.mem ∧
          t.ClusterIs k fun d => { x with decided := true, places := [1], copies := [c'], turn := c.turn } ∈ d.transfers)) ∧
    (∀ k c x slot src dst hs hd, s.clusterAt k = some c → c.stopped = false → c.inFlight[n]? = some x → x.current = some (slot, src, dst) →
      x.msg.senderEp / 2 ^ 13 = s.device → (s.destTile x.msg.dest).bind s.tileAt = some u → u.gated = false → s.toParked x.msg = false → s.unitHere x = true → s.homeOf src = some hs → s.homeOf dst = some hd →
      s.armed = [] → s.poison = [] → s.unitTurn c = some x.msg.seq → (c.burst < 4 ∨ s.copyJobs k = []) →
      let a := hs.space.base + src.base.toNat
      let b := hd.space.base + dst.base.toNat
      let len := src.length.toNat
      let lo := 256 * x.units
      (a + len ≤ b ∨ b + len ≤ a) →
      ∃ t : State, exec (.transferCopy k n) s = .next t ∧ t.net = s.net ∧ (∀ j, lo ≤ j → j < min (lo + 256) len → t.mem.read (b + j) = s.mem.read (a + j)) ∧
        (∀ key, key < b + lo ∨ b + min (lo + 256) len ≤ key → t.mem.read key = s.mem.read key) ∧
        t.ClusterIs k fun d => ∃ y ∈ d.transfers, y.msg = x.msg ∧ (if len ≤ lo + 256 then y.slot = slot + 1 ∧ y.units = 0 else y.slot = slot ∧ y.units = x.units + 1)) ∧
    (∀ k c x src dst, s.clusterAt k = some c → c.stopped = false → c.inFlight[n]? = some x → x.msg.caps = [src] → x.copies = [dst] → 1 ≤ x.slot →
      x.msg.landing = none → x.msg.senderEp / 2 ^ 13 = s.device → s.destTile x.msg.dest = some i → s.tileAt i = some u → u.parked = false → u.gated = false →
      s.mustWait x.msg = false → s.toParked x.msg = false → s.homesAwake x.msg = true →
      let lv := (u.dispatchOf x.msg.type).level
      (32 ≤ (u.queues.get lv).length → exec (.transferCopy k n) s = .next s) ∧
      ((u.queues.get lv).length < 32 → ∃ t u' q, exec (.transferCopy k n) s = .next t ∧ t.net = s.net ∧ t.mem = s.mem ∧ t.tileAt i = some u' ∧
        u'.queues = u.queues.set lv.val (u.queues.get lv ++ [q]) ∧ q.msg.type = x.msg.type ∧ q.msg.payload = x.msg.payload ∧ q.msg.places = x.places ∧
        u'.x = u.x ∧ u'.c = u.c ∧ u'.pc = u.pc ∧ t.ClusterIs k fun d => ∀ y ∈ d.transfers, y.msg ≠ x.msg)) ∧
    (∀ m j bytes, s.Enters n m i u → s.Numbered → m.landing = some (j, bytes) → s.takesMsgs m.senderLaunch = true →
      (32 ≤ u.xqueue.length → ∃ t : State, exec (.exchangeArrival n) s = .next t ∧ t.tileAt i = some u ∧ t.net = s.net ∧ t.mem = s.mem) ∧
      (u.xqueue.length < 32 → u.phase.bind (·.landing) = none → ∃ (t : State) (u' : Tile), exec (.exchangeArrival n) s = .next t ∧ t.tileAt i = some u' ∧
        u'.xqueue = u.xqueue ++ [{ msg := m, landed := false }] ∧ t.net = s.net.filter (fun o => decide (o ≠ m)) ∧ t.mem = s.mem) ∧
      (∀ r e, u.xqueue.length < 32 → u.phase.bind (·.landing) = some r → m.landBad = [] → s.armed = [] → s.poison = [] →
        let c := u.rcBank 0 r
        s.homeOf c = some (.tile i) → s.entry (.tile i) c.buffer.toNat = some e → s.gone e = false → e.state = .exclusive → e.generation = c.generation → e.domain = c.domain →
        e.owner = u.principal s.device → e.depth = 0 → e.base ≤ c.base.toNat → c.base.toNat + c.length.toNat ≤ e.base + e.length → 256 * j + bytes.length ≤ c.length.toNat →
        ∃ (t : State) (u' : Tile), exec (.exchangeArrival n) s = .next t ∧ t.tileAt i = some u' ∧ u'.xqueue = u.xqueue ++ [{ msg := m }] ∧
          ∀ k b, bytes[k]? = some b → t.mem.read (tmemKey i (c.base.toNat + 256 * j + k)) = b)) ∧
    (s.Numbered → s.tileAt i = some u → u.parked = false →
      (u.releasePath = [] → ∃ t : State, exec (.sidingRelease i) s = .next t ∧ t.tileAt i = some u ∧ t.net = s.net ∧ t.mem = s.mem) ∧
      (∀ h rest m k, u.releasePath = h :: rest → h.kind = .msg m k → m.caps = [] → s.destDevice m.dest = some s.device → (s.switchTo i).heldBack m = false → ∃ (t : State) (u' : Tile), exec (.sidingRelease i) s = .next t ∧ t.tileAt i = some u' ∧
        u'.releasePath = rest ∧ u'.msgsent = u.msgsent + (if m.counted = true then 1 else 0) ∧ t.net = s.net ++ [{ m with seq := s.msgSeq }] ∧ u'.x = u.x ∧ t.mem = s.mem) ∧
      (∀ h rest d l g b, u.releasePath = h :: rest → h.kind = .arrive d l → u.binding l = some g → s.barrier (u.launch.getD 0) g.domain = some b →
        (∀ l ∈ s.launches, l.device = s.device) → ∃ (t : State) (u' : Tile), exec (.sidingRelease i) s = .next t ∧ t.tileAt i = some u' ∧ u'.releasePath = rest ∧
          u'.binding l = some { g with arrived := some b.round } ∧ ∃ b', t.barrier (u.launch.getD 0) g.domain = some b' ∧ b'.arrivals = b.arrivals + 1)) ∧
    (∀ l d b, s.barrier l d = some b →
      (b.members ≤ b.arrivals → ∃ t b', exec (.barrierRelease l d) s = .next t ∧ t.barrier l d = some b' ∧ b'.round = b.round + 1 ∧ b'.arrivals = 0 ∧
        b'.released = b.released ++ [(b.round, s.clock)] ∧ b'.bound = b.bound ∧ t.tile = s.tile ∧ t.mem = s.mem) ∧
      (b.arrivals < b.members → exec (.barrierRelease l d) s = .next s)) ∧
    (∀ r e bytes clean, s.Serves n r e → r.home.isDmem = false → r.kind = .store bytes [] clean → e.state = .exclusive → e.owner = r.principal → bytes ≠ [] →
      (∀ p ∈ bytes, p.1 < e.length) → (bytes.map (·.1)).Nodup →
      ∃ t : State, exec (.homeAccessRequest n) s = .next t ∧ s.Answers t r .done ∧ (∀ p ∈ bytes, t.mem.read (r.home.space.base + e.base + p.1) = p.2) ∧
        ∀ k, (∀ p ∈ bytes, r.home.space.base + e.base + p.1 ≠ k) → t.mem.read k = s.mem.read k) ∧
    (∀ r off b clean, s.requests[n]? = some r → s.laterOf r = false → r.ring = none → r.remote = none → s.asleep r.home = false → r.kind = .store [(off, b)] [] clean →
      s.entry r.home r.buffer = none → ∃ t : State, exec (.homeAccessRequest n) s = .next t ∧ s.Answers t r (.refused 1 off) ∧ t.mem = s.mem) ∧
    (∀ r e die off b clean x, s.Serves n r e → r.home = .die die → r.kind = .store [(off, b)] [] clean → e.state = .exclusive → e.owner = r.principal → off < e.length →
      let va := e.base + off
      s.waiting (sliceOf r.claim.die va) va = none → s.portFull (sliceOf r.claim.die va) r.claim.who = false → s.tlbHit (sliceOf r.claim.die va) va = some x →
      ∃ t : State, exec (.l2Request n) s = .next t ∧ s.Answers t r .done ∧ t.mem.read (hbmKey (x.pa + (va - x.va))) = b ∧
        ∀ k, k ≠ hbmKey (x.pa + (va - x.va)) → t.mem.read k = s.mem.read k) ∧
    (∀ r e v, s.Serves n r e → r.home.isDmem = false → r.kind = .merge v → e.state = .foldShared → e.foldOp = v.op → v.words.length * foldBytes v.op ≤ 256 →
      256 * v.line + 256 ≤ e.length → s.lineAddress v = none →
      let key (k : Nat) : Nat := r.home.space.base + e.base + 256 * v.line + foldBytes v.op * k
      ∃ t : State, exec (.foldLineMerge n) s = .next t ∧ s.Answers t r .done ∧
        (∀ k w, v.words[k]? = some (some w) → leNat (t.mem.readN (key k) (foldBytes v.op)) =
          (foldWord v.op (BitVec.ofNat 64 (leNat (s.mem.readN (key k) (foldBytes v.op)))) w).toNat % 2 ^ (8 * foldBytes v.op)) ∧
        (∀ k, v.words[k]? = some none → t.mem.readN (key k) (foldBytes v.op) = s.mem.readN (key k) (foldBytes v.op)) ∧
        ∀ a, a < key 0 ∨ key 0 + 256 ≤ a → t.mem.read a = s.mem.read a) ∧
    (∀ r e, s.controls[n]? = some r → r.operation = 6 → s.asleep r.home = false → s.peerEarlier r.device r.serial r.principal r.home = false → s.armed = [] →
      s.entry r.home r.buffer = some e → s.checkControl r.claim [.exclusive] true 3 = none → e.home = r.home → e.number = r.buffer →
      ∃ t : State, exec (.homeControlRequest n) s = .next t ∧ r ∉ t.controls ∧ t.nowHas r.home r.buffer (fun o => o.state = .execShared ∧ o.count = 1 ∧ o.owner = r.principal) ∧ t.mem = s.mem) ∧
    (∀ p, s.replies[n]? = some p → p.peer = false → s.tileAt p.tile = some u →
      (p.kind = .done → u.parked = false → ∃ t : State, exec (.homeReplyArrival n) s = .next t ∧ t.replies = s.replies.erase p ∧
        t.tileAt p.tile = some (u.countPacket 6 false) ∧ t.mem = s.mem) ∧
      (u.parked = true → s.sporeIsOut u = false → ∃ t : State, exec (.homeReplyArrival n) s = .next t ∧ t.replies = s.replies.erase p ∧
        t.tileAt p.tile = some { u with parkReplies := u.parkReplies ++ [p] } ∧ t.mem = s.mem) ∧
      (∀ c off j, p.kind = .refused c off → u.parked = false → u.freeEntry = some j → ∃ (t : State) (u' : Tile), exec (.homeReplyArrival n) s = .next t ∧ t.replies = s.replies.erase p ∧
        t.tileAt p.tile = some u' ∧ (u'.faultLog.get j).code = 65 ∧ (u'.faultLog.get j).cls = 1 ∧ (u'.faultLog.get j).place = BitVec.ofNat 64 off ∧ u'.x = u.x ∧ t.mem = s.mem)) ∧
    (∀ r line h e off, s.Numbered → s.tileAt i = some u → u.wait.map Wait.kind = some (.drain off) → u.parked = false → (s.switchTo i).Drained →
      let c := u.rc r
      c.depth ≠ 0 → c.rights.w = true → 256 * line < c.length.toNat → h.isDmem = false → (s.switchTo i).Owns c h e → (s.switchTo i).ownTmem c = false →
      e.base ≤ c.base.toNat → c.base.toNat + c.length.toNat ≤ e.base + e.length → u.granted h c line = false → s.poolFree h e.domain ≠ 0 →
      ∃ (t : State) (u' : Tile), exec (.snapshotGrantRequest i r line) s = .next t ∧ t.tileAt i = some u' ∧ u'.grants = ((⟨h, c.buffer.toNat, c.generation, line⟩ : Grant) :: u.grants).take 16 ∧
        u'.x = u.x ∧ u'.c = u.c ∧ t.mem = s.mem)

/-- R44, R122-R124, R171-R173, R178-R190, R435-R438: the events of paging and of the memory controllers. A walk fills the TLB or its page is waited on; first touch installs a frame of the pool; a fault message is
received by its Station core and answered by retry or deny; an invalidate drops TLB entries; pools are refilled with zeroed frames; a page moves to a frame, to host memory and back, with
its bytes; a controller reads and writes eight bytes of a frame that backs no buffer, or faults past the last frame; a scrub detects every armed error of its array.
The form of a controller's request is the model's choice (log 66), and so is where a page table lies (log 23). -/
def Obligations.PagingAndMemoryEvents : Prop :=
  ∀ (s : State) (n va frame : Nat) (v : Word), s.NoHeld →
    (∀ r e die off len access op, s.requests[n]? = some r → r.home = .die die → s.entry r.home r.buffer = some e → s.paging.walks = [] → s.armed = [] →
      r.kind.span = some (off, len, access, op) →
      let at₁ := e.base + off
      let a := r.claim.asker access
      let slice := sliceOf a.die at₁
      let s₁ := s.sliceCheck r.claim at₁
      s₁.checkAccess r.claim e.base off len access op = none → (access = 0 → s.l2Hit a at₁ = false) → s.waiting slice at₁ = none → s.tlbHit slice at₁ = none →
      let fills (page size f : Nat) : Prop := ∃ t : State, exec (.pageWalk n) s = .next t ∧ t.paging.tlb.head? = some ⟨slice, page, size, f⟩ ∧
        t.paging.waits = s.paging.waits ∧ t.requests = s.requests ∧ t.mem = s.mem
      let waits (page span : Nat) (reason : Option Nat) : Prop := s.waitRoom slice = true → (s.paging.waits.filter fun o => decide (o.slice = slice)).length < 16 →
        (s.paging.waits.any fun o => decide (o.slice = slice) && decide (o.page = page)) = false → ∃ t w, exec (.pageWalk n) s = .next t ∧ w ∈ t.paging.waits ∧
        w.slice = slice ∧ w.page = page ∧ w.span = span ∧ w.reason = reason ∧ t.paging.tlb = s.paging.tlb ∧ t.requests = s.requests ∧ t.mem = s.mem
      (∀ page size f at' pte, s.walk at₁ = .leaf page size f at' pte →
        (pte / 2 ^ 8 % 2 = 0 → fills page size f) ∧
        (pte / 2 ^ 8 % 2 = 1 →
          (s.paging.seconds = [] → ∃ t : State, exec (.pageWalk n) s = .next t ∧ t.paging.seconds = [(slice, at', pte)] ∧ t.paging.tlb = s.paging.tlb ∧
            t.paging.waits = s.paging.waits ∧ t.mem = s.mem) ∧
          (s.paging.seconds = [(slice, at', pte)] → fills page size f) ∧
          (∀ x, x ≠ pte → s.paging.seconds = [(slice, at', x)] → waits page (pageSize size) (some 4)))) ∧
      (∀ reason page span at' pte, s.walk at₁ = .bad reason page span at' pte → waits page span (some reason))) ∧
    (∀ die page size at' pte, s.walk va = .touch page size at' pte →
      (∀ p, s.paging.pools.find? (fun p => decide (p.1 = die) && decide (p.2.1 = size) && s.frameClean p.2.2 (pageSize size)) = some p →
        ∃ t : State, exec (.firstTouchService die va) s = .next t ∧ t.RunIs size at' (pte / 2 ^ 48 * 2 ^ 48 + p.2.2 + (pte % 2 ^ 12 - 64) + 1) ∧ t.paging.pools = s.paging.pools.erase p ∧ t.tile = s.tile) ∧
      (s.paging.pools.find? (fun p => decide (p.1 = die) && decide (p.2.1 = size) && s.frameClean p.2.2 (pageSize size)) = none → exec (.firstTouchService die va) s = .next s)) ∧
    (∀ w, s.paging.waits[n]? = some w →
      (∀ reason, w.received = false → w.reason = some reason → ∃ t : State, exec (.faultMessage n) s = .next t ∧
        t.stationFaults = s.stationFaults ++ [(w.va / 2 ^ 23 % 2 * 4 + w.va / 2 ^ 21 % 4, [BitVec.ofNat 64 (w.va + reason * 2 ^ 48 + w.access * 2 ^ 52),
          BitVec.ofNat 64 (w.slice + w.principal * 2 ^ 32), BitVec.ofNat 64 (w.buffer + w.generation.toNat * 2 ^ 24 + w.domain.toNat * 2 ^ 40), w.entry])] ∧ { w with received := true } ∈ t.paging.waits ∧ t.tile = s.tile ∧ t.mem = s.mem) ∧
      (w.reason = none → exec (.faultMessage n) s = .next s) ∧
      (w.received = true → exec (.faultAnswerRetry n) s = .next { s with paging := { s.paging with waits := s.paging.waits.erase w } }) ∧
      (w.received = true → s.requests = [] → s.controls = [] → (∀ u ∈ s.allTiles, u.jobs = []) → ∃ t : State, exec (.faultAnswerDeny n) s = .next t ∧ t.paging.waits = s.paging.waits.erase w ∧
        (∀ i u, s.tileAt i = some u → t.tileAt i = some (if w.who.contains (.tile u.index u.unitKey) = true then
          { u with wait := u.wait.map fun o => if o.kind.faultWait then { o with denied := true } else o } else u)) ∧ t.mem = s.mem)) ∧
    (∀ span dropL2, va % 4096 = 0 → span % 4096 = 0 → ∃ t : State, exec (.translationInvalidate va span dropL2) s = .next t ∧ t.TlbClear va span ∧
      (∀ x ∈ s.paging.tlb, (x.va + pageSize x.size ≤ va ∨ va + span ≤ x.va) → x ∈ t.paging.tlb) ∧
      (∀ w ∈ t.paging.waits, w.page + w.span ≤ va ∨ va + span ≤ w.page) ∧ (dropL2 = false → t.paging.l2 = s.paging.l2) ∧
      (dropL2 = true → ∀ l ∈ t.paging.l2, l.line * 256 + 256 ≤ va ∨ va + span ≤ l.line * 256) ∧ t.tile = s.tile ∧ t.mem = s.mem) ∧
    (∀ die size, die < 4 → size ≤ 11 → s.frameFree frame (pageSize size) = true → ∃ t : State, exec (.firstTouchPoolRefill die size frame) s = .next t ∧
      t.paging.pools = s.paging.pools ++ [(die, size, frame)] ∧ (∀ i < pageSize size, t.mem.read (hbmKey frame + i) = 0) ∧
      ∀ k, k < hbmKey frame ∨ hbmKey frame + pageSize size ≤ k → t.mem.read k = s.mem.read k) ∧
    (exec (.withheldFrameRelease n) s = .next { s with withheld := s.withheld.filter fun w => decide (w ≠ n) }) ∧
    (∀ page size old at' pte, inWindow va = false → s.walk va = .leaf page size old at' pte → RunApart size at' old →
      (s.frameFree frame (pageSize size) = true → RunApart size at' frame → ∃ t : State, exec (.pageMigration va frame) s = .next t ∧
        t.RunIs size at' (pte + 2 ^ 10) ∧ (∀ i < pageSize size, t.mem.read (hbmKey frame + i) = s.mem.read (hbmKey old + i)) ∧ t.TlbClear page (pageSize size) ∧
        t.paging.moving = s.paging.moving ++ [(page, size, frame)]) ∧
      (∀ host, host % 4096 = 0 → host < 2 ^ 48 → s.paging.root < 2 ^ 39 → ∃ t : State, exec (.pageOutToHost va host) s = .next t ∧ t.RunIs size at' (pte + 2 ^ 10) ∧ t.TlbClear page (pageSize size) ∧
        t.paging.moving = s.paging.moving ++ [(page, size, 2 ^ 48 + host)] ∧
        (s.sealed (s.pageDomain page (pageSize size)) = false → ∀ i < pageSize size, t.mem.read (Space.host.base + host + i) = s.mem.read (hbmKey old + i)))) ∧
    (∀ page size at' pte, inWindow va = false → s.walk va = .hold page size at' pte →
      ((page, size, frame) ∈ s.paging.moving → ∃ t : State, exec (.pageMigration va frame) s = .next t ∧
        t.RunIs size at' (3 + 4 * size + pteKept pte + frame + pteVersion pte * 2 ^ 48) ∧ t.paging.moving = s.paging.moving.erase (page, size, frame) ∧ t.TlbClear page (pageSize size)) ∧
      (∀ host, host % 4096 = 0 → host < 2 ^ 48 → (page, size, 2 ^ 48 + host) ∈ s.paging.moving → ∃ t : State, exec (.pageOutToHost va host) s = .next t ∧
        t.RunIs size at' (2 + 4 * size + 2 ^ 7 + pteKept pte + host + (pteVersion pte + 1) % 2 ^ 16 * 2 ^ 48) ∧ t.paging.moving = s.paging.moving.erase (page, size, 2 ^ 48 + host))) ∧
    (∀ page span at' pte, s.walk va = .bad 1 page span at' pte → s.frameFree frame (pageSize (pteSize pte)) = true → RunApart (pteSize pte) at' frame →
      let size := pteSize pte
      let d := s.pageDomain page (pageSize size)
      ∃ t : State, exec (.pageInFromHost va frame) s = .next t ∧ t.RunIs size at' (3 + 4 * size + pteKept pte + frame + pteVersion pte * 2 ^ 48) ∧
        (s.sealed d = false → ∀ i < pageSize size, t.mem.read (hbmKey frame + i) = s.mem.read (Space.host.base + pteHost pte + i)) ∧
        (∀ w ∈ t.paging.waits, w.page + w.span ≤ page ∨ page + pageSize size ≤ w.page) ∧
        (s.hostPasses d page (pageSize size) (pteHost pte) (pteVersion pte) = false → ∃ x ∈ t.trust.pending, x.domain = d ∧ x.payload = [2, page])) ∧
    (∀ pa, let a := pa / 8 * 8
      (2 ^ 39 ≤ pa → ∀ w, exec (.hbm4Request pa w v) s = .fault (.noSuchAddress pa)) ∧
      (pa < 2 ^ 39 → (s.bufferOfFrame pa).isSome = true → ∀ w, exec (.hbm4Request pa w v) s = .next s) ∧
      (pa < 2 ^ 39 → (∀ i < 8, s.bufferOfFrame (a + i) = none) → s.armed = [] →
        (s.poisoned (hbmKey a / 64) = false → ∃ t : State, exec (.hbm4Request pa true v) s = .next t ∧ (∀ i < 8, t.mem.read (hbmKey a + i) = v.extractLsb' (8 * i) 8) ∧
          (∀ k, k < hbmKey a ∨ hbmKey a + 8 ≤ k → t.mem.read k = s.mem.read k) ∧ t = { s with mem := t.mem }) ∧
        exec (.hbm4Request pa false v) s = .next { s with
          station := BitVec.ofNat 64 (leNat (s.mem.readN (hbmKey a) 8)) :: (if s.poisoned (hbmKey a / 64) then 1 else 0) :: s.station })) ∧
    (let inStack (k : Nat) : Prop := hbmKey 0 ≤ k * 64 ∧ k * 64 < hbmKey (2 ^ 39) ∧ (k * 64 - hbmKey 0) / 256 % 8 = n
     let inBank (cmem : Bool) (k : Nat) : Prop := let h := if cmem then HomeId.cluster n else .tile n
       h.space.base ≤ k * 64 ∧ k * 64 < h.space.base + (if cmem then Config.cmemSize else Config.tmemSize)
     let scrubbed (t : State) (mine : Nat → Prop) : Prop := (∀ a ∈ t.armed, ∀ k, a.item = .sector k → ¬ mine k) ∧ t.mem = s.mem ∧ t.tile = s.tile ∧
       ∀ a ∈ s.armed, ∀ k, a.item = .sector k → mine k → a.uncorrectable = true → (∀ b ∈ s.armed, b.item = .sector k → b = a) → k ∈ t.poison.map PoisonMark.sector
     (∃ t : State, exec (.scrubHbm4 n) s = .next t ∧ scrubbed t inStack) ∧ ∀ cmem, ∃ t : State, exec (.scrubSram cmem n) s = .next t ∧ scrubbed t (inBank cmem))

/-- R105, R214, R282, R337, R341, R351-R354, R358, R359, R361-R364, R448: the events of the engines, of jobs and of audits. A step is granted to the only runnable rank, with its slots, and retires with the sums in
the accumulator; accumulator jobs and copies move their bytes; a job ends with its status and its caps back; segments are signed, replayed and judged; a
quarantined cluster is released; two equal sweeps end a launch.
When an event happens is the agenda's choice (log 1). -/
def Obligations.EngineAndAuditEvents : Prop :=
  ∀ (s : State) (n i k : Nat) (j : Job), s.armed = [] →
    (∀ c w r acc fp64 steps az ca cb ga gb ia ga' ib gb', s.clusterAt k = some c → c.stopped = false → c.engine.busy = 0 → c.engine.debt = [] → s.segments = [] → r < 8 →
      s.runnableAt k r = some j → (∀ v, v ≠ r → s.runnableAt k v = none) → (∀ u ∈ s.tilesOf k, ∀ o, u.headJob = some o → o = j) → j.cluster = k → j.audited = false →
      s.tileAt j.tile = some w → j ∈ w.jobs → j.ended = false → j.kind = .mma acc fp64 steps az ca cb → ca.buffer ≠ cb.buffer →
      s.ring k ca.buffer.toNat = some ga → s.ring k cb.buffer.toNat = some gb →
      ga.receive .popped j.region.isSome = some (ia, ga') → gb.receive .popped j.region.isSome = some (ib, gb') →
      let slots := stepSlots (Descr.ofBits ca.format).width
      ∃ t c', exec (.stepGrant k) s = .next t ∧ t.clusterAt k = some c' ∧ c'.engine.busy = slots ∧ c'.engine.counter = c.engine.counter + slots ∧
        t.ring k ca.buffer.toNat = some ga' ∧ t.ring k cb.buffer.toNat = some gb' ∧
        t.JobIs j.tile j.number fun o => o.granted = true ∧ o.status = .running ∧ o.popped = [(k, ca.buffer.toNat, ia), (k, cb.buffer.toNat, ib)]) ∧
    (∀ c, s.clusterAt k = some c →
      let advances (b : Bool) : Prop := ∃ t : State, exec (.slotCounterAdvance k) s = .next t ∧ t.tile = s.tile ∧ t.mem = s.mem ∧
        t.clusterAt k = some (if b then { c with engine := { c.engine with counter := c.engine.counter + 1 } } else c)
      (c.engine.busy ≠ 0 ∨ c.stopped = true → advances false) ∧
      (c.engine.busy = 0 → c.stopped = false → s.segments = [] → (∀ u ∈ s.tilesOf k, u.headJob = none) → advances true)) ∧
    (∀ c w acc fp64 steps az ca cb a b, s.clusterAt k = some c → c.stopped = false → c.engine.busy ≠ 0 → s.poison = [] →
      (s.tilesOf k).findSome? (fun u => u.jobs.find? (·.granted)) = some j → s.tileAt j.tile = some w → j ∈ w.jobs → j.ended = false →
      j.kind = .mma acc fp64 steps az ca cb → j.popped = [a, b] →
      let fa := Descr.ofBits ca.format
      let slot (p : Nat × Nat × Nat) : List Byte := s.mem.readN (s.slotKey p.1 p.2.1 p.2.2) 4352
      let sums := stepElems fa (Descr.ofBits cb.format) (slot a) (slot b) ((List.range 4096).map fun x => s.accElem j.cluster acc fp64 x)
      ∃ t c', exec (.stepRetire k) s = .next t ∧ t.clusterAt k = some c' ∧ c'.engine.busy = 0 ∧
        (∀ x < 4096, t.accElem j.cluster acc fp64 x = sums.getD x 0 % (if fp64 then 2 ^ 64 else 2 ^ 32)) ∧
        (∀ key, key < accKey j.cluster acc ∨ accKey j.cluster (acc + (if fp64 then 2 else 1)) ≤ key → t.mem.read key = s.mem.read key) ∧
        t.JobIs j.tile j.number fun o => o.granted = false ∧ o.steps = j.steps + 1 ∧ o.popped = [] ∧ (j.steps + 1 < steps → o.outcome = j.outcome)) ∧
    (∀ u, s.HasJob i j → s.tileAt i = some u → u.headJob = some j → s.accFree j = true →
      (∀ acc, j.kind = .zero acc → ∃ t : State, exec (.accumulatorJobRun i) s = .next t ∧ (∀ b < 16384, t.mem.read (accKey j.cluster acc + b) = 0) ∧
        (∀ key, key < accKey j.cluster acc ∨ accKey j.cluster acc + 16384 ≤ key → t.mem.read key = s.mem.read key) ∧ t.JobIs i j.number fun o => o.outcome = some .done) ∧
      (∀ acc fp64 c off, j.kind = .load acc fp64 c off → c.kind = .host → c.location.toNat = s.device → let w := if fp64 then 8 else 4
        ∃ t : State, exec (.accumulatorJobRun i) s = .next t ∧ (∀ x < 4096, t.accElem j.cluster acc fp64 x = leNat (s.mem.readN (Space.host.base + c.base.toNat + off + w * x) w)) ∧
          t.JobIs i j.number fun o => o.outcome = some .done) ∧
      (∀ acc c off mode seed, j.kind = .out acc false c off mode seed → j.rows = 0 → c.kind = .host → c.location.toNat = s.device → (Descr.ofBits c.format).blockSize = 0 → (Descr.ofBits c.format).layout = 0 → mode.toNat % 8 ≠ 5 →
        let f := Descr.ofBits c.format
        let row (r : Nat) : List (Machine.Num × Nat) := (List.range 64).map fun q => (fp32.value (s.accElem j.cluster acc false (64 * r + q)), 0)
        ∃ t : State, exec (.accumulatorJobRun i) s = .next t ∧ (∀ r < 64, t.mem.readN (Space.host.base + c.base.toNat + off + 8 * f.width * r) (8 * f.width) =
          (outRow f (mode.toNat % 8) (mode.getLsbD 3) (row r)).1) ∧ t.JobIs i j.number fun o => o.outcome = some .done)) ∧
    (∀ dst src len c, s.HasJob i j → s.clusterAt j.cluster = some c → s.jobTurn c j = true → j.kind = .copy dst src len →
      dst.kind = .host → src.kind = .host → dst.location.toNat = s.device → src.location.toNat = s.device → 256 * j.steps < len →
      let off := 256 * j.steps
      let m := min 256 (len - off)
      ∃ t : State, exec (.shunterCopyJob i j.number) s = .next t ∧
        (∀ b < m, t.mem.read (Space.host.base + dst.base.toNat + off + b) = s.mem.read (Space.host.base + src.base.toNat + off + b)) ∧
        t.JobIs i j.number fun o => o.steps = j.steps + 1 ∧ o.status = .running ∧ o.outcome = if off + m ≥ len then some .done else none) ∧
    (∀ u st, j.tile = i → s.tileAt i = some u → u.liveJob j.number = some j → u.parked = false → s.stoppedAt j.cluster = false → j.granted = false → j.outcome = some st → (st = .done → j.audited = true → s.awaitsVerdict j = false) →
      j.marked = [] → (∀ l ∈ j.lent, ∀ o ∈ u.jobs, o.ended = false → l ∈ o.lent → o.number = j.number) →
      ∃ (t : State) (u' : Tile), exec (.jobEnd i j.number) s = .next t ∧ t.tileAt i = some u' ∧ (∃ o ∈ u'.jobs, o.number = j.number ∧ o.ended = true ∧ o.status = st ∧ o.pending = st.isError) ∧
        (∀ l ∈ j.lent, (u'.rcBank l.1 l.2).lent = false) ∧ u'.x = u.x ∧ t.mem = s.mem) ∧
    (∀ g, s.segments.find? (fun g => decide (g.tile = i) && g.sign.isNone) = some g → s.segmentJob g = some j → s.stoppedAt g.cluster = false → j.granted = false → (g.full = true ∨ j.outcome ≠ none) →
      ∃ t : State, exec (.auditSegmentSign i) s = .next t ∧ t.mem = s.mem ∧
        { g with sign := some (crc64 0 (elemBytes g.fp64 ((List.range 4096).map fun x => s.accElem g.cluster g.acc g.fp64 x))) } ∈ t.segments) ∧
    (∀ g x, s.segments[n]? = some g → s.segmentJob g = some j → s.stoppedAt g.cluster = false → g.sign = some x →
      (∀ c cs, g.replays = [] → g.replaying = none → s.replayers g = c :: cs → ∃ t : State, exec (.auditReplay n) s = .next t ∧ { g with replaying := some (c, g.steps.length) } ∈ t.segments ∧ t.mem = s.mem) ∧
      (∀ c, g.replays = [] → g.replaying = some (c, 0) → ∃ t : State, exec (.auditReplay n) s = .next t ∧ { g with replaying := none, replays := [(c, g.replaySign)] } ∈ t.segments ∧ t.mem = s.mem) ∧
      (g.replays = [] → g.replaying = none → s.replayers g = [] → ∃ t : State, exec (.auditReplay n) s = .next t ∧ g ∉ t.segments ∧
        ∀ u l m, s.tileAt g.tile = some u → u.launch = some m → s.launchAt m = some l → ∃ l', t.launchAt m = some l' ∧ l'.unaudited = l.unaudited + 1) ∧
      (∀ c, g.replays = [(c, x)] → ∃ t : State, exec (.auditVerdict n) s = .next t ∧ g ∉ t.segments ∧ t.mem = s.mem ∧ t.tile = s.tile ∧
        ∀ u l m, s.tileAt g.tile = some u → u.launch = some m → s.launchAt m = some l → ∃ l', t.launchAt m = some l' ∧ l'.audited = l.audited + 1) ∧
      (∀ c y, g.replays = [(c, y)] → y ≠ x → s.replayers g = [] → g.replaying = none → g.injected = false → j.region = none → j.tile = g.tile → g.fp64 = false → g.acc < 32 →
        ∃ t : State, exec (.auditVerdict n) s = .next t ∧ g ∉ t.segments ∧ t.JobIs g.tile j.number (fun o => o.outcome = some .auditMismatch) ∧
          (∀ e, s.clusterAt g.cluster = some e → (t.masks g.cluster g.acc).1 = BitVec.allOnes 64) ∧
          ∀ e, c ≠ g.cluster → s.clusterAt c = some e → ∃ e', t.clusterAt c = some e' ∧ e'.engine.suspects = e.engine.suspects + 1 ∧ (e.engine.probation ≠ none → e'.quarantined = true))) ∧
    (∀ c, s.clusterAt k = some c → ∃ t : State, exec (.quarantineRelease k) s = .next t ∧ t.tile = s.tile ∧ t.mem = s.mem ∧
      t.clusterAt k = some { c with quarantined := false, fatal := false, engine := { c.engine with probation := none } }) ∧
    (∀ l, s.launchAt n = some l → l.state = .running → l.device = s.device → s.peersOf l = [] →
      (∀ m, s.sweepOf l = (true, m, m) → l.sweep = some (true, m, m) → ∃ (t : State) (l' : Launch), exec (.terminationSweep n) s = .next t ∧ t.launchAt n = some l' ∧ l'.state = .ending ∧ t.mem = s.mem) ∧
      (l.sweep ≠ some (s.sweepOf l) → ∃ (t : State) (l' : Launch), exec (.terminationSweep n) s = .next t ∧ t.launchAt n = some l' ∧ l'.state = .running ∧ l'.sweep = some (s.sweepOf l) ∧ t.tile = s.tile ∧ t.mem = s.mem) ∧
      ((s.sweepOf l).1 = false → ∃ (t : State) (l' : Launch), exec (.terminationSweep n) s = .next t ∧ t.launchAt n = some l' ∧ l'.state = .running))

/-- R338, R445, R472-R490: the events of the fabric. Replies complete asks and remote stores; summaries are asked and answered; a timeout sends again and then marks
the peer unreachable; a packet that arrives is a reply, a request, a message, discarded, returned, forwarded or recorded; acknowledged packets are let go; ports go down and
train; the table is loaded; a failed die ends its launches.
The kinds of SYS traffic and the codes of CTRL traffic are the model's choice (log 24). -/
def Obligations.FabricEvents : Prop :=
  ∀ (s : State) (n i d tag : Nat) (u : Tile), s.tileAt i = some u →
    (∀ p, (s.replies.filter (fun p => p.peer && decide (p.tile = i)))[n]? = some p → u.parked = false →
      (∀ a, a ∈ u.asks → a.serial % 2 ^ 24 = p.serial → p.kind = .done → ∃ (t : State) (u' : Tile), exec (.remoteAckArrival i n) s = .next t ∧ t.tileAt i = some u' ∧ { a with done := true } ∈ u'.asks ∧
        t.replies = s.replies.erase p ∧ u'.x = u.x ∧ t.mem = s.mem) ∧
      (∀ m, (∀ a ∈ u.asks ++ u.jobs.flatMap (·.asks), a.serial % 2 ^ 24 ≠ p.serial) → u.remotes.find? (fun m => decide (m.serial % 2 ^ 24 = p.serial)) = some m →
        (p.kind = .done → ∃ t : State, exec (.remoteAckArrival i n) s = .next t ∧ t.tileAt i = some (({ u with remotes := u.remotes.erase m } : Tile).countPacket 6 false) ∧ t.replies = s.replies.erase p ∧ t.mem = s.mem) ∧
        (∀ c off, p.kind = .refused c off → m.control = [] → m.tag < 4 → ∃ (t : State) (u' : Tile), exec (.remoteAckArrival i n) s = .next t ∧ t.tileAt i = some u' ∧ u'.remotes = u.remotes.erase m ∧
          (∀ k ∈ m.numbers, k < 64 → ((u'.batches.get (Fin.ofNat 4 m.tag)).summary.getLsbD k = true)) ∧ t.mem = s.mem))) ∧
    (∀ source, s.CanSend (deviceOf source) → s.sealed 0 = false → let mine (p : Nat × Nat × BitVec 64) : Bool := p.1 = source && p.2.1 = tag
      ∃ t : State, exec (.summaryRequest source tag) s = .next t ∧ t.fabric.refusals = s.fabric.refusals.filter (fun p => !mine p) ∧ t.tile = s.tile ∧ t.mem = s.mem ∧
        t.JustSent fun x => x.op = 7 ∧ x.destination = source ∧ x.btag = tag ∧ x.words = [((s.fabric.refusals.find? mine).map (·.2.2)).getD 0]) ∧
    (∀ mask, d ∈ (u.batches.get (Fin.ofNat 4 tag)).peers → let b := u.batches.get (Fin.ofNat 4 tag)
      ∃ (t : State) (u' : Tile), exec (.sumreplyArrival i d tag mask) s = .next t ∧ t.tileAt i = some u' ∧
        u'.batches.get (Fin.ofNat 4 tag) = { b with summary := b.summary ||| mask, peers := b.peers.filter (fun x => decide (x ≠ d)) } ∧ u'.x = u.x ∧ t.mem = s.mem) ∧
    (∀ a, s.Numbered → (u.asks.filter (fun a => !a.done))[n]? = some a →
      (a.resent = 7 → ∃ t : State, exec (.replyTimeout i n) s = .next t ∧ a.device ∈ t.fabric.unreachable ∧ t.mem = s.mem) ∧
      (a.resent < 7 → s.CanSend a.device → ∃ (t : State) (u' : Tile), exec (.replyTimeout i n) s = .next t ∧ t.tileAt i = some u' ∧ { a with resent := a.resent + 1 } ∈ u'.asks ∧ t.mem = s.mem ∧
        t.JustSent fun x => x.op = a.op ∧ x.serial = a.serial % 2 ^ 24 ∧ x.buffer = a.buffer ∧ x.generation = a.generation ∧ x.words = a.args)) ∧
    (∀ m, s.Numbered → let open' := ((u.asks ++ u.jobs.flatMap (·.asks)).filter fun a => !a.done).length
      open' ≤ n → u.remotes[n - open']? = some m →
      (m.resent = 7 → ∃ (t : State) (u' : Tile), exec (.replyTimeout i n) s = .next t ∧ m.device ∈ t.fabric.unreachable ∧ t.tileAt i = some u' ∧ (u.remotes.Nodup → m ∉ u'.remotes) ∧ t.mem = s.mem) ∧
      (m.resent < 7 → m.control = [] → s.CanSend m.device → ∃ (t : State) (u' : Tile), exec (.replyTimeout i n) s = .next t ∧ t.tileAt i = some u' ∧ { m with resent := m.resent + 1 } ∈ u'.remotes ∧ t.mem = s.mem ∧
        t.JustSent fun x => x.serial = m.serial % 2 ^ 24 ∧ x.words = m.words ∧ x.btag = m.tag)) ∧
    (∀ p, s.NextPacket n p →
      (∀ j, p.op = 6 → p.opfield = 0 → p.words = [] → endpointTile p.destination = some j → endpointValid p.destination = true → ∃ t : State, exec (.junctionPacket n) s = .next t ∧ t.fabric.inbox = s.fabric.inbox.eraseIdx n ∧ t.mem = s.mem ∧
        ∃ r : Reply, t.replies = s.replies ++ [r] ∧ r.serial = p.serial ∧ r.peer = true ∧ r.kind = .done ∧ r.tile = s.relocateTile p.domain j) ∧
      (p.op = 1 → endpointValid p.destination = true → endpointTile p.destination = none → endpointClusterHome p.destination = none → (p.source, p.serial) ∉ s.fabric.passed → ∃ t : State, exec (.junctionPacket n) s = .next t ∧ t.fabric.inbox = s.fabric.inbox.eraseIdx n ∧ t.mem = s.mem ∧
        ∃ r : Request, t.requests = s.requests ++ [r] ∧ r.kind = .load p.offset p.bytes ∧ r.home = .die (p.buffer % 4) ∧ r.buffer = p.buffer ∧ r.generation = p.generation ∧
          r.principal = p.source ∧ r.remote = some (deviceOf p.source, p.serial)) ∧
      (p.op = 1 → endpointValid p.destination = true → (p.source, p.serial) ∈ s.fabric.passed → ∃ t : State, exec (.junctionPacket n) s = .next t ∧ t.requests = s.requests ∧ t.mem = s.mem) ∧
      (∀ m, p.op = 0 → p.msg = some m → ∃ (t : State) (m' : Msg), exec (.junctionPacket n) s = .next t ∧ t.net = s.net ++ [m'] ∧ m'.type = m.type ∧ m'.payload = m.payload ∧ m'.caps = [] ∧ m'.sender = m.sender ∧
        t.fabric.recvSeq.head? = some (deviceOf p.source, p.serial + 1) ∧ t.mem = s.mem) ∧
      (p.op ≠ 0 → endpointValid p.destination = false → deviceOf p.source ≠ s.device → s.CanSend (deviceOf p.source) → ∃ t : State, exec (.junctionPacket n) s = .next t ∧
        t.fabric.inbox = s.fabric.inbox.eraseIdx n ∧ t.requests = s.requests ∧ t.controls = s.controls ∧ t.replies = s.replies ∧ t.mem = s.mem ∧
        ∃ x ∈ t.fabric.sent, ∃ m, x.msg = some m ∧ m.type = 0xFD ∧ m.dest = .endpoint p.source ∧ m.payload = [BitVec.ofNat 64 (p.destination % 2 ^ 30 + 2 ^ 32)])) ∧
    (∀ p, s.fabric.inbox[n]? = some p → (∀ o ∈ s.fabric.inbox.take n, deviceOf o.source ≠ deviceOf p.source) →
      let rest : Fabric := { s.fabric with inbox := s.fabric.inbox.eraseIdx n }
      (p.op < 16 → p.malformed = true → exec (.junctionPacket n) s = .next { s with fabric := { rest with discards := s.fabric.discards + 1 } }) ∧
      (p.malformed = false → deviceOf p.destination ≠ s.device → p.via = none → s.fabric.route (deviceOf p.destination) ≠ none →
        (p.hop < 6 → exec (.junctionPacket n) s = .next { s with fabric := { rest with sent := { p with hop := p.hop + 1 } :: s.fabric.sent } }) ∧
        (6 ≤ p.hop → exec (.junctionPacket n) s = .next { s with fabric := { rest with discards := s.fabric.discards + 1 } })) ∧
      (16 ≤ p.op → ∃ (t : State) (x : PendingItem), exec (.junctionPacket n) s = .next t ∧ t.fabric = rest ∧ t.trust.pending = s.trust.pending ++ [x] ∧ x.domain = 0 ∧ t.mem = s.mem)) ∧
    (s.fabric.waiting = [] → let mine (p : Packet) : Bool := deviceOf p.destination = d
      ∃ t : State, exec (.arrivalAck d n) s = .next t ∧ t.fabric.kept.filter (fun p => !mine p) = s.fabric.kept.filter (fun p => !mine p) ∧
        t.fabric.kept.filter mine = (s.fabric.kept.filter mine).drop n ∧ (∀ q ∈ t.fabric.paths, q.unacked > 0) ∧ t.tile = s.tile ∧ t.mem = s.mem) ∧
    (let near := (s.fabric.routes.filter fun r => decide (r.hops = 1) && s.fabric.up r.port).map fun r => (r.device, r.port)
      ∃ t : State, exec .intermediateRedraw s = .next t ∧ t.fabric.intermediates.Perm near ∧ t = { s with fabric := { s.fabric with intermediates := t.fabric.intermediates }, draws := t.draws }) ∧
    ((s.fabric.up n = true → ∃ t : State, exec (.portDown n) s = .next t ∧ t.fabric.ports = s.fabric.ports.set n .down ∧ t.mem = s.mem ∧
        ∀ q ∈ s.fabric.paths, q.port = n → s.fabric.route q.device ≠ none → ∀ p ∈ s.fabric.kept, deviceOf p.destination = q.device → ∃ p' ∈ t.fabric.sent, p' = { p with via := p'.via, hop := 1 }) ∧
      (s.fabric.up n = false → exec (.portDown n) s = .next s)) ∧
    (∀ native ualink, n < 72 → let mode : PortMode := if native = true then .native else if ualink = true then .ualink else .down
      ∃ t : State, exec (.portTraining n native ualink) s = .next t ∧ t.fabric.ports = s.fabric.ports.set n mode ∧ t.station = (if mode = .down then [BitVec.ofNat 64 n] else []) ++ s.station ∧ t.mem = s.mem) ∧
    (∀ entries, ∃ t : State, exec (.fabricTableLoad entries) s = .next t ∧ t = { s with fabric := { s.fabric with routes := t.fabric.routes } } ∧
      (∀ e ∈ entries, e.1 < 2 ^ 19 → e.1 ≠ s.device → e.2.1 < 72 → 1 ≤ e.2.2.1 → e.2.2.1 ≤ 6 → ⟨e.1, e.2.1, e.2.2.1, e.2.2.2⟩ ∈ t.fabric.routes) ∧
      ∀ r ∈ t.fabric.routes, r.hops ≤ 6 ∧ r.device ≠ s.device) ∧
    (exec (.unreachableMarkClear d) s = .next { s with fabric := { s.fabric with unreachable := s.fabric.unreachable.filter fun x => decide (x ≠ d) } }) ∧
    (∀ l, s.launchAt n = some l → l.state = .running → (l.groups.any fun g => decide (g.device = s.device) && decide (g.cluster / 64 = d)) = true →
      ∃ (t : State) (l' : Launch), exec (.dieFailure d) s = .next t ∧ t.launchAt n = some l' ∧ l'.state = .ending ∧ l'.failed = true ∧ t.mem = s.mem)

/-- R68, R143, R331, R403, R452, R453, R460, R463-R471, R491-R496: the events of the host port and of the root of trust. A CXL.mem read completes with data or with poison, a write reaches its frame; a
submission sends a message or is refused; a message to the host enters the receive ring; registers and tables are loaded; SPDM requests are answered in their
phases; the tenant's requests change and read its domain; descriptors, log items, heartbeats, receipts and summaries are made and released.
The SPDM codes and phases are presumed (log 58), and the reasons of refusals and the fullness of a ring are the model's choice (log 56). -/
def Obligations.HostAndTrustEvents : Prop :=
  ∀ (s : State) (addr n : Nat) (v : Word) (d : BitVec 16),
    (s.host.waiting = [] →
      (∀ value, s.host.handles = [] → exec (.cxlMemRequest false addr value) s =
        .next { s with host := { s.host with completions := (List.replicate 64 0, true) :: s.host.completions } }) ∧
      (∀ value va c die e x, s.host.decode (addr / 64 * 64) = some va → va % 64 = 0 → s.armed = [] → s.poison = [] →
        s.homeOf c = some (.die die) → s.entry (.die die) c.buffer.toNat = some e → e.depth = 0 → c.base.toNat ≤ va →
        let slice := sliceOf (hostEndpoint s.device / 2 ^ 10 % 4) va
        let key := hbmKey (x.pa + (va - x.va))
        s.waiting slice va = none → s.waitRoom slice = true → s.tlbHit slice va = some x → (∀ a < 64, s.waiting slice (va + a) = none ∧ s.tlbHit slice (va + a) = some x ∧ sliceOf (hostEndpoint s.device / 2 ^ 10 % 4) (va + a) = slice) →
        (s.hostCap { write := false, addr := va, data := [] } = some c → s.checkAccess (s.hostClaim c (.die die)) c.base.toNat (va - c.base.toNat) 64 0 0 = none →
          s.l2Hit ((s.hostClaim c (.die die)).asker 0) va = false →
          ∃ t : State, exec (.cxlMemRequest false addr value) s = .next t ∧ t.host.completions = ((List.range 64).map fun i => s.mem.read (key + i), false) :: s.host.completions ∧ t.mem = s.mem) ∧
        (s.hostCap { write := true, addr := va, data := leBytes 64 value.toNat } = some c → s.checkAccess (s.hostClaim c (.die die)) c.base.toNat (va - c.base.toNat) 64 1 0 = none →
          ∃ t : State, exec (.cxlMemRequest true addr value) s = .next t ∧ (∀ i < 64, t.mem.read (key + i) = value.extractLsb' (8 * i) 8) ∧
            ∀ k, k < key ∨ key + 64 ≤ k → t.mem.read k = s.mem.read k))) ∧
    (∀ r c, s.host.waiting = [r] → r.write = false → r.since = some c →
      (c + 2500000 ≤ s.clock → exec (.cxlMemWaitExpired 0) s =
        .next { s with host := { s.host with waiting := [], completions := (List.replicate 64 0, true) :: s.host.completions } }) ∧
      (s.clock < c + 2500000 → exec (.cxlMemWaitExpired 0) s = .next s)) ∧
    (let h := s.host
     let size := h.sqsize.toNat
     let w := (List.range 16).map fun i => s.hostNow (h.sqbase.toNat + 128 * (h.sqhead.toNat % size) + 8 * i)
     let ctl := SendWord.ofWord (w.getD 0 0)
     let launch := (w.getD 1 0).toNat
     (h.sqhead.toNat % size = h.sqtail.toNat % size → exec .submissionEntry s = .next s) ∧
     (h.room = true → ringSize h.sqsize = true → h.sqhead.toNat % size ≠ h.sqtail.toNat % size → w.getD 3 0 = 0 →
       (∀ i, entryClean w = true → ctl.k = 0 → ctl.type.toNat < 0xF0 → s.place launch ctl.rank = some (s.device, i) →
         ∃ (t : State) (m : Msg), exec .submissionEntry s = .next t ∧ t.net = s.net ++ [m] ∧ m.dest = .rank launch ctl.rank ∧ m.type = ctl.type ∧ m.payload = (w.drop 4).take ctl.n ∧ m.caps = [] ∧
           m.senderEp = hostEndpoint s.device ∧ t.host.sqhead = BitVec.ofNat 64 ((h.sqhead.toNat + 1) % size) ∧ t.mem = s.mem) ∧
       (entryClean w = false ∨ (entryClean w = true ∧ 0xF0 ≤ ctl.type.toNat) →
         let place := h.rqbase.toNat + 128 * (h.rqtail.toNat % h.rqsize.toNat)
         ∃ t : State, exec .submissionEntry s = .next t ∧ t.net = s.net ∧ t.hostNow (place + 8) = w.getD 1 0 ∧
           (t.hostNow (place + 16)).toNat / 2 ^ 40 % 256 = (if entryClean w = true then 4 else 9) ∧ t.host.sqhead = BitVec.ofNat 64 ((h.sqhead.toNat + 1) % size) ∧
           t.host.rqtail = BitVec.ofNat 64 ((h.rqtail.toNat + 1) % h.rqsize.toNat)))) ∧
    (∀ m, s.net[n]? = some m → m.dest = .endpoint (hostEndpoint s.device) → s.mustWait m = false → s.host.room = true → m.caps = [] → m.payload.length ≤ 7 →
      let place := s.host.rqbase.toNat + 128 * (s.host.rqtail.toNat % s.host.rqsize.toNat)
      ∃ t : State, exec (.hostEndpointDelivery n) s = .next t ∧ t.net = s.net.filter (fun o => decide (o ≠ m)) ∧ t.hostNow place = ({ msg := m } : QMsg).header ∧
        t.hostNow (place + 8) = BitVec.ofNat 64 m.senderLaunch ∧ (∀ i x, m.payload[i]? = some x → t.hostNow (place + 32 + 8 * i) = x) ∧
        t.host.rqtail = BitVec.ofNat 64 ((s.host.rqtail.toNat + 1) % s.host.rqsize.toNat) ∧ t.tile = s.tile) ∧
    (let reg (a : Nat) (h : HostPort) : Prop := exec (.bar0RegisterWrite a v) s = .next { s with host := h }
     reg 0x040 { s.host with hctl := v } ∧
     (s.host.enable = false → reg 0x000 { s.host with sqbase := v } ∧ reg 0x008 { s.host with sqsize := v } ∧ reg 0x010 { s.host with sqtail := v } ∧
       reg 0x020 { s.host with rqbase := v } ∧ reg 0x028 { s.host with rqsize := v } ∧ reg 0x030 { s.host with rqhead := v }) ∧
     (s.host.enable = true → ∀ a, a ≠ 0x040 → exec (.bar0RegisterWrite a v) s = .next s)) ∧
    (∀ entries : List (BitVec 16 × Nat × Nat), entries.length ≤ 64 → (∀ e ∈ entries, e.2.1 % 4096 = 0 ∧ e.2.2 % 4096 = 0 ∧ e.2.1 + e.2.2 ≤ 2 ^ 48) →
      exec (.hostWindowTableLoad entries) s = .next { s with host := { s.host with windows := entries } }) ∧
    (∀ base size window, size % 2 ^ 28 = 0 → size ≤ 2 ^ 39 → window % 2 ^ 28 = 0 →
      exec (.hdmDecoderProgram base size window) s = .next { s with host := { s.host with decoder := some (base, size, window) } }) ∧
    (s.trust.spdm = .secure d → exec (.ideKmRequest n) s = .next { s with host := { s.host with ide := some n } }) ∧
    (5 ≤ s.power.bootStep →
      let p := s.trust.spdm
      let one (w : Nat) (l : List Nat) : Prop := l.head? = some w
      s.SpdmSays .spdmGetVersion .version 0x04 (fun l => l = [0x13]) ∧
      (p = .version → s.SpdmSays .spdmGetCapabilities .capabilities 0x61 (fun l => l = [])) ∧ (p ≠ .version → s.SpdmErrs .spdmGetCapabilities) ∧
      (p = .capabilities → s.SpdmSays (.spdmNegotiateAlgorithms true) .algorithms 0x63 (fun l => l = [])) ∧ (p ≠ .capabilities → s.SpdmErrs (.spdmNegotiateAlgorithms true)) ∧
      (p.agreed = true → s.SpdmSays .spdmGetDigests p 0x01 (fun l => l = [digest384 [s.trust.attestation]]) ∧
        (∀ off len, s.SpdmSays (.spdmGetCertificate 0 off len) p 0x02 (fun l => l.length = len)) ∧
        (s.SpdmSays (.spdmChallenge n) p 0x03 (fun l => l = [digest384 [s.trust.attestation], s.trust.sign (s.trust.transcript ++ [0x83, n])])) ∧
        (∀ k, 1 ≤ k → k ≤ 7 → s.SpdmSays (.spdmGetMeasurements k) p 0x60 (one (s.trust.measurements.getD k 0)))) ∧
      (p.agreed = false → s.SpdmErrs .spdmGetDigests ∧ s.SpdmErrs (.spdmChallenge n) ∧ s.SpdmErrs (.spdmGetMeasurements n)) ∧
      (p = .algorithms → ∃ x, s.SpdmSays (.spdmKeyExchange n) .exchanged 0x64 (fun l => l = [x, s.trust.sign (s.trust.transcript ++ [0xE4, n, x])])) ∧
      (p = .exchanged → s.SpdmSays (.spdmFinish d (Config.digest s.trust.transcript)) (.secure d) 0x65 (fun l => l = []) ∧
        ∀ w, w ≠ Config.digest s.trust.transcript → s.SpdmErrs (.spdmFinish d w)) ∧
      (p = .secure d → s.SpdmSays .spdmHeartbeat p 0x68 (fun l => l = []) ∧ s.SpdmSays .spdmEndSession .algorithms 0x6C (fun l => l = [])) ∧
      (p.session = false → s.SpdmErrs .spdmHeartbeat ∧ s.SpdmErrs .spdmEndSession) ∧
      (∀ e, p = .secure d → s.descriptor d = some e → e.domain = d →
        (∀ secret, s.domainBusy d = false → ∃ t : State, exec (.installDomainSecret d secret) s = .next t ∧ t.trust.answers.head? = some (0x7E, []) ∧
          t.descriptor d = some { e with keyed := true, secret := secret.toNat } ∧ (∀ k ∈ t.fabric.keys, k.domain ≠ d) ∧ t.mem = s.mem) ∧
        (∀ secret, s.domainBusy d = true → s.SpdmErrs (.installDomainSecret d secret)) ∧
        (∀ roster a b c, roster.Nodup → roster.length < 4095 → ∃ (t : State) (r : List Nat), exec (.setRosterAndPermissions d roster a b c) s = .next t ∧ t.trust.answers.head? = some (0x7E, []) ∧
          t.descriptor d = some { e with roster := r, debug := a, inject := b, hostclear := c } ∧
          (e.isSealed = true → s.device ∈ r ∧ ∀ x ∈ roster, x ∈ r) ∧ (e.isSealed = false → r = []))) ∧
      (∀ l, p = .secure d → s.trust.logs.find? (fun l => decide (l.domain = d)) = some l →
        (s.SpdmSays (.readSessionLog d) p 0x7E fun ws => ws = l.unread.flatMap LogItem.words) ∧
        (∃ t : State, exec (.advanceLogReadPointer d n) s = .next t ∧ t.trust.answers.head? = some (0x7E, []) ∧
          t.trust.logs.find? (fun l => decide (l.domain = d)) = some { l with used := l.used - n } ∧ t.mem = s.mem)) ∧
      (∀ l, s.launchAt n = some l → (p = .secure l.record.domain → s.SpdmSays (.readErrorSummary n) p 0x7E fun ws => ws = l.summary.flatMap Summary.words ++ [l.overflow % 2 ^ 32]) ∧
        (p ≠ .secure l.record.domain → s.SpdmErrs (.readErrorSummary n)))) ∧
    (∀ bits, s.descriptorOk bits = true → let x := Descriptor.ofBits s.device bits
      ∃ (t : State) (l : SessionLog), exec (.descriptorCreate bits) s = .next t ∧ t.descriptor x.domain = some x ∧ t.trust.logs.find? (fun l => decide (l.domain = x.domain)) = some l ∧
        l.size = 2 ^ x.logsize ∧ l.heartbeats = 1 ∧ t.tile = s.tile) ∧
    (∀ e, s.descriptor d = some e → s.domainBusy d = false → (∀ p ∈ s.spores, p.domain ≠ d) → (∀ p ∈ s.dmemPools, p.1 ≠ d) →
      (s.trust.descriptors.map (·.domain)).Nodup → ∃ t : State, exec (.descriptorDelete d) s = .next t ∧ t.descriptor d = none ∧ (∀ l ∈ t.trust.logs, l.domain ≠ d) ∧
        (∀ k ∈ t.fabric.keys, k.domain ≠ d) ∧ t.tile = s.tile ∧ t.mem = s.mem) ∧
    (∀ p ps l, s.violations = [] → s.trust.pending = p :: ps → s.trust.logs.find? (fun l => decide (l.domain = p.domain)) = some l →
      (p.units + 2 ≤ l.free → ∃ (t : State) (l' : SessionLog) (i : LogItem), exec .logItemWrite s = .next t ∧ t.trust.pending = ps ∧ t.trust.logs.find? (fun l => decide (l.domain = p.domain)) = some l' ∧
        l'.items = l.items ++ [i] ∧ i.type = p.type ∧ i.sequence = l.sequence ∧ i.payload = p.payload ∧ l.lastTime ≤ i.time ∧ i.chain = digest384 (natWords 6 l.chain ++ i.open') ∧
        l'.chain = i.chain ∧ l'.used = l.used + p.units ∧ l'.sequence = l.sequence + 1 ∧ t.tile = s.tile) ∧
      (l.free < p.units + 2 → ∃ (t : State) (l' : SessionLog), exec .logItemWrite s = .next t ∧ t.trust.pending = ps ∧ t.trust.logs.find? (fun l => decide (l.domain = p.domain)) = some l' ∧
        l'.items = l.items ∧ l'.dropped = l.dropped + 1 ∧ t.mem = s.mem)) ∧
    (∀ l, s.trust.logs.find? (fun l => decide (l.domain = d)) = some l → (∀ i ∈ l.items, i.type = 6 → i.time + 9950000 ≤ s.clock * 2 / 5) → 2 ≤ l.free →
      ∃ (t : State) (l' : SessionLog) (i : LogItem), exec (.heartbeat d) s = .next t ∧ t.trust.logs.find? (fun l => decide (l.domain = d)) = some l' ∧ l'.items = l.items ++ [i] ∧ i.type = 6 ∧
        i.payload.take 4 = [l.heartbeats % 2 ^ 64, l.dropped % 2 ^ 64, l.violationsDropped % 2 ^ 64, 0] ∧ l'.heartbeats = l.heartbeats + 1 ∧ l'.dropped = 0 ∧ t.tile = s.tile) ∧
    (∀ l, s.launchAt n = some l → l.state = .ended →
      (l.device = s.device → (∀ p ∈ s.trust.receipts, p.1 ≠ n) → ∃ (t : State) (words : List Nat), exec (.receiptWrite n) s = .next t ∧ t.trust.receipts = s.trust.receipts ++ [(n, words)] ∧
        words.head? = some l.issued ∧ t.tile = s.tile) ∧
      (∃ (t : State) (l' : Launch), exec (.errorSummaryRelease n) s = .next t ∧ t.launchAt n = some l' ∧ l'.released = true ∧ (1024 ≤ s.endedAfter l → l'.summary = []) ∧
        (s.endedAfter l < 1024 → l'.summary = l.summary) ∧ t.mem = s.mem)) ∧
    (∃ t : State, exec (.doubleFatalSporeRelease n) s = .next t ∧ (∀ r ∈ t.reserve, r.tile ≠ n) ∧ (∀ p ∈ t.spores, p.dfatal = true → ∀ u ∈ p.tiles, u.index ≠ n) ∧ t.tile = s.tile ∧ t.mem = s.mem) ∧
    (exec .rootOfTrustFailover s = .next { s with trust := { s.trust with mirror := true } })

/-- R394, R395, R405: the controller checks a post; a code returns the caps, and a post that passes makes a launch of the next number.
R397, R398, R400: the head of a queue gets its clusters, or victims are chosen for it; no other launch is placed before it.
R191, R396, R399, R457: loading and starting. R400, R417, R420, R423: parks and spores. R388, R402: the end. R455: a cluster changes its domain.
R101, R514-R518: reset, power and temperature.
That the power level falls by one in a window at or below the limit is deduced (log 60), and so is what a tile that is reset holds (log 62). -/
def Obligations.LaunchAndPowerEvents : Prop :=
  ∀ (s : State) (n : Nat) (l : Launch),
    (∀ (p : Post) (u : Tile), s.posts[n]? = some p → s.tileAt p.tile = some u → u.parked = false →
      let code := s.postCode u.mdomain p.recordCap p.codeCap
      let answers (t : State) (v : Nat) : Prop := t.posts = s.posts.filter (fun q => decide (q ≠ p)) ∧ t.TileIs p.tile fun u => u.answer = some (BitVec.ofNat 64 v)
      (p.number = none → (s.posts.any fun q => q.number.isSome) = true → exec (.launchRecordCheck n) s = .next s) ∧
      (p.number = none → (s.posts.any fun q => q.number.isSome) = false → code ≠ 0 → ∃ t : State, exec (.launchRecordCheck n) s = .next t ∧ answers t code ∧ t.launches = s.launches ∧
        t.nextLaunch = s.nextLaunch ∧ t.TileIs p.tile fun v => p.codeReg ≠ 0 → v.rcBank p.level p.codeReg = p.codeCap) ∧
      (∀ raw, p.number = none → (s.posts.any fun q => q.number.isSome) = false → code = 0 → s.readRaw p.recordCap = some raw →
        ((raw.record s.device).devices.all fun d => decide (d.1 = s.device)) = true → s.launchAt s.nextLaunch = none →
        ∃ t : State, exec (.launchRecordCheck n) s = .next t ∧ answers t s.nextLaunch ∧ t.nextLaunch = s.nextLaunch + 1 ∧
          t.LaunchIs s.nextLaunch fun o => o.record = raw.record s.device ∧ o.recordCap = p.recordCap ∧ o.codeCap = p.codeCap ∧ o.die = p.tile / 512 ∧
            o.device = s.device ∧ o.state = (if o.record.after.any fun k => (s.launches.any fun a => a.number = k && a.state ≠ .ended) then .waiting
              else if o.record.after.contains s.nextLaunch then .waiting else .ready)) ∧
      (p.number = some l.number → s.launchAt l.number = some l →
        ((∃ d ∈ l.record.devices, d.1 ≠ s.device ∧ ∀ a ∈ l.shares, a.1 ≠ d.1) → exec (.launchRecordCheck n) s = .next s) ∧
        ((∀ d ∈ l.record.devices, d.1 ≠ s.device → ∃ a ∈ l.shares, a.1 = d.1) →
          let reserved := s.reserveDmem l.record.domain l.number l.record.dmemLengths
          ((∀ a ∈ l.shares, a.2 = 0) → reserved.isSome = true → ∃ t : State, exec (.launchRecordCheck n) s = .next t ∧ answers t l.number ∧ t.nextLaunch = s.nextLaunch + 1) ∧
          ((∀ a ∈ l.shares, a.2 = 0) → reserved = none → ∃ t : State, exec (.launchRecordCheck n) s = .next t ∧ answers t 19 ∧ t.nextLaunch = s.nextLaunch ∧ t.launchAt l.number = none) ∧
          ∀ a ∈ l.shares, a.2 ≠ 0 → (∀ b ∈ l.shares, b.2 ≠ 0 → a.2 ≤ b.2) →
            ∃ t : State, exec (.launchRecordCheck n) s = .next t ∧ answers t a.2 ∧ t.nextLaunch = s.nextLaunch ∧ t.launchAt l.number = none))) ∧
    (s.launchAt n = some l → l.state = .waiting →
      (∀ d answer, d ≠ s.device → l.device = s.device → (s.peersOf l).contains d = true → (l.shares.any fun a => a.1 = d) = false →
        exec (.shareCheck n d answer) s = .next (s.mapLaunch n fun o => { o with shares := o.shares ++ [(d, answer)] })) ∧
      (∀ answer, l.device ≠ s.device → (l.shares.any fun a => a.1 = s.device) = false →
        ∃ t : State, exec (.shareCheck n s.device answer) s = .next t ∧ t.LaunchIs n fun o => o = { l with shares := [(s.device, s.shareCode l)] })) ∧
    (s.power.bootStep = 7 → (s.head n = none → exec (.placement n) s = .next s) ∧
      (s.head n = some l →
        (l ∈ s.launches ∧ l.queued s.device = true ∧ s.standsIn l n = true ∧
          ∀ o ∈ s.launches, o.queued s.device = true → s.standsIn o n = true → o.before l = false) ∧
        (∀ ks, s.placeFor l [] = some ks → s.headsAll l ks = true →
          ∃ t : State, exec (.placement n) s = .next t ∧ t.LaunchIs l.number (fun o => o.state = if l.state = .parked then .reviving else .loading) ∧
            (∀ k c, s.clusterAt k = some c → t.clusterAt k = some (if k ∈ ks then { c with launch := some l.number } else c)) ∧
            t.tile.x = s.tile.x ∧ t.tile.c = s.tile.c ∧ t.tile.pc = s.tile.pc) ∧
        (s.placeFor l [] = none → (s.placeFor l s.leaving).isSome = true → exec (.placement n) s = .next s) ∧
        (s.placeFor l [] = none → (s.placeFor l s.leaving).isSome = false → s.unloadable l = [] →
          (s.chooseVictims l s.leaving (s.victims l) = none → exec (.placement n) s = .next s) ∧
          (∀ vs, s.chooseVictims l s.leaving (s.victims l) = some vs →
            (∀ v ∈ vs, v.state = .running ∧ v.record.priority < l.record.priority) ∧
            ∃ t : State, exec (.placement n) s = .next t ∧ (∀ v ∈ vs, t.LaunchIs v.number fun o => o.state = .parking ∧ o.holdExchange = true) ∧ t.clusters = s.clusters ∧
              t.tile = s.tile)))) ∧
    (s.power.bootStep < 7 → exec (.placement n) s = .next s) ∧
    (∀ j k, s.LoadsOne n l j k →
      ∃ t : State, exec (.launchStart n) s = .next t ∧ t.LaunchIs n (fun o => o.state = .running) ∧
        (∀ c, s.clusterAt k = some c → t.ClusterIs k fun c' => c'.launch = some n ∧ c'.shadow = l.record.cshadow ∧ c'.homeName = k) ∧
        ∀ i u, i / 8 = k → s.tileAt i = some u → t.TileIs i fun v => v.started = true ∧ v.launch = some n ∧ v.rank = 8 * j + i % 8 ∧ v.homeName = i ∧ v.mode = .u ∧
          v.pc = BitVec.ofNat 64 l.record.entry ∧ v.rx 2 = BitVec.ofNat 64 l.record.privateSize ∧ v.rx 1 = 0 ∧ v.privateSize = l.record.privateSize ∧
          v.dispatch = l.record.dispatch ∧ v.quota = l.record.quota ∧ v.rc 30 = l.codeCap ∧ v.mdomain = u.mdomain ∧ v.parked = false ∧ v.l1 = []) ∧
    (s.launchAt n = some l →
      (l.state ≠ .loading → exec (.launchStart n) s = .next s) ∧
      (l.state = .loading → l.device = s.device → s.toLoad l = [] →
        (s.allReady l = false → exec (.launchStart n) s = .next s) ∧
        (s.peersOf l = [] → l.buffers = [] → l.done = none → (∀ g ∈ l.groups, g.device = s.device → g.placed = true) →
          exec (.launchStart n) s = .next (s.startTiles n))) ∧
      (l.state ≠ .reviving ∨ l.mapKnown = false → exec (.launchRevival n) s = .next s) ∧
      (l.state = .reviving → l.mapKnown = true → l.done = none → s.sporesOf l = [] → s.peersOf l = [] → (∀ g ∈ l.groups, g.device = s.device → g.parked = false) →
        ∃ t : State, exec (.launchRevival n) s = .next t ∧ t.LaunchIs n (fun o => o.state = .running) ∧ (∀ u ∈ t.allTiles, u.launch = some n → u.started = true) ∧ t.mem = s.mem) ∧
      (l.state ≠ .parking → l.state ≠ .running → exec (.victimPark n) s = .next s) ∧
      (l.state = .parking → s.exchanging n = true → exec (.victimPark n) s = .next s) ∧
      (∀ k c u, l.state = .parking → s.exchanging n = false → s.peersOf l = [] → s.clustersOf l = [k] → s.tileAt (8 * k) = some u → s.clusterAt k = some c →
        c.stopped = false → c.launch = some n →
        ∃ (t : State) (p : Spore), exec (.victimPark n) s = .next t ∧ t.ClusterIs k (fun c' => c' = { c with stopped := true }) ∧
          (∀ i v, i / 8 = k → s.tileAt i = some v → t.TileIs i fun v' => v'.parked = true ∧ v'.pc = v.pc ∧ v'.x = v.x ∧ v'.c = v.c) ∧
          t.spores = s.spores ++ [p] ∧ p.kind = 2 ∧ p.out = false ∧ p.requester = none ∧ t.mem = s.mem) ∧
      (∀ k c, l.state = .running → s.clustersOf l = [k] → s.clusterAt k = some c → c.quarantined = true → s.exchanging n = true →
        ∃ t : State, exec (.victimPark n) s = .next t ∧ t.LaunchIs n (fun o => o.state = .parking) ∧ t.tile = s.tile)) ∧
    (s.launchAt n = some l →
      (l.state ≠ .ending → exec (.launchEnding n) s = .next s) ∧
      (l.state = .ending → l.cleaned = false → ((s.spores.any fun p => p.launch = n && !p.out) = true → exec (.launchEnding n) s = .next s) ∧
        ((s.cleanUp n).isSome = true → l.device = s.device → s.peersOf l = [] →
          ∃ t : State, exec (.launchEnding n) s = .next t ∧ (∀ o ∈ t.launches, o.number = n → o.cleaned = true ∧ o.groups = [] ∧ o.kept = [] ∧ o.codeCap = Cap.null) ∧
            (∀ c ∈ t.clusters, c.launch ≠ some n) ∧ (∀ u ∈ t.allTiles, u.launch ≠ some n) ∧ (∀ b ∈ t.bars, b.launch ≠ n) ∧ ∀ p ∈ t.spores, p.launch = n → p.dfatal = true)) ∧
      (l.state = .ending → l.cleaned = true → l.device = s.device →
        (l.delivered = false → s.peersOf l = [] → l.outgoing = [] → l.failed = false → (l.record.complete = 0 ∨ l.record.complete / 2 ^ 13 = s.device) →
          ∃ (t : State) (m : Msg), exec (.launchEnding n) s = .next t ∧ t.LaunchIs n (fun o => o.delivered = true ∧ o.state = .ending) ∧
            t.net = s.net ++ [m] ∧ m.dest = .endpoint (if l.record.complete = 0 then hostEndpoint s.device else l.record.complete) ∧
            m.payload = [BitVec.ofNat 64 l.issued, (match l.done with
              | some d => BitVec.ofNat 64 (1 + d.1 * 2 ^ 32)
              | none => 0), (l.done.map (·.2)).getD 0, BitVec.ofNat 64 l.unaudited, BitVec.ofNat 64 l.lost] ∧ t.mem = s.mem) ∧
        (l.delivered = true → s.completing l = true → exec (.launchEnding n) s = .next s) ∧
        (l.delivered = true → s.completing l = false →
          ∃ t : State, exec (.launchEnding n) s = .next t ∧ t.LaunchIs n (fun o => o.state = .ended ∧ o.endTime = s.clock) ∧ t.tile = s.tile ∧ t.mem = s.mem))) ∧
    (∀ d, (s.switchable n d = false → exec (.domainSwitch n d) s = .next s) ∧
      (s.switchable n d = true → ∃ t : State, exec (.domainSwitch n d) s = .next t ∧
        (∀ i u, i / 8 = n → s.tileAt i = some u → t.TileIs i fun v => v.mdomain = d ∧ v.l1 = [] ∧ v.jobs = []) ∧
        (∀ i u, i / 8 ≠ n → s.tileAt i = some u → t.tileAt i = some u) ∧
        (∀ key, t.mem.read key = if inCluster n key then 0 else s.mem.read key))) ∧
    (∀ (k : BitVec 1) (area : BitVec 48),
      (s.endpointHere n = none → exec (.managementPark n k area) s = .next { s with station := 8 :: s.station }) ∧
      (∀ u, s.endpointHere n = some u →
        (validArea area.toNat = false → exec (.managementPark n k area) s = .next { s with station := 2 :: s.station }) ∧
        (validArea area.toNat = true → s.parkBusy (s.parkSet u (k = 1)) u (k = 1) = true → exec (.managementPark n k area) s = .next { s with station := 1 :: s.station }) ∧
        (validArea area.toNat = true → s.parkBusy (s.parkSet u (k = 1)) u (k = 1) = false →
          ∃ (t : State) (p : Spore), exec (.managementPark n k area) s = .next t ∧ t.spores = s.spores ++ [p] ∧ p.area = area.toNat ∧ p.out = false ∧ p.managed = true ∧
            (∀ i v, s.tileAt i = some v → t.TileIs i fun v' => v'.parked = (v.parked || (s.parkSet u (k = 1)).contains i) ∧ v'.pc = v.pc ∧ v'.x = v.x ∧ v'.c = v.c) ∧
            (k = 1 → ∀ c, s.clusterAt (u.index / 8) = some c → t.clusterAt (u.index / 8) = some { c with stopped := true }) ∧ t.mem = s.mem))) ∧
    (∀ old : Spore, (s.spores.filter fun p => !p.out)[n]? = some old →
      let counter := ((s.trust.counters.find? fun q => q.1 = old.domain).map (·.2)).getD 0 + 1
      ∃ (t : State) (p : Spore), exec (.sporeOut n) s = .next t ∧ p ∈ t.spores ∧ p.out = true ∧ p.area = old.area ∧ p.kind = old.kind ∧ p.counter = counter ∧
        ⟨p.domain, p.launch, p.rank, counter, true⟩ ∈ t.trust.contexts ∧ (old.domain, counter) ∈ t.trust.counters ∧
        (old.managed = true → t.station = 0 :: s.station) ∧
        (old.kind ≠ 2 → ∀ i u, old.requester = some i → s.tileAt i = some u → t.TileIs i fun v => v.answer = some 0) ∧
        (old.kind = 2 → let k := ((old.tiles.map (·.index)).headD 0) / 8
          (∀ c, s.clusterAt k = some c → t.ClusterIs k fun c' => c'.launch = none ∧ c'.stopped = false) ∧
          (∀ o, s.launchAt p.launch = some o → o.state = .parking → (∀ g ∈ o.groups, g.device = s.device → g.parked = true ∨ g.cluster = k) →
            t.LaunchIs p.launch fun o' => o'.state = .parked ∧ o'.parks = o.parks + 1))) ∧
    (∃ t : State, exec .coldReset s = .next t ∧ t.launches = [] ∧ t.spores = [] ∧ t.trust.contexts = [] ∧ t.trust.counters = s.trust.counters ∧ t.device = s.device ∧
      t.power.bootStep = (if (Config.imageVerifies 1 && Config.imageVerifies 2) = true then
        (if (s.power.dieTemps.any fun x => decide (x < 10)) = true ∨ (s.power.stackTemps.any fun x => decide (x < 10)) = true then 3 else 7) else 2)) ∧
    exec (.powerReport n) s = .next { s with power := { s.power with watts := n } } ∧
    exec .powerRemoval s = .next { s with power := { s.power with powered := false } } ∧
    (let need := if 2800 < s.power.watts then min 7 (s.power.powerLevel + 1) else s.power.powerLevel - 1
     exec .throttleWindow s = .next { s with power := { s.power with powerLevel := need, throttle := if s.power.throttle < need then s.power.throttle + 1 else s.power.throttle } }) ∧
    (∀ dies heights : List Int,
      ((∃ x ∈ dies, 110 ≤ x) ∨ (∃ x ∈ heights, 100 ≤ x) →
        exec (.thermalSample dies heights) s = .next { s with power := { s.power with dieTemps := dies, stackTemps := heights, tripped := true } }) ∧
      ((∀ x ∈ dies, x < 110) → (∀ x ∈ heights, x < 100) →
        ((∃ x ∈ dies, 95 < x) ∨ (∃ x ∈ heights, 85 < x) → s.power.bootStep ≠ 3 →
          exec (.thermalSample dies heights) s = .next { s with power := { s.power with dieTemps := dies, stackTemps := heights, throttle := min 7 (s.power.throttle + 1) } }) ∧
        ((∀ x ∈ dies, x ≤ 92) → (∀ x ∈ heights, x ≤ 82) → s.power.bootStep ≠ 3 → exec (.thermalSample dies heights) s =
          .next { s with power := { s.power with dieTemps := dies, stackTemps := heights, throttle := if s.power.powerLevel < s.power.throttle then s.power.throttle - 1 else s.power.throttle } }) ∧
        ((∃ x ∈ dies, x < 10) ∨ (∃ x ∈ heights, x < 10) → s.power.bootStep = 3 →
          ∃ t : State, exec (.thermalSample dies heights) s = .next t ∧ t.power.bootStep = 3 ∧ t.tile = s.tile ∧ t.mem = s.mem))) ∧
    (∀ u, s.tileAt n = some u → ∃ t : State, exec (.tileResetOrPowerGate n) s = .next t ∧
      t.TileIs n (fun v => v.gated = true ∧ v.launch = u.launch ∧ v.rank = 0 ∧ v.mdomain = 0 ∧ v.x = Vector.replicate 4 (Vector.replicate 32 0) ∧
        v.queues = Vector.replicate 4 [] ∧ v.l1 = [] ∧ v.jobs = []) ∧ t.mem = s.mem)

/-- R233, R235: what a write leaves in the CSRs whose fields are restricted, and what the constant ones read: the audit fraction, event selects and counters,
`mstatus`, `misa`, `mie`, `mip`, the identity registers and the PMP registers. A locked PMP entry keeps its byte and its address; NA4 leaves OFF. A PMP
access of M-mode is bound by a locked entry alone.
The order of PMP entries, the lock of an address below a TOR entry, and the bits kept of `pmpaddr` are presumed (log 13). -/
def Obligations.CsrFieldResults : Prop :=
  ∀ (s : State) (v : Word),
    let back (n : Nat) : Word := (s.csrWrite n v).csrRead n
    back 0x7C6 = (if v.toNat ≤ 16 then v else 16) ∧
    (∀ k < 16, back (0x323 + k) = (if v.toNat ≤ 11 then v else 0) ∧ back (0xB03 + k) = v) ∧
    back 0x300 = (if v.toNat / 2 ^ 11 % 4 = 3 then 0x200001800 else 0x200000000) ∧
    back 0x301 = 0x8000000000901100 ∧ back 0x304 = 0 ∧ back 0x344 = 0 ∧
    s.csrRead 0xF11 = 0 ∧ s.csrRead 0xF12 = 0x9416 ∧ s.csrRead 0xF13 = 0x94160101 ∧ s.csrRead 0xF14 = BitVec.ofNat 64 (tileEndpoint s.device s.tile.index) ∧
    (∀ k < 16, let n := if k < 8 then 0x3A0 else 0x3A2
      let old := s.tile.pmpByte k
      (s.csrWrite n v).tile.pmpByte k = if old / 128 = 1 then old else pmpLegal (v.toNat / 2 ^ (8 * (k % 8)) % 256)) ∧
    (∀ k < 16, (s.tile.pmpByte k / 128 = 1 → (s.csrWrite (0x3B0 + k) v).tile = s.tile) ∧
      (s.tile.pmpByte k / 128 = 0 → (k = 15 ∨ s.tile.pmpByte (k + 1) / 128 = 0) → (s.csrWrite (0x3B0 + k) v).tile.pmpAddr k = v.toNat % 2 ^ 54) ∧
      ∀ j < 16, j ≠ k → (s.csrWrite (0x3B0 + k) v).tile.pmpAddr j = s.tile.pmpAddr j) ∧
    (∀ addr store k, k < 16 → (s.tile.pmpRange k).1 ≤ addr → addr < (s.tile.pmpRange k).2 →
      (∀ j < k, ¬((s.tile.pmpRange j).1 ≤ addr ∧ addr < (s.tile.pmpRange j).2)) →
      s.tile.pmpAllows addr store = (decide (s.tile.mode = .m ∧ s.tile.pmpByte k / 128 = 0) ||
        decide (s.tile.pmpByte k / (if store then 2 else 1) % 2 = 1)))

/-- Reset (R49, R233, R235, R341, R358, R395, R512): what the spec gives of the machine right after reset: every tile and cluster is there, the
registers whose reset value is stated hold it, no launch, message, request or lock exists, and memory lists nothing.
That memory lists nothing, and so reads 0, is the model's choice (log 8). -/
def Obligations.ResetState : Prop :=
  State.reset.mem = [] ∧ State.reset.mem.wf = true ∧ State.reset.launches = [] ∧ State.reset.nextLaunch = 2 ^ 16 ∧ State.reset.net = [] ∧ State.reset.requests = [] ∧
  State.reset.poison = [] ∧ State.reset.levels = [] ∧ State.reset.spores = [] ∧ State.reset.trust.descriptors = [] ∧ State.reset.power.bootStep = 0 ∧
  State.reset.host.enable = false ∧ State.reset.host.featbase = 0x10000 ∧ State.reset.fabric.ports = List.replicate 72 .down ∧
  (∀ i < 2048, ∃ t : Tile, State.reset.tileAt i = some t ∧
    t.index = i ∧ t.vlen = 0 ∧ t.vfmt = 0 ∧ t.rmode = 0 ∧ t.rsat = false ∧ t.srseed = 0 ∧ t.mxmode = 0 ∧ t.btag = 0 ∧ t.loop = {} ∧ t.wlimit = 0x0EE6B280 ∧
    t.rank = 0 ∧ t.level = 0 ∧ t.msgsent = 0 ∧ t.msgrecv = 0 ∧ t.depth = 0 ∧ t.gang.word = 0 ∧ t.waitinfo = 0 ∧ t.rgncause = 0 ∧ t.mcapinfo = 0 ∧
    t.mdomain = 0 ∧ t.mhaltgrp = 0 ∧ t.sporeArea = 0 ∧ t.sporeStatus = 0 ∧ t.mauditf = 16 ∧ t.minstret = 0 ∧ t.pmc = Vector.replicate 16 0 ∧
    t.pmcsel = Vector.replicate 16 0 ∧ t.pmpcfg = Vector.replicate 2 0 ∧ t.pmpaddr = Vector.replicate 16 0 ∧ t.faultLog = Vector.replicate 16 {} ∧
    t.launch = none ∧ t.jobs = [] ∧ t.l1 = []) ∧
  (∀ k < 256, State.reset.clusterAt k = some (Cluster.reset k)) ∧
  (∀ k < 64, (Engine.reset.table.getD k 0) = if k % 16 = 15 then 8 else 9)

/-- Every step keeps the canonical form of memory: addresses rise strictly and no listed byte is 0, whichever agent acts and whatever it stores; the
form is the model's own (log 8). -/
def Obligations.MemoryStaysCanonical : Prop := ∀ s t : State, s.mem.wf = true → step s = .next t → t.mem.wf = true
end

