-- ==== Sys2Proof/Laws/Run.lean ====
section
/-! SUPPORT. What the frame of an instruction and the shared reads and writes do (R225, R231, R239, R368, R435): each said once. -/

namespace Sys2Proof.Machine

open Sys2Proof

/-! ### Actions -/

theorem act_bind {α β : Type} (x : Act α) (f : α → Act β) (s : State) :
    (x >>= f) s = match x s with
      | .ok a t => f a t
      | .error e t => .error e t := by
  show EStateM.bind x f s = _
  unfold EStateM.bind
  cases x s <;> rfl

theorem act_map {α β : Type} (f : α → β) (x : Act α) (s : State) :
    (f <$> x) s = match x s with
      | .ok a t => .ok (f a) t
      | .error e t => .error e t := by
  show EStateM.map f x s = _
  unfold EStateM.map
  cases x s <;> rfl

@[simp] theorem act_pure {α : Type} (a : α) (s : State) : (pure a : Act α) s = .ok a s := rfl

@[simp] theorem act_get (s : State) : (get : Act State) s = .ok s s := rfl

@[simp] theorem act_set (s t : State) : (set t : Act Unit) s = .ok () t := rfl

@[simp] theorem act_modify (f : State → State) (s : State) : (modify f : Act Unit) s = .ok () (f s) := rfl

@[simp] theorem act_throw {α : Type} (e : Stop) (s : State) : (throw e : Act α) s = .error e s := rfl

@[simp] theorem act_ite {α : Type} (p : Prop) [Decidable p] (x y : Act α) (s : State) :
    (if p then x else y) s = if p then x s else y s := by
  split <;> rfl

@[simp] theorem act_run {α : Type} (x : Act α) (s : State) : EStateM.run x s = x s := rfl

theorem act_bind_ok {α β : Type} {x : Act α} {f : α → Act β} {s t : State} {a : α} (h : x s = .ok a t) :
    (x >>= f) s = f a t := by
  rw [act_bind, h]

theorem act_bind_error {α β : Type} {x : Act α} {f : α → Act β} {s t : State} {e : Stop} (h : x s = .error e t) :
    (x >>= f) s = .error e t := by
  rw [act_bind, h]

@[simp] theorem curTile_run (s : State) : curTile s = .ok s.tile s := rfl

@[simp] theorem onTile_run (f : Tile → Tile) (s : State) : onTile f s = .ok () { s with tile := f s.tile } := rfl

@[simp] theorem trap_run {α : Type} (c : Nat) (v : Word) (s : State) : (trap c v : Act α) s = .error (.trap c v) s := rfl

@[simp] theorem illegal_run {α : Type} (i : Instr) (s : State) : (illegal i : Act α) s = .error (.trap 2 (instrWord i)) s := rfl

@[simp] theorem stall_run {α : Type} (k : WaitKind) (s : State) : (stall k : Act α) s = .error (.wait k) s := rfl

/-! ### Reads and writes of a quiet tile -/

theorem rearm_nil {s : State} (h : s.armed = []) (p : ErrorItem → Bool) : s.rearm p = s := by
  cases s
  simp_all [State.rearm]

theorem detectItem_quiet {s : State} (h : s.armed = []) (i : ErrorItem) : detectItem i s = .ok () s := by
  simp [detectItem, act_bind, h]

theorem getX_quiet {s : State} (h : s.armed = []) (r : Reg) : getX r s = .ok (s.tile.rx r) s := by
  simp [getX, act_bind, act_map, detectItem_quiet h]

theorem getC_run (s : State) (r : Reg) : getC r s = .ok (s.tile.rc r) s := rfl

theorem useCap_quiet {s : State} (h : s.armed = []) (r : Reg) : useCap r s = .ok (s.tile.rc r) s := by
  simp [useCap, act_bind, h]

theorem getV_quiet {s : State} (h : s.armed = []) (r : Reg) : getV r s = .ok (s.tile.v.get r) s := by
  simp [getV, act_bind, h]

theorem saveValue_quiet {s : State} (h : s.tile.openRegions = []) (v : Saved) : saveValue v s = .ok () s := by
  simp [saveValue, act_bind, h]

theorem saveEach_quiet {s : State} (h : s.tile.openRegions = []) (is : List Item) : saveEach is s = .ok () s := by
  induction is with
  | nil => rfl
  | cons i is ih =>
    simp only [saveEach, act_bind, curTile_run]
    cases s.tile.savedOf i <;> simp [act_bind, saveValue_quiet h, ih]

theorem saveItems_quiet {s : State} (h : s.tile.openRegions = []) (is : List Item) : saveItems is s = .ok () s := by
  simp [saveItems, whole, saveEach_quiet h]

theorem setX_quiet {s : State} (h : s.Quiet) (d : Reg) (v : Word) :
    setX d v s = .ok () { s with tile := s.tile.setX d v } := by
  simp [setX, act_bind, saveItems_quiet h.regions, rearm_nil h.armed]

theorem setC_quiet {s : State} (h : s.Quiet) (d : Reg) (c : Cap) :
    setC d c s = .ok () { s with tile := s.tile.setC d c } := by
  simp [setC, act_bind, saveItems_quiet h.regions, rearm_nil h.armed]

theorem setV_quiet {s : State} (h : s.Quiet) (d : Reg) (v : VReg) :
    setV d v s = .ok () { s with tile := s.tile.setV d v } := by
  simp [setV, act_bind, saveItems_quiet h.regions]

theorem putV_quiet {s : State} (h : s.Quiet) (d : Reg) (v : VReg) (fs : List Field) :
    putV d v fs s = .ok () { s with tile := s.tile.setV d v } := by
  simp [putV, act_bind, saveItems_quiet h.regions, rearm_nil h.armed]

theorem rs2_quiet {s : State} (h : s.armed = []) (b : Reg) : rs2 b s = .ok (s.rs2Of b) s := by
  simp only [rs2, act_bind, act_get, State.rs2Of]
  cases s.tile.kpre <;> simp [getX_quiet h]

/-- An unpoisoned sector counts no clean bytes (R330). -/
theorem cleanBytes_unpoisoned {s : State} {l : List (Nat × Nat)} (hl : ∀ p ∈ l, s.poisoned (p.2 / 64) = false) (h : HomeId) (b : Nat)
    (g : BitVec 16) (log : Nat) : s.cleanBytes h b g log l = some s := by
  unfold State.cleanBytes
  induction l with
  | nil => rfl
  | cons p l ih =>
    have hp : s.markOf (p.2 / 64) = none := by
      simpa [State.poisoned, State.markOf] using hl p (List.mem_cons_self ..)
    simp only [List.foldl_cons, Option.bind_some, State.cleanByte, hp]
    exact ih fun q hq => hl q (List.mem_cons_of_mem _ hq)

/-! ### The frame of an instruction -/

theorem inRegion_quiet {t : Tile} (h : t.openRegions = []) : t.inRegion = false := by simp [Tile.inRegion, h]

/-- An instruction that is not misplaced, in a quiet state, is its action and what follows. -/
theorem run_quiet {s : State} (h : s.Quiet) {f : Form} (i : Instr) (a : Act Unit) (hm : s.tile.misplaced f = false) :
    run f i a s = finish s (a s) := by
  simp [run, hm, inRegion_quiet h.regions]

theorem misplaced_plain {t : Tile} (h : t.kpre = none) : t.misplaced {} = false := by simp [Tile.misplaced, h]

theorem misplaced_rs2 {s : State} {b : Reg} (h : s.TakesRs2 b) : s.tile.misplaced { rs2 := some b } = false := by
  rcases h with h | h <;> simp [Tile.misplaced, h]

theorem misplaced_straight {s : State} (h : s.Straight) : s.tile.misplaced { jump := true } = false := by
  simp [Tile.misplaced, h.kpre, h.loop]

theorem misplaced_launch {t : Tile} (h : t.kpre = none) (hl : t.launch.isSome) : t.misplaced { launch := true } = false := by
  cases hx : t.launch <;> simp_all [Tile.misplaced]

@[simp] theorem finish_ok (b : State) (u : Unit) (s : State) : finish b (.ok u s) = .next (s.retired s.tile) := rfl

@[simp] theorem finish_trap (b : State) (c : Nat) (v : Word) (s : State) : finish b (.error (.trap c v) s) = .next (b.trapFrom s c v) := rfl

/-- A trap of an instruction that has done nothing is taken where it stands. -/
@[simp] theorem trapFrom_self (s : State) (c : Nat) (v : Word) : s.trapFrom s c v = s.takeTrap c v := by
  simp [State.trapFrom]

@[simp] theorem finish_wait (b : State) (k : WaitKind) (s : State) : finish b (.error (.wait k) s) = .next (s.stallOn k) := rfl

@[simp] theorem finish_leave (b : State) (s : State) : finish b (.error .leave s) = .next s := rfl

@[simp] theorem finish_rollback (b : State) (c : Nat) (s : State) : finish b (.error (.rollback c) s) = .next (s.startRollback c) := rfl

/-- The next state of an action that answers. -/
theorem run_ok {s t : State} (h : s.Quiet) {f : Form} {i : Instr} {a : Act Unit} (hm : s.tile.misplaced f = false) (ha : a s = .ok () t) :
    run f i a s = .next (t.retired t.tile) := by
  rw [run_quiet h i a hm, ha]
  rfl

/-- The next state of an action that traps. -/
theorem run_trap {s t : State} (h : s.Quiet) {f : Form} {i : Instr} {a : Act Unit} {c : Nat} {v : Word}
    (hm : s.tile.misplaced f = false) (ha : a s = .error (.trap c v) t) : run f i a s = .next (s.trapFrom t c v) := by
  rw [run_quiet h i a hm, ha]
  rfl

/-- The next state of an action that leaves of its own accord. -/
theorem run_leave {s t : State} (h : s.Quiet) {f : Form} {i : Instr} {a : Act Unit} (hm : s.tile.misplaced f = false)
    (ha : a s = .error .leave t) : run f i a s = .next t := by
  rw [run_quiet h i a hm, ha]
  rfl

/-- Every instruction that runs in the frame answers a next state. -/
theorem run_next (f : Form) (i : Instr) (a : Act Unit) (s : State) : ∃ t, run f i a s = .next t := by
  have key : ∀ r : EStateM.Result Stop State Unit, ∃ t, finish s r = .next t := by
    rintro (⟨_, s⟩ | ⟨e, s⟩)
    · exact ⟨_, rfl⟩
    · cases e <;> exact ⟨_, rfl⟩
  unfold run
  split
  · exact key _
  · split <;> exact key _

/-- Every event answers a next state. -/
theorem event_next (a : Act Unit) (s : State) : ∃ t, event a s = .next t := by
  unfold event
  split <;> exact ⟨_, rfl⟩

end Sys2Proof.Machine
end

