-- ==== Sys2Proof/Laws/Caps.lean ====
section
/-! SUPPORT. What the shared parts of the cap instructions do in a settled state: drains, orders and home checks pass at once, and cap registers are
written in order (R66, R71, R83, R318). -/

namespace Sys2Proof.Machine

open Sys2Proof

theorem requireCap_run (b : Bool) (r : Reg) (n : Nat) (s : State) :
    requireCap b r n s = if b then .ok () s else
      .error (.trap 24 (word n)) { s with tile := { s.tile with mcapinfo := capInfo r.val 0 n false } } := by
  cases b <;> rfl

theorem putCaps_quiet {s : State} (h : s.Quiet) (rs : List (Reg × Cap)) :
    putCaps rs s = .ok () { s with tile := rs.foldl (fun t p => t.setC p.1 p.2) s.tile } := by
  simp only [putCaps, act_bind, saveItems_quiet h.regions, act_modify]
  congr 1
  have ha := h.armed
  clear h
  induction rs generalizing s with
  | nil => rfl
  | cons p rs ih => simp only [List.foldl_cons, rearm_nil ha]; rw [ih (s := { s with tile := s.tile.setC p.1 p.2 }) ha]

theorem pushWhere_nil {s : State} (h : s.tile.l1 = []) (p : L1Line → Bool) : s.pushWhere p = s := by
  cases s with
  | mk tile =>
    cases tile
    simp_all [State.pushWhere]

theorem settle_nil {s : State} (hr : s.replies = []) : s.settle [] = (true, s) := by simp [State.settle, hr, State.flush]

theorem takeDeny_none {s : State} (h : ∀ w, s.tile.wait = some w → w.denied = false) : takeDeny s = .ok false s := by
  simp only [takeDeny, act_bind, curTile_run]
  cases hw : s.tile.wait with
  | none => rfl
  | some w => simp [h w hw]

theorem orderHome_settled {s : State} (hs : s.Settled) {h : HomeId} (hw : s.asleep h = false) (b : Nat) (off : Option Nat) (d : Bool) :
    orderHome h b off d s = .ok () s := by
  simp only [orderHome, act_bind, act_get, hw, hs.requests, List.filter_nil]
  cases d <;> simp [act_bind, takeDeny_none hs.denied, settle_nil hs.replies]

theorem orderAll_settled {s : State} (hs : s.Settled) {h : HomeId} (hw : s.asleep h = false) (b : Nat) : orderAll h b s = .ok () s :=
  orderHome_settled hs hw b none true

theorem guardRegions_settled {s : State} (hs : s.Settled) (r : Reg) (c : Cap) : guardRegions r c s = .ok () s := by
  simp only [guardRegions, otherRegion, act_bind, act_get]
  cases s.homeOf c <;> simp [hs.levels, hs.cache]

theorem drain_settled {s : State} (hs : s.Settled) {c : Cap} {h : HomeId} (hh : s.homeOf c = some h) (hw : s.asleep h = false) :
    drain c s = .ok () s := by
  simp only [drain, act_bind, act_modify, State.pushLines, pushWhere_nil hs.cache, act_get, hh, hs.remotes, List.find?_nil]
  cases c.kind <;> simp [act_bind, orderHome_settled hs hw, hs.cache]

@[simp] theorem State.claim_home (s : State) (h : HomeId) (c : Cap) (t : Tile) : (s.claim h c t).home = h := rfl
@[simp] theorem State.claim_buffer (s : State) (h : HomeId) (c : Cap) (t : Tile) : (s.claim h c t).buffer = c.buffer.toNat := rfl
@[simp] theorem State.claim_generation (s : State) (h : HomeId) (c : Cap) (t : Tile) : (s.claim h c t).generation = c.generation := rfl
@[simp] theorem State.claim_domain (s : State) (h : HomeId) (c : Cap) (t : Tile) : (s.claim h c t).domain = c.domain := rfl
@[simp] theorem State.claim_principal (s : State) (h : HomeId) (c : Cap) (t : Tile) : (s.claim h c t).principal = t.principal s.device := rfl

/-- Where no error waits, no structure is struck (R445), -/
theorem struck_unarmed {s : State} (h : s.armed = []) (item : ErrorItem) : s.struck item = false := by simp [State.struck, h]

/-- a refusal loses nothing, -/
theorem loseStruck_unarmed {s : State} (ha : s.armed = []) (h : HomeId) (b : Nat) : s.loseStruck h b = s := by
  unfold State.loseStruck
  cases s.entry h b <;> cases h <;> simp [struck_unarmed ha]

theorem failedLevel_unarmed {s : State} (ha : s.armed = []) (h : HomeId) (b : Nat) : s.failedLevel h b = none := by
  simp [State.failedLevel, struck_unarmed ha]

/-- and no level fails. -/
theorem failLevels_unarmed {s : State} (ha : s.armed = []) (h : HomeId) (b : Nat) : s.failLevels h b = s := by
  simp [State.failLevels, failedLevel_unarmed ha]

/-- A home without level records finds none that has failed (R445). -/
theorem failLevels_none {s : State} (hl : s.levels = []) (h : HomeId) (b : Nat) : s.failLevels h b = s := by
  simp [State.failLevels, State.failedLevel, State.stackOf, hl]

theorem checkControl_keeps {s : State} {c : Cap} {h : HomeId} {e : DirEntry} {st : DirState} (k : s.Keeps c h e st) (owned : Bool) (bad : Nat)
    (hst : st ≠ .free ∧ st ≠ .carved) (ho : st = .exclusive → owned = true → e.owner = s.tile.principal s.device) :
    s.checkControl (s.claim h c s.tile) [st] owned bad = none := by
  have := k.state
  simp [State.checkControl, k.entry, k.kept, k.generation, k.domain, k.fits, k.window, this, hst]
  exact fun h1 h2 => by simp [ho h1 h2]

theorem homeEntry_keeps {s : State} (hs : s.Settled) {c : Cap} {h : HomeId} {e : DirEntry} {st : DirState} (k : s.Keeps c h e st) (r : Reg)
    (owned : Bool) (bad : Nat) (hst : st ≠ .free ∧ st ≠ .carved)
    (ho : st = .exclusive → owned = true → e.owner = s.tile.principal s.device) :
    homeEntry r c [st] owned bad s = .ok (h, e) s := by
  simp [homeEntry, act_bind, k.home, orderAll_settled hs k.awake c.buffer.toNat, failLevels_none hs.levels, checkControl_keeps k owned bad hst ho, k.entry]

/-- A transition at a home of this device that keeps the buffer is its own action on the entry. -/
theorem homeAct_keeps {s : State} (hs : s.Settled) {c : Cap} {h : HomeId} {e : DirEntry} {st : DirState} (k : s.Keeps c h e st) (r : Reg)
    (owned : Bool) (bad op : Nat) (args : List Nat) (act : HomeId → DirEntry → Act DirEntry) (hst : st ≠ .free ∧ st ≠ .carved)
    (ho : st = .exclusive → owned = true → e.owner = s.tile.principal s.device) :
    homeAct r c [st] owned bad op args act s = (do return (h, ← act h e)) s := by
  have hk : c.kind ≠ .remote := by rcases k.kind with h | h | h <;> simp [h]
  simp [homeAct, hk, act_bind, act_map, homeEntry_keeps hs k r owned bad hst ho]

theorem guardC30_run (i : Instr) {rs : List Reg} (h : 30 ∉ rs) (s : State) : guardC30 i rs s = .ok () s := by
  simp [guardC30, h]

theorem outsideRegions_quiet {s : State} (h : s.tile.openRegions = []) (i : Instr) : outsideRegions i s = .ok () s := by
  simp [outsideRegions, act_bind, inRegion_quiet h]

theorem lentStall_run {c : Cap} (h : c.lent = false) (r : Reg) (s : State) : lentStall r c s = .ok () s := by simp [lentStall, h]

theorem freeDest_run {s : State} {d : Reg} (h : (s.tile.rc d).lent = false) : freeDest d s = .ok () s := by
  simp [freeDest, act_bind, getC_run, lentStall_run h]

theorem sourceCap_run {s : State} (ha : s.armed = []) (r : Reg) (host : Bool) (h : (s.tile.rc r).kind ≠ .null) (h6 : (s.tile.rc r).kind ≠ .handle)
    (h7 : (s.tile.rc r).kind ≠ .slot) (h5 : host = true ∨ (s.tile.rc r).kind ≠ .host) : sourceCap r host s = .ok (s.tile.rc r) s := by
  have : (host || decide ((s.tile.rc r).kind ≠ .host)) = true := by rcases h5 with h5 | h5 <;> simp [h5]
  simp only [ne_eq, decide_not] at this
  simp [sourceCap, act_bind, act_map, useCap_quiet ha, requireCap_run, guardKind, h, h6, h7, this]

/-! ### A store at a home (R66, R151, R330) -/

theorem foldl_fix {α β : Type} {f : β → α → β} {s : β} (h : ∀ a, f s a = s) (l : List α) : l.foldl f s = s := by
  induction l with
  | nil => rfl
  | cons a l ih => rw [List.foldl_cons, h, ih]

theorem copyLevel_le {s : State} (hl : s.levels = []) (h : HomeId) (b line t : Nat) : ∀ k, s.copyLevel h b line t k ≤ t
  | 0 => Nat.zero_le t
  | k + 1 => by
    have := copyLevel_le hl h b line t k
    simp only [State.copyLevel, State.covers, hl, List.any_nil, Bool.not_false, Bool.and_true]
    split <;> simp_all

/-- With no level, no line needs a copy first (R151). -/
theorem firstWrites_yes {s : State} (hl : s.levels = []) (q : Claim) : ∀ ls, s.firstWrites q ls = .yes s
  | [] => rfl
  | l :: ls => by
    have : s.firstWrite q l = .yes s := by
      simp only [State.firstWrite, failLevels_none hl]
      cases s.entry q.home q.buffer <;> simp [copyLevel_le hl]
    simp [State.firstWrites, this, firstWrites_yes hl q ls]

/-- Bytes of a TMEM home lie at their offsets (R32). -/
theorem locateBytes_tile (s : State) {q : Claim} {i : Nat} (hq : q.home = .tile i) (a base : Nat) :
    ∀ bs, s.locateBytes q a base bs = (some (bs.map fun p => ((Space.tmem i).base + (base + p.1), p.2)), s)
  | [] => rfl
  | (o, b) :: bs => by simp [State.locateBytes, State.locate, hq, locateBytes_tile s hq a base bs, HomeId.space]

theorem detect_unarmed {s : State} (h : s.armed = []) (m : HomeId) (b off k : Nat) : s.detect m b off k = s := by simp [State.detect, h]

theorem disarm_unarmed {s : State} (h : s.armed = []) (k : Nat) : s.disarm k = s := by
  cases s
  simp_all [State.disarm]

/-- A store that passes the check of a TMEM home, in a settled state, writes its bytes and nothing else. -/
theorem applyStore_tile {s : State} (hs : s.Settled) {q : Claim} {i : Nat} (hq : q.home = .tile i) (base log : Nat)
    (bytes : List (Nat × Byte)) (clean : List Nat)
    (hc : s.checkAccess q base ((bytes.map (·.1)).foldl min (2 ^ 48))
      ((bytes.map (·.1)).foldl max 0 + 1 - (bytes.map (·.1)).foldl min (2 ^ 48)) 1 0 = none) :
    s.applyStore q base log bytes [] clean false =
      .done { s with mem := s.mem.writeCells (bytes.map fun p => ((Space.tmem i).base + (base + p.1), p.2)) } := by
  unfold State.applyStore
  split
  · rename_i h
    rw [List.isEmpty_iff] at h
    subst h
    rfl
  · have hsc (a : Nat) : s.sliceCheck q a = s := by simp [State.sliceCheck, hq]
    simp only [hsc, hc, firstWrites_yes hs.levels, locateBytes_tile s hq]
    rw [foldl_fix (s := s) (fun a => by split <;> [exact disarm_unarmed hs.armed _; exact detect_unarmed hs.armed _ _ _ _])]
    generalize hu : ({ s with mem := _ } : State) = u
    have hp : u.poison = [] := by rw [← hu]; exact hs.poison
    rw [foldl_fix (s := u) (fun a => by simp only [List.contains_nil, Bool.false_and, Bool.false_eq_true, if_false]),
      cleanBytes_unpoisoned (fun p _ => by simp [State.poisoned, hp])]

/-! ### Buffer numbers -/

/-- A search for a number that fails has met only numbers in use. -/
theorem freshFrom_none {s : State} {h : HomeId} {start step : Nat} : ∀ {n i : Nat}, start + step * (i + n) < 2 ^ 24 → s.freshFrom h start step n i = none →
    ∀ j < n, start + step * (i + j) ∈ s.dirs.map (·.number)
  | 0, _, _, _, j, hj => absurd hj (Nat.not_lt_zero j)
  | n + 1, i, hb, hn, j, hj => by
    have hi : start + step * i < 2 ^ 24 := Nat.lt_of_le_of_lt (Nat.add_le_add_left (Nat.mul_le_mul_left _ (by omega)) _) hb
    simp only [State.freshFrom, ge_iff_le, Nat.not_le.mpr hi, if_false] at hn
    split at hn
    · next hu =>
      cases j with
      | zero =>
        obtain ⟨e, he, hx⟩ := List.any_eq_true.mp hu
        simp only [Bool.and_eq_true, decide_eq_true_eq] at hx
        exact List.mem_map.mpr ⟨e, he, by simpa using hx.1.2⟩
      | succ j =>
        have := freshFrom_none (n := n) (i := i + 1) (by rw [show i + 1 + n = i + (n + 1) by omega]; exact hb) hn j (by omega)
        rwa [show i + (j + 1) = i + 1 + j by omega]
    · cases hn

/-- A home with room in its number space has a number left to issue (R73). -/
theorem freshNumber_isSome {s : State} {h : HomeId} (hl : s.dirs.length < 2 ^ 21) (hd : ∀ d, h = .die d → d < 4) : (s.freshNumber h).isSome = true := by
  by_contra hc
  simp only [Bool.not_eq_true, Option.isSome_eq_false_iff, Option.isNone_iff_eq_none] at hc
  obtain ⟨start, step, hp, hs, h4, h3⟩ : ∃ start step, numberStep h = (start, step) ∧ start < 4 ∧ step ≤ 4 ∧ 0 < step := by
    cases h with
    | die d => exact ⟨d, 4, rfl, hd d rfl, by omega, by omega⟩
    | _ => exact ⟨0, 1, rfl, by omega, by omega, by omega⟩
  simp only [State.freshNumber, hp] at hc
  have hb : start + step * (0 + (s.dirs.length + 1)) < 2 ^ 24 := by
    have : step * (0 + (s.dirs.length + 1)) ≤ 4 * (0 + (s.dirs.length + 1)) := Nat.mul_le_mul_right _ h4
    omega
  have hm := freshFrom_none hb hc
  have hsub : (List.range (s.dirs.length + 1)).map (fun j => start + step * (0 + j)) ⊆ s.dirs.map (·.number) := by
    intro x hx
    obtain ⟨j, hj, rfl⟩ := List.mem_map.mp hx
    exact hm j (List.mem_range.mp hj)
  have hnd : ((List.range (s.dirs.length + 1)).map (fun j => start + step * (0 + j))).Nodup :=
    List.nodup_range.map (fun a b hab => by
      have := Nat.eq_of_mul_eq_mul_left h3 (Nat.add_left_cancel hab)
      omega)
  have := (List.subperm_of_subset hnd hsub).length_le
  simp at this

end Sys2Proof.Machine
end

