-- ==== Sys2Proof/Laws/Memory.lean ====
section
/-! SUPPORT. Memory: a read after a write, and the canonical form that every memory operation keeps. -/

namespace Sys2Proof.Machine

open Sys2Proof

/-! ### Reads after writes -/

theorem mem_read_without_same (m : Memory) (a : Nat) : (Memory.without m a).read a = 0 := by
  induction m with
  | nil => rfl
  | cons p m ih =>
    obtain ⟨k, c⟩ := p
    by_cases h : k = a <;> simp [Memory.without, Memory.read, h, ih]

theorem mem_read_without_other (m : Memory) {a k : Nat} (h : k ≠ a) : (Memory.without m a).read k = m.read k := by
  induction m with
  | nil => rfl
  | cons p m ih =>
    obtain ⟨j, c⟩ := p
    by_cases hj : j = a
    · subst hj
      rw [Memory.without, if_pos rfl, ih, Memory.read, if_neg (Ne.symm h)]
    · rw [Memory.without, if_neg hj, Memory.read, Memory.read, ih]

/-- A read of the key that was stored at gives the byte. -/
@[simp] theorem mem_read_write_same (m : Memory) (a : Nat) (b : Byte) : (m.write a b).read a = b := by
  induction m with
  | nil =>
    rw [Memory.write]
    split
    · next h => rw [h]; rfl
    · rw [Memory.read, if_pos rfl]
  | cons p m ih =>
    obtain ⟨k, c⟩ := p
    rw [Memory.write]
    split
    · next h1 =>
      split
      · next hb => rw [Memory.read, if_neg (by omega), mem_read_without_same, hb]
      · rw [Memory.read, if_pos rfl]
    · next h1 =>
      split
      · split
        · next hb => rw [mem_read_without_same, hb]
        · rw [Memory.read, if_pos rfl]
      · next h2 => rw [Memory.read, if_neg (fun h => h2 h.symm), ih]

/-- A read of any other key gives what it gave before. -/
theorem mem_read_write_other (m : Memory) {a k : Nat} (b : Byte) (h : k ≠ a) : (m.write a b).read k = m.read k := by
  induction m with
  | nil =>
    rw [Memory.write]
    split
    · rfl
    · exact if_neg (Ne.symm h)
  | cons p m ih =>
    obtain ⟨j, c⟩ := p
    have hr : Memory.read ((j, c) :: Memory.without m a) k = Memory.read ((j, c) :: m) k := by
      rw [Memory.read, Memory.read, mem_read_without_other _ h]
    rw [Memory.write]
    split
    · split
      · exact hr
      · rw [Memory.read, if_neg (Ne.symm h), hr]
    · split
      · next h2 =>
        subst h2
        split
        · rw [mem_read_without_other _ h, Memory.read, if_neg (Ne.symm h)]
        · rw [Memory.read, if_neg (Ne.symm h), mem_read_without_other _ h, Memory.read, if_neg (Ne.symm h)]
      · rw [Memory.read, Memory.read, ih]

theorem mem_read_write (m : Memory) (a k : Nat) (b : Byte) : (m.write a b).read k = if k = a then b else m.read k := by
  by_cases h : k = a
  · subst h; simp
  · simp [h, mem_read_write_other m b h]

theorem mem_read_writeN_outside (m : Memory) (a : Nat) (bs : List Byte) {k : Nat} (h : k < a ∨ a + bs.length ≤ k) :
    (m.writeN a bs).read k = m.read k := by
  induction bs generalizing m a with
  | nil => rfl
  | cons b bs ih =>
    simp only [List.length_cons] at h
    rw [Memory.writeN, ih _ _ (by omega), mem_read_write_other _ _ (by omega)]

theorem mem_read_writeN_inside (m : Memory) (a : Nat) (bs : List Byte) (i : Nat) (h : i < bs.length) :
    (m.writeN a bs).read (a + i) = bs[i] := by
  induction bs generalizing m a i with
  | nil => simp at h
  | cons b bs ih =>
    cases i with
    | zero => simp [Memory.writeN, mem_read_writeN_outside _ (a + 1) bs (Or.inl (Nat.lt_succ_self a))]
    | succ i =>
      have := ih (m.write a b) (a + 1) i (by simpa using h)
      rw [Memory.writeN, show a + (i + 1) = a + 1 + i by omega, this]
      rfl

theorem mem_read_writeCells_outside (m : Memory) (cs : List (Nat × Byte)) {k : Nat} (h : ∀ p ∈ cs, p.1 ≠ k) :
    (m.writeCells cs).read k = m.read k := by
  induction cs generalizing m with
  | nil => rfl
  | cons p cs ih =>
    obtain ⟨a, b⟩ := p
    rw [Memory.writeCells, ih _ (fun q hq => h q (List.mem_cons_of_mem _ hq)),
      mem_read_write_other _ _ (Ne.symm (h (a, b) List.mem_cons_self))]

/-- Of cells with different keys each is read back. -/
theorem mem_read_writeCells_inside (m : Memory) (cs : List (Nat × Byte)) (hn : (cs.map (·.1)).Nodup) {k : Nat} {b : Byte} (h : (k, b) ∈ cs) :
    (m.writeCells cs).read k = b := by
  induction cs generalizing m with
  | nil => simp at h
  | cons p cs ih =>
    obtain ⟨a, c⟩ := p
    simp only [List.map_cons, List.nodup_cons] at hn
    rcases List.mem_cons.mp h with h | h
    · cases h
      rw [Memory.writeCells, mem_read_writeCells_outside]
      · simp
      · exact fun q hq he => hn.1 (List.mem_map.mpr ⟨q, hq, he⟩)
    · exact ih _ hn.2 h

theorem mem_read_zero (m : Memory) (a n k : Nat) : (Memory.zero m a n).read k = if a ≤ k ∧ k < a + n then 0 else m.read k := by
  induction m with
  | nil => simp [Memory.zero, Memory.read]
  | cons p m ih =>
    obtain ⟨j, c⟩ := p
    by_cases hj : a ≤ j ∧ j < a + n
    · have : Memory.zero ((j, c) :: m) a n = Memory.zero m a n := by simp [Memory.zero, hj]
      rw [this, ih]
      by_cases hk : a ≤ k ∧ k < a + n
      · simp [hk]
      · have : j ≠ k := by rintro rfl; exact hk hj
        simp [hk, Memory.read, this]
    · have : Memory.zero ((j, c) :: m) a n = (j, c) :: Memory.zero m a n := List.filter_cons_of_pos (by
        rw [Bool.not_eq_true', ← Bool.not_eq_true, Bool.and_eq_true, decide_eq_true_eq, decide_eq_true_eq]; exact hj)
      rw [this, Memory.read, ih]
      by_cases hk : j = k
      · subst hk; simp [hj, Memory.read]
      · simp [Memory.read, hk]

/-! ### The canonical form -/

/-- The cells of a memory of the canonical form whose keys are all above `lo`. -/
def Memory.above (lo : Nat) (m : Memory) : Prop := m.wf = true ∧ ∀ p ∈ m, lo < p.1

theorem wf_cons (k : Nat) (b : Byte) (m : Memory) : Memory.wf ((k, b) :: m) = true ↔ b ≠ 0 ∧ m.above k := by
  induction m generalizing k b with
  | nil => simp [Memory.wf, Memory.above]
  | cons p m ih =>
    obtain ⟨j, c⟩ := p
    simp only [Memory.wf, Bool.and_eq_true, decide_eq_true_eq, Memory.above, List.mem_cons, forall_eq_or_imp]
    constructor
    · rintro ⟨⟨h1, h2⟩, h3⟩
      exact ⟨h1, h3, h2, fun p hp => lt_trans h2 (((ih j c).mp h3).2.2 p hp)⟩
    · rintro ⟨h1, h2, h3, -⟩
      exact ⟨⟨h1, h3⟩, h2⟩

theorem above_filter {lo : Nat} {m : Memory} (h : m.above lo) (f : Host.Cell → Bool) : Memory.above lo (m.filter f) := by
  induction m generalizing lo with
  | nil => exact h
  | cons p m ih =>
    obtain ⟨k, b⟩ := p
    obtain ⟨hw, hl⟩ := h
    obtain ⟨hb, hm⟩ := (wf_cons k b m).mp hw
    have hk : lo < k := hl (k, b) List.mem_cons_self
    by_cases hf : f (k, b)
    · rw [List.filter_cons_of_pos hf]
      refine ⟨(wf_cons _ _ _).mpr ⟨hb, ih hm⟩, fun q hq => ?_⟩
      rcases List.mem_cons.mp hq with rfl | hq
      · exact hk
      · exact lt_trans hk ((ih hm).2 q hq)
    · rw [List.filter_cons_of_neg hf]
      exact ⟨(ih hm).1, fun q hq => lt_trans hk ((ih hm).2 q hq)⟩

/-- Dropping cells keeps the canonical form. -/
theorem wf_filter {m : Memory} (h : m.wf = true) (f : Host.Cell → Bool) : Memory.wf (m.filter f) = true := by
  cases m with
  | nil => exact h
  | cons p m =>
    obtain ⟨k, b⟩ := p
    obtain ⟨hb, hm⟩ := (wf_cons k b m).mp h
    by_cases hf : f (k, b)
    · rw [List.filter_cons_of_pos hf]
      exact (wf_cons _ _ _).mpr ⟨hb, above_filter hm f⟩
    · rw [List.filter_cons_of_neg hf]
      exact (above_filter hm f).1

theorem without_eq_filter (m : Memory) (a : Nat) : Memory.without m a = m.filter fun c => decide (c.1 ≠ a) := by
  induction m with
  | nil => rfl
  | cons p m ih =>
    obtain ⟨k, b⟩ := p
    by_cases h : k = a <;> simp [Memory.without, h, ih]

theorem above_write {lo : Nat} {m : Memory} (h : m.above lo) {a : Nat} (ha : lo < a) (b : Byte) : (m.write a b).above lo := by
  induction m generalizing lo with
  | nil =>
    rw [Memory.write]
    split
    · exact h
    · next hb => exact ⟨(wf_cons _ _ _).mpr ⟨hb, rfl, by simp⟩, by simpa using ha⟩
  | cons p m ih =>
    obtain ⟨k, c⟩ := p
    obtain ⟨hw, hl⟩ := h
    obtain ⟨hc, hm⟩ := (wf_cons k c m).mp hw
    have hk : lo < k := hl (k, c) List.mem_cons_self
    have cons {k' : Nat} {c' : Byte} {m' : Memory} (h1 : lo < k') (h2 : c' ≠ 0) (h3 : m'.above k') : Memory.above lo ((k', c') :: m') :=
      ⟨(wf_cons _ _ _).mpr ⟨h2, h3⟩, fun q hq => by
        rcases List.mem_cons.mp hq with rfl | hq
        · exact h1
        · exact lt_trans h1 (h3.2 q hq)⟩
    have hw' : Memory.above k (Memory.without m a) := by rw [without_eq_filter]; exact above_filter hm _
    rw [Memory.write]
    split
    · next h1 =>
      split
      · exact cons hk hc hw'
      · next hb =>
        exact cons ha hb ⟨(wf_cons _ _ _).mpr ⟨hc, hw'⟩, fun q hq => by
          rcases List.mem_cons.mp hq with rfl | hq
          · exact h1
          · exact lt_trans h1 (hw'.2 q hq)⟩
    · split
      · next h2 =>
        subst h2
        split
        · exact ⟨hw'.1, fun q hq => lt_trans hk (hw'.2 q hq)⟩
        · next hb => exact cons hk hb hw'
      · next h1 h2 => exact cons hk hc (ih hm (by omega))

/-- A store of one byte keeps the canonical form. -/
theorem wf_write {m : Memory} (h : m.wf = true) (a : Nat) (b : Byte) : (m.write a b).wf = true := by
  cases m with
  | nil =>
    rw [Memory.write]
    split
    · exact h
    · next hb => exact (wf_cons _ _ _).mpr ⟨hb, rfl, by simp⟩
  | cons p m =>
    obtain ⟨k, c⟩ := p
    obtain ⟨hc, hm⟩ := (wf_cons k c m).mp h
    have hw' : Memory.above k (Memory.without m a) := by rw [without_eq_filter]; exact above_filter hm _
    rw [Memory.write]
    split
    · next h1 =>
      split
      · exact (wf_cons _ _ _).mpr ⟨hc, hw'⟩
      · next hb =>
        exact (wf_cons _ _ _).mpr ⟨hb, (wf_cons _ _ _).mpr ⟨hc, hw'⟩, fun q hq => by
          rcases List.mem_cons.mp hq with rfl | hq
          · exact h1
          · exact lt_trans h1 (hw'.2 q hq)⟩
    · split
      · next h2 =>
        subst h2
        split
        · exact hw'.1
        · next hb => exact (wf_cons _ _ _).mpr ⟨hb, hw'⟩
      · next h1 h2 => exact (wf_cons _ _ _).mpr ⟨hc, above_write hm (by omega) b⟩

/-- A store of bytes keeps the canonical form. -/
theorem wf_writeN {m : Memory} (h : m.wf = true) (a : Nat) (bs : List Byte) : (m.writeN a bs).wf = true := by
  induction bs generalizing m a with
  | nil => exact h
  | cons b bs ih => exact ih (wf_write h a b) (a + 1)

/-- A store of cells keeps the canonical form. -/
theorem wf_writeCells {m : Memory} (h : m.wf = true) (cs : List (Nat × Byte)) : (m.writeCells cs).wf = true := by
  induction cs generalizing m with
  | nil => exact h
  | cons p cs ih => exact ih (wf_write h p.1 p.2)

/-- Zeroing a range keeps the canonical form. -/
theorem wf_zero {m : Memory} (h : m.wf = true) (a n : Nat) : (Memory.zero m a n).wf = true := wf_filter h _

/-! ### Little-endian numbers (R7) -/

@[simp] theorem leBytes_length (n v : Nat) : (leBytes n v).length = n := by
  induction n generalizing v with
  | zero => rfl
  | succ n ih => simp [leBytes, ih]

theorem leNat_lt (bs : List Byte) : leNat bs < 2 ^ (8 * bs.length) := by
  induction bs with
  | nil => simp [leNat]
  | cons b bs ih =>
    have : b.toNat < 256 := b.isLt
    rw [leNat, List.length_cons, show 8 * (bs.length + 1) = 8 * bs.length + 8 by omega, Nat.pow_add]
    omega

theorem leNat_leBytes (n v : Nat) : leNat (leBytes n v) = v % 2 ^ (8 * n) := by
  induction n generalizing v with
  | zero => simp [leNat, leBytes, Nat.mod_one]
  | succ n ih =>
    rw [leBytes, leNat, ih, BitVec.toNat_ofNat, show 8 * (n + 1) = 8 + 8 * n by omega, Nat.pow_add, Nat.mod_mul]

end Sys2Proof.Machine
end

