-- ==== Sys2Proof/Laws/Integer.lean ====
section
/-! SUPPORT. What the shared operations of the integer, load, store, branch and CSR instructions do. -/

namespace Sys2Proof.Machine

open Sys2Proof

theorem aluImm_plain {s : State} (h : s.Plain) (i : Instr) (d a : Reg) (f : Word → Word) :
    aluImm i d a f s = .next (s.wroteX d (f (s.tile.rx a))) := by
  unfold aluImm
  rw [run_ok (t := { s with tile := s.tile.setX d (f (s.tile.rx a)) }) h.toQuiet (misplaced_plain h.kpre)]
  · rfl
  · simp [act_bind, getX_quiet h.armed, setX_quiet h.toQuiet]

theorem aluReg_quiet {s : State} (h : s.Quiet) {b : Reg} (hb : s.TakesRs2 b) (i : Instr) (d a : Reg) (f : Word → Word → Word) :
    aluReg i d a b f s = .next (s.wroteX d (f (s.tile.rx a) (s.rs2Of b))) := by
  unfold aluReg
  rw [run_ok (t := { s with tile := s.tile.setX d (f (s.tile.rx a) (s.rs2Of b)) }) h (misplaced_rs2 hb)]
  · rfl
  · simp [act_bind, getX_quiet h.armed, rs2_quiet h.armed, setX_quiet h]

theorem readPrivate_quiet {s : State} (h : s.armed = []) (ea : Word) : readPrivate ea s = .ok () s := by
  simp [readPrivate, State.detect, h]

theorem loadPrivate_ok {s : State} {ea : Word} {n : Nat} (ha : s.armed = []) (h : s.canLoad ea n) : loadPrivate ea n s = .ok (s.ownBytes ea n) s := by
  obtain ⟨h1, h2, h3⟩ := h
  simp [loadPrivate, checkPrivate, act_bind, h1, h2, h3, readPrivate_quiet ha, State.ownBytes]

theorem load_plain {s : State} (h : s.Plain) (i : Instr) (d a : Reg) (imm : BitVec 12) (n : Nat) (f : Nat → Word)
    (hl : s.canLoad (s.tile.rx a + sext imm) n) :
    load i d a imm n f s = .next (s.wroteX d (f (s.ownBytes (s.tile.rx a + sext imm) n))) := by
  unfold load
  rw [run_ok (t := { s with tile := s.tile.setX d (f (s.ownBytes (s.tile.rx a + sext imm) n)) }) h.toQuiet (misplaced_plain h.kpre)]
  · rfl
  · simp [act_bind, getX_quiet h.armed, loadPrivate_ok h.armed hl, setX_quiet h.toQuiet]

/-- The bytes of an aligned access of 1, 2, 4 or 8 bytes lie in one sector. -/
theorem same_sector (tile : Nat) {a n i : Nat} (h : n ∣ 64) (ha : a % n = 0) (hi : i < n) :
    (tmemKey tile a + i) / 64 = tmemKey tile a / 64 := by
  obtain ⟨k, rfl⟩ := Nat.dvd_of_mod_eq_zero ha
  obtain ⟨m, hm⟩ := h
  have hb : tmemKey tile (n * k) = 64 * (tile * 2 ^ 50) + n * k := by
    simp only [tmemKey, Space.base]
    omega
  rw [hb, Nat.add_assoc, Nat.mul_add_div (by norm_num), Nat.mul_add_div (by norm_num), hm, ← Nat.div_div_eq_div_mul, ← Nat.div_div_eq_div_mul,
    Nat.mul_add_div (by omega), Nat.div_eq_of_lt hi, Nat.mul_div_cancel_left k (by omega), Nat.add_zero]

theorem storePrivate_ok {s : State} {ea : Word} {n : Nat} {v : Word} (ha : s.armed = []) (hn : n ∣ 64) (h1 : ea.toNat % n = 0)
    (h2 : s.tile.privateAllows ea.toNat n true = true) (h3 : s.poisoned (tmemKey s.tile.index ea.toNat / 64) = false) :
    storePrivate ea n v s = .ok () { s with mem := s.mem.writeN (tmemKey s.tile.index ea.toNat) (leBytes n v.toNat) } := by
  have key : ∀ p ∈ (List.range n).map fun i => (ea.toNat + i, tmemKey s.tile.index ea.toNat + i), s.poisoned (p.2 / 64) = false := by
    intro p hp
    simp only [List.mem_map, List.mem_range] at hp
    obtain ⟨i, hi, rfl⟩ := hp
    show s.poisoned _ = false
    rw [same_sector _ hn h1 hi]
    exact h3
  have clean := cleanBytes_unpoisoned (s := { s with mem := s.mem.writeN (tmemKey s.tile.index ea.toNat) (leBytes n v.toNat) }) key
    (.tile s.tile.index) (2 ^ 24) 0 s.tile.index
  have check : checkPrivate ea n true s = .ok () s := by simp [checkPrivate, act_bind, h1, h2]
  simp only [storePrivate, act_bind, check, readPrivate_quiet ha, act_get, clean, act_set]

theorem leBytes_getElem (n v i : Nat) (h : i < (leBytes n v).length) : (leBytes n v)[i] = BitVec.ofNat 8 (v / 2 ^ (8 * i)) := by
  induction n generalizing v i with
  | zero => simp [leBytes] at h
  | succ n ih =>
    cases i with
    | zero => simp [leBytes]
    | succ i =>
      have h' : i < (leBytes n (v / 256)).length := by simpa [leBytes] using h
      simp only [leBytes, List.getElem_cons_succ, ih _ _ h', Nat.div_div_eq_div_mul]
      congr 2
      rw [show 8 * (i + 1) = 8 + 8 * i by omega, Nat.pow_add]

/-- The memory after a store of the low bytes of a word holds them, and nothing else has changed. -/
theorem storedOwn_writeN (s : State) (ea v : Word) (n : Nat) :
    s.storedOwn { s with mem := s.mem.writeN (tmemKey s.tile.index ea.toNat) (leBytes n v.toNat), tile := s.tile.retire } ea v n := by
  refine ⟨⟨fun i hi => ?_, fun k hk => ?_⟩, rfl⟩
  · have h := mem_read_writeN_inside s.mem (tmemKey s.tile.index ea.toNat) (leBytes n v.toNat) i (by simpa using hi)
    refine h.trans ?_
    rw [leBytes_getElem]
    apply BitVec.eq_of_toNat_eq
    simp [BitVec.extractLsb'_toNat, Nat.shiftRight_eq_div_pow]
  · exact mem_read_writeN_outside _ _ _ (by simpa using hk)

theorem store_quiet {s : State} (h : s.Quiet) (i : Instr) (a b : Reg) (imm : BitVec 12) {n : Nat} (hn : n ∣ 64) (hb : s.TakesRs2 b)
    (h1 : (s.tile.rx a + sext imm).toNat % n = 0) (h2 : s.tile.privateAllows (s.tile.rx a + sext imm).toNat n true = true)
    (h3 : s.poisoned (tmemKey s.tile.index (s.tile.rx a + sext imm).toNat / 64) = false) :
    ∃ t, store i a b imm n s = .next t ∧ s.storedOwn t (s.tile.rx a + sext imm) (s.rs2Of b) n := by
  refine ⟨_, ?_, storedOwn_writeN s _ _ n⟩
  unfold store
  rw [run_ok (t := { s with mem := s.mem.writeN (tmemKey s.tile.index (s.tile.rx a + sext imm).toNat) (leBytes n (s.rs2Of b).toNat) }) h (misplaced_rs2 hb)]
  · rfl
  · simp [act_bind, getX_quiet h.armed, rs2_quiet h.armed, storePrivate_ok h.armed hn h1 h2 h3]

theorem branch_quiet {s : State} (h : s.Quiet) (hl : s.tile.atLoopEnd = false) (i : Instr) (a b : Reg) (imm : BitVec 12) (hb : s.TakesRs2 b)
    (f : Word → Word → Bool) : branch i a b imm f s = .next (s.branched (f (s.tile.rx a) (s.rs2Of b)) (s.tile.pc + branchOffset imm)) := by
  unfold branch
  have hm : s.tile.misplaced { rs2 := some b, jump := true } = false := by
    rcases hb with hb | hb <;> simp [Tile.misplaced, hl, hb]
  rw [run_quiet h _ _ hm]
  by_cases h1 : f (s.tile.rx a) (s.rs2Of b)
  · by_cases h2 : (s.tile.pc + branchOffset imm).toNat % 4 = 0 <;>
    simp only [act_bind, getX_quiet h.armed, rs2_quiet h.armed, h1, h2, jumpTo, State.branched, act_ite, ite_true, ite_false, curTile_run, ne_eq,
      not_true_eq_false, not_false_eq_true, onTile_run, act_throw, finish_leave, trap_run, finish_trap, trapFrom_self, Bool.not_true, Bool.false_eq_true, act_pure]
  · simp only [act_bind, getX_quiet h.armed, rs2_quiet h.armed, h1, State.branched, act_ite, ite_false, ite_true, Bool.false_eq_true, act_pure, finish_ok,
      Bool.not_false, State.retired]

theorem csrOp_refused {s : State} (h : s.Plain) (i : Instr) (d : Reg) (csr : BitVec 12) (w : Bool) (src : Act Word) (f : Word → Word → Word)
    (hn : ¬ s.mayCsr csr.toNat w) : csrOp i d csr w src f s = .next (s.takeTrap 2 (instrWord i)) := by
  unfold csrOp
  rw [run_quiet h.toQuiet _ _ (misplaced_plain h.kpre)]
  have hc : (!csrExists csr.toNat || csrMachine csr.toNat && s.tile.mode = .u || w && csrReadOnly csr.toNat) = true := by
    simp only [State.mayCsr] at hn
    revert hn
    cases csrExists csr.toNat <;> cases csrMachine csr.toNat <;> cases w <;> cases csrReadOnly csr.toNat <;> simp
  simp only [act_bind, curTile_run, hc, ite_true, act_ite, illegal_run, finish_trap, trapFrom_self]

end Sys2Proof.Machine
end

