-- ==== Sys2Proof/Laws/State.lean ====
section
/-! SUPPORT. What the updates of a tile and of the state leave alone: one lemma for each field. -/

namespace Sys2Proof.Machine

open Sys2Proof

/-! ### What an update can change -/

theorem Tile.setX_eq (t : Tile) (r : Reg) (v : Word) : t.setX r v = { t with x := (t.setX r v).x } := by
  unfold Tile.setX; split <;> rfl

theorem Tile.setC_eq (t : Tile) (r : Reg) (c : Cap) : t.setC r c = { t with c := (t.setC r c).c, cBank := (t.setC r c).cBank } := by
  unfold Tile.setC Tile.setCBank
  split
  · rfl
  · split
    · rfl
    · split <;> rfl

theorem Tile.loopBack_eq (t : Tile) (n : Word) : t.loopBack n = { t with loop := (t.loopBack n).loop, pc := (t.loopBack n).pc } := by
  unfold Tile.loopBack; split <;> rfl

theorem Tile.count_eq (t : Tile) (k n : Nat) : t.count k n = { t with pmc := (t.count k n).pmc } := by
  unfold Tile.count; split <;> rfl

theorem Tile.retire_eq (t : Tile) : t.retire =
    { t with pc := t.retire.pc, loop := t.retire.loop, minstret := t.retire.minstret, pmc := t.retire.pmc, kpre := none, wait := none, answer := none,
             asks := t.asks.filter (·.held), debugStep := none, halted := t.retire.halted } := by
  have h := Tile.count_eq (t.loopBack (t.pc + 4)) 2 1
  rw [Tile.loopBack_eq] at h
  have key : ∀ u : Tile, u = { t with loop := u.loop, pc := u.pc, pmc := u.pmc } →
      ({ u with minstret := u.minstret + 1, kpre := none, wait := none, answer := none, asks := u.asks.filter (·.held), debugStep := none,
                halted := u.halted || u.debugStep.isSome } : Tile) =
      { t with pc := u.pc, loop := u.loop, minstret := u.minstret + 1, pmc := u.pmc, kpre := none, wait := none, answer := none,
               asks := t.asks.filter (·.held), debugStep := none,
               halted := u.halted || u.debugStep.isSome } := by
    intro u hu; rw [hu]
  refine key ((t.loopBack (t.pc + 4)).count 2 1) ?_
  rw [Tile.count_eq, Tile.loopBack_eq]

theorem State.mapTile_eq (s : State) (i : Nat) (f : Tile → Tile) : s.mapTile i f = { s with tile := (s.mapTile i f).tile, others := (s.mapTile i f).others } := by
  unfold State.mapTile; split <;> rfl

/-! ### `Tile.setX` -/

@[simp] theorem Tile.setX_index (t : Tile) (r : Reg) (v : Word) : (t.setX r v).index = t.index := by rw [Tile.setX_eq]
@[simp] theorem Tile.setX_homeName (t : Tile) (r : Reg) (v : Word) : (t.setX r v).homeName = t.homeName := by rw [Tile.setX_eq]
@[simp] theorem Tile.setX_mode (t : Tile) (r : Reg) (v : Word) : (t.setX r v).mode = t.mode := by rw [Tile.setX_eq]
@[simp] theorem Tile.setX_level (t : Tile) (r : Reg) (v : Word) : (t.setX r v).level = t.level := by rw [Tile.setX_eq]
@[simp] theorem Tile.setX_pc (t : Tile) (r : Reg) (v : Word) : (t.setX r v).pc = t.pc := by rw [Tile.setX_eq]
@[simp] theorem Tile.setX_v (t : Tile) (r : Reg) (v : Word) : (t.setX r v).v = t.v := by rw [Tile.setX_eq]
@[simp] theorem Tile.setX_c (t : Tile) (r : Reg) (v : Word) : (t.setX r v).c = t.c := by rw [Tile.setX_eq]
@[simp] theorem Tile.setX_cBank (t : Tile) (r : Reg) (v : Word) : (t.setX r v).cBank = t.cBank := by rw [Tile.setX_eq]
@[simp] theorem Tile.setX_kpre (t : Tile) (r : Reg) (v : Word) : (t.setX r v).kpre = t.kpre := by rw [Tile.setX_eq]
@[simp] theorem Tile.setX_vlen (t : Tile) (r : Reg) (v : Word) : (t.setX r v).vlen = t.vlen := by rw [Tile.setX_eq]
@[simp] theorem Tile.setX_vmk (t : Tile) (r : Reg) (v : Word) : (t.setX r v).vmk = t.vmk := by rw [Tile.setX_eq]
@[simp] theorem Tile.setX_vfmt (t : Tile) (r : Reg) (v : Word) : (t.setX r v).vfmt = t.vfmt := by rw [Tile.setX_eq]
@[simp] theorem Tile.setX_rmode (t : Tile) (r : Reg) (v : Word) : (t.setX r v).rmode = t.rmode := by rw [Tile.setX_eq]
@[simp] theorem Tile.setX_rsat (t : Tile) (r : Reg) (v : Word) : (t.setX r v).rsat = t.rsat := by rw [Tile.setX_eq]
@[simp] theorem Tile.setX_srseed (t : Tile) (r : Reg) (v : Word) : (t.setX r v).srseed = t.srseed := by rw [Tile.setX_eq]
@[simp] theorem Tile.setX_mxmode (t : Tile) (r : Reg) (v : Word) : (t.setX r v).mxmode = t.mxmode := by rw [Tile.setX_eq]
@[simp] theorem Tile.setX_btag (t : Tile) (r : Reg) (v : Word) : (t.setX r v).btag = t.btag := by rw [Tile.setX_eq]
@[simp] theorem Tile.setX_loop (t : Tile) (r : Reg) (v : Word) : (t.setX r v).loop = t.loop := by rw [Tile.setX_eq]
@[simp] theorem Tile.setX_wlimit (t : Tile) (r : Reg) (v : Word) : (t.setX r v).wlimit = t.wlimit := by rw [Tile.setX_eq]
@[simp] theorem Tile.setX_rank (t : Tile) (r : Reg) (v : Word) : (t.setX r v).rank = t.rank := by rw [Tile.setX_eq]
@[simp] theorem Tile.setX_msgsent (t : Tile) (r : Reg) (v : Word) : (t.setX r v).msgsent = t.msgsent := by rw [Tile.setX_eq]
@[simp] theorem Tile.setX_msgrecv (t : Tile) (r : Reg) (v : Word) : (t.setX r v).msgrecv = t.msgrecv := by rw [Tile.setX_eq]
@[simp] theorem Tile.setX_gang (t : Tile) (r : Reg) (v : Word) : (t.setX r v).gang = t.gang := by rw [Tile.setX_eq]
@[simp] theorem Tile.setX_waitinfo (t : Tile) (r : Reg) (v : Word) : (t.setX r v).waitinfo = t.waitinfo := by rw [Tile.setX_eq]
@[simp] theorem Tile.setX_rgncause (t : Tile) (r : Reg) (v : Word) : (t.setX r v).rgncause = t.rgncause := by rw [Tile.setX_eq]
@[simp] theorem Tile.setX_mcapinfo (t : Tile) (r : Reg) (v : Word) : (t.setX r v).mcapinfo = t.mcapinfo := by rw [Tile.setX_eq]
@[simp] theorem Tile.setX_logSelect (t : Tile) (r : Reg) (v : Word) : (t.setX r v).logSelect = t.logSelect := by rw [Tile.setX_eq]
@[simp] theorem Tile.setX_mdomain (t : Tile) (r : Reg) (v : Word) : (t.setX r v).mdomain = t.mdomain := by rw [Tile.setX_eq]
@[simp] theorem Tile.setX_mhaltgrp (t : Tile) (r : Reg) (v : Word) : (t.setX r v).mhaltgrp = t.mhaltgrp := by rw [Tile.setX_eq]
@[simp] theorem Tile.setX_sporeArea (t : Tile) (r : Reg) (v : Word) : (t.setX r v).sporeArea = t.sporeArea := by rw [Tile.setX_eq]
@[simp] theorem Tile.setX_sporeStatus (t : Tile) (r : Reg) (v : Word) : (t.setX r v).sporeStatus = t.sporeStatus := by rw [Tile.setX_eq]
@[simp] theorem Tile.setX_mauditf (t : Tile) (r : Reg) (v : Word) : (t.setX r v).mauditf = t.mauditf := by rw [Tile.setX_eq]
@[simp] theorem Tile.setX_cycleOff (t : Tile) (r : Reg) (v : Word) : (t.setX r v).cycleOff = t.cycleOff := by rw [Tile.setX_eq]
@[simp] theorem Tile.setX_minstret (t : Tile) (r : Reg) (v : Word) : (t.setX r v).minstret = t.minstret := by rw [Tile.setX_eq]
@[simp] theorem Tile.setX_pmc (t : Tile) (r : Reg) (v : Word) : (t.setX r v).pmc = t.pmc := by rw [Tile.setX_eq]
@[simp] theorem Tile.setX_pmcsel (t : Tile) (r : Reg) (v : Word) : (t.setX r v).pmcsel = t.pmcsel := by rw [Tile.setX_eq]
@[simp] theorem Tile.setX_pmpcfg (t : Tile) (r : Reg) (v : Word) : (t.setX r v).pmpcfg = t.pmpcfg := by rw [Tile.setX_eq]
@[simp] theorem Tile.setX_pmpaddr (t : Tile) (r : Reg) (v : Word) : (t.setX r v).pmpaddr = t.pmpaddr := by rw [Tile.setX_eq]
@[simp] theorem Tile.setX_mpp (t : Tile) (r : Reg) (v : Word) : (t.setX r v).mpp = t.mpp := by rw [Tile.setX_eq]
@[simp] theorem Tile.setX_mtvec (t : Tile) (r : Reg) (v : Word) : (t.setX r v).mtvec = t.mtvec := by rw [Tile.setX_eq]
@[simp] theorem Tile.setX_mscratch (t : Tile) (r : Reg) (v : Word) : (t.setX r v).mscratch = t.mscratch := by rw [Tile.setX_eq]
@[simp] theorem Tile.setX_mepc (t : Tile) (r : Reg) (v : Word) : (t.setX r v).mepc = t.mepc := by rw [Tile.setX_eq]
@[simp] theorem Tile.setX_mcause (t : Tile) (r : Reg) (v : Word) : (t.setX r v).mcause = t.mcause := by rw [Tile.setX_eq]
@[simp] theorem Tile.setX_mtval (t : Tile) (r : Reg) (v : Word) : (t.setX r v).mtval = t.mtval := by rw [Tile.setX_eq]
@[simp] theorem Tile.setX_retPc (t : Tile) (r : Reg) (v : Word) : (t.setX r v).retPc = t.retPc := by rw [Tile.setX_eq]
@[simp] theorem Tile.setX_prev (t : Tile) (r : Reg) (v : Word) : (t.setX r v).prev = t.prev := by rw [Tile.setX_eq]
@[simp] theorem Tile.setX_dispatch (t : Tile) (r : Reg) (v : Word) : (t.setX r v).dispatch = t.dispatch := by rw [Tile.setX_eq]
@[simp] theorem Tile.setX_queues (t : Tile) (r : Reg) (v : Word) : (t.setX r v).queues = t.queues := by rw [Tile.setX_eq]
@[simp] theorem Tile.setX_xqueue (t : Tile) (r : Reg) (v : Word) : (t.setX r v).xqueue = t.xqueue := by rw [Tile.setX_eq]
@[simp] theorem Tile.setX_qHead (t : Tile) (r : Reg) (v : Word) : (t.setX r v).qHead = t.qHead := by rw [Tile.setX_eq]
@[simp] theorem Tile.setX_qTail (t : Tile) (r : Reg) (v : Word) : (t.setX r v).qTail = t.qTail := by rw [Tile.setX_eq]
@[simp] theorem Tile.setX_siding (t : Tile) (r : Reg) (v : Word) : (t.setX r v).siding = t.siding := by rw [Tile.setX_eq]
@[simp] theorem Tile.setX_releasePath (t : Tile) (r : Reg) (v : Word) : (t.setX r v).releasePath = t.releasePath := by rw [Tile.setX_eq]
@[simp] theorem Tile.setX_grants (t : Tile) (r : Reg) (v : Word) : (t.setX r v).grants = t.grants := by rw [Tile.setX_eq]
@[simp] theorem Tile.setX_jobs (t : Tile) (r : Reg) (v : Word) : (t.setX r v).jobs = t.jobs := by rw [Tile.setX_eq]
@[simp] theorem Tile.setX_jobSerial (t : Tile) (r : Reg) (v : Word) : (t.setX r v).jobSerial = t.jobSerial := by rw [Tile.setX_eq]
@[simp] theorem Tile.setX_batches (t : Tile) (r : Reg) (v : Word) : (t.setX r v).batches = t.batches := by rw [Tile.setX_eq]
@[simp] theorem Tile.setX_remotes (t : Tile) (r : Reg) (v : Word) : (t.setX r v).remotes = t.remotes := by rw [Tile.setX_eq]
@[simp] theorem Tile.setX_asks (t : Tile) (r : Reg) (v : Word) : (t.setX r v).asks = t.asks := by rw [Tile.setX_eq]
@[simp] theorem Tile.setX_serial (t : Tile) (r : Reg) (v : Word) : (t.setX r v).serial = t.serial := by rw [Tile.setX_eq]
@[simp] theorem Tile.setX_regions (t : Tile) (r : Reg) (v : Word) : (t.setX r v).regions = t.regions := by rw [Tile.setX_eq]
@[simp] theorem Tile.setX_l1 (t : Tile) (r : Reg) (v : Word) : (t.setX r v).l1 = t.l1 := by rw [Tile.setX_eq]
@[simp] theorem Tile.setX_icache (t : Tile) (r : Reg) (v : Word) : (t.setX r v).icache = t.icache := by rw [Tile.setX_eq]
@[simp] theorem Tile.setX_faultLog (t : Tile) (r : Reg) (v : Word) : (t.setX r v).faultLog = t.faultLog := by rw [Tile.setX_eq]
@[simp] theorem Tile.setX_logCopies (t : Tile) (r : Reg) (v : Word) : (t.setX r v).logCopies = t.logCopies := by rw [Tile.setX_eq]
@[simp] theorem Tile.setX_tainted (t : Tile) (r : Reg) (v : Word) : (t.setX r v).tainted = t.tainted := by rw [Tile.setX_eq]
@[simp] theorem Tile.setX_faultSeq (t : Tile) (r : Reg) (v : Word) : (t.setX r v).faultSeq = t.faultSeq := by rw [Tile.setX_eq]
@[simp] theorem Tile.setX_barriers (t : Tile) (r : Reg) (v : Word) : (t.setX r v).barriers = t.barriers := by rw [Tile.setX_eq]
@[simp] theorem Tile.setX_phase (t : Tile) (r : Reg) (v : Word) : (t.setX r v).phase = t.phase := by rw [Tile.setX_eq]
@[simp] theorem Tile.setX_wait (t : Tile) (r : Reg) (v : Word) : (t.setX r v).wait = t.wait := by rw [Tile.setX_eq]
@[simp] theorem Tile.setX_answer (t : Tile) (r : Reg) (v : Word) : (t.setX r v).answer = t.answer := by rw [Tile.setX_eq]
@[simp] theorem Tile.setX_lichen (t : Tile) (r : Reg) (v : Word) : (t.setX r v).lichen = t.lichen := by rw [Tile.setX_eq]
@[simp] theorem Tile.setX_hold (t : Tile) (r : Reg) (v : Word) : (t.setX r v).hold = t.hold := by rw [Tile.setX_eq]
@[simp] theorem Tile.setX_halted (t : Tile) (r : Reg) (v : Word) : (t.setX r v).halted = t.halted := by rw [Tile.setX_eq]
@[simp] theorem Tile.setX_debugStep (t : Tile) (r : Reg) (v : Word) : (t.setX r v).debugStep = t.debugStep := by rw [Tile.setX_eq]
@[simp] theorem Tile.setX_parked (t : Tile) (r : Reg) (v : Word) : (t.setX r v).parked = t.parked := by rw [Tile.setX_eq]
@[simp] theorem Tile.setX_stopTime (t : Tile) (r : Reg) (v : Word) : (t.setX r v).stopTime = t.stopTime := by rw [Tile.setX_eq]
@[simp] theorem Tile.setX_lichenShare (t : Tile) (r : Reg) (v : Word) : (t.setX r v).lichenShare = t.lichenShare := by rw [Tile.setX_eq]
@[simp] theorem Tile.setX_lichenData (t : Tile) (r : Reg) (v : Word) : (t.setX r v).lichenData = t.lichenData := by rw [Tile.setX_eq]
@[simp] theorem Tile.setX_launch (t : Tile) (r : Reg) (v : Word) : (t.setX r v).launch = t.launch := by rw [Tile.setX_eq]
@[simp] theorem Tile.setX_privateSize (t : Tile) (r : Reg) (v : Word) : (t.setX r v).privateSize = t.privateSize := by rw [Tile.setX_eq]
@[simp] theorem Tile.setX_undoSize (t : Tile) (r : Reg) (v : Word) : (t.setX r v).undoSize = t.undoSize := by rw [Tile.setX_eq]
@[simp] theorem Tile.setX_tshadowSize (t : Tile) (r : Reg) (v : Word) : (t.setX r v).tshadowSize = t.tshadowSize := by rw [Tile.setX_eq]
@[simp] theorem Tile.setX_hstackSize (t : Tile) (r : Reg) (v : Word) : (t.setX r v).hstackSize = t.hstackSize := by rw [Tile.setX_eq]
@[simp] theorem Tile.setX_quota (t : Tile) (r : Reg) (v : Word) : (t.setX r v).quota = t.quota := by rw [Tile.setX_eq]
@[simp] theorem Tile.setX_corrected (t : Tile) (r : Reg) (v : Word) : (t.setX r v).corrected = t.corrected := by rw [Tile.setX_eq]
@[simp] theorem Tile.setX_parkBuffer (t : Tile) (r : Reg) (v : Word) : (t.setX r v).parkBuffer = t.parkBuffer := by rw [Tile.setX_eq]
@[simp] theorem Tile.setX_parkReplies (t : Tile) (r : Reg) (v : Word) : (t.setX r v).parkReplies = t.parkReplies := by rw [Tile.setX_eq]
@[simp] theorem Tile.setX_gated (t : Tile) (r : Reg) (v : Word) : (t.setX r v).gated = t.gated := by rw [Tile.setX_eq]
@[simp] theorem Tile.setX_vnCounts (t : Tile) (r : Reg) (v : Word) : (t.setX r v).vnCounts = t.vnCounts := by rw [Tile.setX_eq]
@[simp] theorem Tile.setX_vnCredits (t : Tile) (r : Reg) (v : Word) : (t.setX r v).vnCredits = t.vnCredits := by rw [Tile.setX_eq]
@[simp] theorem Tile.setX_reviveTraps (t : Tile) (r : Reg) (v : Word) : (t.setX r v).reviveTraps = t.reviveTraps := by rw [Tile.setX_eq]
@[simp] theorem Tile.setX_rollbacks (t : Tile) (r : Reg) (v : Word) : (t.setX r v).rollbacks = t.rollbacks := by rw [Tile.setX_eq]
@[simp] theorem Tile.setX_started (t : Tile) (r : Reg) (v : Word) : (t.setX r v).started = t.started := by rw [Tile.setX_eq]
@[simp] theorem Tile.setX_failing (t : Tile) (r : Reg) (v : Word) : (t.setX r v).failing = t.failing := by rw [Tile.setX_eq]
@[simp] theorem Tile.setX_slotTraps (t : Tile) (r : Reg) (v : Word) : (t.setX r v).slotTraps = t.slotTraps := by rw [Tile.setX_eq]
@[simp] theorem Tile.setX_rankCache (t : Tile) (r : Reg) (v : Word) : (t.setX r v).rankCache = t.rankCache := by rw [Tile.setX_eq]
@[simp] theorem Tile.setX_lag (t : Tile) (r : Reg) (v : Word) : (t.setX r v).lag = t.lag := by rw [Tile.setX_eq]
@[simp] theorem Tile.setX_idleStop (t : Tile) (r : Reg) (v : Word) : (t.setX r v).idleStop = t.idleStop := by rw [Tile.setX_eq]
@[simp] theorem Tile.setX_sending (t : Tile) (r : Reg) (v : Word) : (t.setX r v).sending = t.sending := by rw [Tile.setX_eq]

/-! ### `Tile.setV` -/

@[simp] theorem Tile.setV_index (t : Tile) (r : Reg) (v : VReg) : (t.setV r v).index = t.index := rfl
@[simp] theorem Tile.setV_homeName (t : Tile) (r : Reg) (v : VReg) : (t.setV r v).homeName = t.homeName := rfl
@[simp] theorem Tile.setV_mode (t : Tile) (r : Reg) (v : VReg) : (t.setV r v).mode = t.mode := rfl
@[simp] theorem Tile.setV_level (t : Tile) (r : Reg) (v : VReg) : (t.setV r v).level = t.level := rfl
@[simp] theorem Tile.setV_pc (t : Tile) (r : Reg) (v : VReg) : (t.setV r v).pc = t.pc := rfl
@[simp] theorem Tile.setV_x (t : Tile) (r : Reg) (v : VReg) : (t.setV r v).x = t.x := rfl
@[simp] theorem Tile.setV_c (t : Tile) (r : Reg) (v : VReg) : (t.setV r v).c = t.c := rfl
@[simp] theorem Tile.setV_cBank (t : Tile) (r : Reg) (v : VReg) : (t.setV r v).cBank = t.cBank := rfl
@[simp] theorem Tile.setV_kpre (t : Tile) (r : Reg) (v : VReg) : (t.setV r v).kpre = t.kpre := rfl
@[simp] theorem Tile.setV_vlen (t : Tile) (r : Reg) (v : VReg) : (t.setV r v).vlen = t.vlen := rfl
@[simp] theorem Tile.setV_vmk (t : Tile) (r : Reg) (v : VReg) : (t.setV r v).vmk = t.vmk := rfl
@[simp] theorem Tile.setV_vfmt (t : Tile) (r : Reg) (v : VReg) : (t.setV r v).vfmt = t.vfmt := rfl
@[simp] theorem Tile.setV_rmode (t : Tile) (r : Reg) (v : VReg) : (t.setV r v).rmode = t.rmode := rfl
@[simp] theorem Tile.setV_rsat (t : Tile) (r : Reg) (v : VReg) : (t.setV r v).rsat = t.rsat := rfl
@[simp] theorem Tile.setV_srseed (t : Tile) (r : Reg) (v : VReg) : (t.setV r v).srseed = t.srseed := rfl
@[simp] theorem Tile.setV_mxmode (t : Tile) (r : Reg) (v : VReg) : (t.setV r v).mxmode = t.mxmode := rfl
@[simp] theorem Tile.setV_btag (t : Tile) (r : Reg) (v : VReg) : (t.setV r v).btag = t.btag := rfl
@[simp] theorem Tile.setV_loop (t : Tile) (r : Reg) (v : VReg) : (t.setV r v).loop = t.loop := rfl
@[simp] theorem Tile.setV_wlimit (t : Tile) (r : Reg) (v : VReg) : (t.setV r v).wlimit = t.wlimit := rfl
@[simp] theorem Tile.setV_rank (t : Tile) (r : Reg) (v : VReg) : (t.setV r v).rank = t.rank := rfl
@[simp] theorem Tile.setV_msgsent (t : Tile) (r : Reg) (v : VReg) : (t.setV r v).msgsent = t.msgsent := rfl
@[simp] theorem Tile.setV_msgrecv (t : Tile) (r : Reg) (v : VReg) : (t.setV r v).msgrecv = t.msgrecv := rfl
@[simp] theorem Tile.setV_gang (t : Tile) (r : Reg) (v : VReg) : (t.setV r v).gang = t.gang := rfl
@[simp] theorem Tile.setV_waitinfo (t : Tile) (r : Reg) (v : VReg) : (t.setV r v).waitinfo = t.waitinfo := rfl
@[simp] theorem Tile.setV_rgncause (t : Tile) (r : Reg) (v : VReg) : (t.setV r v).rgncause = t.rgncause := rfl
@[simp] theorem Tile.setV_mcapinfo (t : Tile) (r : Reg) (v : VReg) : (t.setV r v).mcapinfo = t.mcapinfo := rfl
@[simp] theorem Tile.setV_logSelect (t : Tile) (r : Reg) (v : VReg) : (t.setV r v).logSelect = t.logSelect := rfl
@[simp] theorem Tile.setV_mdomain (t : Tile) (r : Reg) (v : VReg) : (t.setV r v).mdomain = t.mdomain := rfl
@[simp] theorem Tile.setV_mhaltgrp (t : Tile) (r : Reg) (v : VReg) : (t.setV r v).mhaltgrp = t.mhaltgrp := rfl
@[simp] theorem Tile.setV_sporeArea (t : Tile) (r : Reg) (v : VReg) : (t.setV r v).sporeArea = t.sporeArea := rfl
@[simp] theorem Tile.setV_sporeStatus (t : Tile) (r : Reg) (v : VReg) : (t.setV r v).sporeStatus = t.sporeStatus := rfl
@[simp] theorem Tile.setV_mauditf (t : Tile) (r : Reg) (v : VReg) : (t.setV r v).mauditf = t.mauditf := rfl
@[simp] theorem Tile.setV_cycleOff (t : Tile) (r : Reg) (v : VReg) : (t.setV r v).cycleOff = t.cycleOff := rfl
@[simp] theorem Tile.setV_minstret (t : Tile) (r : Reg) (v : VReg) : (t.setV r v).minstret = t.minstret := rfl
@[simp] theorem Tile.setV_pmc (t : Tile) (r : Reg) (v : VReg) : (t.setV r v).pmc = t.pmc := rfl
@[simp] theorem Tile.setV_pmcsel (t : Tile) (r : Reg) (v : VReg) : (t.setV r v).pmcsel = t.pmcsel := rfl
@[simp] theorem Tile.setV_pmpcfg (t : Tile) (r : Reg) (v : VReg) : (t.setV r v).pmpcfg = t.pmpcfg := rfl
@[simp] theorem Tile.setV_pmpaddr (t : Tile) (r : Reg) (v : VReg) : (t.setV r v).pmpaddr = t.pmpaddr := rfl
@[simp] theorem Tile.setV_mpp (t : Tile) (r : Reg) (v : VReg) : (t.setV r v).mpp = t.mpp := rfl
@[simp] theorem Tile.setV_mtvec (t : Tile) (r : Reg) (v : VReg) : (t.setV r v).mtvec = t.mtvec := rfl
@[simp] theorem Tile.setV_mscratch (t : Tile) (r : Reg) (v : VReg) : (t.setV r v).mscratch = t.mscratch := rfl
@[simp] theorem Tile.setV_mepc (t : Tile) (r : Reg) (v : VReg) : (t.setV r v).mepc = t.mepc := rfl
@[simp] theorem Tile.setV_mcause (t : Tile) (r : Reg) (v : VReg) : (t.setV r v).mcause = t.mcause := rfl
@[simp] theorem Tile.setV_mtval (t : Tile) (r : Reg) (v : VReg) : (t.setV r v).mtval = t.mtval := rfl
@[simp] theorem Tile.setV_retPc (t : Tile) (r : Reg) (v : VReg) : (t.setV r v).retPc = t.retPc := rfl
@[simp] theorem Tile.setV_prev (t : Tile) (r : Reg) (v : VReg) : (t.setV r v).prev = t.prev := rfl
@[simp] theorem Tile.setV_dispatch (t : Tile) (r : Reg) (v : VReg) : (t.setV r v).dispatch = t.dispatch := rfl
@[simp] theorem Tile.setV_queues (t : Tile) (r : Reg) (v : VReg) : (t.setV r v).queues = t.queues := rfl
@[simp] theorem Tile.setV_xqueue (t : Tile) (r : Reg) (v : VReg) : (t.setV r v).xqueue = t.xqueue := rfl
@[simp] theorem Tile.setV_qHead (t : Tile) (r : Reg) (v : VReg) : (t.setV r v).qHead = t.qHead := rfl
@[simp] theorem Tile.setV_qTail (t : Tile) (r : Reg) (v : VReg) : (t.setV r v).qTail = t.qTail := rfl
@[simp] theorem Tile.setV_siding (t : Tile) (r : Reg) (v : VReg) : (t.setV r v).siding = t.siding := rfl
@[simp] theorem Tile.setV_releasePath (t : Tile) (r : Reg) (v : VReg) : (t.setV r v).releasePath = t.releasePath := rfl
@[simp] theorem Tile.setV_grants (t : Tile) (r : Reg) (v : VReg) : (t.setV r v).grants = t.grants := rfl
@[simp] theorem Tile.setV_jobs (t : Tile) (r : Reg) (v : VReg) : (t.setV r v).jobs = t.jobs := rfl
@[simp] theorem Tile.setV_jobSerial (t : Tile) (r : Reg) (v : VReg) : (t.setV r v).jobSerial = t.jobSerial := rfl
@[simp] theorem Tile.setV_batches (t : Tile) (r : Reg) (v : VReg) : (t.setV r v).batches = t.batches := rfl
@[simp] theorem Tile.setV_remotes (t : Tile) (r : Reg) (v : VReg) : (t.setV r v).remotes = t.remotes := rfl
@[simp] theorem Tile.setV_asks (t : Tile) (r : Reg) (v : VReg) : (t.setV r v).asks = t.asks := rfl
@[simp] theorem Tile.setV_serial (t : Tile) (r : Reg) (v : VReg) : (t.setV r v).serial = t.serial := rfl
@[simp] theorem Tile.setV_regions (t : Tile) (r : Reg) (v : VReg) : (t.setV r v).regions = t.regions := rfl
@[simp] theorem Tile.setV_l1 (t : Tile) (r : Reg) (v : VReg) : (t.setV r v).l1 = t.l1 := rfl
@[simp] theorem Tile.setV_icache (t : Tile) (r : Reg) (v : VReg) : (t.setV r v).icache = t.icache := rfl
@[simp] theorem Tile.setV_faultLog (t : Tile) (r : Reg) (v : VReg) : (t.setV r v).faultLog = t.faultLog := rfl
@[simp] theorem Tile.setV_logCopies (t : Tile) (r : Reg) (v : VReg) : (t.setV r v).logCopies = t.logCopies := rfl
@[simp] theorem Tile.setV_tainted (t : Tile) (r : Reg) (v : VReg) : (t.setV r v).tainted = t.tainted := rfl
@[simp] theorem Tile.setV_faultSeq (t : Tile) (r : Reg) (v : VReg) : (t.setV r v).faultSeq = t.faultSeq := rfl
@[simp] theorem Tile.setV_barriers (t : Tile) (r : Reg) (v : VReg) : (t.setV r v).barriers = t.barriers := rfl
@[simp] theorem Tile.setV_phase (t : Tile) (r : Reg) (v : VReg) : (t.setV r v).phase = t.phase := rfl
@[simp] theorem Tile.setV_wait (t : Tile) (r : Reg) (v : VReg) : (t.setV r v).wait = t.wait := rfl
@[simp] theorem Tile.setV_answer (t : Tile) (r : Reg) (v : VReg) : (t.setV r v).answer = t.answer := rfl
@[simp] theorem Tile.setV_lichen (t : Tile) (r : Reg) (v : VReg) : (t.setV r v).lichen = t.lichen := rfl
@[simp] theorem Tile.setV_hold (t : Tile) (r : Reg) (v : VReg) : (t.setV r v).hold = t.hold := rfl
@[simp] theorem Tile.setV_halted (t : Tile) (r : Reg) (v : VReg) : (t.setV r v).halted = t.halted := rfl
@[simp] theorem Tile.setV_debugStep (t : Tile) (r : Reg) (v : VReg) : (t.setV r v).debugStep = t.debugStep := rfl
@[simp] theorem Tile.setV_parked (t : Tile) (r : Reg) (v : VReg) : (t.setV r v).parked = t.parked := rfl
@[simp] theorem Tile.setV_stopTime (t : Tile) (r : Reg) (v : VReg) : (t.setV r v).stopTime = t.stopTime := rfl
@[simp] theorem Tile.setV_lichenShare (t : Tile) (r : Reg) (v : VReg) : (t.setV r v).lichenShare = t.lichenShare := rfl
@[simp] theorem Tile.setV_lichenData (t : Tile) (r : Reg) (v : VReg) : (t.setV r v).lichenData = t.lichenData := rfl
@[simp] theorem Tile.setV_launch (t : Tile) (r : Reg) (v : VReg) : (t.setV r v).launch = t.launch := rfl
@[simp] theorem Tile.setV_privateSize (t : Tile) (r : Reg) (v : VReg) : (t.setV r v).privateSize = t.privateSize := rfl
@[simp] theorem Tile.setV_undoSize (t : Tile) (r : Reg) (v : VReg) : (t.setV r v).undoSize = t.undoSize := rfl
@[simp] theorem Tile.setV_tshadowSize (t : Tile) (r : Reg) (v : VReg) : (t.setV r v).tshadowSize = t.tshadowSize := rfl
@[simp] theorem Tile.setV_hstackSize (t : Tile) (r : Reg) (v : VReg) : (t.setV r v).hstackSize = t.hstackSize := rfl
@[simp] theorem Tile.setV_quota (t : Tile) (r : Reg) (v : VReg) : (t.setV r v).quota = t.quota := rfl
@[simp] theorem Tile.setV_corrected (t : Tile) (r : Reg) (v : VReg) : (t.setV r v).corrected = t.corrected := rfl
@[simp] theorem Tile.setV_parkBuffer (t : Tile) (r : Reg) (v : VReg) : (t.setV r v).parkBuffer = t.parkBuffer := rfl
@[simp] theorem Tile.setV_parkReplies (t : Tile) (r : Reg) (v : VReg) : (t.setV r v).parkReplies = t.parkReplies := rfl
@[simp] theorem Tile.setV_gated (t : Tile) (r : Reg) (v : VReg) : (t.setV r v).gated = t.gated := rfl
@[simp] theorem Tile.setV_vnCounts (t : Tile) (r : Reg) (v : VReg) : (t.setV r v).vnCounts = t.vnCounts := rfl
@[simp] theorem Tile.setV_vnCredits (t : Tile) (r : Reg) (v : VReg) : (t.setV r v).vnCredits = t.vnCredits := rfl
@[simp] theorem Tile.setV_reviveTraps (t : Tile) (r : Reg) (v : VReg) : (t.setV r v).reviveTraps = t.reviveTraps := rfl
@[simp] theorem Tile.setV_rollbacks (t : Tile) (r : Reg) (v : VReg) : (t.setV r v).rollbacks = t.rollbacks := rfl
@[simp] theorem Tile.setV_started (t : Tile) (r : Reg) (v : VReg) : (t.setV r v).started = t.started := rfl
@[simp] theorem Tile.setV_failing (t : Tile) (r : Reg) (v : VReg) : (t.setV r v).failing = t.failing := rfl
@[simp] theorem Tile.setV_slotTraps (t : Tile) (r : Reg) (v : VReg) : (t.setV r v).slotTraps = t.slotTraps := rfl
@[simp] theorem Tile.setV_rankCache (t : Tile) (r : Reg) (v : VReg) : (t.setV r v).rankCache = t.rankCache := rfl
@[simp] theorem Tile.setV_lag (t : Tile) (r : Reg) (v : VReg) : (t.setV r v).lag = t.lag := rfl
@[simp] theorem Tile.setV_idleStop (t : Tile) (r : Reg) (v : VReg) : (t.setV r v).idleStop = t.idleStop := rfl
@[simp] theorem Tile.setV_sending (t : Tile) (r : Reg) (v : VReg) : (t.setV r v).sending = t.sending := rfl

/-! ### `Tile.setC` -/

@[simp] theorem Tile.setC_index (t : Tile) (r : Reg) (c : Cap) : (t.setC r c).index = t.index := by rw [Tile.setC_eq]
@[simp] theorem Tile.setC_homeName (t : Tile) (r : Reg) (c : Cap) : (t.setC r c).homeName = t.homeName := by rw [Tile.setC_eq]
@[simp] theorem Tile.setC_mode (t : Tile) (r : Reg) (c : Cap) : (t.setC r c).mode = t.mode := by rw [Tile.setC_eq]
@[simp] theorem Tile.setC_level (t : Tile) (r : Reg) (c : Cap) : (t.setC r c).level = t.level := by rw [Tile.setC_eq]
@[simp] theorem Tile.setC_pc (t : Tile) (r : Reg) (c : Cap) : (t.setC r c).pc = t.pc := by rw [Tile.setC_eq]
@[simp] theorem Tile.setC_x (t : Tile) (r : Reg) (c : Cap) : (t.setC r c).x = t.x := by rw [Tile.setC_eq]
@[simp] theorem Tile.setC_v (t : Tile) (r : Reg) (c : Cap) : (t.setC r c).v = t.v := by rw [Tile.setC_eq]
@[simp] theorem Tile.setC_kpre (t : Tile) (r : Reg) (c : Cap) : (t.setC r c).kpre = t.kpre := by rw [Tile.setC_eq]
@[simp] theorem Tile.setC_vlen (t : Tile) (r : Reg) (c : Cap) : (t.setC r c).vlen = t.vlen := by rw [Tile.setC_eq]
@[simp] theorem Tile.setC_vmk (t : Tile) (r : Reg) (c : Cap) : (t.setC r c).vmk = t.vmk := by rw [Tile.setC_eq]
@[simp] theorem Tile.setC_vfmt (t : Tile) (r : Reg) (c : Cap) : (t.setC r c).vfmt = t.vfmt := by rw [Tile.setC_eq]
@[simp] theorem Tile.setC_rmode (t : Tile) (r : Reg) (c : Cap) : (t.setC r c).rmode = t.rmode := by rw [Tile.setC_eq]
@[simp] theorem Tile.setC_rsat (t : Tile) (r : Reg) (c : Cap) : (t.setC r c).rsat = t.rsat := by rw [Tile.setC_eq]
@[simp] theorem Tile.setC_srseed (t : Tile) (r : Reg) (c : Cap) : (t.setC r c).srseed = t.srseed := by rw [Tile.setC_eq]
@[simp] theorem Tile.setC_mxmode (t : Tile) (r : Reg) (c : Cap) : (t.setC r c).mxmode = t.mxmode := by rw [Tile.setC_eq]
@[simp] theorem Tile.setC_btag (t : Tile) (r : Reg) (c : Cap) : (t.setC r c).btag = t.btag := by rw [Tile.setC_eq]
@[simp] theorem Tile.setC_loop (t : Tile) (r : Reg) (c : Cap) : (t.setC r c).loop = t.loop := by rw [Tile.setC_eq]
@[simp] theorem Tile.setC_wlimit (t : Tile) (r : Reg) (c : Cap) : (t.setC r c).wlimit = t.wlimit := by rw [Tile.setC_eq]
@[simp] theorem Tile.setC_rank (t : Tile) (r : Reg) (c : Cap) : (t.setC r c).rank = t.rank := by rw [Tile.setC_eq]
@[simp] theorem Tile.setC_msgsent (t : Tile) (r : Reg) (c : Cap) : (t.setC r c).msgsent = t.msgsent := by rw [Tile.setC_eq]
@[simp] theorem Tile.setC_msgrecv (t : Tile) (r : Reg) (c : Cap) : (t.setC r c).msgrecv = t.msgrecv := by rw [Tile.setC_eq]
@[simp] theorem Tile.setC_gang (t : Tile) (r : Reg) (c : Cap) : (t.setC r c).gang = t.gang := by rw [Tile.setC_eq]
@[simp] theorem Tile.setC_waitinfo (t : Tile) (r : Reg) (c : Cap) : (t.setC r c).waitinfo = t.waitinfo := by rw [Tile.setC_eq]
@[simp] theorem Tile.setC_rgncause (t : Tile) (r : Reg) (c : Cap) : (t.setC r c).rgncause = t.rgncause := by rw [Tile.setC_eq]
@[simp] theorem Tile.setC_mcapinfo (t : Tile) (r : Reg) (c : Cap) : (t.setC r c).mcapinfo = t.mcapinfo := by rw [Tile.setC_eq]
@[simp] theorem Tile.setC_logSelect (t : Tile) (r : Reg) (c : Cap) : (t.setC r c).logSelect = t.logSelect := by rw [Tile.setC_eq]
@[simp] theorem Tile.setC_mdomain (t : Tile) (r : Reg) (c : Cap) : (t.setC r c).mdomain = t.mdomain := by rw [Tile.setC_eq]
@[simp] theorem Tile.setC_mhaltgrp (t : Tile) (r : Reg) (c : Cap) : (t.setC r c).mhaltgrp = t.mhaltgrp := by rw [Tile.setC_eq]
@[simp] theorem Tile.setC_sporeArea (t : Tile) (r : Reg) (c : Cap) : (t.setC r c).sporeArea = t.sporeArea := by rw [Tile.setC_eq]
@[simp] theorem Tile.setC_sporeStatus (t : Tile) (r : Reg) (c : Cap) : (t.setC r c).sporeStatus = t.sporeStatus := by rw [Tile.setC_eq]
@[simp] theorem Tile.setC_mauditf (t : Tile) (r : Reg) (c : Cap) : (t.setC r c).mauditf = t.mauditf := by rw [Tile.setC_eq]
@[simp] theorem Tile.setC_cycleOff (t : Tile) (r : Reg) (c : Cap) : (t.setC r c).cycleOff = t.cycleOff := by rw [Tile.setC_eq]
@[simp] theorem Tile.setC_minstret (t : Tile) (r : Reg) (c : Cap) : (t.setC r c).minstret = t.minstret := by rw [Tile.setC_eq]
@[simp] theorem Tile.setC_pmc (t : Tile) (r : Reg) (c : Cap) : (t.setC r c).pmc = t.pmc := by rw [Tile.setC_eq]
@[simp] theorem Tile.setC_pmcsel (t : Tile) (r : Reg) (c : Cap) : (t.setC r c).pmcsel = t.pmcsel := by rw [Tile.setC_eq]
@[simp] theorem Tile.setC_pmpcfg (t : Tile) (r : Reg) (c : Cap) : (t.setC r c).pmpcfg = t.pmpcfg := by rw [Tile.setC_eq]
@[simp] theorem Tile.setC_pmpaddr (t : Tile) (r : Reg) (c : Cap) : (t.setC r c).pmpaddr = t.pmpaddr := by rw [Tile.setC_eq]
@[simp] theorem Tile.setC_mpp (t : Tile) (r : Reg) (c : Cap) : (t.setC r c).mpp = t.mpp := by rw [Tile.setC_eq]
@[simp] theorem Tile.setC_mtvec (t : Tile) (r : Reg) (c : Cap) : (t.setC r c).mtvec = t.mtvec := by rw [Tile.setC_eq]
@[simp] theorem Tile.setC_mscratch (t : Tile) (r : Reg) (c : Cap) : (t.setC r c).mscratch = t.mscratch := by rw [Tile.setC_eq]
@[simp] theorem Tile.setC_mepc (t : Tile) (r : Reg) (c : Cap) : (t.setC r c).mepc = t.mepc := by rw [Tile.setC_eq]
@[simp] theorem Tile.setC_mcause (t : Tile) (r : Reg) (c : Cap) : (t.setC r c).mcause = t.mcause := by rw [Tile.setC_eq]
@[simp] theorem Tile.setC_mtval (t : Tile) (r : Reg) (c : Cap) : (t.setC r c).mtval = t.mtval := by rw [Tile.setC_eq]
@[simp] theorem Tile.setC_retPc (t : Tile) (r : Reg) (c : Cap) : (t.setC r c).retPc = t.retPc := by rw [Tile.setC_eq]
@[simp] theorem Tile.setC_prev (t : Tile) (r : Reg) (c : Cap) : (t.setC r c).prev = t.prev := by rw [Tile.setC_eq]
@[simp] theorem Tile.setC_dispatch (t : Tile) (r : Reg) (c : Cap) : (t.setC r c).dispatch = t.dispatch := by rw [Tile.setC_eq]
@[simp] theorem Tile.setC_queues (t : Tile) (r : Reg) (c : Cap) : (t.setC r c).queues = t.queues := by rw [Tile.setC_eq]
@[simp] theorem Tile.setC_xqueue (t : Tile) (r : Reg) (c : Cap) : (t.setC r c).xqueue = t.xqueue := by rw [Tile.setC_eq]
@[simp] theorem Tile.setC_qHead (t : Tile) (r : Reg) (c : Cap) : (t.setC r c).qHead = t.qHead := by rw [Tile.setC_eq]
@[simp] theorem Tile.setC_qTail (t : Tile) (r : Reg) (c : Cap) : (t.setC r c).qTail = t.qTail := by rw [Tile.setC_eq]
@[simp] theorem Tile.setC_siding (t : Tile) (r : Reg) (c : Cap) : (t.setC r c).siding = t.siding := by rw [Tile.setC_eq]
@[simp] theorem Tile.setC_releasePath (t : Tile) (r : Reg) (c : Cap) : (t.setC r c).releasePath = t.releasePath := by rw [Tile.setC_eq]
@[simp] theorem Tile.setC_grants (t : Tile) (r : Reg) (c : Cap) : (t.setC r c).grants = t.grants := by rw [Tile.setC_eq]
@[simp] theorem Tile.setC_jobs (t : Tile) (r : Reg) (c : Cap) : (t.setC r c).jobs = t.jobs := by rw [Tile.setC_eq]
@[simp] theorem Tile.setC_jobSerial (t : Tile) (r : Reg) (c : Cap) : (t.setC r c).jobSerial = t.jobSerial := by rw [Tile.setC_eq]
@[simp] theorem Tile.setC_batches (t : Tile) (r : Reg) (c : Cap) : (t.setC r c).batches = t.batches := by rw [Tile.setC_eq]
@[simp] theorem Tile.setC_remotes (t : Tile) (r : Reg) (c : Cap) : (t.setC r c).remotes = t.remotes := by rw [Tile.setC_eq]
@[simp] theorem Tile.setC_asks (t : Tile) (r : Reg) (c : Cap) : (t.setC r c).asks = t.asks := by rw [Tile.setC_eq]
@[simp] theorem Tile.setC_serial (t : Tile) (r : Reg) (c : Cap) : (t.setC r c).serial = t.serial := by rw [Tile.setC_eq]
@[simp] theorem Tile.setC_regions (t : Tile) (r : Reg) (c : Cap) : (t.setC r c).regions = t.regions := by rw [Tile.setC_eq]
@[simp] theorem Tile.setC_l1 (t : Tile) (r : Reg) (c : Cap) : (t.setC r c).l1 = t.l1 := by rw [Tile.setC_eq]
@[simp] theorem Tile.setC_icache (t : Tile) (r : Reg) (c : Cap) : (t.setC r c).icache = t.icache := by rw [Tile.setC_eq]
@[simp] theorem Tile.setC_faultLog (t : Tile) (r : Reg) (c : Cap) : (t.setC r c).faultLog = t.faultLog := by rw [Tile.setC_eq]
@[simp] theorem Tile.setC_logCopies (t : Tile) (r : Reg) (c : Cap) : (t.setC r c).logCopies = t.logCopies := by rw [Tile.setC_eq]
@[simp] theorem Tile.setC_tainted (t : Tile) (r : Reg) (c : Cap) : (t.setC r c).tainted = t.tainted := by rw [Tile.setC_eq]
@[simp] theorem Tile.setC_faultSeq (t : Tile) (r : Reg) (c : Cap) : (t.setC r c).faultSeq = t.faultSeq := by rw [Tile.setC_eq]
@[simp] theorem Tile.setC_barriers (t : Tile) (r : Reg) (c : Cap) : (t.setC r c).barriers = t.barriers := by rw [Tile.setC_eq]
@[simp] theorem Tile.setC_phase (t : Tile) (r : Reg) (c : Cap) : (t.setC r c).phase = t.phase := by rw [Tile.setC_eq]
@[simp] theorem Tile.setC_wait (t : Tile) (r : Reg) (c : Cap) : (t.setC r c).wait = t.wait := by rw [Tile.setC_eq]
@[simp] theorem Tile.setC_answer (t : Tile) (r : Reg) (c : Cap) : (t.setC r c).answer = t.answer := by rw [Tile.setC_eq]
@[simp] theorem Tile.setC_lichen (t : Tile) (r : Reg) (c : Cap) : (t.setC r c).lichen = t.lichen := by rw [Tile.setC_eq]
@[simp] theorem Tile.setC_hold (t : Tile) (r : Reg) (c : Cap) : (t.setC r c).hold = t.hold := by rw [Tile.setC_eq]
@[simp] theorem Tile.setC_halted (t : Tile) (r : Reg) (c : Cap) : (t.setC r c).halted = t.halted := by rw [Tile.setC_eq]
@[simp] theorem Tile.setC_debugStep (t : Tile) (r : Reg) (c : Cap) : (t.setC r c).debugStep = t.debugStep := by rw [Tile.setC_eq]
@[simp] theorem Tile.setC_parked (t : Tile) (r : Reg) (c : Cap) : (t.setC r c).parked = t.parked := by rw [Tile.setC_eq]
@[simp] theorem Tile.setC_stopTime (t : Tile) (r : Reg) (c : Cap) : (t.setC r c).stopTime = t.stopTime := by rw [Tile.setC_eq]
@[simp] theorem Tile.setC_lichenShare (t : Tile) (r : Reg) (c : Cap) : (t.setC r c).lichenShare = t.lichenShare := by rw [Tile.setC_eq]
@[simp] theorem Tile.setC_lichenData (t : Tile) (r : Reg) (c : Cap) : (t.setC r c).lichenData = t.lichenData := by rw [Tile.setC_eq]
@[simp] theorem Tile.setC_launch (t : Tile) (r : Reg) (c : Cap) : (t.setC r c).launch = t.launch := by rw [Tile.setC_eq]
@[simp] theorem Tile.setC_privateSize (t : Tile) (r : Reg) (c : Cap) : (t.setC r c).privateSize = t.privateSize := by rw [Tile.setC_eq]
@[simp] theorem Tile.setC_undoSize (t : Tile) (r : Reg) (c : Cap) : (t.setC r c).undoSize = t.undoSize := by rw [Tile.setC_eq]
@[simp] theorem Tile.setC_tshadowSize (t : Tile) (r : Reg) (c : Cap) : (t.setC r c).tshadowSize = t.tshadowSize := by rw [Tile.setC_eq]
@[simp] theorem Tile.setC_hstackSize (t : Tile) (r : Reg) (c : Cap) : (t.setC r c).hstackSize = t.hstackSize := by rw [Tile.setC_eq]
@[simp] theorem Tile.setC_quota (t : Tile) (r : Reg) (c : Cap) : (t.setC r c).quota = t.quota := by rw [Tile.setC_eq]
@[simp] theorem Tile.setC_corrected (t : Tile) (r : Reg) (c : Cap) : (t.setC r c).corrected = t.corrected := by rw [Tile.setC_eq]
@[simp] theorem Tile.setC_parkBuffer (t : Tile) (r : Reg) (c : Cap) : (t.setC r c).parkBuffer = t.parkBuffer := by rw [Tile.setC_eq]
@[simp] theorem Tile.setC_parkReplies (t : Tile) (r : Reg) (c : Cap) : (t.setC r c).parkReplies = t.parkReplies := by rw [Tile.setC_eq]
@[simp] theorem Tile.setC_gated (t : Tile) (r : Reg) (c : Cap) : (t.setC r c).gated = t.gated := by rw [Tile.setC_eq]
@[simp] theorem Tile.setC_vnCounts (t : Tile) (r : Reg) (c : Cap) : (t.setC r c).vnCounts = t.vnCounts := by rw [Tile.setC_eq]
@[simp] theorem Tile.setC_vnCredits (t : Tile) (r : Reg) (c : Cap) : (t.setC r c).vnCredits = t.vnCredits := by rw [Tile.setC_eq]
@[simp] theorem Tile.setC_reviveTraps (t : Tile) (r : Reg) (c : Cap) : (t.setC r c).reviveTraps = t.reviveTraps := by rw [Tile.setC_eq]
@[simp] theorem Tile.setC_rollbacks (t : Tile) (r : Reg) (c : Cap) : (t.setC r c).rollbacks = t.rollbacks := by rw [Tile.setC_eq]
@[simp] theorem Tile.setC_started (t : Tile) (r : Reg) (c : Cap) : (t.setC r c).started = t.started := by rw [Tile.setC_eq]
@[simp] theorem Tile.setC_failing (t : Tile) (r : Reg) (c : Cap) : (t.setC r c).failing = t.failing := by rw [Tile.setC_eq]
@[simp] theorem Tile.setC_slotTraps (t : Tile) (r : Reg) (c : Cap) : (t.setC r c).slotTraps = t.slotTraps := by rw [Tile.setC_eq]
@[simp] theorem Tile.setC_rankCache (t : Tile) (r : Reg) (c : Cap) : (t.setC r c).rankCache = t.rankCache := by rw [Tile.setC_eq]
@[simp] theorem Tile.setC_lag (t : Tile) (r : Reg) (c : Cap) : (t.setC r c).lag = t.lag := by rw [Tile.setC_eq]
@[simp] theorem Tile.setC_idleStop (t : Tile) (r : Reg) (c : Cap) : (t.setC r c).idleStop = t.idleStop := by rw [Tile.setC_eq]
@[simp] theorem Tile.setC_sending (t : Tile) (r : Reg) (c : Cap) : (t.setC r c).sending = t.sending := by rw [Tile.setC_eq]

/-! ### `Tile.retire` -/

@[simp] theorem Tile.retire_index (t : Tile) : (t.retire).index = t.index := by rw [Tile.retire_eq]
@[simp] theorem Tile.retire_homeName (t : Tile) : (t.retire).homeName = t.homeName := by rw [Tile.retire_eq]
@[simp] theorem Tile.retire_mode (t : Tile) : (t.retire).mode = t.mode := by rw [Tile.retire_eq]
@[simp] theorem Tile.retire_level (t : Tile) : (t.retire).level = t.level := by rw [Tile.retire_eq]
@[simp] theorem Tile.retire_x (t : Tile) : (t.retire).x = t.x := by rw [Tile.retire_eq]
@[simp] theorem Tile.retire_v (t : Tile) : (t.retire).v = t.v := by rw [Tile.retire_eq]
@[simp] theorem Tile.retire_c (t : Tile) : (t.retire).c = t.c := by rw [Tile.retire_eq]
@[simp] theorem Tile.retire_cBank (t : Tile) : (t.retire).cBank = t.cBank := by rw [Tile.retire_eq]
@[simp] theorem Tile.retire_vlen (t : Tile) : (t.retire).vlen = t.vlen := by rw [Tile.retire_eq]
@[simp] theorem Tile.retire_vmk (t : Tile) : (t.retire).vmk = t.vmk := by rw [Tile.retire_eq]
@[simp] theorem Tile.retire_vfmt (t : Tile) : (t.retire).vfmt = t.vfmt := by rw [Tile.retire_eq]
@[simp] theorem Tile.retire_rmode (t : Tile) : (t.retire).rmode = t.rmode := by rw [Tile.retire_eq]
@[simp] theorem Tile.retire_rsat (t : Tile) : (t.retire).rsat = t.rsat := by rw [Tile.retire_eq]
@[simp] theorem Tile.retire_srseed (t : Tile) : (t.retire).srseed = t.srseed := by rw [Tile.retire_eq]
@[simp] theorem Tile.retire_mxmode (t : Tile) : (t.retire).mxmode = t.mxmode := by rw [Tile.retire_eq]
@[simp] theorem Tile.retire_btag (t : Tile) : (t.retire).btag = t.btag := by rw [Tile.retire_eq]
@[simp] theorem Tile.retire_wlimit (t : Tile) : (t.retire).wlimit = t.wlimit := by rw [Tile.retire_eq]
@[simp] theorem Tile.retire_rank (t : Tile) : (t.retire).rank = t.rank := by rw [Tile.retire_eq]
@[simp] theorem Tile.retire_msgsent (t : Tile) : (t.retire).msgsent = t.msgsent := by rw [Tile.retire_eq]
@[simp] theorem Tile.retire_msgrecv (t : Tile) : (t.retire).msgrecv = t.msgrecv := by rw [Tile.retire_eq]
@[simp] theorem Tile.retire_gang (t : Tile) : (t.retire).gang = t.gang := by rw [Tile.retire_eq]
@[simp] theorem Tile.retire_waitinfo (t : Tile) : (t.retire).waitinfo = t.waitinfo := by rw [Tile.retire_eq]
@[simp] theorem Tile.retire_rgncause (t : Tile) : (t.retire).rgncause = t.rgncause := by rw [Tile.retire_eq]
@[simp] theorem Tile.retire_mcapinfo (t : Tile) : (t.retire).mcapinfo = t.mcapinfo := by rw [Tile.retire_eq]
@[simp] theorem Tile.retire_logSelect (t : Tile) : (t.retire).logSelect = t.logSelect := by rw [Tile.retire_eq]
@[simp] theorem Tile.retire_mdomain (t : Tile) : (t.retire).mdomain = t.mdomain := by rw [Tile.retire_eq]
@[simp] theorem Tile.retire_mhaltgrp (t : Tile) : (t.retire).mhaltgrp = t.mhaltgrp := by rw [Tile.retire_eq]
@[simp] theorem Tile.retire_sporeArea (t : Tile) : (t.retire).sporeArea = t.sporeArea := by rw [Tile.retire_eq]
@[simp] theorem Tile.retire_sporeStatus (t : Tile) : (t.retire).sporeStatus = t.sporeStatus := by rw [Tile.retire_eq]
@[simp] theorem Tile.retire_mauditf (t : Tile) : (t.retire).mauditf = t.mauditf := by rw [Tile.retire_eq]
@[simp] theorem Tile.retire_cycleOff (t : Tile) : (t.retire).cycleOff = t.cycleOff := by rw [Tile.retire_eq]
@[simp] theorem Tile.retire_pmcsel (t : Tile) : (t.retire).pmcsel = t.pmcsel := by rw [Tile.retire_eq]
@[simp] theorem Tile.retire_pmpcfg (t : Tile) : (t.retire).pmpcfg = t.pmpcfg := by rw [Tile.retire_eq]
@[simp] theorem Tile.retire_pmpaddr (t : Tile) : (t.retire).pmpaddr = t.pmpaddr := by rw [Tile.retire_eq]
@[simp] theorem Tile.retire_mpp (t : Tile) : (t.retire).mpp = t.mpp := by rw [Tile.retire_eq]
@[simp] theorem Tile.retire_mtvec (t : Tile) : (t.retire).mtvec = t.mtvec := by rw [Tile.retire_eq]
@[simp] theorem Tile.retire_mscratch (t : Tile) : (t.retire).mscratch = t.mscratch := by rw [Tile.retire_eq]
@[simp] theorem Tile.retire_mepc (t : Tile) : (t.retire).mepc = t.mepc := by rw [Tile.retire_eq]
@[simp] theorem Tile.retire_mcause (t : Tile) : (t.retire).mcause = t.mcause := by rw [Tile.retire_eq]
@[simp] theorem Tile.retire_mtval (t : Tile) : (t.retire).mtval = t.mtval := by rw [Tile.retire_eq]
@[simp] theorem Tile.retire_retPc (t : Tile) : (t.retire).retPc = t.retPc := by rw [Tile.retire_eq]
@[simp] theorem Tile.retire_prev (t : Tile) : (t.retire).prev = t.prev := by rw [Tile.retire_eq]
@[simp] theorem Tile.retire_dispatch (t : Tile) : (t.retire).dispatch = t.dispatch := by rw [Tile.retire_eq]
@[simp] theorem Tile.retire_queues (t : Tile) : (t.retire).queues = t.queues := by rw [Tile.retire_eq]
@[simp] theorem Tile.retire_xqueue (t : Tile) : (t.retire).xqueue = t.xqueue := by rw [Tile.retire_eq]
@[simp] theorem Tile.retire_qHead (t : Tile) : (t.retire).qHead = t.qHead := by rw [Tile.retire_eq]
@[simp] theorem Tile.retire_qTail (t : Tile) : (t.retire).qTail = t.qTail := by rw [Tile.retire_eq]
@[simp] theorem Tile.retire_siding (t : Tile) : (t.retire).siding = t.siding := by rw [Tile.retire_eq]
@[simp] theorem Tile.retire_releasePath (t : Tile) : (t.retire).releasePath = t.releasePath := by rw [Tile.retire_eq]
@[simp] theorem Tile.retire_grants (t : Tile) : (t.retire).grants = t.grants := by rw [Tile.retire_eq]
@[simp] theorem Tile.retire_jobs (t : Tile) : (t.retire).jobs = t.jobs := by rw [Tile.retire_eq]
@[simp] theorem Tile.retire_jobSerial (t : Tile) : (t.retire).jobSerial = t.jobSerial := by rw [Tile.retire_eq]
@[simp] theorem Tile.retire_batches (t : Tile) : (t.retire).batches = t.batches := by rw [Tile.retire_eq]
@[simp] theorem Tile.retire_remotes (t : Tile) : (t.retire).remotes = t.remotes := by rw [Tile.retire_eq]
@[simp] theorem Tile.retire_serial (t : Tile) : (t.retire).serial = t.serial := by rw [Tile.retire_eq]
@[simp] theorem Tile.retire_regions (t : Tile) : (t.retire).regions = t.regions := by rw [Tile.retire_eq]
@[simp] theorem Tile.retire_l1 (t : Tile) : (t.retire).l1 = t.l1 := by rw [Tile.retire_eq]
@[simp] theorem Tile.retire_icache (t : Tile) : (t.retire).icache = t.icache := by rw [Tile.retire_eq]
@[simp] theorem Tile.retire_faultLog (t : Tile) : (t.retire).faultLog = t.faultLog := by rw [Tile.retire_eq]
@[simp] theorem Tile.retire_logCopies (t : Tile) : (t.retire).logCopies = t.logCopies := by rw [Tile.retire_eq]
@[simp] theorem Tile.retire_tainted (t : Tile) : (t.retire).tainted = t.tainted := by rw [Tile.retire_eq]
@[simp] theorem Tile.retire_faultSeq (t : Tile) : (t.retire).faultSeq = t.faultSeq := by rw [Tile.retire_eq]
@[simp] theorem Tile.retire_barriers (t : Tile) : (t.retire).barriers = t.barriers := by rw [Tile.retire_eq]
@[simp] theorem Tile.retire_phase (t : Tile) : (t.retire).phase = t.phase := by rw [Tile.retire_eq]
@[simp] theorem Tile.retire_lichen (t : Tile) : (t.retire).lichen = t.lichen := by rw [Tile.retire_eq]
@[simp] theorem Tile.retire_hold (t : Tile) : (t.retire).hold = t.hold := by rw [Tile.retire_eq]
@[simp] theorem Tile.retire_parked (t : Tile) : (t.retire).parked = t.parked := by rw [Tile.retire_eq]
@[simp] theorem Tile.retire_stopTime (t : Tile) : (t.retire).stopTime = t.stopTime := by rw [Tile.retire_eq]
@[simp] theorem Tile.retire_lichenShare (t : Tile) : (t.retire).lichenShare = t.lichenShare := by rw [Tile.retire_eq]
@[simp] theorem Tile.retire_lichenData (t : Tile) : (t.retire).lichenData = t.lichenData := by rw [Tile.retire_eq]
@[simp] theorem Tile.retire_launch (t : Tile) : (t.retire).launch = t.launch := by rw [Tile.retire_eq]
@[simp] theorem Tile.retire_privateSize (t : Tile) : (t.retire).privateSize = t.privateSize := by rw [Tile.retire_eq]
@[simp] theorem Tile.retire_undoSize (t : Tile) : (t.retire).undoSize = t.undoSize := by rw [Tile.retire_eq]
@[simp] theorem Tile.retire_tshadowSize (t : Tile) : (t.retire).tshadowSize = t.tshadowSize := by rw [Tile.retire_eq]
@[simp] theorem Tile.retire_hstackSize (t : Tile) : (t.retire).hstackSize = t.hstackSize := by rw [Tile.retire_eq]
@[simp] theorem Tile.retire_quota (t : Tile) : (t.retire).quota = t.quota := by rw [Tile.retire_eq]
@[simp] theorem Tile.retire_corrected (t : Tile) : (t.retire).corrected = t.corrected := by rw [Tile.retire_eq]
@[simp] theorem Tile.retire_parkBuffer (t : Tile) : (t.retire).parkBuffer = t.parkBuffer := by rw [Tile.retire_eq]
@[simp] theorem Tile.retire_parkReplies (t : Tile) : (t.retire).parkReplies = t.parkReplies := by rw [Tile.retire_eq]
@[simp] theorem Tile.retire_gated (t : Tile) : (t.retire).gated = t.gated := by rw [Tile.retire_eq]
@[simp] theorem Tile.retire_vnCounts (t : Tile) : (t.retire).vnCounts = t.vnCounts := by rw [Tile.retire_eq]
@[simp] theorem Tile.retire_vnCredits (t : Tile) : (t.retire).vnCredits = t.vnCredits := by rw [Tile.retire_eq]
@[simp] theorem Tile.retire_reviveTraps (t : Tile) : (t.retire).reviveTraps = t.reviveTraps := by rw [Tile.retire_eq]
@[simp] theorem Tile.retire_rollbacks (t : Tile) : (t.retire).rollbacks = t.rollbacks := by rw [Tile.retire_eq]
@[simp] theorem Tile.retire_started (t : Tile) : (t.retire).started = t.started := by rw [Tile.retire_eq]
@[simp] theorem Tile.retire_failing (t : Tile) : (t.retire).failing = t.failing := by rw [Tile.retire_eq]
@[simp] theorem Tile.retire_slotTraps (t : Tile) : (t.retire).slotTraps = t.slotTraps := by rw [Tile.retire_eq]
@[simp] theorem Tile.retire_rankCache (t : Tile) : (t.retire).rankCache = t.rankCache := by rw [Tile.retire_eq]
@[simp] theorem Tile.retire_lag (t : Tile) : (t.retire).lag = t.lag := by rw [Tile.retire_eq]
@[simp] theorem Tile.retire_idleStop (t : Tile) : (t.retire).idleStop = t.idleStop := by rw [Tile.retire_eq]
@[simp] theorem Tile.retire_sending (t : Tile) : (t.retire).sending = t.sending := by rw [Tile.retire_eq]

/-! ### `State.retired` -/

@[simp] theorem State.retired_others (s : State) (t : Tile) : (s.retired t).others = s.others := rfl
@[simp] theorem State.retired_turns (s : State) (t : Tile) : (s.retired t).turns = s.turns := rfl
@[simp] theorem State.retired_clock (s : State) (t : Tile) : (s.retired t).clock = s.clock := rfl
@[simp] theorem State.retired_draws (s : State) (t : Tile) : (s.retired t).draws = s.draws := rfl
@[simp] theorem State.retired_device (s : State) (t : Tile) : (s.retired t).device = s.device := rfl
@[simp] theorem State.retired_mem (s : State) (t : Tile) : (s.retired t).mem = s.mem := rfl
@[simp] theorem State.retired_dirs (s : State) (t : Tile) : (s.retired t).dirs = s.dirs := rfl
@[simp] theorem State.retired_levels (s : State) (t : Tile) : (s.retired t).levels = s.levels := rfl
@[simp] theorem State.retired_levelSeq (s : State) (t : Tile) : (s.retired t).levelSeq = s.levelSeq := rfl
@[simp] theorem State.retired_copies (s : State) (t : Tile) : (s.retired t).copies = s.copies := rfl
@[simp] theorem State.retired_poison (s : State) (t : Tile) : (s.retired t).poison = s.poison := rfl
@[simp] theorem State.retired_armed (s : State) (t : Tile) : (s.retired t).armed = s.armed := rfl
@[simp] theorem State.retired_injected (s : State) (t : Tile) : (s.retired t).injected = s.injected := rfl
@[simp] theorem State.retired_corrected (s : State) (t : Tile) : (s.retired t).corrected = s.corrected := rfl
@[simp] theorem State.retired_correctedSectors (s : State) (t : Tile) : (s.retired t).correctedSectors = s.correctedSectors := rfl
@[simp] theorem State.retired_withheld (s : State) (t : Tile) : (s.retired t).withheld = s.withheld := rfl
@[simp] theorem State.retired_violations (s : State) (t : Tile) : (s.retired t).violations = s.violations := rfl
@[simp] theorem State.retired_violationOverflow (s : State) (t : Tile) : (s.retired t).violationOverflow = s.violationOverflow := rfl
@[simp] theorem State.retired_requests (s : State) (t : Tile) : (s.retired t).requests = s.requests := rfl
@[simp] theorem State.retired_replies (s : State) (t : Tile) : (s.retired t).replies = s.replies := rfl
@[simp] theorem State.retired_controls (s : State) (t : Tile) : (s.retired t).controls = s.controls := rfl
@[simp] theorem State.retired_rings (s : State) (t : Tile) : (s.retired t).rings = s.rings := rfl
@[simp] theorem State.retired_clusters (s : State) (t : Tile) : (s.retired t).clusters = s.clusters := rfl
@[simp] theorem State.retired_segments (s : State) (t : Tile) : (s.retired t).segments = s.segments := rfl
@[simp] theorem State.retired_paging (s : State) (t : Tile) : (s.retired t).paging = s.paging := rfl
@[simp] theorem State.retired_net (s : State) (t : Tile) : (s.retired t).net = s.net := rfl
@[simp] theorem State.retired_stationMsgs (s : State) (t : Tile) : (s.retired t).stationMsgs = s.stationMsgs := rfl
@[simp] theorem State.retired_msgSeq (s : State) (t : Tile) : (s.retired t).msgSeq = s.msgSeq := rfl
@[simp] theorem State.retired_launches (s : State) (t : Tile) : (s.retired t).launches = s.launches := rfl
@[simp] theorem State.retired_nextLaunch (s : State) (t : Tile) : (s.retired t).nextLaunch = s.nextLaunch := rfl
@[simp] theorem State.retired_posts (s : State) (t : Tile) : (s.retired t).posts = s.posts := rfl
@[simp] theorem State.retired_bars (s : State) (t : Tile) : (s.retired t).bars = s.bars := rfl
@[simp] theorem State.retired_spores (s : State) (t : Tile) : (s.retired t).spores = s.spores := rfl
@[simp] theorem State.retired_overflows (s : State) (t : Tile) : (s.retired t).overflows = s.overflows := rfl
@[simp] theorem State.retired_reserve (s : State) (t : Tile) : (s.retired t).reserve = s.reserve := rfl
@[simp] theorem State.retired_dmemPools (s : State) (t : Tile) : (s.retired t).dmemPools = s.dmemPools := rfl
@[simp] theorem State.retired_dmemUsed (s : State) (t : Tile) : (s.retired t).dmemUsed = s.dmemUsed := rfl
@[simp] theorem State.retired_trust (s : State) (t : Tile) : (s.retired t).trust = s.trust := rfl
@[simp] theorem State.retired_fabric (s : State) (t : Tile) : (s.retired t).fabric = s.fabric := rfl
@[simp] theorem State.retired_host (s : State) (t : Tile) : (s.retired t).host = s.host := rfl
@[simp] theorem State.retired_power (s : State) (t : Tile) : (s.retired t).power = s.power := rfl
@[simp] theorem State.retired_station (s : State) (t : Tile) : (s.retired t).station = s.station := rfl
@[simp] theorem State.retired_firing (s : State) (t : Tile) : (s.retired t).firing = s.firing := rfl
@[simp] theorem State.retired_haltLinks (s : State) (t : Tile) : (s.retired t).haltLinks = s.haltLinks := rfl
@[simp] theorem State.retired_stationFaults (s : State) (t : Tile) : (s.retired t).stationFaults = s.stationFaults := rfl

/-! ### `State.mapLaunch` -/

@[simp] theorem State.mapLaunch_tile (s : State) (n : Nat) (f : Launch → Launch) : (s.mapLaunch n f).tile = s.tile := rfl
@[simp] theorem State.mapLaunch_others (s : State) (n : Nat) (f : Launch → Launch) : (s.mapLaunch n f).others = s.others := rfl
@[simp] theorem State.mapLaunch_turns (s : State) (n : Nat) (f : Launch → Launch) : (s.mapLaunch n f).turns = s.turns := rfl
@[simp] theorem State.mapLaunch_clock (s : State) (n : Nat) (f : Launch → Launch) : (s.mapLaunch n f).clock = s.clock := rfl
@[simp] theorem State.mapLaunch_draws (s : State) (n : Nat) (f : Launch → Launch) : (s.mapLaunch n f).draws = s.draws := rfl
@[simp] theorem State.mapLaunch_device (s : State) (n : Nat) (f : Launch → Launch) : (s.mapLaunch n f).device = s.device := rfl
@[simp] theorem State.mapLaunch_mem (s : State) (n : Nat) (f : Launch → Launch) : (s.mapLaunch n f).mem = s.mem := rfl
@[simp] theorem State.mapLaunch_dirs (s : State) (n : Nat) (f : Launch → Launch) : (s.mapLaunch n f).dirs = s.dirs := rfl
@[simp] theorem State.mapLaunch_levels (s : State) (n : Nat) (f : Launch → Launch) : (s.mapLaunch n f).levels = s.levels := rfl
@[simp] theorem State.mapLaunch_levelSeq (s : State) (n : Nat) (f : Launch → Launch) : (s.mapLaunch n f).levelSeq = s.levelSeq := rfl
@[simp] theorem State.mapLaunch_copies (s : State) (n : Nat) (f : Launch → Launch) : (s.mapLaunch n f).copies = s.copies := rfl
@[simp] theorem State.mapLaunch_poison (s : State) (n : Nat) (f : Launch → Launch) : (s.mapLaunch n f).poison = s.poison := rfl
@[simp] theorem State.mapLaunch_armed (s : State) (n : Nat) (f : Launch → Launch) : (s.mapLaunch n f).armed = s.armed := rfl
@[simp] theorem State.mapLaunch_injected (s : State) (n : Nat) (f : Launch → Launch) : (s.mapLaunch n f).injected = s.injected := rfl
@[simp] theorem State.mapLaunch_corrected (s : State) (n : Nat) (f : Launch → Launch) : (s.mapLaunch n f).corrected = s.corrected := rfl
@[simp] theorem State.mapLaunch_correctedSectors (s : State) (n : Nat) (f : Launch → Launch) : (s.mapLaunch n f).correctedSectors = s.correctedSectors := rfl
@[simp] theorem State.mapLaunch_withheld (s : State) (n : Nat) (f : Launch → Launch) : (s.mapLaunch n f).withheld = s.withheld := rfl
@[simp] theorem State.mapLaunch_violations (s : State) (n : Nat) (f : Launch → Launch) : (s.mapLaunch n f).violations = s.violations := rfl
@[simp] theorem State.mapLaunch_violationOverflow (s : State) (n : Nat) (f : Launch → Launch) : (s.mapLaunch n f).violationOverflow = s.violationOverflow := rfl
@[simp] theorem State.mapLaunch_requests (s : State) (n : Nat) (f : Launch → Launch) : (s.mapLaunch n f).requests = s.requests := rfl
@[simp] theorem State.mapLaunch_replies (s : State) (n : Nat) (f : Launch → Launch) : (s.mapLaunch n f).replies = s.replies := rfl
@[simp] theorem State.mapLaunch_controls (s : State) (n : Nat) (f : Launch → Launch) : (s.mapLaunch n f).controls = s.controls := rfl
@[simp] theorem State.mapLaunch_rings (s : State) (n : Nat) (f : Launch → Launch) : (s.mapLaunch n f).rings = s.rings := rfl
@[simp] theorem State.mapLaunch_clusters (s : State) (n : Nat) (f : Launch → Launch) : (s.mapLaunch n f).clusters = s.clusters := rfl
@[simp] theorem State.mapLaunch_segments (s : State) (n : Nat) (f : Launch → Launch) : (s.mapLaunch n f).segments = s.segments := rfl
@[simp] theorem State.mapLaunch_paging (s : State) (n : Nat) (f : Launch → Launch) : (s.mapLaunch n f).paging = s.paging := rfl
@[simp] theorem State.mapLaunch_net (s : State) (n : Nat) (f : Launch → Launch) : (s.mapLaunch n f).net = s.net := rfl
@[simp] theorem State.mapLaunch_stationMsgs (s : State) (n : Nat) (f : Launch → Launch) : (s.mapLaunch n f).stationMsgs = s.stationMsgs := rfl
@[simp] theorem State.mapLaunch_msgSeq (s : State) (n : Nat) (f : Launch → Launch) : (s.mapLaunch n f).msgSeq = s.msgSeq := rfl
@[simp] theorem State.mapLaunch_nextLaunch (s : State) (n : Nat) (f : Launch → Launch) : (s.mapLaunch n f).nextLaunch = s.nextLaunch := rfl
@[simp] theorem State.mapLaunch_posts (s : State) (n : Nat) (f : Launch → Launch) : (s.mapLaunch n f).posts = s.posts := rfl
@[simp] theorem State.mapLaunch_bars (s : State) (n : Nat) (f : Launch → Launch) : (s.mapLaunch n f).bars = s.bars := rfl
@[simp] theorem State.mapLaunch_spores (s : State) (n : Nat) (f : Launch → Launch) : (s.mapLaunch n f).spores = s.spores := rfl
@[simp] theorem State.mapLaunch_overflows (s : State) (n : Nat) (f : Launch → Launch) : (s.mapLaunch n f).overflows = s.overflows := rfl
@[simp] theorem State.mapLaunch_reserve (s : State) (n : Nat) (f : Launch → Launch) : (s.mapLaunch n f).reserve = s.reserve := rfl
@[simp] theorem State.mapLaunch_dmemPools (s : State) (n : Nat) (f : Launch → Launch) : (s.mapLaunch n f).dmemPools = s.dmemPools := rfl
@[simp] theorem State.mapLaunch_dmemUsed (s : State) (n : Nat) (f : Launch → Launch) : (s.mapLaunch n f).dmemUsed = s.dmemUsed := rfl
@[simp] theorem State.mapLaunch_trust (s : State) (n : Nat) (f : Launch → Launch) : (s.mapLaunch n f).trust = s.trust := rfl
@[simp] theorem State.mapLaunch_fabric (s : State) (n : Nat) (f : Launch → Launch) : (s.mapLaunch n f).fabric = s.fabric := rfl
@[simp] theorem State.mapLaunch_host (s : State) (n : Nat) (f : Launch → Launch) : (s.mapLaunch n f).host = s.host := rfl
@[simp] theorem State.mapLaunch_power (s : State) (n : Nat) (f : Launch → Launch) : (s.mapLaunch n f).power = s.power := rfl
@[simp] theorem State.mapLaunch_station (s : State) (n : Nat) (f : Launch → Launch) : (s.mapLaunch n f).station = s.station := rfl
@[simp] theorem State.mapLaunch_firing (s : State) (n : Nat) (f : Launch → Launch) : (s.mapLaunch n f).firing = s.firing := rfl
@[simp] theorem State.mapLaunch_haltLinks (s : State) (n : Nat) (f : Launch → Launch) : (s.mapLaunch n f).haltLinks = s.haltLinks := rfl
@[simp] theorem State.mapLaunch_stationFaults (s : State) (n : Nat) (f : Launch → Launch) : (s.mapLaunch n f).stationFaults = s.stationFaults := rfl

/-! ### `State.mapCluster` -/

@[simp] theorem State.mapCluster_tile (s : State) (k : Nat) (f : Cluster → Cluster) : (s.mapCluster k f).tile = s.tile := rfl
@[simp] theorem State.mapCluster_others (s : State) (k : Nat) (f : Cluster → Cluster) : (s.mapCluster k f).others = s.others := rfl
@[simp] theorem State.mapCluster_turns (s : State) (k : Nat) (f : Cluster → Cluster) : (s.mapCluster k f).turns = s.turns := rfl
@[simp] theorem State.mapCluster_clock (s : State) (k : Nat) (f : Cluster → Cluster) : (s.mapCluster k f).clock = s.clock := rfl
@[simp] theorem State.mapCluster_draws (s : State) (k : Nat) (f : Cluster → Cluster) : (s.mapCluster k f).draws = s.draws := rfl
@[simp] theorem State.mapCluster_device (s : State) (k : Nat) (f : Cluster → Cluster) : (s.mapCluster k f).device = s.device := rfl
@[simp] theorem State.mapCluster_mem (s : State) (k : Nat) (f : Cluster → Cluster) : (s.mapCluster k f).mem = s.mem := rfl
@[simp] theorem State.mapCluster_dirs (s : State) (k : Nat) (f : Cluster → Cluster) : (s.mapCluster k f).dirs = s.dirs := rfl
@[simp] theorem State.mapCluster_levels (s : State) (k : Nat) (f : Cluster → Cluster) : (s.mapCluster k f).levels = s.levels := rfl
@[simp] theorem State.mapCluster_levelSeq (s : State) (k : Nat) (f : Cluster → Cluster) : (s.mapCluster k f).levelSeq = s.levelSeq := rfl
@[simp] theorem State.mapCluster_copies (s : State) (k : Nat) (f : Cluster → Cluster) : (s.mapCluster k f).copies = s.copies := rfl
@[simp] theorem State.mapCluster_poison (s : State) (k : Nat) (f : Cluster → Cluster) : (s.mapCluster k f).poison = s.poison := rfl
@[simp] theorem State.mapCluster_armed (s : State) (k : Nat) (f : Cluster → Cluster) : (s.mapCluster k f).armed = s.armed := rfl
@[simp] theorem State.mapCluster_injected (s : State) (k : Nat) (f : Cluster → Cluster) : (s.mapCluster k f).injected = s.injected := rfl
@[simp] theorem State.mapCluster_corrected (s : State) (k : Nat) (f : Cluster → Cluster) : (s.mapCluster k f).corrected = s.corrected := rfl
@[simp] theorem State.mapCluster_correctedSectors (s : State) (k : Nat) (f : Cluster → Cluster) : (s.mapCluster k f).correctedSectors = s.correctedSectors := rfl
@[simp] theorem State.mapCluster_withheld (s : State) (k : Nat) (f : Cluster → Cluster) : (s.mapCluster k f).withheld = s.withheld := rfl
@[simp] theorem State.mapCluster_violations (s : State) (k : Nat) (f : Cluster → Cluster) : (s.mapCluster k f).violations = s.violations := rfl
@[simp] theorem State.mapCluster_violationOverflow (s : State) (k : Nat) (f : Cluster → Cluster) : (s.mapCluster k f).violationOverflow = s.violationOverflow := rfl
@[simp] theorem State.mapCluster_requests (s : State) (k : Nat) (f : Cluster → Cluster) : (s.mapCluster k f).requests = s.requests := rfl
@[simp] theorem State.mapCluster_replies (s : State) (k : Nat) (f : Cluster → Cluster) : (s.mapCluster k f).replies = s.replies := rfl
@[simp] theorem State.mapCluster_controls (s : State) (k : Nat) (f : Cluster → Cluster) : (s.mapCluster k f).controls = s.controls := rfl
@[simp] theorem State.mapCluster_rings (s : State) (k : Nat) (f : Cluster → Cluster) : (s.mapCluster k f).rings = s.rings := rfl
@[simp] theorem State.mapCluster_segments (s : State) (k : Nat) (f : Cluster → Cluster) : (s.mapCluster k f).segments = s.segments := rfl
@[simp] theorem State.mapCluster_paging (s : State) (k : Nat) (f : Cluster → Cluster) : (s.mapCluster k f).paging = s.paging := rfl
@[simp] theorem State.mapCluster_net (s : State) (k : Nat) (f : Cluster → Cluster) : (s.mapCluster k f).net = s.net := rfl
@[simp] theorem State.mapCluster_stationMsgs (s : State) (k : Nat) (f : Cluster → Cluster) : (s.mapCluster k f).stationMsgs = s.stationMsgs := rfl
@[simp] theorem State.mapCluster_msgSeq (s : State) (k : Nat) (f : Cluster → Cluster) : (s.mapCluster k f).msgSeq = s.msgSeq := rfl
@[simp] theorem State.mapCluster_launches (s : State) (k : Nat) (f : Cluster → Cluster) : (s.mapCluster k f).launches = s.launches := rfl
@[simp] theorem State.mapCluster_nextLaunch (s : State) (k : Nat) (f : Cluster → Cluster) : (s.mapCluster k f).nextLaunch = s.nextLaunch := rfl
@[simp] theorem State.mapCluster_posts (s : State) (k : Nat) (f : Cluster → Cluster) : (s.mapCluster k f).posts = s.posts := rfl
@[simp] theorem State.mapCluster_bars (s : State) (k : Nat) (f : Cluster → Cluster) : (s.mapCluster k f).bars = s.bars := rfl
@[simp] theorem State.mapCluster_spores (s : State) (k : Nat) (f : Cluster → Cluster) : (s.mapCluster k f).spores = s.spores := rfl
@[simp] theorem State.mapCluster_overflows (s : State) (k : Nat) (f : Cluster → Cluster) : (s.mapCluster k f).overflows = s.overflows := rfl
@[simp] theorem State.mapCluster_reserve (s : State) (k : Nat) (f : Cluster → Cluster) : (s.mapCluster k f).reserve = s.reserve := rfl
@[simp] theorem State.mapCluster_dmemPools (s : State) (k : Nat) (f : Cluster → Cluster) : (s.mapCluster k f).dmemPools = s.dmemPools := rfl
@[simp] theorem State.mapCluster_dmemUsed (s : State) (k : Nat) (f : Cluster → Cluster) : (s.mapCluster k f).dmemUsed = s.dmemUsed := rfl
@[simp] theorem State.mapCluster_trust (s : State) (k : Nat) (f : Cluster → Cluster) : (s.mapCluster k f).trust = s.trust := rfl
@[simp] theorem State.mapCluster_fabric (s : State) (k : Nat) (f : Cluster → Cluster) : (s.mapCluster k f).fabric = s.fabric := rfl
@[simp] theorem State.mapCluster_host (s : State) (k : Nat) (f : Cluster → Cluster) : (s.mapCluster k f).host = s.host := rfl
@[simp] theorem State.mapCluster_power (s : State) (k : Nat) (f : Cluster → Cluster) : (s.mapCluster k f).power = s.power := rfl
@[simp] theorem State.mapCluster_station (s : State) (k : Nat) (f : Cluster → Cluster) : (s.mapCluster k f).station = s.station := rfl
@[simp] theorem State.mapCluster_firing (s : State) (k : Nat) (f : Cluster → Cluster) : (s.mapCluster k f).firing = s.firing := rfl
@[simp] theorem State.mapCluster_haltLinks (s : State) (k : Nat) (f : Cluster → Cluster) : (s.mapCluster k f).haltLinks = s.haltLinks := rfl
@[simp] theorem State.mapCluster_stationFaults (s : State) (k : Nat) (f : Cluster → Cluster) : (s.mapCluster k f).stationFaults = s.stationFaults := rfl

/-! ### `State.mapTile` -/

@[simp] theorem State.mapTile_turns (s : State) (i : Nat) (f : Tile → Tile) : (s.mapTile i f).turns = s.turns := by rw [State.mapTile_eq]
@[simp] theorem State.mapTile_clock (s : State) (i : Nat) (f : Tile → Tile) : (s.mapTile i f).clock = s.clock := by rw [State.mapTile_eq]
@[simp] theorem State.mapTile_draws (s : State) (i : Nat) (f : Tile → Tile) : (s.mapTile i f).draws = s.draws := by rw [State.mapTile_eq]
@[simp] theorem State.mapTile_device (s : State) (i : Nat) (f : Tile → Tile) : (s.mapTile i f).device = s.device := by rw [State.mapTile_eq]
@[simp] theorem State.mapTile_mem (s : State) (i : Nat) (f : Tile → Tile) : (s.mapTile i f).mem = s.mem := by rw [State.mapTile_eq]
@[simp] theorem State.mapTile_dirs (s : State) (i : Nat) (f : Tile → Tile) : (s.mapTile i f).dirs = s.dirs := by rw [State.mapTile_eq]
@[simp] theorem State.mapTile_levels (s : State) (i : Nat) (f : Tile → Tile) : (s.mapTile i f).levels = s.levels := by rw [State.mapTile_eq]
@[simp] theorem State.mapTile_levelSeq (s : State) (i : Nat) (f : Tile → Tile) : (s.mapTile i f).levelSeq = s.levelSeq := by rw [State.mapTile_eq]
@[simp] theorem State.mapTile_copies (s : State) (i : Nat) (f : Tile → Tile) : (s.mapTile i f).copies = s.copies := by rw [State.mapTile_eq]
@[simp] theorem State.mapTile_poison (s : State) (i : Nat) (f : Tile → Tile) : (s.mapTile i f).poison = s.poison := by rw [State.mapTile_eq]
@[simp] theorem State.mapTile_armed (s : State) (i : Nat) (f : Tile → Tile) : (s.mapTile i f).armed = s.armed := by rw [State.mapTile_eq]
@[simp] theorem State.mapTile_injected (s : State) (i : Nat) (f : Tile → Tile) : (s.mapTile i f).injected = s.injected := by rw [State.mapTile_eq]
@[simp] theorem State.mapTile_corrected (s : State) (i : Nat) (f : Tile → Tile) : (s.mapTile i f).corrected = s.corrected := by rw [State.mapTile_eq]
@[simp] theorem State.mapTile_correctedSectors (s : State) (i : Nat) (f : Tile → Tile) : (s.mapTile i f).correctedSectors = s.correctedSectors := by rw [State.mapTile_eq]
@[simp] theorem State.mapTile_withheld (s : State) (i : Nat) (f : Tile → Tile) : (s.mapTile i f).withheld = s.withheld := by rw [State.mapTile_eq]
@[simp] theorem State.mapTile_violations (s : State) (i : Nat) (f : Tile → Tile) : (s.mapTile i f).violations = s.violations := by rw [State.mapTile_eq]
@[simp] theorem State.mapTile_violationOverflow (s : State) (i : Nat) (f : Tile → Tile) : (s.mapTile i f).violationOverflow = s.violationOverflow := by rw [State.mapTile_eq]
@[simp] theorem State.mapTile_requests (s : State) (i : Nat) (f : Tile → Tile) : (s.mapTile i f).requests = s.requests := by rw [State.mapTile_eq]
@[simp] theorem State.mapTile_replies (s : State) (i : Nat) (f : Tile → Tile) : (s.mapTile i f).replies = s.replies := by rw [State.mapTile_eq]
@[simp] theorem State.mapTile_controls (s : State) (i : Nat) (f : Tile → Tile) : (s.mapTile i f).controls = s.controls := by rw [State.mapTile_eq]
@[simp] theorem State.mapTile_rings (s : State) (i : Nat) (f : Tile → Tile) : (s.mapTile i f).rings = s.rings := by rw [State.mapTile_eq]
@[simp] theorem State.mapTile_clusters (s : State) (i : Nat) (f : Tile → Tile) : (s.mapTile i f).clusters = s.clusters := by rw [State.mapTile_eq]
@[simp] theorem State.mapTile_segments (s : State) (i : Nat) (f : Tile → Tile) : (s.mapTile i f).segments = s.segments := by rw [State.mapTile_eq]
@[simp] theorem State.mapTile_paging (s : State) (i : Nat) (f : Tile → Tile) : (s.mapTile i f).paging = s.paging := by rw [State.mapTile_eq]
@[simp] theorem State.mapTile_net (s : State) (i : Nat) (f : Tile → Tile) : (s.mapTile i f).net = s.net := by rw [State.mapTile_eq]
@[simp] theorem State.mapTile_stationMsgs (s : State) (i : Nat) (f : Tile → Tile) : (s.mapTile i f).stationMsgs = s.stationMsgs := by rw [State.mapTile_eq]
@[simp] theorem State.mapTile_msgSeq (s : State) (i : Nat) (f : Tile → Tile) : (s.mapTile i f).msgSeq = s.msgSeq := by rw [State.mapTile_eq]
@[simp] theorem State.mapTile_launches (s : State) (i : Nat) (f : Tile → Tile) : (s.mapTile i f).launches = s.launches := by rw [State.mapTile_eq]
@[simp] theorem State.mapTile_nextLaunch (s : State) (i : Nat) (f : Tile → Tile) : (s.mapTile i f).nextLaunch = s.nextLaunch := by rw [State.mapTile_eq]
@[simp] theorem State.mapTile_posts (s : State) (i : Nat) (f : Tile → Tile) : (s.mapTile i f).posts = s.posts := by rw [State.mapTile_eq]
@[simp] theorem State.mapTile_bars (s : State) (i : Nat) (f : Tile → Tile) : (s.mapTile i f).bars = s.bars := by rw [State.mapTile_eq]
@[simp] theorem State.mapTile_spores (s : State) (i : Nat) (f : Tile → Tile) : (s.mapTile i f).spores = s.spores := by rw [State.mapTile_eq]
@[simp] theorem State.mapTile_overflows (s : State) (i : Nat) (f : Tile → Tile) : (s.mapTile i f).overflows = s.overflows := by rw [State.mapTile_eq]
@[simp] theorem State.mapTile_reserve (s : State) (i : Nat) (f : Tile → Tile) : (s.mapTile i f).reserve = s.reserve := by rw [State.mapTile_eq]
@[simp] theorem State.mapTile_dmemPools (s : State) (i : Nat) (f : Tile → Tile) : (s.mapTile i f).dmemPools = s.dmemPools := by rw [State.mapTile_eq]
@[simp] theorem State.mapTile_dmemUsed (s : State) (i : Nat) (f : Tile → Tile) : (s.mapTile i f).dmemUsed = s.dmemUsed := by rw [State.mapTile_eq]
@[simp] theorem State.mapTile_trust (s : State) (i : Nat) (f : Tile → Tile) : (s.mapTile i f).trust = s.trust := by rw [State.mapTile_eq]
@[simp] theorem State.mapTile_fabric (s : State) (i : Nat) (f : Tile → Tile) : (s.mapTile i f).fabric = s.fabric := by rw [State.mapTile_eq]
@[simp] theorem State.mapTile_host (s : State) (i : Nat) (f : Tile → Tile) : (s.mapTile i f).host = s.host := by rw [State.mapTile_eq]
@[simp] theorem State.mapTile_power (s : State) (i : Nat) (f : Tile → Tile) : (s.mapTile i f).power = s.power := by rw [State.mapTile_eq]
@[simp] theorem State.mapTile_station (s : State) (i : Nat) (f : Tile → Tile) : (s.mapTile i f).station = s.station := by rw [State.mapTile_eq]
@[simp] theorem State.mapTile_firing (s : State) (i : Nat) (f : Tile → Tile) : (s.mapTile i f).firing = s.firing := by rw [State.mapTile_eq]
@[simp] theorem State.mapTile_haltLinks (s : State) (i : Nat) (f : Tile → Tile) : (s.mapTile i f).haltLinks = s.haltLinks := by rw [State.mapTile_eq]
@[simp] theorem State.mapTile_stationFaults (s : State) (i : Nat) (f : Tile → Tile) : (s.mapTile i f).stationFaults = s.stationFaults := by rw [State.mapTile_eq]

/-! ### `State.mapEntry` -/

@[simp] theorem State.mapEntry_tile (s : State) (h : HomeId) (b : Nat) (f : DirEntry → DirEntry) : (s.mapEntry h b f).tile = s.tile := rfl
@[simp] theorem State.mapEntry_others (s : State) (h : HomeId) (b : Nat) (f : DirEntry → DirEntry) : (s.mapEntry h b f).others = s.others := rfl
@[simp] theorem State.mapEntry_turns (s : State) (h : HomeId) (b : Nat) (f : DirEntry → DirEntry) : (s.mapEntry h b f).turns = s.turns := rfl
@[simp] theorem State.mapEntry_clock (s : State) (h : HomeId) (b : Nat) (f : DirEntry → DirEntry) : (s.mapEntry h b f).clock = s.clock := rfl
@[simp] theorem State.mapEntry_draws (s : State) (h : HomeId) (b : Nat) (f : DirEntry → DirEntry) : (s.mapEntry h b f).draws = s.draws := rfl
@[simp] theorem State.mapEntry_device (s : State) (h : HomeId) (b : Nat) (f : DirEntry → DirEntry) : (s.mapEntry h b f).device = s.device := rfl
@[simp] theorem State.mapEntry_mem (s : State) (h : HomeId) (b : Nat) (f : DirEntry → DirEntry) : (s.mapEntry h b f).mem = s.mem := rfl
@[simp] theorem State.mapEntry_levels (s : State) (h : HomeId) (b : Nat) (f : DirEntry → DirEntry) : (s.mapEntry h b f).levels = s.levels := rfl
@[simp] theorem State.mapEntry_levelSeq (s : State) (h : HomeId) (b : Nat) (f : DirEntry → DirEntry) : (s.mapEntry h b f).levelSeq = s.levelSeq := rfl
@[simp] theorem State.mapEntry_copies (s : State) (h : HomeId) (b : Nat) (f : DirEntry → DirEntry) : (s.mapEntry h b f).copies = s.copies := rfl
@[simp] theorem State.mapEntry_poison (s : State) (h : HomeId) (b : Nat) (f : DirEntry → DirEntry) : (s.mapEntry h b f).poison = s.poison := rfl
@[simp] theorem State.mapEntry_armed (s : State) (h : HomeId) (b : Nat) (f : DirEntry → DirEntry) : (s.mapEntry h b f).armed = s.armed := rfl
@[simp] theorem State.mapEntry_injected (s : State) (h : HomeId) (b : Nat) (f : DirEntry → DirEntry) : (s.mapEntry h b f).injected = s.injected := rfl
@[simp] theorem State.mapEntry_corrected (s : State) (h : HomeId) (b : Nat) (f : DirEntry → DirEntry) : (s.mapEntry h b f).corrected = s.corrected := rfl
@[simp] theorem State.mapEntry_correctedSectors (s : State) (h : HomeId) (b : Nat) (f : DirEntry → DirEntry) : (s.mapEntry h b f).correctedSectors = s.correctedSectors := rfl
@[simp] theorem State.mapEntry_withheld (s : State) (h : HomeId) (b : Nat) (f : DirEntry → DirEntry) : (s.mapEntry h b f).withheld = s.withheld := rfl
@[simp] theorem State.mapEntry_violations (s : State) (h : HomeId) (b : Nat) (f : DirEntry → DirEntry) : (s.mapEntry h b f).violations = s.violations := rfl
@[simp] theorem State.mapEntry_violationOverflow (s : State) (h : HomeId) (b : Nat) (f : DirEntry → DirEntry) : (s.mapEntry h b f).violationOverflow = s.violationOverflow := rfl
@[simp] theorem State.mapEntry_requests (s : State) (h : HomeId) (b : Nat) (f : DirEntry → DirEntry) : (s.mapEntry h b f).requests = s.requests := rfl
@[simp] theorem State.mapEntry_replies (s : State) (h : HomeId) (b : Nat) (f : DirEntry → DirEntry) : (s.mapEntry h b f).replies = s.replies := rfl
@[simp] theorem State.mapEntry_controls (s : State) (h : HomeId) (b : Nat) (f : DirEntry → DirEntry) : (s.mapEntry h b f).controls = s.controls := rfl
@[simp] theorem State.mapEntry_rings (s : State) (h : HomeId) (b : Nat) (f : DirEntry → DirEntry) : (s.mapEntry h b f).rings = s.rings := rfl
@[simp] theorem State.mapEntry_clusters (s : State) (h : HomeId) (b : Nat) (f : DirEntry → DirEntry) : (s.mapEntry h b f).clusters = s.clusters := rfl
@[simp] theorem State.mapEntry_segments (s : State) (h : HomeId) (b : Nat) (f : DirEntry → DirEntry) : (s.mapEntry h b f).segments = s.segments := rfl
@[simp] theorem State.mapEntry_paging (s : State) (h : HomeId) (b : Nat) (f : DirEntry → DirEntry) : (s.mapEntry h b f).paging = s.paging := rfl
@[simp] theorem State.mapEntry_net (s : State) (h : HomeId) (b : Nat) (f : DirEntry → DirEntry) : (s.mapEntry h b f).net = s.net := rfl
@[simp] theorem State.mapEntry_stationMsgs (s : State) (h : HomeId) (b : Nat) (f : DirEntry → DirEntry) : (s.mapEntry h b f).stationMsgs = s.stationMsgs := rfl
@[simp] theorem State.mapEntry_msgSeq (s : State) (h : HomeId) (b : Nat) (f : DirEntry → DirEntry) : (s.mapEntry h b f).msgSeq = s.msgSeq := rfl
@[simp] theorem State.mapEntry_launches (s : State) (h : HomeId) (b : Nat) (f : DirEntry → DirEntry) : (s.mapEntry h b f).launches = s.launches := rfl
@[simp] theorem State.mapEntry_nextLaunch (s : State) (h : HomeId) (b : Nat) (f : DirEntry → DirEntry) : (s.mapEntry h b f).nextLaunch = s.nextLaunch := rfl
@[simp] theorem State.mapEntry_posts (s : State) (h : HomeId) (b : Nat) (f : DirEntry → DirEntry) : (s.mapEntry h b f).posts = s.posts := rfl
@[simp] theorem State.mapEntry_bars (s : State) (h : HomeId) (b : Nat) (f : DirEntry → DirEntry) : (s.mapEntry h b f).bars = s.bars := rfl
@[simp] theorem State.mapEntry_spores (s : State) (h : HomeId) (b : Nat) (f : DirEntry → DirEntry) : (s.mapEntry h b f).spores = s.spores := rfl
@[simp] theorem State.mapEntry_overflows (s : State) (h : HomeId) (b : Nat) (f : DirEntry → DirEntry) : (s.mapEntry h b f).overflows = s.overflows := rfl
@[simp] theorem State.mapEntry_reserve (s : State) (h : HomeId) (b : Nat) (f : DirEntry → DirEntry) : (s.mapEntry h b f).reserve = s.reserve := rfl
@[simp] theorem State.mapEntry_dmemPools (s : State) (h : HomeId) (b : Nat) (f : DirEntry → DirEntry) : (s.mapEntry h b f).dmemPools = s.dmemPools := rfl
@[simp] theorem State.mapEntry_dmemUsed (s : State) (h : HomeId) (b : Nat) (f : DirEntry → DirEntry) : (s.mapEntry h b f).dmemUsed = s.dmemUsed := rfl
@[simp] theorem State.mapEntry_trust (s : State) (h : HomeId) (b : Nat) (f : DirEntry → DirEntry) : (s.mapEntry h b f).trust = s.trust := rfl
@[simp] theorem State.mapEntry_fabric (s : State) (h : HomeId) (b : Nat) (f : DirEntry → DirEntry) : (s.mapEntry h b f).fabric = s.fabric := rfl
@[simp] theorem State.mapEntry_host (s : State) (h : HomeId) (b : Nat) (f : DirEntry → DirEntry) : (s.mapEntry h b f).host = s.host := rfl
@[simp] theorem State.mapEntry_power (s : State) (h : HomeId) (b : Nat) (f : DirEntry → DirEntry) : (s.mapEntry h b f).power = s.power := rfl
@[simp] theorem State.mapEntry_station (s : State) (h : HomeId) (b : Nat) (f : DirEntry → DirEntry) : (s.mapEntry h b f).station = s.station := rfl
@[simp] theorem State.mapEntry_firing (s : State) (h : HomeId) (b : Nat) (f : DirEntry → DirEntry) : (s.mapEntry h b f).firing = s.firing := rfl
@[simp] theorem State.mapEntry_haltLinks (s : State) (h : HomeId) (b : Nat) (f : DirEntry → DirEntry) : (s.mapEntry h b f).haltLinks = s.haltLinks := rfl
@[simp] theorem State.mapEntry_stationFaults (s : State) (h : HomeId) (b : Nat) (f : DirEntry → DirEntry) : (s.mapEntry h b f).stationFaults = s.stationFaults := rfl

/-! ### Registers read back -/

theorem vector_get {α : Type} {n : Nat} (xs : Vector α n) (i : Fin n) : xs.get i = xs[i.val] := rfl

theorem vector_get_set {α : Type} {n : Nat} (xs : Vector α n) (i j : Fin n) (v : α) : (xs.set i.val v).get j = if j = i then v else xs.get j := by
  by_cases h : j = i
  · subst h; simp [vector_get]
  · rw [if_neg h, vector_get, vector_get, Vector.getElem_set_ne]
    exact fun e => h (Fin.ext e.symm)

@[simp] theorem Tile.rx_zero (t : Tile) : t.rx 0 = 0 := rfl

theorem Tile.rx_setX (t : Tile) (r q : Reg) (v : Word) : (t.setX r v).rx q = if q = r ∧ r ≠ 0 then v else t.rx q := by
  by_cases hr : r = 0
  · simp [Tile.setX, hr]
  · rw [Tile.setX, if_neg hr, Tile.rx, Tile.rx, vector_get_set, if_pos rfl, vector_get_set]
    by_cases hq : q = r
    · simp [hq, hr]
    · simp [hq]

theorem Tile.v_setV (t : Tile) (r q : Reg) (v : VReg) : (t.setV r v).v.get q = if q = r then v else t.v.get q := vector_get_set _ _ _ _

end Sys2Proof.Machine
end

