-- ==== Sys2Proof/Laws/Vector.lean ====
section
/-! SUPPORT. Writing elements into a vector register (R288, R291, R313): each field lands in its element and in no other. -/

namespace Sys2Proof.Machine

open Sys2Proof

/-- Bit `j` of an element is a bit of the register (R288). -/
theorem el_testBit (v : VReg) (w i j : Nat) : (v.el w i).testBit j = (decide (j < w) && v.bits.getLsbD (w * i + j)) := by
  unfold VReg.el
  rw [← Nat.shiftRight_eq_div_pow, Nat.testBit_mod_two_pow, Nat.testBit_shiftRight, BitVec.testBit_toNat]

theorem fieldMask_bit (pos w j : Nat) (h : j < 1024) :
    (fieldMask pos w).getLsbD j = (decide (pos ≤ j) && decide (j < pos + w)) := by
  unfold fieldMask
  rw [BitVec.getLsbD_ofNat, Nat.testBit_mul_two_pow, Nat.testBit_two_pow_sub_one]
  by_cases h1 : pos ≤ j <;> by_cases h2 : j < pos + w <;> simp [h, h1, h2] <;> omega

/-- A field changes only its own bits. -/
theorem put_bit (f : Field) (b : BitVec 1024) (j : Nat) (h : j < 1024) :
    (f.put b).getLsbD j =
      if f.pos ≤ j ∧ j < f.pos + f.width then f.value.testBit (j - f.pos) else b.getLsbD j := by
  unfold Field.put
  rw [BitVec.getLsbD_or, BitVec.getLsbD_and, BitVec.getLsbD_not, fieldMask_bit _ _ _ h, BitVec.getLsbD_ofNat,
    Nat.testBit_mul_two_pow, Nat.testBit_mod_two_pow]
  by_cases h1 : f.pos ≤ j <;> by_cases h2 : j < f.pos + f.width <;> simp [h, h1, h2]
  · intro h3; omega
  · intro h3; omega

/-- The bits of a register, as elements of width `w`: what one field leaves in an element. -/
theorem el_put (f : Field) (b : BitVec 1024) (w n k : Nat) (hp : f.pos = w * n) (hw : f.width = w) (hk : w * k + w ≤ 1024) :
    ({ bits := f.put b } : VReg).el w k = if k = n then f.value % 2 ^ w else ({ bits := b } : VReg).el w k := by
  apply Nat.eq_of_testBit_eq
  intro j
  rw [el_testBit]
  by_cases hj : j < w
  · have hb : w * k + j < 1024 := by omega
    simp only [hj, decide_true, Bool.true_and]
    rw [put_bit _ _ _ hb, hp, hw]
    by_cases hkn : k = n
    · subst hkn
      have h2 : w * k ≤ w * k + j ∧ w * k + j < w * k + w := by omega
      rw [if_pos h2, if_pos rfl, Nat.testBit_mod_two_pow]
      simp [hj]
    · have h2 : ¬(w * n ≤ w * k + j ∧ w * k + j < w * n + w) := by
        rintro ⟨h3, h4⟩
        rcases Nat.lt_or_gt_of_ne hkn with h5 | h5
        · have : w * (k + 1) ≤ w * n := Nat.mul_le_mul_left w h5
          rw [Nat.mul_add] at this
          omega
        · have : w * (n + 1) ≤ w * k := Nat.mul_le_mul_left w h5
          rw [Nat.mul_add] at this
          omega
      rw [if_neg h2, if_neg hkn, el_testBit]
      simp [hj]
  · have hv : ∀ x : Nat, x < 2 ^ w → x.testBit j = false := fun x hx =>
      Nat.testBit_lt_two_pow (Nat.lt_of_lt_of_le hx (Nat.pow_le_pow_right (by decide) (Nat.not_lt.mp hj)))
    simp only [hj, decide_false, Bool.false_and]
    split
    · exact (hv _ (Nat.mod_lt _ (Nat.two_pow_pos w))).symm
    · exact (hv _ (Nat.mod_lt _ (Nat.two_pow_pos w))).symm

/-- The bits after fields of one width were put, one at each of the elements `ns`, all different: those elements hold their values, and the others
what they held. -/
theorem el_puts {ι : Type} (w : Nat) (place : ι → Nat) (value : ι → Nat) (field : ι → Field) (hp : ∀ i, (field i).pos = w * place i)
    (hw : ∀ i, (field i).width = w) (hv : ∀ i, (field i).value = value i) (is : List ι) (hd : (is.map place).Nodup) (b : BitVec 1024) (k : Nat)
    (hk : w * k + w ≤ 1024) :
    (∀ i ∈ is, place i = k → ({ bits := (is.map field).foldl (fun m f => f.put m) b } : VReg).el w k = value i % 2 ^ w) ∧
    ((∀ i ∈ is, place i ≠ k) →
      ({ bits := (is.map field).foldl (fun m f => f.put m) b } : VReg).el w k = ({ bits := b } : VReg).el w k) := by
  induction is generalizing b with
  | nil => simp
  | cons i is ih =>
    have hd' : (is.map place).Nodup := (List.nodup_cons.mp hd).2
    have hi : place i ∉ is.map place := (List.nodup_cons.mp hd).1
    obtain ⟨ih1, ih2⟩ := ih hd' ((field i).put b)
    constructor
    · intro j hj hjk
      rcases List.mem_cons.mp hj with h | h
      · subst h
        have hn : ∀ l ∈ is, place l ≠ k := by
          intro l hl hlk
          exact hi (List.mem_map.mpr ⟨l, hl, by rw [hlk, hjk]⟩)
        have := ih2 hn
        simp only [List.map_cons, List.foldl_cons]
        rw [this, el_put _ _ w (place j) k (hp j) (hw j) hk, if_pos hjk.symm, hv]
      · exact ih1 j h hjk
    · intro hn
      have hn' : ∀ l ∈ is, place l ≠ k := fun l hl => hn l (List.mem_cons_of_mem _ hl)
      have h0 : place i ≠ k := hn i (List.mem_cons_self ..)
      simp only [List.map_cons, List.foldl_cons]
      rw [ih2 hn', el_put _ _ w (place i) k (hp i) (hw i) hk, if_neg (Ne.symm h0)]

theorem laneFold_bit (p : Nat → Bool) (l : List Nat) (b : BitVec 16) (i : Nat) (h : i < 16) :
    (l.foldl (fun (b : BitVec 16) j => if p j then b ||| BitVec.ofNat 16 (2 ^ j) else b) b).getLsbD i =
      (b.getLsbD i || (decide (i ∈ l) && p i)) := by
  induction l generalizing b with
  | nil => simp
  | cons j l ih =>
    simp only [List.foldl_cons]
    rw [ih]
    by_cases hj : p j
    · simp only [hj, if_true, BitVec.getLsbD_or, BitVec.getLsbD_ofNat, Nat.testBit_two_pow, h, decide_true, Bool.true_and, List.mem_cons]
      by_cases hij : i = j
      · subst hij; simp [hj]
      · have : ¬ j = i := fun e => hij e.symm
        simp [hij, this]
    · by_cases hij : i = j
      · subst hij; simp [hj]
      · simp [hj, hij]

/-- The lanes that a test picks. -/
theorem laneBits_bit (p : Nat → Bool) (i : Nat) (h : i < 16) : (laneBits p).getLsbD i = p i := by
  unfold laneBits
  rw [laneFold_bit p _ _ i h]
  simp [h]

/-- A write of no field leaves the register as it is. -/
theorem write_nil (d a b : VReg) : d.write a b [] = d := by
  have h : ∀ p : BitVec 16, poisonAfter p [] = p := by
    intro p
    apply BitVec.eq_of_getLsbD_eq
    intro i hi
    rw [poisonAfter, laneBits_bit _ _ hi]
    have : laneOf 0#1024 i = 0#64 := by
      apply BitVec.eq_of_getLsbD_eq
      intro j hj
      simp [laneOf]
    simp [coverage, this]
  simp [VReg.write, h]

/-- Writing fields into a quiet tile's register, whether there are any or not. -/
theorem writeFields_quiet {s : State} (h : s.Quiet) (d : Reg) (a b : VReg) (fs : List Field) :
    writeFields d a b fs s = .ok () { s with tile := s.tile.setV d ((s.tile.v.get d).write a b fs) } := by
  simp only [writeFields, act_bind, getV_quiet h.armed, act_ite, act_pure, putV_quiet h]
  split
  · next he =>
    have : fs = [] := by simpa using he
    subst this
    rw [write_nil]
    have : s.tile.setV d (s.tile.v.get d) = s.tile := by
      simp only [Tile.setV]
      have : s.tile.v.set d.val (s.tile.v.get d) = s.tile.v := by
        apply Vector.ext
        intro i hi
        rw [Vector.getElem_set]
        split
        · next e => subst e; rfl
        · rfl
      rw [this]
    rw [this]
  · rfl

theorem badEl_clean {v : VReg} (h : v.poison = 0) (w i : Nat) : v.badEl w i = false := by
  simp [VReg.badEl, VReg.bad, h]

theorem readMask_clean {s : State} (h : s.armed = []) (n : Nat) (u : Bool) (hm : u = false ∨ (s.tile.v.get 0).poison = 0) :
    readMask n u s = .ok () s := by
  cases u
  · simp [readMask]
  · have hp : (s.tile.v.get 0).poison = 0 := by simpa using hm
    simp only [readMask, act_ite, ite_true, act_bind, getV_quiet h]
    have : ((List.range n).any fun i => (s.tile.v.get 0).badEl 1 i) = false := by
      simp [badEl_clean hp]
    simp only [this, Bool.false_eq_true, ite_false, act_pure]

theorem readActive_clean {s : State} (h : s.armed = []) (hm : s.maskClean) (w : Nat) : readActive w s = .ok () s := by
  simp only [readActive, act_bind, curTile_run]
  exact readMask_clean h _ _ hm

theorem activeSet_nodup (t : Tile) (w : Nat) : ((t.activeSet w).map id).Nodup := by
  simp only [List.map_id, Tile.activeSet]
  exact List.Nodup.filter _ List.nodup_range

theorem elementwise_write {s : State} {d : Reg} {w : Nat} (hw : 0 < w) (a b : VReg) (field : Nat → Field) (f : Nat → Nat)
    (hp : ∀ k, (field k).pos = w * k) (hwd : ∀ k, (field k).width = w) (hv : ∀ k, (field k).value = f k) :
    s.Elementwise d w ((s.tile.v.get d).write a b ((s.tile.activeSet w).map field)) f := by
  intro k hk
  have h := el_puts w id f field hp hwd hv (s.tile.activeSet w) (activeSet_nodup _ _) (s.tile.v.get d).bits k hk
  have hb : ∀ bits : BitVec 1024, ∀ v : VReg, v.bits = bits → v.el w k = ({ bits := bits } : VReg).el w k := by
    rintro _ v rfl; rfl
  have hkc : k < elemCount w := by
    unfold elemCount
    rw [Nat.lt_div_iff_mul_lt hw]
    rw [Nat.mul_comm] 
    omega
  by_cases ha : s.tile.active w k
  · have hm : k ∈ s.tile.activeSet w := by simp [Tile.activeSet, ha, hkc]
    rw [if_pos ha, hb _ _ rfl]
    exact h.1 k hm rfl
  · have hm : ∀ i ∈ s.tile.activeSet w, id i ≠ k := by
      intro i hi he
      simp only [id] at he
      subst he
      simp [Tile.activeSet] at hi
      exact ha hi.2
    rw [if_neg ha, hb _ _ rfl]
    exact h.2 hm

theorem vecVV_gives {s : State} (hp : s.Plain) (hm : s.maskClean) (i : Instr) (d a b : Reg) (w : Nat) (hw : 0 < w) (fused : Bool)
    (f : Nat → Nat → Nat → Nat) :
    ∃ r, vecVV i d a b w fused f s = .next (s.wroteV d r) ∧
      s.Elementwise d w r fun k => f ((s.tile.v.get a).el w k) ((s.tile.v.get b).el w k) ((s.tile.v.get d).el w k) := by
  refine ⟨_, ?_, elementwise_write hw (s.tile.v.get a) (s.tile.v.get b)
    (fun k => { pos := w * k, width := w, value := f ((s.tile.v.get a).el w k) ((s.tile.v.get b).el w k) ((s.tile.v.get d).el w k),
                pa := (s.tile.v.get a).badEl w k, pb := (s.tile.v.get b).badEl w k, pd := fused && (s.tile.v.get d).badEl w k }) _
    (fun _ => rfl) (fun _ => rfl) (fun _ => rfl)⟩
  unfold vecVV
  rw [run_quiet hp.toQuiet _ _ (misplaced_plain hp.kpre)]
  simp only [act_bind, readActive_clean hp.armed hm, getV_quiet hp.armed, curTile_run, writeFields_quiet hp.toQuiet, finish_ok]
  rfl

end Sys2Proof.Machine
end

