-- ==== Sys2Proof/Tests/Slice0.lean ====
section
/-! SUPPORT. Tests on fixed values, and states that meet the hypotheses of the statements. -/

namespace Sys2Proof.Tests

open Sys2Proof Sys2Proof.Machine

/-- A check on the next state of a step. -/
def after (s : State) (p : State → Bool) : Bool :=
  match step s with
  | .next t => p t
  | _ => false

/-! ### Small states -/

/-- One tile in U-mode on one cluster of a device that has booted. -/
def tiny : State :=
  { State.reset with tile := { Tile.reset 0 with mode := .u, dispatch := [] }, others := [], clusters := [Cluster.reset 0],
                     power := { Power.reset with bootStep := 7 } }

/-- That state with another tile. -/
def tinyTile (f : Tile → Tile) : State := { tiny with tile := f tiny.tile }

/-- That state in M-mode, with a word to fetch. -/
def placed (w : Nat) : State := (tinyTile fun t => { t with mode := .m }).withFetchWord 32 w

theorem test_wit_plain : tiny.Plain := ⟨⟨rfl, rfl⟩, rfl⟩

theorem test_wit_straight : tiny.Straight := ⟨⟨⟨rfl, rfl⟩, rfl⟩, rfl⟩

/-- That state with the constant window's word 9 holding 5, and the prefix of word 9 latched. -/
def prefixed : State := { (tinyTile fun t => { t with kpre := some 9, pc := 4 }) with mem := [(72, 5)] }

theorem test_wit_prefix : prefixed.Quiet ∧ prefixed.TakesRs2 0 ∧ prefixed.rs2Of 0 = 5 ∧ tiny.TakesRs2 31 :=
  ⟨⟨rfl, rfl⟩, Or.inr rfl, by decide, Or.inl rfl⟩

/-! ### Decoding: words that the spec assembles -/

theorem test_decode_base : decode 0x00B50533 = .ok (.add 10 10 11) ∧ decode 0x80871073 = .ok (.csrrw 0 14 0x808) ∧
    decode 0x30200073 = .ok .mret ∧ decode 0x8C80507B = .ok (.kpre 200) := by decide

theorem test_decode_vector : decode 0x1C20A20B = .ok (.vfmaVv 4 1 2 2) ∧ decode 0x1C62528B = .ok (.vfredsum 5 4 6 2) ∧
    decode 0x20C0438B = .ok (.vmvVk 7 12 2) := by decide

theorem test_decode_caps : decode 0x28548A2B = .ok (.capSplitR 20 9 5) ∧ decode 0x363392AB = .ok (.cldD 5 7 3 3) ∧
    decode 0x0AD6532B = .ok (.msgSendc 6 12 13 1) := by decide

theorem test_decode_engine : decode 0x8A45855B = .ok (.mxMma 10 11 4 5 2) ∧ decode 0x0058B85B = .ok (.ringInit 16 17 5) ∧
    decode 0x007342DB = .ok (.fcvtN 5 6 7) := by decide

theorem test_decode_control : decode 0x106284FB = .ok (.rgnKeep 9 5 6) ∧ decode 0x300492FB = .ok (.snapInfo 5 9) ∧
    decode 0x312A207B = .ok (.xchBegin 20 2 1) ∧ decode 0x000372FB = .ok (.sysPark 5 6 0) := by decide

theorem test_decode_refuses : (decode 0x0000000F).toOption = none ∧ (decode 0x00000001).toOption = none ∧ (decode 0x8AC1D0FB).toOption = none := by
  decide

theorem test_decode_table : decodeTableWord 32 0x00B50533 = some (.add 10 10 11) ∧ decodeTableWord 32 0x0000002F = none := by decide

/-! ### Ill-formed instructions -/

theorem test_ill_formed_operands : wellFormed (.lpSet 5 0) = false ∧ wellFormed (.capAlloc 1 2 3) = false ∧ wellFormed (.capAlloc 30 2 1) = false ∧
    wellFormed (.capJoin 1 2 0) = false ∧ wellFormed (.ringDoneDismantle 0 3 0) = false ∧ wellFormed (.waitQ 5 5) = false := by decide

theorem test_ill_formed_c30 : wellFormed (.capFree 30) = false ∧ wellFormed (.capCarve 1 30 2) = false ∧ wellFormed (.capMerge 1 2 30) = false ∧
    wellFormed (.capNarrow 30 1 2) = false ∧ wellFormed (.capSplitR 30 1 2) = false ∧ wellFormed (.capSplitF 1 30 2) = false ∧
    wellFormed (.capJoin 1 2 30) = false ∧ wellFormed (.capReclaim 30 1) = false ∧ wellFormed (.capSealX 1 30) = false ∧
    wellFormed (.capMov 30 1) = false ∧ wellFormed (.capFmt 1 30 2) = false ∧ wellFormed (.msgSendc 30 1 2 0) = false ∧
    wellFormed (.xfer 1 30 0) = false ∧ wellFormed (.xferCp 1 30 2) = false ∧ wellFormed (.mxMma 1 2 30 3 0) = false ∧
    wellFormed (.mxLoad 1 30 2 0) = false ∧ wellFormed (.mxOut 1 30 2 0) = false := by decide

theorem test_ill_formed_more_c30 : wellFormed (.ringInit 30 1 2) = false ∧ wellFormed (.ringRsv 30 1) = false ∧ wellFormed (.ringPub 30) = false ∧
    wellFormed (.ringTake 30 1) = false ∧ wellFormed (.ringDoneSlot 30) = false ∧ wellFormed (.ringDoneDismantle 1 2 30) = false ∧
    wellFormed (.rgnKeep 30 1 2) = false ∧ wellFormed (.snapTake 30) = false ∧ wellFormed (.snapAccept 30) = false ∧
    wellFormed (.snapReject 30) = false ∧ wellFormed (.xchBegin 30 0 0) = false ∧ wellFormed (.lnchPost 1 30 2) = false := by decide

theorem test_well_formed : wellFormed (.lpSet 5 255) = true ∧ wellFormed (.capAlloc 1 2 2) = true ∧ wellFormed (.waitQ 5 4) = true ∧
    wellFormed (.capJoin 1 2 2) = true := by decide

/-! ### One step: expected values from the rules -/

theorem test_step_addi : after (State.reset.withFetchWord 32 0x00150513) (fun s => s.tile.rx 10 = 1 && s.tile.pc = 4) = true := by decide

theorem test_fetch_without_code : after tiny (fun s => s.tile.mode = .m && s.tile.mcause = 1) = true := by decide

/-- A check on what an instruction does. -/
def does (i : Instr) (s : State) (p : State → Bool) : Bool :=
  match exec i s with
  | .next t => p t
  | _ => false

/-- The small state with two x registers set. -/
def withX (a b : Word) : State := tinyTile fun t => (t.setX 11 a).setX 12 b

theorem test_add_wraps : does (.add 10 11 12) (withX (BitVec.allOnes 64) 1) (fun s => s.tile.rx 10 = 0 && s.tile.pc = 4) = true := by decide

theorem test_add_prefix : does (.add 10 11 0) prefixed (fun s => s.tile.rx 10 = 5 && s.tile.kpre.isNone) = true := by decide

theorem test_sub_source_is_destination : does (.sub 11 11 11) (withX 7 1) (fun s => s.tile.rx 11 = 0) = true := by decide

theorem test_div_by_zero : does (.div 10 11 12) (withX 7 0) (fun s => s.tile.rx 10 = BitVec.allOnes 64) = true ∧
    does (.rem 10 11 12) (withX 7 0) (fun s => s.tile.rx 10 = 7) = true := by decide

theorem test_div_overflow : does (.div 10 11 12) (withX (2 ^ 63) (BitVec.allOnes 64)) (fun s => s.tile.rx 10 = 2 ^ 63) = true ∧
    does (.rem 10 11 12) (withX (2 ^ 63) (BitVec.allOnes 64)) (fun s => s.tile.rx 10 = 0) = true := by decide +kernel

theorem test_divw_overflow : does (.divw 10 11 12) (withX 0x80000000 0xFFFFFFFF) (fun s => s.tile.rx 10 = 0xFFFFFFFF80000000) = true := by decide

theorem test_mulhsu : does (.mulhsu 10 11 12) (withX (BitVec.allOnes 64) (BitVec.allOnes 64)) (fun s => s.tile.rx 10 = BitVec.allOnes 64) = true := by
  decide

theorem test_clmul : does (.clmul 10 11 12) (withX 3 3) (fun s => s.tile.rx 10 = 5) = true ∧
    does (.clmulr 10 11 12) (withX (2 ^ 63) 2) (fun s => s.tile.rx 10 = 2) = true ∧ does (.clmulh 10 11 12) (withX (2 ^ 63) 2) (fun s => s.tile.rx 10 = 1) = true := by
  decide +kernel

theorem test_x0_discards : does (.addi 0 11 1) (withX 7 0) (fun s => s.tile.rx 0 = 0 && s.tile.pc = 4) = true := by decide

theorem test_branch_backward : does (.beq 11 11 0b1111111_11101) (tinyTile fun t => { t with pc := 8 }) (fun s => s.tile.pc = 4) = true := by decide

theorem test_jal_link : does (.jal 1 0b0_0000000100_0_00000000) tiny (fun s => s.tile.rx 1 = 4 && s.tile.pc = 8) = true := by decide

theorem test_load_sign : does (.lb 10 0 0x40) { tiny with mem := [(0x40, 0x80)] } (fun s => s.tile.rx 10 = 0xFFFFFFFFFFFFFF80) = true ∧
    does (.lbu 10 0 0x40) { tiny with mem := [(0x40, 0x80)] } (fun s => s.tile.rx 10 = 0x80) = true := by decide

/-- A state whose thread stack is at hand. -/
def stacked : State := tinyTile fun t => (t.setX 2 0x1FFF8).setX 11 0x0102030405060708

theorem test_store_little_endian : does (.sd 2 11 0) stacked
    (fun s => s.mem.read 0x1FFF8 = 8 && s.mem.read 0x1FFFF = 1 && s.mem.wf) = true := by decide

theorem test_store_outside : does (.sb 0 11 0x100) (tinyTile fun t => { t with mtvec := 0x80 })
    (fun s => s.tile.mcause = 7 && s.tile.mtval = 0x100 && s.tile.pc = 0x80) = true := by decide

theorem test_csr_swap : does (.csrrw 10 11 0x803) (withX 9 0) (fun s => s.tile.rx 10 = 0 && s.tile.srseed = 9) = true ∧
    does (.csrrw 10 11 0x300) (withX 9 0) (fun s => s.tile.mcause = 2) = true := by decide

theorem test_ecall : does .ecall tiny (fun s => s.tile.mcause = 8 && s.tile.mepc = 0 && s.tile.mode = .m && s.tile.mpp = .u) = true := by decide

theorem test_mret : does .mret (tinyTile fun t => { t with mode := .m, mpp := .u, mepc := 0x40 }) (fun s => s.tile.mode = .u && s.tile.pc = 0x40) = true := by
  decide

theorem test_lp_set_zero : does (.lpSet 11 3) (withX 0 0) (fun s => s.tile.loop.count = 0 && s.tile.pc = 16) = true := by decide

/-! ### States that meet the hypotheses of the statements: decoding and the step -/

/-- The placed state with a line of its code in the instruction cache. -/
def cached (line : Nat) : State :=
  { placed 0x00150513 with tile := { (placed 0x00150513).tile with
      icache := [{ kind := .cmem, location := 0, buffer := 0, generation := 1, line := line, data := [0x13, 5, 0x15, 0] }] } }

theorem test_wit_StepRunsDecoded : ∃ (u t : State) (w : BitVec 32) (i : Instr),
    (cached 0).RunsOwn ∧ EStateM.run fetch (cached 0).tick = .ok w u ∧
    u.tile.gang.member = false ∧ decode w = .ok i ∧ exec i u = .next t ∧ t.tile.halted = false ∧ t.tile.debugStep = none :=
  ⟨_, _, _, _, ⟨rfl, rfl, rfl, rfl, rfl, Or.inr (by decide), rfl, rfl, rfl, rfl, rfl, rfl⟩, rfl, rfl, rfl, rfl, rfl, rfl⟩

theorem test_wit_FetchResults_hit : let s := cached 0
    let c := s.tile.codeCap
    s.tile.pc.toNat + 4 ≤ c.length.toNat ∧ s.tile.pc.toNat % 4 = 0 ∧ c.mode = .exec ∧ c.eff.r = true ∧ s.homeOf c ≠ none ∧ (s.tile.iline c 0).isSome = true := by decide

theorem test_wit_FetchResults_miss : let s := placed 0x00150513
    let c := s.tile.codeCap
    c.kind = .cmem ∧ s.homeOf c = some (.cluster 0) ∧ s.tile.iline c 0 = none ∧ s.asleep (.cluster 0) = false ∧
    s.checkAccess (s.claim (.cluster 0) c s.tile) c.base.toNat 0 256 0 0 = none ∧ s.armed = [] ∧ s.poison = [] := by decide

theorem test_wit_FetchResults_last_word : let s : State := { cached 0xEDFF with tile := { (cached 0xEDFF).tile with pc := 0xEDFFFC } }
    s.tile.pc.toNat + 4 = s.tile.codeCap.length.toNat ∧ (s.tile.iline s.tile.codeCap (s.tile.pc.toNat / 256)).isSome = true := by decide

theorem test_wit_FetchResults_no_home : let s := tinyTile fun t => t.setC 30 { Cap.null with length := 8, mode := .exec, rights := { r := true } }
    s.homeOf s.tile.codeCap = none ∧ s.tile.pc.toNat + 4 ≤ s.tile.codeCap.length.toNat ∧ s.tile.codeCap.eff.r = true := by decide

theorem test_wit_FetchResults_misaligned : let s : State := { cached 0 with tile := { (cached 0).tile with pc := 2 } }
    s.tile.pc.toNat + 4 ≤ s.tile.codeCap.length.toNat ∧ s.tile.pc.toNat % 4 ≠ 0 := by decide

theorem test_wit_FetchResults_past_end : let s : State := { cached 0 with tile := { (cached 0).tile with pc := 0x1000000 } }
    s.tile.codeCap.length.toNat < s.tile.pc.toNat + 4 := by decide

theorem test_wit_DecodeEncode : wellFormed (.mxMma 10 11 4 5 2) = true ∧ encode (.mxMma 10 11 4 5 2) = [0x8A45855B] := by decide

theorem test_wit_EncodeDecode : decode 0xFFF28293 = .ok (.addi 5 5 0xFFF) := by decide

theorem test_wit_EveryInstructionAnswers : placeExists (.hbm4Request (2 ^ 39 - 1) true 0) ∧ placeExists (.debugRead 0 (.tmem 0xBFFF8)) ∧ placeExists .msgRecv :=
  ⟨by show 2 ^ 39 - 1 < 2 ^ 39; decide, by show scanOutside _ = none; decide, trivial⟩

theorem test_wit_EveryInstructionAnswers_stops : 2 ^ 39 ≤ 2 ^ 39 ∧ scanOutside (.tmem 0xBFFF9) = some 0xBFFF9 := by decide

/-! ### Integer instructions, loads, stores, CSRs -/

theorem test_wit_canLoad : tiny.canLoad 0x7F8 8 ∧ tiny.canLoad 0x7FC 4 ∧ tiny.canLoad 0x7FE 2 ∧ tiny.canLoad 0x7FF 1 ∧ tiny.canLoad 0x1FFF8 8 :=
  ⟨⟨by decide, by decide, rfl⟩, ⟨by decide, by decide, rfl⟩, ⟨by decide, by decide, rfl⟩, ⟨by decide, by decide, rfl⟩, ⟨by decide, by decide, rfl⟩⟩

theorem test_wit_StoreResults : ∀ n ∈ [1, 2, 4, 8], (0x20000 - n) % n = 0 ∧ tiny.tile.privateAllows (0x20000 - n) n true = true := by decide

theorem test_wit_PrivateAccessTraps : (1 : Word).toNat % 8 ≠ 0 ∧ (2 : Word).toNat % 4 ≠ 0 ∧ (1 : Word).toNat % 2 ≠ 0 ∧
    (∀ n ∈ [1, 2, 4, 8], 0x800 % n = 0 ∧ tiny.tile.privateAllows 0x800 n false = false ∧ tiny.tile.privateAllows 0x800 n true = false ∧
      tiny.tile.privateAllows 0x20000 n false = false) := by decide

theorem test_wit_BranchAndJumpResults : tiny.tile.atLoopEnd = false ∧ (tiny.tile.pc + jumpOffset 0).toNat % 4 = 0 ∧
    (tiny.tile.pc + jumpOffset 0b0_0000000001_0_00000000).toNat % 4 ≠ 0 ∧
    (((withX 6 0).tile.rx 11 + (0 : BitVec 12).signExtend 64) &&& ~~~ 1).toNat % 4 ≠ 0 ∧
    (((withX 9 0).tile.rx 11 + (0 : BitVec 12).signExtend 64) &&& ~~~ 1).toNat % 4 = 0 := by decide

/-- A tile at the end of its loop. -/
def looping : Tile := { tiny.tile with pc := 12, loop := { start := 4, stop := 12, count := 1 } }

theorem test_wit_RetirementAndLoopBack : (looping.mode = .u ∧ looping.loop.count ≠ 0 ∧ looping.pc = looping.loop.stop ∧ looping.level = looping.loop.level) ∧
    ¬(tiny.tile.mode = .u ∧ tiny.tile.loop.count ≠ 0 ∧ tiny.tile.pc = tiny.tile.loop.stop ∧ tiny.tile.level = tiny.tile.loop.level) := by decide

theorem test_wit_CsrResults : tiny.mayCsr 0xCC0 false ∧ tiny.mayCsr 0x809 true ∧ (0x809 : Nat) ≠ 0x7C4 ∧ csrReserved 0x809 0xFFFFFFFFFFFF = false ∧
    (tinyTile fun t => { t with mode := .m }).mayCsr 0x7C6 true ∧ csrReserved 0x800 0x1FF = false :=
  ⟨⟨by decide, by decide, by decide⟩, ⟨by decide, by decide, by decide⟩, by decide, by decide, ⟨by decide, by decide, by decide⟩, by decide⟩

theorem test_wit_CsrRefusals : ¬ tiny.mayCsr 0xCC0 true ∧ ¬ tiny.mayCsr 0x300 false ∧ ¬ tiny.mayCsr 0xC00 false ∧
    csrReserved 0x809 0x1000000000000 = true ∧ csrReserved 0x800 (tiny.csrRead 0x800 ||| 0x200) = true :=
  ⟨fun h => h.2.2 (by decide), fun h => h.2.1 (by decide), fun h => absurd h.1 (by decide), by decide, by decide⟩

theorem test_wit_CsrReadBack : tiny.tile.loop.count = 0 ∧ looping.loop.count ≠ 0 := by decide

theorem test_wit_ExceptionEntry : tiny.tile.mode = .u ∧ tiny.tile.freeEntry = some 0 ∧ (tinyTile fun t => { t with mode := .m }).tile.mode = .m ∧
    (tiny.tile.faultLog.get 15).cls = 0 := by decide

/-- A message of a tile of the launch 65,536 to its rank 0. -/
def note : Msg := { sender := 1, senderEp := 1, senderLaunch := 65536, dest := .rank 65536 0, type := 1, payload := [7], caps := [] }

theorem test_wit_ReturnWaitLoopPrefix : tiny.tile.gang.member = false ∧ tiny.tile.anyQueued = false ∧
    ({ tiny.tile with queues := tiny.tile.queues.set 3 [{ msg := note }] } : Tile).anyQueued = true ∧ tiny.tile.debugStep = none := by decide

/-! ### Vector instructions -/

/-- A masked state with 3 active elements, one of them masked off. -/
def masked : State := tinyTile fun t => { t with vlen := 3, vmk := true, v := t.v.set 0 { bits := 5 } }

theorem test_wit_vector : tiny.maskClean ∧ masked.Plain ∧ masked.maskClean ∧ (masked.tile.active 32 0, masked.tile.active 32 1, masked.tile.active 32 3) = (true, false, false) :=
  ⟨Or.inl rfl, ⟨⟨rfl, rfl⟩, rfl⟩, Or.inr rfl, by decide +kernel⟩

theorem test_wit_ConversionResults : tiny.tile.rmode ≠ 5 ∧ (Descr.ofBits 0x004047D5).narrow = true ∧ 32 * ((3 : Nat) + 1) * (Descr.ofBits 0x004047D5).width ≤ 1024 ∧
    (tinyTile fun t => { t with rmode := 5 }).tile.rmode = 5 ∧ (Descr.ofBits ((withX 0 0x000000CA).rs2Of 12 |>.setWidth 32)).narrow = true := by decide

theorem test_wit_ScanAndConfigResults : (masked.tile.v.get 0).poison = 0 ∧ masked.scanned 0 = [true, false, true] := by decide +kernel

theorem test_wit_LanePoison : ∃ f : Field, f.pa = true ∧ f.bad = true ∧ f.pos = 0 ∧ f.width = 64 := ⟨{ pos := 0, width := 64, value := 0, pa := true }, by decide⟩

/-! ### Cap instructions -/

/-- The entry of a buffer of 512 bytes in the tile's own heap. -/
def ent : DirEntry := { home := .tile 0, number := 3, base := 0x20000, length := 512, state := .exclusive, generation := 1, domain := 0, owner := 0 }

/-- The exclusive cap of that buffer. -/
def ownCap : Cap :=
  { kind := .tmem, base := 0x20000, length := 512, rights := ⟨true, true, true, true, true, true⟩, buffer := 3, generation := 1, weight := 65536 }

/-- The small state with a cap in `c1`, one in `c2`, a word in `x11`, and the entries of a directory. -/
def holding (c c' : Cap) (v : Word) (es : List DirEntry) : State := { (tinyTile fun t => ((t.setC 1 c).setC 2 c').setX 11 v) with dirs := es }

theorem test_wit_settled (c c' : Cap) (v : Word) (es : List DirEntry) : (holding c c' v es).Settled :=
  { armed := rfl, regions := rfl, cache := rfl, requests := rfl, replies := rfl, remotes := rfl, asks := rfl, sending := rfl, denied := (fun _ h => by cases h), levels := rfl, poison := rfl, release := rfl }

theorem test_wit_quiet (c c' : Cap) (v : Word) (es : List DirEntry) : (holding c c' v es).Quiet := (test_wit_settled c c' v es).toQuiet

theorem test_wit_plain_holding (c c' : Cap) (v : Word) (es : List DirEntry) : (holding c c' v es).Plain := ⟨test_wit_quiet c c' v es, rfl⟩

theorem test_wit_owns : (holding ownCap Cap.null 0 [ent]).HoldsOwn ((holding ownCap Cap.null 0 [ent]).tile.rc 1) ent :=
  { kind := Or.inl rfl, lent := rfl, home := rfl, awake := rfl, entry := rfl, kept := rfl, fits := by decide, window := by decide, state := rfl, generation := rfl, domain := rfl, mode := rfl, owner := rfl,
    tmem := rfl, own := rfl, low := by decide, high := by decide, depth := rfl }

theorem test_wit_takes : (holding ownCap Cap.null 0 [ent]).TakesCap 1 ∧ (holding ownCap Cap.null 0 [ent]).TakesCap 31 ∧ (holding ownCap Cap.null 0 [ent]).TakesRs2 11 :=
  ⟨⟨by decide, rfl⟩, ⟨by decide, rfl⟩, Or.inl rfl⟩

theorem test_wit_ordinary : ((holding ownCap Cap.null 0 [ent]).tile.rc 1).Ordinary := ⟨by decide, by decide, by decide, rfl⟩

theorem test_wit_CapRegisterResults (v : Word) : (holding ownCap Cap.null v []).rs2Of 11 = v ∧ ((holding ownCap Cap.null v []).tile.rc 1).length = 512 := ⟨rfl, rfl⟩

theorem test_wit_CapRegisterResults_range : ∀ v ∈ [(1 : Word), 512, 0x3F0000000001], v.toNat / 2 ^ 46 = 0 ∧ v.toNat % 2 ^ 40 ≠ 0 ∧ v.toNat % 2 ^ 40 ≤ 512 := by simp

theorem test_wit_CapRegisterResults_format : (0x3FFFFFFF : Word).toNat % 2 ^ 32 / 2 ^ 30 = 0 ∧ (3 : Word).toNat ≤ 3 ∧ tiny.tile.mode = .u := by decide

theorem test_wit_AllocatedBuffer : ∃ e t, tiny.alloc (.tile 0) 512 0 0 0 = some (e, t) := ⟨_, _, rfl⟩

theorem test_wit_AllocAndFreeResults : let s := holding Cap.null Cap.null 512 []
    s.TakesCap 1 ∧ s.tile.rx 11 ≠ 0 ∧ (s.tile.rx 11).toNat < 2 ^ 40 ∧ (s.alloc (.tile 0) 512 0 0 0).isSome = true ∧ (s.alloc (.tile 0) (2 ^ 40 - 1) 0 0 0).isNone = true :=
  ⟨⟨by decide, rfl⟩, by decide, by decide, by decide, by decide⟩

/-- The buffer with its entry read-shared, and the cap of some shares of it. -/
def sharedEnt (st : DirState) (n : Nat) : DirEntry := { ent with state := st, count := n }

/-- The cap of some shares of the buffer. -/
def shareCap (m : CapMode) (w : BitVec 17) (op : BitVec 5) : Cap := { ownCap with mode := m, weight := w, foldOp := op }

theorem test_wit_keeps : let s := holding (shareCap .read 1 0) (shareCap .read 65535 0) 0 [sharedEnt .readShared 65536]
    s.Keeps (s.tile.rc 1) (.tile 0) (sharedEnt .readShared 65536) (s.tile.rc 1).mode.state :=
  { kind := Or.inl rfl, lent := rfl, home := rfl, awake := rfl, entry := rfl, kept := rfl, fits := by decide, window := by decide, state := rfl, generation := rfl, domain := rfl }

theorem test_wit_keeps_exec : let s := holding (shareCap .exec 0 0) (shareCap .exec 0 0) 0 [sharedEnt .execShared 2]
    s.Keeps (s.tile.rc 1) (.tile 0) (sharedEnt .execShared 2) (s.tile.rc 1).mode.state :=
  { kind := Or.inl rfl, lent := rfl, home := rfl, awake := rfl, entry := rfl, kept := rfl, fits := by decide, window := by decide, state := rfl, generation := rfl, domain := rfl }

theorem test_wit_free_shares : (shareCap .read 1 0).mode ≠ .exclusive ∧ (shareCap .read 1 0).weight.toNat < (sharedEnt .readShared 65536).count ∧
    (sharedEnt .readShared 1).count ≤ (shareCap .read 1 0).weight.toNat ∧ (sharedEnt .readShared 1).link = none ∧ ent.generation ≠ 0xFFFF := by decide

/-- A buffer of a die's memory and its cap. -/
def dieEnt : DirEntry := { home := .die 0, number := 4, base := 0x100000, length := 1024, state := .exclusive, generation := 1, domain := 0, owner := 0 }

/-- The exclusive cap of that buffer. -/
def dieCap : Cap := { ownCap with kind := .dmem, base := 0x100000, length := 1024, buffer := 4 }

/-- The two children that a carve of that buffer at 512 makes. -/
def parts : List DirEntry :=
  [{ dieEnt with state := .carved, count := 2 }, { dieEnt with number := 8, length := 512, link := some 4 },
   { dieEnt with number := 12, base := 0x100200, length := 512, link := some 4 }]

theorem test_wit_CarveAndMergeResults_carve : ∃ lo hi s', (holding dieCap Cap.null 512 [dieEnt]).carve (.die 0) dieEnt 512 0 = some (lo, hi, s') ∧
    (holding dieCap Cap.null 512 [dieEnt]).Owns ((holding dieCap Cap.null 512 [dieEnt]).tile.rc 1) (.die 0) dieEnt :=
  ⟨_, _, _, rfl,
    { kind := Or.inr (Or.inr rfl), lent := rfl, home := rfl, awake := rfl, entry := rfl, kept := rfl, fits := by decide, window := by decide, state := rfl, generation := rfl, domain := rfl, mode := rfl, owner := rfl }⟩

theorem test_wit_CarveAndMergeResults_at : (512 : Word).toNat % 256 = 0 ∧ (512 : Word).toNat < dieCap.length.toNat ∧ (256 : Word).toNat % 256 = 0 ∧
    (768 : Word).toNat < dieCap.length.toNat := by decide

/-- The state in which the tile holds both children. -/
def carved : State :=
  holding { dieCap with buffer := 8, length := 512 } { dieCap with buffer := 12, base := 0x100200, length := 512 } 0 parts

theorem test_wit_CarveAndMergeResults_merge : carved.Owns (carved.tile.rc 1) (.die 0) (parts.getD 1 dieEnt) ∧ carved.Owns (carved.tile.rc 2) (.die 0) (parts.getD 2 dieEnt) ∧
    (carved.entry (.die 0) 4).any (fun o => decide (o.state = .carved)) = true ∧
    (let m := carved.mergeInto (.die 0) (parts.getD 1 dieEnt) (parts.getD 2 dieEnt) 4 0; m.2.entry (.die 0) m.1).isSome = true :=
  ⟨{ kind := Or.inr (Or.inr rfl), lent := rfl, home := rfl, awake := rfl, entry := rfl, kept := rfl, fits := by decide, window := by decide, state := rfl, generation := rfl, domain := rfl, mode := rfl, owner := rfl },
   { kind := Or.inr (Or.inr rfl), lent := rfl, home := rfl, awake := rfl, entry := rfl, kept := rfl, fits := by decide, window := by decide, state := rfl, generation := rfl, domain := rfl, mode := rfl, owner := rfl },
   by decide, by decide⟩

theorem test_wit_CarveAndMergeResults_places : (carved.tile.rc 1).kind = (carved.tile.rc 2).kind ∧ (carved.tile.rc 1).location = (carved.tile.rc 2).location ∧
    (parts.getD 1 dieEnt).base + (parts.getD 1 dieEnt).length = (parts.getD 2 dieEnt).base ∧ (parts.getD 1 dieEnt).link = some 4 ∧
    (parts.getD 2 dieEnt).link = some 4 := by decide

theorem test_wit_SplitResults : ∀ v ∈ [(1 : Word).toNat, (65535 : Word).toNat], 1 ≤ v % 2 ^ 17 ∧ v % 2 ^ 17 + 1 ≤ ownCap.weight.toNat ∧ v / 2 ^ 37 = 0 ∧ v / 2 ^ 17 = 0 := by
  decide

theorem test_wit_SplitResults_fold : let v := (1 + 9 * 2 ^ 32 : Nat); 1 ≤ v % 2 ^ 17 ∧ v / 2 ^ 37 = 0 ∧ v / 2 ^ 17 % 2 ^ 15 = 0 ∧ validFoldOp (BitVec.ofNat 5 (v / 2 ^ 32)) = true := by
  decide

theorem test_wit_SplitResults_shares : (shareCap .read 2 0).Ordinary ∧ (shareCap .read 2 0).rights.p = true ∧ 1 + 1 ≤ (shareCap .read 2 0).weight.toNat ∧
    (sharedEnt .execShared (2 ^ 24 - 2)).count < 2 ^ 24 - 1 := ⟨⟨by decide, by decide, by decide, rfl⟩, rfl, by decide, by decide⟩

theorem test_wit_JoinReclaimSealResults : let a := shareCap .read 1 0; let b := shareCap .read 65535 0
    b.lent = false ∧ b.mode = a.mode ∧ b.kind = a.kind ∧ b.buffer = a.buffer ∧ b.generation = a.generation ∧ b.foldOp = a.foldOp ∧
    a.weight.toNat + b.weight.toNat = 65536 ∧ a.weight.toNat + a.weight.toNat < 65536 ∧ a.mode ≠ .exec ∧ (shareCap .exec 0 0).mode = .exec := by decide

theorem test_wit_JoinReclaimSealResults_reclaim : (sharedEnt .readShared 1).count = (shareCap .read 1 0).weight.toNat ∧
    (sharedEnt .readShared 65536).count ≠ (shareCap .read 1 0).weight.toNat ∧ ownCap.rights.p = true := by decide

/-! ### Access under caps -/

theorem test_wit_CapTraps : Cap.null.kind = .null ∧ ownCap.Ordinary ∧ (2 ^ 46 : Nat) / 2 ^ 46 ≠ 0 ∧ (513 : Word).toNat / 2 ^ 46 = 0 ∧ ownCap.length.toNat < 513 % 2 ^ 40 ∧
    (2 ^ 30 : Nat) % 2 ^ 32 / 2 ^ 30 ≠ 0 ∧ (3 : Nat) < 4 := ⟨rfl, ⟨by decide, by decide, by decide, rfl⟩, by decide⟩

theorem test_wit_CapTraps_access : let s := holding ownCap Cap.null 512 [ent]; let t := holding ownCap Cap.null 505 [ent]
    (s.tile.rc 1).length.toNat < (s.tile.rx 11).toNat + 1 ∧ (t.tile.rc 1).length.toNat < (t.tile.rx 11).toNat + 8 ∧ (shareCap .fold 1 0).eff.r = false ∧
    (shareCap .read 1 0).eff.w = false ∧ (t.tile.rx 11).toNat % 4 ≠ 0 ∧ (t.tile.rx 11).toNat % 8 ≠ 0 ∧ (s.tile.rx 11).toNat % 8 = 0 := by decide

theorem test_wit_CapLoadStoreResults : ∀ p ∈ [(511, 1), (510, 2), (508, 4), (504, 8)], let s := holding ownCap Cap.null (BitVec.ofNat 64 p.1) [ent]
    (s.tile.rx 11 + (0 : BitVec 4).setWidth 64 * BitVec.ofNat 64 p.2).toNat + p.2 ≤ (s.tile.rc 1).length.toNat := by decide

theorem test_cap_load : does (.cldBu 10 11 1 0) { holding ownCap Cap.null 511 [ent] with mem := [(0x201FF, 0x80)] } (fun s => s.tile.rx 10 = 0x80) = true := by decide

theorem test_cap_narrow : does (.capNarrow 2 1 11) (holding ownCap Cap.null (1 + 0x10000000000) [ent])
    (fun s => (s.tile.rc 2).length = 1 && (s.tile.rc 2).rights.r && !(s.tile.rc 2).rights.w && s.tile.rc 1 = Cap.null) = true := by decide

/-- The cap of a fold share under the sum of 64-bit integers, its line at 8 holding 5. -/
def folding : State := holding (shareCap .fold 1 2) Cap.null 8 [sharedEnt .foldShared 65536]

theorem test_wit_FoldResults : foldBytes 2 = 8 ∧ folding.homeOf (folding.tile.rc 1) = some (.tile 0) ∧ (folding.tile.rc 1).mode = .fold ∧ (folding.tile.rc 1).rights.w = true ∧
    (folding.tile.rx 11 + (0 : BitVec 4).setWidth 64 * 8).toNat % 8 = 0 ∧ folding.tile.l1 = [] := by decide

theorem test_wit_FoldResults_second : ∃ l u w, (match exec (.cfoldD 11 11 1 0) folding with | .next t => t.tile.l1 | _ => []) = [l] ∧ l.tagged (folding.tile.rc 1) = true ∧
    l.line = 0 ∧ l.pin = none ∧ l.update = some u ∧ u.op = 2 ∧ u.line = 0 ∧ u.words[1]? = some (some w) ∧ w = 8 := ⟨_, _, _, rfl, rfl, rfl, rfl, rfl, rfl, rfl, rfl, rfl⟩

theorem test_wit_VectorMemoryResults : let s : State := { holding { ownCap with format := 0x004047D5 } Cap.null 0 [ent] with tile := { (holding { ownCap with format := 0x004047D5 } Cap.null 0 [ent]).tile with vlen := 4 } }
    (List.range 128).filter (s.tile.active (pvWidth (s.tile.rc 1))) ≠ [] ∧
    (∀ k ∈ (List.range 128).filter (s.tile.active (pvWidth (s.tile.rc 1))), s.pvOff 11 0 (pvWidth (s.tile.rc 1)) .unit k + pvWidth (s.tile.rc 1) / 8 ≤ 512) := by decide

/-! ### Messages, jobs, rings -/

/-- A running launch whose one rank group is on cluster 0. -/
def run : Launch :=
  { number := 65536, device := 0, state := .running, recordCap := Cap.null, codeCap := Cap.null, die := 0, groups := [{ cluster := 0, home := 0, device := 0, loaded := true }],
    record := { barriers := [(0, 1)], tables := [{ t := 0, senders := [(0, [{ start := 8, flits := 1, dest := 0 }])] }] } }

/-- A state of that launch, with its tile of rank 0 holding a cap and a word. -/
def launched (c : Cap) (v : Word) (es : List DirEntry) : State :=
  { holding c Cap.null v es with launches := [run], tile := { (holding c Cap.null v es).tile with launch := some 65536 } }

theorem test_wit_launched (c : Cap) (v : Word) (es : List DirEntry) : (launched c v es).Settled ∧ (launched c v es).tile.launch = some 65536 ∧ (launched c v es).tile.kpre = none :=
  ⟨{ armed := rfl, regions := rfl, cache := rfl, requests := rfl, replies := rfl, remotes := rfl, asks := rfl, sending := rfl, denied := (fun _ h => by cases h), levels := rfl, poison := rfl, release := rfl }, rfl, rfl⟩

theorem test_wit_MessageSendResults : let s := launched ownCap 0xEF07 [ent]
    s.net = [] ∧ s.place 65536 0 = some (s.device, 0) ∧ s.place 65536 7 = some (0, 7) ∧ s.place 65536 8 = none := by decide

theorem test_wit_MessageSendResults_word : ∀ v ∈ [(7 + 0xEF * 2 ^ 32 : Nat), 7 * 2 ^ 40, 7 + 2 ^ 43, 2 * 2 ^ 43], v / 2 ^ 30 % 4 = 0 ∧ v / 2 ^ 45 = 0 ∧ v / 2 ^ 32 % 2 ^ 8 < 0xF0 := by decide

theorem test_wit_MessageSendResults_cap : (launched ownCap 0 [ent]).Sendable ((launched ownCap 0 [ent]).tile.rc 1) :=
  ⟨rfl, rfl, Or.inl ⟨.tile 0, ent,
    { kind := Or.inl rfl, lent := rfl, home := rfl, awake := rfl, entry := rfl, kept := rfl, fits := by decide, window := by decide, state := rfl, generation := rfl, domain := rfl, mode := rfl, owner := rfl }, by decide⟩⟩

theorem test_wit_MessageSendResults_two : let c : Cap := { ownCap with buffer := 4 }; let s := launched ownCap 0 [ent, { ent with number := 4, base := 0x21000 }]
    s.homeOf c = some (.tile 0) ∧ (s.homeOf c, c.buffer) ≠ (s.homeOf ownCap, ownCap.buffer) := by decide

/-- A tile with a message in its queue of level 0. -/
def told (m : Msg) : State := tinyTile fun t => { t with queues := t.queues.set 0 [{ msg := m }] }

theorem test_wit_MessageReceiveResults : (told note).tile.nextMsg = some (false, { msg := note }) ∧ tiny.tile.nextMsg = none ∧
    (tiny.tile.rc 28).kind = .null ∧ (tiny.tile.rc 29).kind = .null ∧ note.caps = [] := by decide

theorem test_wit_MessageReceiveResults_hret : let t : Tile := { tiny.tile with level := 2, prev := tiny.tile.prev.set 2 1 }
    t.level ≠ 0 ∧ freshHead (t.queues.get t.level) = none ∧ freshHead ((t.queues.set 2 [{ msg := note }]).get t.level) = some { msg := note } := by decide

theorem test_receive : does .msgRecv (told note) (fun s => s.tile.rx 11 = 7 && s.tile.nextMsg.isNone) = true := by decide

theorem test_wit_takes_job : (holding ownCap ownCap 1 [ent]).TakesJob :=
  { armed := rfl, regions := rfl, cache := rfl, requests := rfl, replies := rfl, remotes := rfl, asks := rfl, sending := rfl, denied := (fun _ h => by cases h), levels := rfl, poison := rfl, release := rfl, room := by decide, clean := rfl }

theorem test_wit_lendable : (holding ownCap ownCap 1 [ent]).Lendable ownCap := ⟨rfl, fun _ h => by cases h; rfl⟩

theorem test_wit_JobSubmissionResults_copy : let b := shareCap .read 1 0
    ownCap.mode = .exclusive ∧ ownCap.rights.w = true ∧ ownCap.kind ≠ .null ∧ b.eff.r = true ∧ b.kind ≠ .host ∧ 1 ≤ (1 : Word).toNat ∧ (512 : Word).toNat ≤ ownCap.length.toNat := by decide

/-- The consumer handle of a ring of the cluster, by its buffer. -/
def handleCap (buffer : BitVec 24) (producer : Bool) (base : BitVec 48) : Cap :=
  { kind := .handle, base := base, length := 8704, rights := { r := !producer, w := producer, s := true }, buffer := buffer, generation := 2, weight := 65536, format := 0x004047D5 }

theorem test_wit_JobSubmissionResults_mma : let s := holding (handleCap 5 false 0) (handleCap 6 false 0x24000) 1 []
    s.tile.accOf 0 ≠ none ∧ s.tile.accOf 3 ≠ none ∧ (s.tile.rc 1).isHandle false = true ∧ s.homeOf (s.tile.rc 1) = some (.cluster 0) ∧ (s.tile.rc 1).buffer ≠ (s.tile.rc 2).buffer ∧
    formatsOk (Descr.ofBits (s.tile.rc 1).format) (Descr.ofBits (s.tile.rc 2).format) = true ∧ (s.tile.rx 11).toNat < 2 ^ 32 := by decide

theorem test_wit_JobSubmissionResults_load : ∀ f ∈ [(fmtF32, 16384), (fmtF64, 32768)], let c : Cap := { ownCap with format := f.1, length := 32768 }
    c.eff.r = true ∧ c.kind ≠ .host ∧ f.2 ≤ c.length.toNat ∧ outSize (Descr.ofBits f.1) ≤ c.length.toNat ∧ (Descr.ofBits f.1).valid = true ∧
    (Descr.ofBits f.1).cls ≠ 7 ∧ (Descr.ofBits f.1).layout = 0 := by decide

/-- A job that waits for the engine. -/
def job : Job := { number := 0, kind := .zero 0, status := .queued }

/-- A tile with a job. -/
def working (j : Job) : State := tinyTile fun t => { t with jobs := [j], jobSerial := 1 }

theorem test_wit_PollAndWaitResults : (working job).tile.pollWord 0 ≠ 15 ∧ (working job).tile.pollWord 1 = 15 ∧
    (working job).tile.jobs.find? (fun j => decide (j.number = 0)) = some job ∧ job.ended = false ∧ job.outcome = none ∧ job.status = .queued ∧ job.granted = false := by decide

theorem test_wit_PollAndWaitResults_ended : let j : Job := { job with status := .auditMismatch, ended := true, pending := true }
    (working j).tile.jobs.find? (fun j => decide (j.number = 0)) = some j ∧ j.held = false ∧ (working j).tile.pollWord 0 ≠ 15 := by decide

theorem test_wit_PollAndWaitResults_queue : (4 : BitVec 3).toNat ≤ 4 ∧ 4 < (5 : BitVec 3).toNat ∧ (told note).tile.takeable 0 ≠ 0 ∧ (told note).tile.takeable 4 = 0 ∧
    (tiny.tile.batches.get (0 : BitVec 2).toFin).count = 0 := by decide

theorem test_wit_PollAndWaitResults_batch : let t : Tile := { tiny.tile with batches := tiny.tile.batches.set 3 { count := 1, summary := 1 } }
    (t.batches.get (3 : BitVec 2).toFin).count ≠ 0 ∧ t.remotes = [] ∧ (t.batches.get (3 : BitVec 2).toFin).peers = [] := by decide

/-- A buffer of the cluster's memory and its cap. -/
def clusterEnt : DirEntry := { home := .cluster 0, number := 5, base := 0x20000, length := 8704, state := .exclusive, generation := 1, domain := 0, owner := 0 }

/-- The exclusive cap of that buffer. -/
def clusterCap : Cap := { ownCap with kind := .cmem, base := 0x20000, length := 8704, buffer := 5 }

theorem test_wit_RingResults_init : (holding clusterCap Cap.null 2 [clusterEnt]).Owns ((holding clusterCap Cap.null 2 [clusterEnt]).tile.rc 1) (.cluster 0) clusterEnt :=
  { kind := Or.inr (Or.inl rfl), lent := rfl, home := rfl, awake := rfl, entry := rfl, kept := rfl, fits := by decide, window := by decide, state := rfl, generation := rfl, domain := rfl, mode := rfl, owner := rfl }

theorem test_wit_RingResults_size : clusterCap.base.toNat % 256 = 0 ∧ 2 * 4352 ≤ clusterCap.length.toNat ∧ clusterCap.rights.r = true ∧ clusterCap.rights.p = true ∧
    256 * 4352 ≤ ({ clusterCap with length := 1114112 } : Cap).length.toNat := by decide

/-- A ring of two slots on that buffer, with a slot Reserved and one Visible. -/
def ring : Ring :=
  { cluster := 0, rights := ⟨true, true, true, true, true, true⟩, buffer := 5, generation := 2, base := 0x20000, format := 0x004047D5, domain := 0, rsv := 1, head := 0, tail := 1, visible := 1,
    slots := [{ state := .visible, serial := 1 }, { state := .free, serial := 0 }] }

/-- A state with that ring and one of its caps in `c1`. -/
def ringing (g : Ring) (c c' : Cap) : State := { holding c c' 0 [{ clusterEnt with generation := 2, owner := 8 }] with rings := [g] }

theorem test_wit_RingResults_handle : (ringing ring (handleCap 5 true 0x20000) Cap.null).AtRing ((ringing ring (handleCap 5 true 0x20000) Cap.null).tile.rc 1) 0 ring ∧
    (handleCap 5 true 0x20000).isHandle true = true ∧ (handleCap 5 false 0x20000).isHandle false = true ∧ (ring.slot ring.rsv).state = .free ∧ ring.rsv < ring.slots.length ∧ ring.visible ≠ 0 ∧
    ring.head < ring.slots.length :=
  ⟨{ home := rfl, awake := rfl, admitted := rfl, ring := rfl, lent := rfl }, by decide⟩

theorem test_wit_RingResults_full : let g : Ring := { ring with rsv := 0, visible := 0 }
    (g.slot g.rsv).state ≠ .free ∧ (ringing g (handleCap 5 true 0x20000) Cap.null).checkRing (.cluster 0) (handleCap 5 true 0x20000) = none := by decide

/-- The cap of a slot of the ring. -/
def slotCap (producer : Bool) (serial : BitVec 16) (i : BitVec 48) : Cap :=
  { kind := .slot, base := 0x20000 + 4352 * i, length := 4352, rights := { r := true, w := producer, s := true }, buffer := 5, generation := serial, weight := 65536 }

theorem test_wit_RingResults_slots : let g : Ring := { ring with slots := [{ state := .taken, serial := 1 }, { state := .reserved, serial := 1 }] }
    (ringing g (slotCap true 1 1) Cap.null).checkRing (.cluster 0) (slotCap true 1 1) = none ∧ (slotCap true 1 1).isSlot true = true ∧ g.slotOf (slotCap true 1 1) = 1 ∧
    (ringing g (slotCap false 1 0) Cap.null).checkRing (.cluster 0) (slotCap false 1 0) = none ∧ (slotCap false 1 0).isSlot false = true := by decide

theorem test_wit_RingResults_dismantle : let g : Ring := { ring with slots := [{}, {}], visible := 0 }; let s := ringing g (handleCap 5 true 0x20000) (handleCap 5 false 0x20000)
    (∀ x ∈ g.slots, x.state = .free) ∧ (s.entry (.cluster 0) 5).isSome = true ∧ s.checkRing (.cluster 0) (s.tile.rc 1) = none ∧ s.checkRing (.cluster 0) (s.tile.rc 2) = none := by decide

/-! ### Regions, snapshots -/

/-- An open region that has saved one register. -/
def region : Region := { dest := 5, pc := 0, jobSerial := 0, msgrecv := 0, sidingFill := 0, levelSeq := 0, saved := [.x 6 3] }

/-- A state with that region, and the own buffer. -/
def inRegion (r : List Region) : State :=
  { holding ownCap Cap.null 0 [ent] with tile := { (holding ownCap Cap.null 0 [ent]).tile with regions := (Vector.replicate 4 []).set 0 r } }

theorem test_wit_RegionResults : (inRegion [region]).tile.openRegions = [region] ∧ (inRegion [region]).tile.atLoopEnd = false ∧
    (region.saved.any fun o => decide (o.item = .x 7)) = false ∧ (inRegion [region]).tile.undoUsed + 64 ≤ (inRegion [region]).tile.undoSize ∧ region.saved.Pairwise (fun o p => o.item ≠ p.item) := by
  decide

theorem test_wit_RegionResults_open : (tiny.tile.regions.toList.map List.length).sum < 8 ∧ tiny.tile.undoUsed + 64 ≤ tiny.tile.undoSize ∧
    ((inRegion (List.replicate 8 region)).tile.regions.toList.map List.length).sum ≥ 8 := by decide

theorem test_wit_RegionResults_keep : let s := inRegion [region]; s.Owns (s.tile.rc 1) (.tile 0) ent ∧ s.Drained ∧ ent.depth < 7 ∧ s.poolFree (.tile 0) ent.domain ≠ 0 :=
  ⟨{ kind := Or.inl rfl, lent := rfl, home := rfl, awake := rfl, entry := rfl, kept := rfl, fits := by decide, window := by decide, state := rfl, generation := rfl, domain := rfl, mode := rfl, owner := rfl },
   { armed := rfl, cache := rfl, requests := rfl, replies := rfl, remotes := rfl, asks := rfl, sending := rfl, denied := (fun _ h => by cases h) }, by decide, by decide⟩

/-- The own buffer at depth 1, with a line copied. -/
def snapped : State :=
  { holding { ownCap with depth := 1 } Cap.null 0 [{ ent with depth := 1 }] with
    levels := [{ home := .tile 0, buffer := 3, level := 1, region := false, regionDepth := 0, firstLine := 0, lastLine := 1, regionOwner := 0, byTile := 0, byLevel := 0, seq := 0 }],
    copies := [{ home := .tile 0, buffer := 3, line := 0, label := 1, data := List.replicate 256 7, poison := [false, false, false, false] }] }

theorem test_wit_SnapshotResults : snapped.Owns (snapped.tile.rc 1) (.tile 0) { ent with depth := 1 } ∧ snapped.Drained ∧ snapped.NoRegionLevels ∧ snapped.Quiet :=
  ⟨{ kind := Or.inl rfl, lent := rfl, home := rfl, awake := rfl, entry := rfl, kept := rfl, fits := by decide, window := by decide, state := rfl, generation := rfl, domain := rfl, mode := rfl, owner := rfl },
   { armed := rfl, cache := rfl, requests := rfl, replies := rfl, remotes := rfl, asks := rfl, sending := rfl, denied := (fun _ h => by cases h) }, by unfold State.NoRegionLevels; decide, ⟨rfl, rfl⟩⟩

theorem test_wit_SnapshotResults_top : snapped.stackOf (.tile 0) 3 ≠ [] ∧ (snapped.copiesAt (.tile 0) 3 1).Pairwise (fun o p => o.line ≠ p.line) ∧
    (∀ o ∈ snapped.copiesAt (.tile 0) 3 1, o.data.length ≤ 256) ∧ (∀ l ∈ snapped.stackOf (.tile 0) 3, l.regionDepth < 16) ∧ snapped.poolFree (.tile 0) 0 ≠ 0 := by decide +kernel

/-! ### Barriers, exchange, gangs, launches -/

/-- The launched state, bound at level 0 to barrier domain 0, in a round or after one. -/
def bound (g : Binding) : State := { launched ownCap 0 [ent] with bars := [{ launch := 65536, domain := 0, members := 1, bound := [(0, 0)] }], tile := { (launched ownCap 0 [ent]).tile with barriers := (Vector.replicate 4 none).set 0 (some g) } }

theorem test_wit_BarrierAndExchangeResults_join : let s := launched ownCap 63 [ent]
    (s.tile.binding 3).all (fun g => g.arrived.isNone) = true ∧ s.tile.arrivalHeld 3 = false ∧ (s.barrier 65536 0).isSome = true ∧
    (s.barrier 65536 0).all (fun b => decide ((b.bound.filter fun p => decide (p ≠ (s.tile.rank, 3))).length < b.members)) = true := by decide

theorem test_wit_BarrierAndExchangeResults_arrive : (bound { domain := 0 }).tile.binding 0 = some { domain := 0 } ∧ ((bound { domain := 0 }).barrier 65536 0).isSome = true ∧
    (bound { domain := 0 }).tile.arrivalHeld 0 = false ∧ tiny.tile.binding 0 = none := by decide

theorem test_wit_BarrierAndExchangeResults_own : ∀ m, (bound { domain := 0 }).launchAt 65536 = some m → m.device = (bound { domain := 0 }).device := by
  intro m h; cases h; rfl

theorem test_wit_BarrierAndExchangeResults_wait : let s : State := { bound { domain := 0, arrived := some 0 } with bars := [{ launch := 65536, domain := 0, members := 1, round := 1, released := [(0, 50)] }] }
    (s.barrier 65536 0).bind (fun b => b.released.find? (fun p => decide (p.1 = 0))) = some (0, 50) ∧
    ((bound { domain := 0, arrived := some 0 }).barrier 65536 0).bind (fun b => b.released.find? (fun p => decide (p.1 = 0))) = none := by decide

theorem test_wit_BarrierAndExchangeResults_begin : let s := bound { domain := 0, released := some 0 }
    (s.timetable 65536 0).isSome = true ∧ (s.barrier 65536 0).any s.oneDie = true ∧ s.tile.phase = none ∧ s.tile.xqueue = [] ∧ (s.launchAt 65536).any (·.holdExchange) = false ∧
    ((s.timetable 65536 0).map fun x => (x.incoming 0).length) = some 1 ∧ ((s.timetable 65536 0).map fun x => (x.incoming 1).length) = some 0 ∧ s.ownTmem (s.tile.rc 1) = true := by decide

/-- The launched state in a phase that began at cycle 0. -/
def inPhase (n : Nat) : State :=
  { bound { domain := 0, released := some 0 } with clock := n, tile := { (bound { domain := 0, released := some 0 }).tile with phase := some { table := 0, release := 0, closing := 16 } } }

theorem test_wit_BarrierAndExchangeResults_send : (inPhase 8).xchCycle = 8 ∧ (inPhase 11).xchCycle = 11 ∧ (inPhase 7).xchCycle < 8 ∧ 8 + 3 < (inPhase 12).xchCycle ∧
    (inPhase 16).xchCycle = 16 ∧ (inPhase 8).place 65536 0 = some (0, 0) ∧ (inPhase 8).net = [] := by decide

theorem test_exchange_send : does (.xchSend 3) (inPhase 8) (fun s => s.net.length = 1 && (s.tile.phase.map (·.next)) = some 1) = true := by decide

theorem test_exchange_early : does (.xchSend 3) (inPhase 7) (fun s => s.net = [] && s.tile.wait.isSome) = true := by decide

/-- A launched tile, and another of its cluster that waits in `gang.form` of the two. -/
def pair : State :=
  { launched Cap.null 0 [] with others := [{ Tile.reset 1 with mode := .u, launch := some 65536, rank := 1, dispatch := [], wait := some { kind := .gangForm 3, since := 0 } }] }

theorem test_wit_GangLaunchSystemResults_form : (maskMembers 3).length ≤ (pair.named 3).length ∧ (∀ u ∈ pair.named 3, u.index = pair.tile.index ∨ u.meets (fun w => decide (w.kind = .gangForm 3)) = true) ∧
    (3 : BitVec 8).getLsbD pair.tile.gangIndex = true ∧ 2 ≤ (maskMembers 3).length ∧ (launched Cap.null 0 []).named 3 ≠ [] ∧ ((launched Cap.null 0 []).named 3).length < 2 := by decide

/-- That pair as a gang, of which one has left for a join. -/
def gang (w : Option Wait) : State :=
  { pair with tile := { pair.tile with gang := { mask := 3, leader := 0, position := 0, member := w.isNone } },
              others := pair.others.map fun u => { u with gang := { mask := 3, leader := 0, position := 1, member := w.isNone }, wait := w } }

theorem test_wit_GangLaunchSystemResults_gang : (gang none).tile.leads = true ∧ (gang none).tile.gang.mask.getLsbD (gang none).tile.gangIndex = true ∧
    (∀ u ∈ (gang (some { kind := .gangJoin, since := 0 })).named 3, u.index = 0 ∨ (u.gang.mask = 3 ∧ u.pc = 0 ∧ u.meets (fun w => decide (w.kind = .gangJoin)) = true)) ∧
    ((gang none).allTiles.map (·.index)).Nodup := by decide

theorem test_wit_GangLaunchSystemResults_done : (launched Cap.null 0 []).launchAt 65536 = some run ∧ run.done = none ∧ run.endable = true ∧ run.state ≠ .parking ∧ run.state ≠ .parked := by decide

/-- The small state in M-mode, with the index of a tile. -/
def managed (n : Word) : State := tinyTile fun t => ({ t with mode := .m }).setX 11 n

theorem test_wit_GangLaunchSystemResults_system : (managed 0xFFFF).tile.mode = .m ∧ ((managed 0xFFFF).tile.rx 11).toNat < 2 ^ 16 ∧ (managed 0).tile.answer = none ∧
    (managed 0).parkPending 0 = false ∧ (managed 0).reviveStatus ((managed 0).endpointHere 0) 0 ≠ 0 := by decide

/-! ### Events of a tile -/

/-- The small state in which Lichen has been asked for a service. -/
def serving (k : Word) (cause : Nat) : State :=
  tinyTile fun t => { (t.setX 17 k) with mode := .m, lichen := some { cause := cause, value := 0, pc := 0, level := 0, gang := false, prefixed := false, entry := none } }

theorem test_wit_TileEventResults_service : (serving 0 8).service = some 0 ∧ (serving 3 8).service = some 3 ∧ (serving 4 8).service = some 4 ∧ (serving 0 2).service = none := by decide

theorem test_wit_TileEventResults_saved : let s : State := { serving 3 8 with tile := { (serving 3 8).tile with regions := (Vector.replicate 4 []).set 0 [{ region with saved := [] }] } }
    s.service = some 3 ∧ s.armed = [] ∧ s.tile.inRegion = true ∧ s.tile.undoUsed + 8 ≤ s.tile.undoSize := by decide

theorem test_wit_TileEventResults_inject : Injection.ofWord 11 = none ∧ Injection.ofWord 0x116 = some ⟨6, true, 1, 0⟩ := by decide

/-- A launched tile with a message due at level 2. -/
def due (failed : List Nat) : State := tinyTile fun t => { t with queues := t.queues.set 2 [{ msg := note, failed := failed }] }

theorem test_wit_TileEventResults_handler : (due []).tile.atBoundary = true ∧ (due []).tile.dueLevel = some 2 ∧ (freshHead ((due []).tile.queues.get 2)).map (·.failed) = some [] ∧
    (freshHead ((due [0]).tile.queues.get 2)).map (·.failed) = some [0] ∧ (due []).tile.gang = {} ∧ (due []).tile.regions.get 2 = [] ∧ (due [0]).tile.freeEntry ≠ none := by decide

/-- The small state in a wait since cycle 0, at a cycle. -/
def stuck (k : WaitKind) (n : Nat) : State := { (tinyTile fun t => { t with wait := some { kind := k, since := 0, limit := t.wlimit } }) with clock := n }

theorem test_wit_TileEventResults_limit : tiny.tile.wlimit.toNat = 250000000 := by decide

theorem test_wit_TileEventResults_wait : (stuck (.lent 5) 250000000).waitReport (.lent 5) = some (0x506, 0) ∧ ((stuck (.reclaim 5) 0).waitReport (.reclaim 5)).isSome = true ∧
    (stuck (.reclaim 5) 0).reclaimReady 5 = false ∧ (stuck (.translation 64) 25000000).tile.waitOffset = some (64, 0) ∧
    0 + 2500 * (((stuck (.translation 64) 25000000).launchOf tiny.tile).map (·.record.faultwait)).getD 10000 ≤ (stuck (.translation 64) 25000000).clock := by decide

theorem test_wit_TileEventResults_rollback : let t : Tile := { (inRegion [region]).tile with rollbacks := [(0, 1, 0x105)] }
    t.rollbacks.find? (fun p => decide (p.1 = t.level)) = some (t.level, 1, 0x105) ∧ t.depth = 1 ∧ ((t.regions.get t.level).take (t.depth + 1 - 1)).getLast? = some region := by decide

theorem test_wit_TileEventResults_log : let e : FaultEntry := { code := 65, cls := 1 }; let t : Tile := { tiny.tile with faultLog := tiny.tile.faultLog.set 14 e, logCopies := [14] }
    (14 : Fin 16).val ∈ t.logCopies ∧ (t.faultLog.get 14).cls = 1 ∧ (t.faultLog.get 14).acked = false ∧ (14 : Fin 16) ≠ 15 := by decide

theorem test_wit_TileEventResults_fatal : tiny.Numbered ∧ tiny.tile.hold ≠ .fatal ∧ tiny.tile.parked = false ∧ tiny.tile.gated = false ∧ (tiny.tile.faultLog.get 15).cls = 0 :=
  ⟨by unfold State.Numbered; decide, by decide⟩

/-- The descriptor of a sealed domain that its debug port does not serve. -/
def closedTo : Descriptor :=
  { domain := 0, isSealed := true, debug := false, inject := false, hostclear := false, keyed := true, slot := 0, roster := [0], arenabase := 0, arenasize := 0,
    logbase := 0, logsize := 0, secret := 0 }

theorem test_wit_TileEventResults_debug : tiny.debugServes tiny.tile = true ∧ tiny.tile.halted = false ∧ scanOutside (.tmem 0xBFFF8) = none ∧ 0xBFFF8 + 8 ≤ 0xC0000 ∧
    ({ tiny with trust := { tiny.trust with descriptors := [closedTo] } } : State).debugServes tiny.tile = false := by decide

/-! ### Events of the network and the homes -/

/-- The launched state with a message on its way. -/
def sending (m : Msg) : State := { launched Cap.null 0 [] with net := [m] }

theorem test_wit_tile : tiny.tileAt 0 = some tiny.tile ∧ (sending note).tileAt 0 = some (sending note).tile := ⟨rfl, rfl⟩

theorem test_wit_NetworkAndHomeEvents_enters : (sending note).Enters 0 note 0 (sending note).tile ∧ note.landing = none ∧ (sending note).takesMsgs 65536 = true ∧
    (sending note).groupOut 65536 0 = false ∧ (sending note).Numbered :=
  ⟨{ here := rfl, first := by decide, goes := rfl, tile := rfl, placed := rfl, parked := rfl, gated := rfl }, rfl, by decide, by decide, by unfold State.Numbered; decide⟩

theorem test_wit_NetworkAndHomeEvents_moved : let c : Cap := { ownCap with generation := 2 }; let s : State := { sending { note with caps := [c] } with dirs := [{ ent with state := .inTransit, generation := 2 }] }
    c.mode = .exclusive ∧ s.homeOf c = some (.tile 0) ∧ (s.entry (.tile 0) c.buffer.toNat).map (fun e => decide (e.state = .inTransit ∧ e.generation = c.generation)) = some true := by decide

/-- A message that the Shunter has not placed. -/
def unplaced : Msg := { note with caps := [{ ownCap with generation := 2 }], places := [0], placed := false, hint := 1 }

theorem test_wit_NetworkAndHomeEvents_place : let s : State := { sending unplaced with dirs := [{ ent with state := .inTransit, generation := 2 }] }
    (s.clusterAt 0).isSome = true ∧ s.net.find? (fun m => !m.placed) = some unplaced ∧ ((s.choicesFor unplaced { ownCap with generation := 2 } s.tile).1.head?).isSome = true ∧
    ((s.destTile unplaced.dest).bind s.tileAt).map (·.index) = some 0 ∧ (s.choicesFor unplaced { dieCap with mode := .read, weight := 1 } s.tile).1.head? = some .rights := by decide

theorem test_wit_NetworkAndHomeEvents_landing : let m : Msg := { note with landing := some (0, [1, 2]) }; let s := sending m
    s.Enters 0 m 0 s.tile ∧ s.takesMsgs m.senderLaunch = true ∧ s.tile.xqueue.length < 32 ∧ s.tile.phase.bind (·.landing) = none :=
  ⟨{ here := rfl, first := by decide, goes := rfl, tile := rfl, placed := rfl, parked := rfl, gated := rfl }, by decide, by decide, rfl⟩

theorem test_wit_NetworkAndHomeEvents_release : let h : Held := { kind := .msg note 0, level := 0, depth := 1 }; let s := launched Cap.null 0 []; let u : Tile := { s.tile with releasePath := [h] }
    u.releasePath = h :: [] ∧ u.parked = false ∧ note.caps = [] ∧ s.destDevice note.dest = some s.device ∧ (s.switchTo 0).heldBack note = false := by decide

theorem test_wit_NetworkAndHomeEvents_barrier : let b : BarDomain := { launch := 65536, domain := 0, members := 1, arrivals := 1 }; let s : State := { launched Cap.null 0 [] with bars := [b] }
    s.barrier 65536 0 = some b ∧ b.members ≤ b.arrivals ∧ ((launched Cap.null 0 []).barrier 65536 0).map (fun b => decide (b.arrivals < b.members)) = some true := by decide

/-- A request for the own buffer, and a state in which it waits. -/
def req (k : ReqKind) : Request := { serial := 0, tile := 0, principal := 0, home := .tile 0, buffer := 3, generation := 1, domain := 0, kind := k }

/-- The state in which that request waits. -/
def asked (k : ReqKind) (e : DirEntry) : State := { tiny with dirs := [e], requests := [req k] }

theorem test_wit_NetworkAndHomeEvents_store : (asked (.store [(511, 9)] [] []) ent).Serves 0 (req (.store [(511, 9)] [] [])) ent ∧ (req (.store [(511, 9)] [] [])).home.isDmem = false ∧
    ent.owner = 0 ∧ 511 < ent.length :=
  ⟨{ here := rfl, first := by decide, plain := rfl, local' := rfl, awake := by decide, entry := rfl, kept := rfl, fits := by decide, window := by decide, generation := rfl, domain := rfl, depth := rfl, armed := rfl, clean := rfl },
   by decide⟩

/-- A line of folds under the sum of 64-bit integers. -/
def sums : UpdateLine := { home := .tile 0, buffer := 3, generation := 1, op := 2, line := 1, words := List.replicate 31 none ++ [some 8], domain := 0, principal := 0 }

theorem test_wit_NetworkAndHomeEvents_merge : let e : DirEntry := { ent with state := .foldShared, foldOp := 2, count := 65536 }; let s := asked (.merge sums) e
    s.Serves 0 (req (.merge sums)) e ∧ sums.words.length * foldBytes sums.op ≤ 256 ∧ 256 * sums.line + 256 ≤ e.length ∧ s.lineAddress sums = none :=
  ⟨{ here := rfl, first := by decide, plain := rfl, local' := rfl, awake := by decide, entry := rfl, kept := rfl, fits := by decide, window := by decide, generation := rfl, domain := rfl, depth := rfl, armed := rfl, clean := rfl },
   by decide⟩

theorem test_wit_NetworkAndHomeEvents_missing : (asked (.store [(0, 9)] [] []) { ent with number := 4 }).entry (.tile 0) 3 = none := by decide

theorem test_wit_NetworkAndHomeEvents_seal : let r : Control := { principal := 0, device := 0, serial := 0, home := .tile 0, buffer := 3, generation := 1, domain := 0, operation := 6, operands := [] }
    (holding ownCap Cap.null 0 [ent]).checkControl r.claim [.exclusive] true 3 = none ∧ ent.home = r.home ∧ ent.number = r.buffer := by decide

theorem test_wit_NetworkAndHomeEvents_l2 : let e : DirEntry := { dieEnt with owner := 0 }; let s : State := { tiny with paging := { tiny.paging with tlb := [⟨sliceOf 0 0x100000, 0x100000, 0, 0x4000⟩] } }
    s.waiting (sliceOf 0 (e.base + 0)) (e.base + 0) = none ∧ s.tlbHit (sliceOf 0 (e.base + 0)) (e.base + 0) = some ⟨sliceOf 0 0x100000, 0x100000, 0, 0x4000⟩ ∧ e.base < Config.systemWindow := by
  decide

/-- Two tiles of cluster 0, of which the other waits for a grant on the own buffer's first line. -/
def draining : State :=
  { tiny with dirs := [{ ent with depth := 1, owner := 1 }], others := [{ (Tile.reset 1).setC 1 { ownCap with depth := 1 } with mode := .u, dispatch := [], wait := some { kind := .drain 0, since := 0 } }] }

theorem test_wit_NetworkAndHomeEvents_grant : (draining.tileAt 1).bind (fun u => u.wait.map Wait.kind) = some (.drain 0) ∧ (draining.switchTo 1).ownTmem { ownCap with depth := 1 } = false ∧
    draining.poolFree (.tile 0) 0 ≠ 0 ∧ ((draining.tileAt 1).map fun u => u.granted (.tile 0) { ownCap with depth := 1 } 0) = some false ∧
    (draining.switchTo 1).tile.principal 0 = 1 ∧ draining.Numbered := ⟨by decide, by decide, by decide, by decide, by decide, by unfold State.Numbered; decide⟩

/-! ### Paging and memory -/

/-- The small state with a page table whose leaf for the page 0 is `pte`. -/
def mapped (pte : Nat) : State := (((tiny.setPte 0 0x1001).setPte 0x1000 0x2001).setPte 0x2000 0x3001).setPte 0x3000 pte

theorem test_wit_no_held : tiny.NoHeld := ⟨by decide, rfl⟩

theorem test_wit_PagingAndMemoryEvents_walk : (mapped 0x8003).walk 0xFFF = .leaf 0 0 0x8000 0x3000 0x8003 ∧ (mapped 0x42).walk 0 = .touch 0 0 0x3000 0x42 ∧
    (mapped 0x8403).walk 0 = .hold 0 0 0x3000 0x8403 ∧ (mapped 0x5082).walk 0 = .bad 1 0 4096 0x3000 0x5082 ∧ (mapped 0).walk 0 = .bad 0 0 4096 0x3000 0 := by decide

theorem test_wit_PagingAndMemoryEvents_frames : (mapped 0x8003).frameFree 0x9000 4096 = true ∧ inWindow 0 = false ∧ runOf 0 0x3000 = [0x3000] ∧ 0x3000 + 8 ≤ 0x8000 ∧ 0x3000 + 8 ≤ 0x9000 ∧
    (mapped 0x8003).paging.pools.find? (fun p => decide (p.1 = 0) && decide (p.2.1 = 0)) = none ∧ (mapped 0x8003).paging.root < 2 ^ 39 := by decide

theorem test_wit_PagingAndMemoryEvents_request : let r : Request := { req (.load 0 8) with home := .die 0, buffer := 4 }; let s : State := { mapped 0x8003 with dirs := [dieEnt], requests := [r] }
    s.checkAccess r.claim dieEnt.base 0 1 0 0 = none ∧ s.tlbHit (sliceOf 0 dieEnt.base) dieEnt.base = none ∧ s.waiting (sliceOf 0 dieEnt.base) dieEnt.base = none ∧
    s.paging.walks = [] ∧ s.waitRoom (sliceOf 0 dieEnt.base) = true ∧ s.paging.waits = [] := by decide

/-- A page that is waited on. -/
def pageWait : PageWait :=
  { slice := 0, who := [.tile 0 0], va := 0, page := 0, span := 4096, reason := some 0, access := 0, principal := 0, buffer := 4, generation := 1, domain := 0, entry := 0 }

theorem test_wit_PagingAndMemoryEvents_waits : pageWait.received = false ∧ ({ pageWait with received := true } : PageWait).received = true ∧ ({ pageWait with reason := none } : PageWait).reason = none ∧
    (∀ u ∈ tiny.allTiles, u.jobs = []) ∧ tiny.requests = [] ∧ tiny.controls = [] := by decide

theorem test_wit_PagingAndMemoryEvents_memory : 2 ^ 39 ≤ 2 ^ 39 ∧ 2 ^ 39 - 1 < 2 ^ 39 ∧ 4096 % 4096 = 0 ∧ (3 : Nat) < 4 ∧ pageSize 11 = 2 ^ 32 := by decide

theorem test_wit_PagingAndMemoryEvents_backed : (mapped 0x8003).bufferOfFrame 0x8000 = none ∧ (mapped 0x8003).armed = [] ∧
    (({ mapped 0x8003 with dirs := [{ dieEnt with base := 0 }] } : State).bufferOfFrame 0x8010).isSome = true := by decide

/-- The page fault service gives bits of the entry back, but for the address and the first-touch bit. -/
theorem test_first_touch : (match exec (.firstTouchService 0 0) { mapped 0x342 with paging := { (mapped 0x342).paging with pools := [(0, 0, 0x9000)] } } with
    | .next t => decide (t.pte 0x3000 = 0x9303)
    | _ => false) = true := by decide

theorem test_hbm_fault : (match exec (.hbm4Request (2 ^ 39) true 0) tiny with | .fault (.noSuchAddress a) => decide (a = 2 ^ 39) | _ => false) = true := by decide

/-! ### Engines and audits -/

/-- The format FP32 as a cap names it. -/
def f32 : BitVec 32 := 0x004047D5

/-- A job of two steps on rings 5 and 6. -/
def product : Job := { number := 0, kind := .mma 0 false 2 false (handleCap 5 false 0x20000) (handleCap 6 false 0x24000), status := .queued }

/-- The state in which it is runnable: a slot is Visible in each ring. -/
def ready : State :=
  { working product with rings := [ring, { ring with buffer := 6, base := 0x24000 }],
                         dirs := [{ clusterEnt with generation := 2, owner := 8 }, { clusterEnt with number := 6, base := 0x24000, generation := 2, owner := 8 }] }

theorem test_wit_EngineAndAuditEvents_grant : ready.runnableAt 0 0 = some product ∧ (∀ v ∈ [1, 2, 3, 4, 5, 6, 7], ready.runnableAt 0 v = none) ∧ (ready.clusterAt 0).isSome = true ∧
    (ring.receive .popped false).isSome = true ∧ ready.tile.headJob = some product ∧ ready.segments = [] := by decide

theorem test_step_grant : does (.stepGrant 0) ready (fun s => (s.tile.jobs.map (·.popped)) = [[(0, 5, 0), (0, 6, 0)]]) = true := by decide

theorem test_wit_EngineAndAuditEvents_retire : let j : Job := { product with granted := true, status := .running, popped := [(0, 5, 0), (0, 6, 0)] }; let s := working j
    (s.tilesOf 0).findSome? (fun u => u.jobs.find? (·.granted)) = some j ∧ j.ended = false ∧ ({ Cluster.reset 0 with engine := { (Cluster.reset 0).engine with busy := 8 } } : Cluster).engine.busy ≠ 0 := by
  decide

theorem test_wit_EngineAndAuditEvents_job : (working job).HasJob 0 job ∧ (working job).tile.headJob = some job ∧ (working job).accFree job = true :=
  ⟨{ tile := rfl, live := rfl, open' := rfl, runs := by decide }, rfl, by decide⟩

theorem test_wit_EngineAndAuditEvents_host : let c : Cap := { ownCap with kind := .host, length := 32768, format := f32 }
    c.kind = .host ∧ c.location.toNat = tiny.device ∧ (Descr.ofBits c.format).blockSize = 0 ∧ (Descr.ofBits c.format).layout = 0 ∧ (0 : BitVec 4).toNat % 8 ≠ 5 ∧ 256 * 1 < 257 ∧ min 256 (257 - 256) = 1 := by decide

theorem test_wit_EngineAndAuditEvents_end : let j : Job := { job with outcome := some .done, lent := [(0, 1)] }
    (working j).tile.liveJob j.number = some j ∧ j.granted = false ∧ j.marked = [] ∧ (∀ l ∈ j.lent, ∀ o ∈ (working j).tile.jobs, o.ended = false → l ∈ o.lent → o.number = j.number) := by
  decide +kernel

/-- An audited segment of the job, with a sign or not. -/
def segment (x : Option (BitVec 64)) (rs : List (Nat × BitVec 64)) : Segment :=
  { cluster := 0, tile := 0, job := 0, acc := 0, fp64 := false, start := [], startMasks := [], steps := [], formats := (f32, f32), sign := x, replays := rs }

theorem test_wit_EngineAndAuditEvents_sign : let j : Job := { product with audited := true, outcome := some .done }; let s : State := { working j with segments := [segment none []] }
    s.segments.find? (fun g => decide (g.tile = 0) && g.sign.isNone) = some (segment none []) ∧ s.segmentJob (segment none []) = some j ∧ j.granted = false ∧ j.outcome ≠ none := by decide

theorem test_wit_EngineAndAuditEvents_replay : let j : Job := { product with audited := true, outcome := some .done }
    let s : State := { working j with segments := [segment (some 1) []], launches := [run], clusters := [{ Cluster.reset 0 with launch := some 65536 }, { Cluster.reset 1 with launch := some 65536 }], others := [{ Tile.reset 8 with mode := .u }] }
    s.replayers (segment (some 1) []) = [1] ∧ ({ s with clusters := [Cluster.reset 0] } : State).replayers (segment (some 1) []) = [] ∧ (segment (some 1) []).replaying = none := by decide

theorem test_wit_EngineAndAuditEvents_sweep : let m : Nat := 0; let s := launched Cap.null 0 []
    run.state = .running ∧ s.peersOf run = [] ∧ (s.sweepOf run).2 = (m, m) ∧ run.sweep ≠ some (s.sweepOf run) ∧
    (let t : State := { s with tile := { s.tile with wait := some { kind := .queue 0, since := 0 } } }; t.sweepOf run = (true, 0, 0)) ∧ (s.sweepOf run).1 = false := by decide

/-! ### The fabric -/

/-- A tile that has asked a home of device 1. -/
def ask : Ask := { serial := 5, device := 1, op := 1, buffer := 4, generation := 1, key := 0 }

/-- A state with that ask, a route to device 1, and a reply to it. -/
def linked (a : Ask) : State :=
  { (tinyTile fun t => { t with asks := [a] }) with fabric := { tiny.fabric with routes := [⟨1, 0, 1, BitVec.allOnes 72⟩], ports := .native :: List.replicate 71 .down },
                                                    replies := [{ tile := 0, serial := 5, buffer := 4, generation := 1, peer := true, kind := .done }] }

theorem test_wit_FabricEvents_reply : ((linked ask).replies.filter (fun p => p.peer && decide (p.tile = 0))).length = 1 ∧ ask.serial % 2 ^ 24 = 5 ∧ ask ∈ (linked ask).tile.asks ∧
    ((linked ask).tile.asks.filter (fun a => !a.done))[0]? = some ask := by decide

theorem test_wit_FabricEvents_send : (linked ask).CanSend 1 ∧ (linked ask).sealed 0 = false ∧ ({ ask with resent := 7 } : Ask).resent = 7 := ⟨⟨by decide, by decide, rfl⟩, by decide⟩

theorem test_timeout : does (.replyTimeout 0 0) (linked ask) (fun s => s.fabric.sent.length = 1 && (s.tile.asks.map (·.resent)) = [1]) = true ∧
    does (.replyTimeout 0 0) (linked { ask with resent := 7 }) (fun s => s.fabric.unreachable = [1]) = true := by decide

/-- A store on its way to device 1. -/
def store : Remote := { tag := 0, numbers := [63], serial := 5, device := 1, buffer := 4, generation := 1, domain := 0, principal := 0, sector := 0, bytes := [(0, 0, 7)] }

theorem test_wit_FabricEvents_remote : let u : Tile := { (linked ask).tile with asks := [], remotes := [store] }
    (∀ a ∈ u.asks ++ u.jobs.flatMap (·.asks), a.serial % 2 ^ 24 ≠ 5) ∧ u.remotes.find? (fun m => decide (m.serial % 2 ^ 24 = 5)) = some store ∧ store.tag < 4 ∧ (63 ∈ store.numbers ∧ 63 < 64) ∧
    u.remotes[0 - ((u.asks ++ u.jobs.flatMap (·.asks)).filter (fun a => !a.done)).length]? = some store ∧ store.resent < 7 ∧ store.control = [] := by decide

theorem test_wit_FabricEvents_summary : let u : Tile := { tiny.tile with batches := tiny.tile.batches.set 2 { count := 1, peers := [1] } }; 1 ∈ (u.batches.get (Fin.ofNat 4 2)).peers := by decide

/-- A packet from device 1. -/
def packet (op : Nat) : Packet := { op := op, vn := opNetwork op 0, source := 2 ^ 13, destination := if op = 1 then dmemHomeEndpoint 0 0 else 0, buffer := 4, generation := 1, serial := 0, bytes := 8, msg := if op = 0 then some { note with dest := .endpoint 0 } else none }

/-- The state in which that packet has arrived. -/
def arrived (p : Packet) : State := { linked ask with fabric := { (linked ask).fabric with inbox := [p] } }

theorem test_wit_FabricEvents_next : ∀ op ∈ [0, 1, 6], (packet op).malformed = false ∧ deviceOf (packet op).destination = 0 ∧ deviceOf (packet op).source = 1 ∧ (packet op).sealed = false ∧
    (2 ^ 13, 0) ∉ (arrived (packet op)).fabric.passed ∧ (packet op).opfield = 0 ∧ (packet op).words = [] ∧ endpointValid (packet op).destination = true ∧
    (op = 1 → endpointTile (packet op).destination = none ∧ endpointClusterHome (packet op).destination = none) ∧ (op = 6 → endpointTile (packet op).destination = some 0) := by decide

theorem test_wit_FabricEvents_packet : (arrived (packet 0)).NextPacket 0 (packet 0) ∧ (arrived (packet 1)).NextPacket 0 (packet 1) ∧ (arrived (packet 6)).NextPacket 0 (packet 6) :=
  ⟨{ here := rfl, first := (by decide), good := rfl, mine := rfl, plain := rfl, domain := rfl, caps := (fun m h => by cases h; rfl), order := fun _ => rfl },
   { here := rfl, first := (by decide), good := rfl, mine := rfl, plain := rfl, domain := rfl, caps := (fun m h => by cases h), order := (fun h => by cases h) },
   { here := rfl, first := (by decide), good := rfl, mine := rfl, plain := rfl, domain := rfl, caps := (fun m h => by cases h), order := (fun h => by cases h) }⟩

/-- A packet to a reserved endpoint (R31): the unit 15 of cluster 0. -/
theorem test_wit_FabricEvents_reserved : let p : Packet := { packet 1 with destination := 15 }
    p.op ≠ 0 ∧ p.malformed = false ∧ endpointValid p.destination = false ∧ deviceOf p.source ≠ (arrived p).device ∧ deviceOf p.destination = (arrived p).device := by decide

theorem test_reserved_endpoint : (match exec (.junctionPacket 0) (arrived { packet 1 with destination := 15 }) with
    | .next t => decide (t.requests = []) && (t.fabric.sent.any fun x => (x.msg.map fun m => (m.type, m.payload)) = some (0xFD, [2 ^ 32 + 15]))
    | _ => false) = true := by decide

theorem test_wit_FabricEvents_forward : let p : Packet := { packet 1 with destination := 2 ^ 13, source := 2 * 2 ^ 13, hop := 5 }
    p.malformed = false ∧ deviceOf p.destination ≠ 0 ∧ p.via = none ∧ (linked ask).fabric.route (deviceOf p.destination) ≠ none ∧ p.hop < 6 ∧ 16 ≤ (packet 16).op ∧
    ({ packet 1 with reserved := true } : Packet).malformed = true ∧ (1 : Nat) < 16 := by decide

theorem test_wit_FabricEvents_ports : (linked ask).fabric.up 0 = true ∧ (linked ask).fabric.up 71 = false ∧ 71 < 72 ∧
    (run.groups.any fun g => decide (g.device = 0) && decide (g.cluster / 64 = 0)) = true := by decide

/-! ### The host port and the root of trust -/

/-- A state whose host rings of 16 entries hold one submission of the control word `w`. -/
def posted (w : Word) : State :=
  { launched Cap.null 0 [] with mem := Memory.writeN (launched Cap.null 0 []).mem Space.host.base (leBytes 8 w.toNat ++ leBytes 8 65536),
                                host := { tiny.host with hctl := 1, sqsize := 16, sqtail := 1, rqbase := 0x1000, rqsize := 16 } }

theorem test_wit_HostAndTrustEvents_submission : let s := posted (1 * 2 ^ 32); let w := (List.range 16).map fun i => s.hostNow (8 * i)
    s.host.room = true ∧ ringSize s.host.sqsize = true ∧ s.host.sqhead.toNat % 16 ≠ s.host.sqtail.toNat % 16 ∧ w.getD 3 0 = 0 ∧ entryClean w = true ∧
    (SendWord.ofWord (w.getD 0 0)).k = 0 ∧ (SendWord.ofWord (w.getD 0 0)).type.toNat < 0xF0 ∧ s.place (w.getD 1 0).toNat 0 = some (0, 0) := by decide

theorem test_wit_HostAndTrustEvents_refused : let w := (List.range 16).map fun i => (posted (0xF0 * 2 ^ 32)).hostNow (8 * i); let w' := (List.range 16).map fun i => (posted (2 ^ 63)).hostNow (8 * i)
    (entryClean w = true ∧ 0xF0 ≤ (SendWord.ofWord (w.getD 0 0)).type.toNat) ∧ entryClean w' = false ∧ tiny.host.sqhead.toNat % 16 = tiny.host.sqtail.toNat % 16 := by decide

theorem test_submission : does .submissionEntry (posted (1 * 2 ^ 32)) (fun s => s.net.length = 1 && s.host.sqhead = 1) = true ∧
    does .submissionEntry (posted (0xF0 * 2 ^ 32)) (fun s => s.net = [] && s.host.sqhead = 1 && s.host.rqtail = 1) = true := by decide

theorem test_wit_HostAndTrustEvents_delivery : let m : Msg := { note with dest := .endpoint (hostEndpoint 0) }; let s : State := { posted 0 with net := [m] }
    s.mustWait m = false ∧ s.host.room = true ∧ m.caps = [] ∧ m.payload.length ≤ 7 := by decide

/-- A state whose host port decodes the host addresses from 0 to the device addresses from 2^28, with a handle on a buffer there and its page in the TLB. -/
def cxl : State :=
  { tiny with dirs := [{ dieEnt with base := 2 ^ 28, owner := hostEndpoint 0 }],
              host := { tiny.host with decoder := some (0, 2 ^ 28, 2 ^ 28), handles := [(0, { dieCap with base := 0x10000000 })] },
              paging := { tiny.paging with tlb := [⟨sliceOf (hostEndpoint 0 / 2 ^ 10 % 4) (2 ^ 28), 2 ^ 28, 0, 0x4000⟩] } }

theorem test_wit_HostAndTrustEvents_cxl : let c : Cap := { dieCap with base := 0x10000000 }; let slice := sliceOf (hostEndpoint 0 / 2 ^ 10 % 4) (2 ^ 28)
    cxl.host.decode 0 = some (2 ^ 28) ∧ cxl.homeOf c = some (.die 0) ∧ cxl.waiting slice (2 ^ 28) = none ∧ cxl.hostCap { write := false, addr := 2 ^ 28, data := [] } = some c ∧
    cxl.hostCap { write := true, addr := 2 ^ 28, data := [] } = some c ∧
    cxl.checkAccess (cxl.hostClaim c (.die 0)) (2 ^ 28) 0 64 0 0 = none ∧ cxl.checkAccess (cxl.hostClaim c (.die 0)) (2 ^ 28) 0 64 1 0 = none ∧
    (∀ a < 64, cxl.tlbHit slice (2 ^ 28 + a) = some ⟨slice, 2 ^ 28, 0, 0x4000⟩ ∧ sliceOf (hostEndpoint 0 / 2 ^ 10 % 4) (2 ^ 28 + a) = slice) := by decide

theorem test_wit_HostAndTrustEvents_wait : let r : CxlRequest := { write := false, addr := 0, data := [], since := some 0 }
    r.write = false ∧ r.since = some 0 ∧ 0 + 2500000 ≤ 2500000 ∧ 2499999 < 0 + 2500000 ∧ tiny.host.handles = [] ∧ 0 % 2 ^ 28 = 0 ∧ 2 ^ 39 ≤ 2 ^ 39 := by decide

theorem test_wit_HostAndTrustEvents_phases : SpdmPhase.algorithms.agreed = true ∧ SpdmPhase.exchanged.agreed = true ∧ SpdmPhase.version.agreed = false ∧
    (SpdmPhase.secure 7).session = true ∧ SpdmPhase.algorithms.session = false ∧ 5 ≤ tiny.power.bootStep := by decide

/-- The descriptor bits of an open domain 7 with 64 MiB of arena. -/
def bits7 : BitVec 256 := 7 + 1 * 2 ^ 94 + 0xFF0000000000 * 2 ^ 128 + 10 * 2 ^ 176

theorem test_wit_HostAndTrustEvents_create : tiny.descriptorOk bits7 = true ∧ (Descriptor.ofBits 0 bits7).domain = 7 ∧ tiny.domainBusy 7 = false := by decide +kernel

/-- A log of domain 0 with two units free, or fewer. -/
def log (size : Nat) : SessionLog := { domain := 0, size := size }

theorem test_wit_HostAndTrustEvents_log : let p : PendingItem := { domain := 0, type := 4, units := 1, injected := false, launch := 0, payload := [1, 2, 3, 4, 0] }
    p.units + 2 ≤ (log 3).free ∧ (log 2).free < p.units + 2 ∧ 2 ≤ (log 2).free ∧ tiny.violations = [] ∧ (log 3).items = [] := by decide

theorem test_wit_HostAndTrustEvents_busy : (launched Cap.null 0 []).domainBusy 0 = true ∧ [1, 2].Nodup ∧ [1, 2].length < 4095 ∧ tiny.spores = [] ∧ tiny.dmemPools = [] ∧
    (∀ p ∈ tiny.trust.receipts, p.1 ≠ 65536) ∧ tiny.endedAfter { run with state := .ended } = 0 := by decide

/-! ### Launches and power -/

/-- A launch record whose code buffer holds no instruction, so that its check fails, and the post of it. -/
def post (n : Option Nat) : Post := { tile := 0, reg := 1, codeReg := 2, recordCap := ownCap, codeCap := { ownCap with buffer := 4 }, level := 0, number := n }

/-- The header of the least launch record that passes the check (R391). -/
def recordWords : List Nat := [1 + 2 ^ 16, 0, 131072 + 16384 * 2 ^ 32, 49152 + 6144 * 2 ^ 32, 1048576 + 262144 * 2 ^ 32, 256 + 10000 * 2 ^ 32, 0, 0]

/-- A state with that post and a record in the own buffer. -/
def checking (ws : List Nat) (n : Option Nat) : State :=
  { holding Cap.null Cap.null 0 [{ ent with state := .inTransit }, { ent with number := 4, base := 0x22000, state := .readShared, count := 65536 }] with
    posts := [post n], mem := Memory.writeN [] 0x20000 (ws.flatMap (leBytes 8)) }

theorem test_wit_LaunchAndPowerEvents_code : let s := checking [0] none
    s.postCode 0 ownCap (post none).codeCap = 2 ∨ s.postCode 0 ownCap (post none).codeCap = 1 := by decide +kernel

theorem test_wit_LaunchAndPowerEvents_pass : let s := checking recordWords none
    s.postCode 0 ownCap (post none).codeCap = 0 ∧ (s.readRaw ownCap).any (fun r => (r.record 0).devices.all fun d => decide (d.1 = 0)) = true ∧ s.launchAt s.nextLaunch = none := by decide +kernel

theorem test_wit_LaunchAndPowerEvents_shares : (({ run with shares := [(1, 0)] } : Launch).shares.any fun a => a.2 ≠ 0) = false ∧
    (({ run with shares := [(1, 3)] } : Launch).shares.find? fun a => a.2 ≠ 0) = some (1, 3) := by decide

/-- A state with a launch in a state of its own on cluster 0. -/
def launchIn (l : Launch) (mine : Bool) : State :=
  { tiny with launches := [l], clusters := [{ Cluster.reset 0 with launch := if mine then some 65536 else none }],
              tile := { tiny.tile with launch := if mine then some 65536 else none }, others := (List.range 7).map fun i => { Tile.reset (i + 1) with mode := .u, dispatch := [] } }

theorem test_wit_LaunchAndPowerEvents_place : let l : Launch := { run with state := .ready, groups := [], record := { devices := [(0, 1)] } }; let s := launchIn l false
    s.head 0 = some l ∧ s.head 1 = none ∧ s.placeFor l [] = some [0] ∧ s.headsAll l [0] = true ∧ s.power.bootStep = 7 := by decide

theorem test_wit_LaunchAndPowerEvents_victim : let l : Launch := { run with number := 65537, state := .ready, groups := [], record := { priority := 5, devices := [(0, 1)] } }
    let s : State := { launchIn run true with launches := [run, l] }
    s.placeFor l [] = none ∧ s.unloadable l = [] ∧ (s.chooseVictims l [] (s.victims l)).map (fun vs => vs.map (·.number)) = some [65536] := by decide +kernel

theorem test_wit_LaunchAndPowerEvents_loads : let l : Launch := { run with state := .loading, groups := [{ cluster := 0, home := 0, device := 0 }], record := { devices := [(0, 1)] } }
    (launchIn l true).LoadsOne 65536 l 0 0 :=
  { here := rfl, state := rfl, own := rfl, alone := rfl, done := rfl, placed := (by decide), todo := rfl, domain := by decide, offer := rfl, buffers := rfl, caps := rfl, remote := rfl }

theorem test_wit_LaunchAndPowerEvents_park : let l : Launch := { run with state := .parking, record := { devices := [(0, 1)] } }; let s := launchIn l true
    s.launchAt 65536 = some l ∧ s.exchanging 65536 = false ∧ s.peersOf l = [] ∧ s.clustersOf l = [0] ∧ (s.clusterAt 0).map (fun c => decide (c.stopped = false ∧ c.launch = some 65536)) = some true := by decide

theorem test_wit_LaunchAndPowerEvents_exchanging : let l : Launch := { run with state := .parking }; let s := { inPhase 5 with launches := [l] }
    s.exchanging 65536 = true ∧ ({ Cluster.reset 0 with quarantined := true } : Cluster).quarantined = true ∧ s.clustersOf l = [0] := by decide

theorem test_wit_LaunchAndPowerEvents_ending : let l : Launch := { run with state := .ending, record := { devices := [(0, 1)] } }; let s := launchIn l true
    (s.cleanUp 65536).isSome = true ∧ l.cleaned = false ∧ l.device = s.device ∧ s.peersOf l = [] := by decide

theorem test_wit_LaunchAndPowerEvents_deliver : let l : Launch := { run with state := .ending, cleaned := true, groups := [], record := { devices := [(0, 1)] } }; let s := launchIn l false
    s.launchAt 65536 = some l ∧ l.delivered = false ∧ l.outgoing = [] ∧ l.record.complete = 0 ∧ s.completing { l with delivered := true } = false := by decide

theorem test_wit_LaunchAndPowerEvents_switch : let s := launchIn { run with state := .ended } false; let t : State := { s with trust := { s.trust with descriptors := [{ closedTo with domain := 7 }] } }
    t.switchable 0 7 = true ∧ t.switchable 0 8 = false ∧ s.switchable 0 0 = false := by decide

theorem test_wit_LaunchAndPowerEvents_management : (tiny.endpointHere 0).isSome = true ∧ tiny.endpointHere (2 ^ 13) = none ∧ validArea 0xFF0000000000 = true ∧ validArea 1 = false ∧
    tiny.parkBusy (tiny.parkSet tiny.tile false) tiny.tile false = false := by decide

theorem test_wit_LaunchAndPowerEvents_temperature : (110 : Int) ≤ 110 ∧ (109 : Int) < 110 ∧ (95 : Int) < 96 ∧ (92 : Int) ≤ 92 ∧ (9 : Int) < 10 ∧ tiny.power.bootStep ≠ 3 := by decide

theorem test_throttle : does .throttleWindow { tiny with power := { tiny.power with watts := 2801 } } (fun s => s.power.powerLevel = 1 && s.power.throttle = 1) = true := by decide

/-! ### CSR fields, reset, memory -/

theorem test_wit_CsrFieldResults : (tinyTile fun t => { t with pmpcfg := t.pmpcfg.set 0 0x80 }).tile.pmpByte 0 / 128 = 1 ∧ tiny.tile.pmpByte 0 / 128 = 0 ∧
    (tiny.csrWrite 0x3A0 0x1F).tile.pmpByte 0 = 0x1F ∧ (tiny.csrWrite 0x3A0 0x17).tile.pmpByte 0 = 7 := by decide

theorem test_wit_MemoryStaysCanonical : State.reset.mem.wf = true ∧ tiny.mem.wf = true ∧ (placed 0x00150513).mem.wf = true := by decide

/-! ### Further witnesses of event clauses -/

theorem test_wit_NetworkAndHomeEvents_landed : let e : DirEntry := ent; let s : State := { sending { note with landing := some (1, List.replicate 256 7) } with dirs := [e] }
    let u : Tile := { s.tile.setC 1 ownCap with phase := some { table := 0, release := 0, landing := some 1, closing := 16 } }
    u.phase.bind (·.landing) = some 1 ∧ s.homeOf (u.rcBank 0 1) = some (.tile 0) ∧ e.base ≤ (u.rcBank 0 1).base.toNat ∧ 256 * 1 + 256 ≤ (u.rcBank 0 1).length.toNat := by decide

/-- The message that brings the tile a buffer of the cluster's memory. -/
def bringing : Msg := { note with caps := [{ clusterCap with generation := 2, length := 512 }], placed := false, hint := 1 }

/-- That buffer is in transit, and the message waits in the Shunter. -/
def coming : State :=
  { launched Cap.null 0 [{ clusterEnt with state := .inTransit, generation := 2, length := 512 }] with
    clusters := [{ Cluster.reset 0 with transfers := [{ msg := bringing }] }] }

theorem test_wit_NetworkAndHomeEvents_shunter : let c : Cap := { clusterCap with generation := 2, length := 512 }
    (coming.choicesFor bringing c coming.tile).1.head? = some .tmem ∧ (coming.allocCopy coming.tile c true).any (fun p => decide (p.1.kind = .tmem)) = true := by decide

theorem test_wit_NetworkAndHomeEvents_transfer : does (.shunterPlacement 0) coming
    (fun s => s.net = [] && (s.clusters.flatMap (·.transfers)).length = 1 && (s.clusters.flatMap (·.transfers)).all fun x =>
      x.decided && x.msg.caps.length = 1 && x.copies.all fun d => s.homeOf d = some (.tile 0) && (x.msg.caps.all fun c => s.homeOf c = some (.cluster 0))) = true := by decide

theorem test_wit_LaunchAndPowerEvents_revive : let l : Launch := { run with state := .reviving, mapKnown := true, record := { devices := [(0, 1)] } }; let s := launchIn l true
    s.sporesOf l = [] ∧ s.peersOf l = [] ∧ (∀ g ∈ l.groups, g.device = s.device → g.parked = false) ∧ s.toLoad l = [] ∧ s.allReady l = true := by decide

theorem test_wit_LaunchAndPowerEvents_spore : does (.managementPark 0 0 0xFF0000000000) tiny
    (fun s => s.tile.parked && (s.spores.filter fun p => !p.out).length = 1) = true := by decide

theorem test_wit_HostAndTrustEvents_session : let s : State := { tiny with trust := { tiny.trust with spdm := .secure 7, descriptors := [{ closedTo with domain := 7 }], logs := [{ domain := 7, size := 1024 }] } }
    s.trust.spdm = .secure 7 ∧ (s.descriptor 7).map (·.domain) = some 7 ∧ s.domainBusy 7 = false ∧ (s.trust.logs.find? (fun l => decide (l.domain = 7))).isSome = true ∧
    (s.trust.descriptors.map (·.domain)).Nodup := by decide

theorem test_wit_CarveAndMergeResults_room : (holding dieCap Cap.null 512 [dieEnt]).dirs.length < 2 ^ 20 ∧ dieEnt.base = dieCap.base.toNat ∧ dieEnt.length = dieCap.length.toNat ∧
    dieEnt.depth = 0 ∧ dieEnt.generation ≠ 0xFFFF ∧ dieEnt.link = none := by decide

theorem test_carve : does (.capCarve 5 1 11) (holding dieCap Cap.null 512 [dieEnt]) (fun s => (s.tile.rc 5).length = 512 && (s.tile.rc 1).base = 0x100200 && (s.tile.rc 1).length = 512) = true := by
  decide

theorem test_merge : does (.capMerge 5 1 2) carved (fun s => (s.tile.rc 5).length = 1024 && (s.tile.rc 1).kind = .null && (s.tile.rc 2).kind = .null) = true ∧
    does (.capMerge 5 1 2) { carved with dirs := carved.dirs.map fun e => { e with link := none } } (fun s => s.tile.mcause = 24 && s.tile.mtval = 10) = true := by decide

theorem test_wit_AllocAndFreeResults_weights : (shareCap .read 1 0).weight.toNat ≤ (sharedEnt .readShared 1).count ∧ (sharedEnt .readShared 1).count < (shareCap .read 2 0).weight.toNat := by decide

theorem test_wit_SplitResults_notice : (asked (.notice .readShared 0) ent).Serves 0 (req (.notice .readShared 0)) ent ∧ ent.state = .exclusive ∧ ent.owner = 0 :=
  ⟨{ here := rfl, first := by decide, plain := rfl, local' := rfl, awake := by decide, entry := rfl, kept := rfl, fits := by decide, window := by decide, generation := rfl, domain := rfl, depth := rfl, armed := rfl, clean := rfl },
   by decide⟩

theorem test_split_then_notice : does (.capSplitR 5 1 11) (holding ownCap Cap.null 1 [ent]) (fun s => s.requests.length = 1 && (s.dirs.map (·.state)) = [.exclusive] &&
    does (.homeAccessRequest 0) s fun t => (t.dirs.map fun e => (e.state, e.count)) = [(.readShared, 65536)]) = true := by decide

theorem test_wit_JoinReclaimSealResults_counts : (sharedEnt .readShared 65536).count = 65536 ∧ 1 < (sharedEnt .execShared 2).count ∧ ent.generation ≠ 0xFFFF := by decide

theorem test_wit_PollAndWaitResults_cancel : let j : Job := { job with granted := true }
    (working j).tile.jobs.find? (fun j => decide (j.number = 0)) = some j ∧ j.granted = true ∧
    (∀ o ∈ (working { job with status := .done, ended := true }).tile.jobs, o.number = 0 → o.ended = true) := by decide

theorem test_wit_PollAndWaitResults_awaited : let t : Tile := { tiny.tile with remotes := [{ store with tag := 3 }] }
    (t.remotes.any fun r => r.control.isEmpty && (decide (r.tag = 3) || r.also.any fun p => decide (p.1 = 3))) = true ∧ (∀ l ∈ t.l1, l.kind ≠ .remote) := by decide

theorem test_wit_RegionResults_abort : (inRegion [region]).tile.remotes = [] ∧ (inRegion [region]).tile.jobs = [] ∧ (inRegion [region]).levels = [] := by decide

theorem test_wit_BarrierAndExchangeResults_phase : (bound { domain := 0, released := some 0 }).tile.arrivalHeld 0 = false ∧ (inPhase 12).tile.freeEntry.isSome = true := by decide

theorem test_wit_TileEventResults_injection : let s := serving 4 8
    s.service = some 4 ∧ s.tile.mdomain = 0 ∧ s.tile.rejectsInjection 11 = true ∧ s.tile.rejectsInjection 0x116 = false ∧
    ¬((5 : BitVec 16) = 0 ∨ (s.descriptor 5).any (·.inject) = true) := by decide

theorem test_wit_TileEventResults_reserved : csrReserved 0x7C1 0x80 = true ∧ csrReserved 0x7C1 0x7F = false ∧ csrReserved 0x7C2 0x10000 = true ∧ csrReserved 0x7C4 0x40 = true ∧
    csrReserved 0x7C4 0x8000 = true ∧ csrReserved 0x7C4 0x3 = false := by decide

theorem test_wit_TileEventResults_limits : (stuck (.lent 5) 250000000).mustCancel = none ∧ (stuck (.lent 5) 250000000).tile.canTrap = true ∧ (stuck (.copy 64) 25000000).tile.waitOffset = some (64, 0) ∧
    (stuck (.copy 64) 25000000).tile.sending = none ∧ ({ tiny.tile with faultLog := Vector.replicate 16 { code := 65, cls := 1 } } : Tile).canTrap = false := by decide

theorem test_wit_NetworkAndHomeEvents_enter_shunter : let s := sending unplaced
    s.net[0]? = some unplaced ∧ unplaced.landing = none ∧ unplaced.placed = false ∧ s.behind unplaced = false ∧ s.takesMsgs 65536 = true ∧ s.groupOut 65536 0 = false ∧
    ((s.destTile unplaced.dest).bind s.tileAt).map (fun u => (u.index, u.parked, u.gated)) = some (0, false, false) ∧
    (s.clusterAt 0).map (fun c => (c.stopped, decide (c.transfers.length < 64))) = some (false, true) ∧ 64 ≤ (List.replicate 64 ({ msg := unplaced } : Transfer)).length := by decide

/-- The state in which the Shunter has decided to copy that buffer. -/
def copying : State := match execShunterPlacement 0 coming with
  | .next t => t
  | _ => coming

theorem test_wit_NetworkAndHomeEvents_decide : (coming.clusterAt 0).map (fun c => (c.stopped, (c.transfers.find? fun x => !x.decided).isSome)) = some (false, true) ∧
    coming.takesMsgs 65536 = true ∧ coming.groupOut 65536 0 = false := by decide

theorem test_wit_NetworkAndHomeEvents_unit : ((copying.clusterAt 0).bind fun c => c.inFlight[0]?).any (fun x => x.current.isSome && decide (x.msg.senderEp / 2 ^ 13 = 0)) = true ∧
    copying.armed = [] ∧ copying.poison = [] ∧ (copying.clusterAt 0).map (fun c => (c.stopped, copying.unitTurn c, decide (c.burst < 4))) = some (false, some bringing.seq, true) := by decide

/-- The state in which the two units of that buffer have been copied. -/
def copied : State := match execTransferCopy 0 0 copying with
  | .next t => match execTransferCopy 0 0 t with
    | .next t => t
    | _ => t
  | _ => copying

theorem test_wit_NetworkAndHomeEvents_hand_over : ((copied.clusterAt 0).bind fun c => c.inFlight[0]?).any (fun x => decide (x.slot = 1) && decide (x.copies.length = 1) && !(copied.mustWait x.msg)) = true := by decide

theorem test_wit_NetworkAndHomeEvents_seal_awake : (holding ownCap Cap.null 0 [ent]).asleep (.tile 0) = false := by decide

theorem test_wit_EngineAndAuditEvents_turn : let j : Job := { job with kind := .copy { ownCap with kind := .host } { ownCap with kind := .host } 512 }
    ((working j).clusterAt 0).map (fun c => (working j).jobTurn c j) = some true := by decide

/-- The layout of R149: level 1 of buffer 3 covers the lines 0 and 1 and has one copy. -/
theorem test_level_words : (snapped.levels.map snapped.levelWords) = [[1 + 3 * 2 ^ 16, 2 ^ 32, 1, 0]] := by decide

theorem test_wit_TileEventResults_fatal_when : tiny.tile.inRegion = false ∧ tiny.tile.rollbacks = [] ∧ (inRegion [region]).tile.inRegion = true ∧
    (tinyTile fun t => { t with mode := .m }).tile.mode = .m := by decide

theorem test_wit_TileEventResults_link : let s : State := { tiny with firing := [(1, 3)], haltLinks := [⟨1, 3, 0, 0⟩] }
    (∀ k ∈ s.haltLinks, k.device = s.device) ∧ (1, 3) ∈ s.firing ∧ (1, 4) ∉ s.firing ∧
    ∃ k ∈ s.haltLinks, k.die = 1 ∧ k.group = 3 ∧ k.other = s.tile.index / 512 := by decide

/-- R443, R374: an error in the state of a tile with a region open asks for a rollback with cause 64, which cancels the region's job and waits
for its step in flight. -/
theorem test_region_error : (match execFatalFault 0 64 (tinyTile fun t =>
      { t with regions := (inRegion [region]).tile.regions, jobs := [{ job with granted := true, region := some (0, 1) }] }) with
    | .next t => some (t.tile.rollbacks, t.tile.hold, t.tile.jobs.map (·.outcome))
    | _ => none) = some ([(0, 1, 64)], .free, [some .rolledBack]) := by decide

/-- R431: a group that fires halts the member of a linked die. -/
theorem test_linked_halt : (match execHaltGroupFire 1 3 { (tinyTile fun t => { t with mhaltgrp := 8 }) with firing := [(1, 3)], haltLinks := [⟨1, 3, 0, 0⟩] } with
    | .next t => some (t.tile.halted, t.firing.length)
    | _ => none) = some (true, 0) := by decide

/-- The own buffer, whose entry an error has struck in both copies. -/
def struckEntry : State := { holding ownCap Cap.null 0 [ent] with armed := [⟨.dirEntry (.tile 0) 3, true, false⟩] }

/-- R445: the home refuses with reason 1, and has lost the entry from then on. -/
theorem test_lost_entry : struckEntry.checkControl (struckEntry.claim (.tile 0) ownCap struckEntry.tile) [.exclusive] true = some 1 ∧
    ((struckEntry.refuse (struckEntry.claim (.tile 0) ownCap struckEntry.tile) 3 0 1).dirs.map (·.lost)) = [true] ∧
    (struckEntry.refuse (struckEntry.claim (.tile 0) ownCap struckEntry.tile) 3 0 1).armed = [] := by decide

/-! ### Witnesses of the clauses on poison, parked tiles, absent homes and waiting launches -/

/-- A state whose private store falls into a sector marked poisoned, of which some bytes have been written clean. -/
def struck (clean : BitVec 64) : State := { stacked with poison := [⟨tmemKey 0 0x1FFF8 / 64, clean⟩] }

theorem test_wit_StoreResults_mark : (struck 0).markOf (tmemKey 0 0x1FFF8 / 64) = some ⟨tmemKey 0 0x1FFF8 / 64, 0⟩ ∧ 0 ||| accessMask 0x1FFF8 8 ≠ BitVec.allOnes 64 ∧
    (BitVec.ofNat 64 (2 ^ 56 - 1)) ||| accessMask 0x1FFF8 8 = BitVec.allOnes 64 ∧ stacked.tile.freeEntry ≠ none := by decide

/-- R439: the sixty-fourth clean byte takes the mark of a private sector away, with a record of code 66. -/
theorem test_private_clean : does (.sd 2 11 0) (struck (BitVec.ofNat 64 (2 ^ 56 - 1))) (fun s => s.poison = [] && (s.tile.faultLog.toList.any fun e => e.code = 66)) = true ∧
    does (.sd 2 11 0) (struck 0) (fun s => s.poison.length = 1) = true := by decide

theorem test_wit_RegionResults_whole : (inRegion [region]).spores = [] ∧ (inRegion [region]).undoLost = false ∧ (inRegion [region]).tile.failing = none ∧
    (inRegion [region]).tile.gang.member = false ∧ (inRegion [region]).tile.rollbacks = [] ∧ (inRegion [region]).tile.gang = {} := by decide

theorem test_wit_TileEventResults_due : (tinyTile fun t => { t with rollbacks := [(0, 1, 64)], regions := (inRegion [region]).tile.regions }).tile.rollbackDue = true ∧
    (∀ w, (stuck (.lent 5) 250000000).tile.wait = some w → w.limit ≠ 0) := ⟨by decide, fun w h => by cases h; decide⟩

theorem test_wit_NetworkAndHomeEvents_awake : let s : State := { sending { note with caps := [{ ownCap with generation := 2 }] } with dirs := [{ ent with state := .inTransit, generation := 2 }] }
    (sending note).homesAwake note = true ∧ (sending unplaced).homesAwake unplaced = true ∧ coming.homesAwake bringing = true ∧ s.homesAwake { note with caps := [{ ownCap with generation := 2 }] } = true := by decide

theorem test_wit_NetworkAndHomeEvents_here : ((copying.clusterAt 0).bind fun c => c.inFlight[0]?).any (fun x => copying.unitHere x && !(copying.toParked x.msg)) = true ∧
    ((copied.clusterAt 0).bind fun c => c.inFlight[0]?).any (fun x => !(copied.toParked x.msg) && copied.homesAwake x.msg) = true := by decide

theorem test_wit_NetworkAndHomeEvents_ports : let r : Request := { req (.store [(0, 9)] [] []) with home := .die 0, buffer := 4 }; let c : Control := { principal := 0, device := 0, serial := 0, home := .tile 0, buffer := 3, generation := 1, domain := 0, operation := 6, operands := [] }
    tiny.portFull (sliceOf r.claim.die 0x100000) r.claim.who = false ∧ (holding ownCap Cap.null 0 [ent]).peerEarlier c.device c.serial c.principal c.home = false ∧
    (holding ownCap Cap.null 0 [ent]).armed = [] := by decide

/-- A tile with a reply on its way, parked or not. -/
def replied (parked : Bool) (k : ReplyKind) : State :=
  { (tinyTile fun t => { t with parked := parked }) with replies := [{ tile := 0, serial := 5, buffer := 3, generation := 1, kind := k }] }

theorem test_wit_NetworkAndHomeEvents_reply : (replied true .done).tile.parked = true ∧ (replied true .done).sporeIsOut (replied true .done).tile = false ∧ (replied false .done).tile.parked = false ∧
    (replied false (.refused 1 0)).tile.freeEntry.isSome = true := by decide

/-- R422: a reply that reaches a parked tile goes into its section 7. -/
theorem test_parked_reply : does (.homeReplyArrival 0) (replied true .done) (fun s => s.replies = [] && s.tile.parkReplies.length = 1) = true ∧
    does (.homeReplyArrival 0) (replied false (.refused 1 0)) (fun s => s.replies = [] && s.tile.faultLog.toList.any fun e => e.code = 65) = true := by decide

theorem test_wit_PagingAndMemoryEvents_span : let r : Request := { req (.load 0 8) with home := .die 0, buffer := 4 }; let s : State := { mapped 0x8003 with dirs := [dieEnt], requests := [r] }
    r.kind.span = some (0, 8, 0, 0) ∧ s.checkAccess r.claim dieEnt.base 0 8 0 0 = none ∧ s.l2Hit (r.claim.asker 0) dieEnt.base = false ∧ s.paging.seconds = [] ∧ s.armed = [] ∧
    (mapped 0x8003).frameClean 0x9000 4096 = true ∧ ([Requester.tile 0 0].contains (.tile tiny.tile.index tiny.tile.unitKey)) = true := by decide

theorem test_wit_EngineAndAuditEvents_stopped : (working job).stoppedAt 0 = false ∧ (ready.clusterAt 0).map (·.stopped) = some false ∧ job.rows = 0 := by decide

theorem test_wit_HostAndTrustEvents_room : cxl.waitRoom (sliceOf (hostEndpoint 0 / 2 ^ 10 % 4) (2 ^ 28)) = true ∧ cxl.l2Hit ((cxl.hostClaim { dieCap with base := 0x10000000 } (.die 0)).asker 0) (2 ^ 28) = false ∧
    (2 ^ 48 - 4096) % 4096 = 0 ∧ (2 ^ 48 - 4096) + 4096 ≤ 2 ^ 48 := by decide

/-- A launch that waits for its shares. -/
def sharing (answers : List (Nat × Nat)) : Launch := { run with state := .waiting, shares := answers, record := { devices := [(0, 1), (1, 1), (2, 1)] } }

theorem test_wit_LaunchAndPowerEvents_answers : let s : State := { checking recordWords (some 65536) with launches := [sharing [(1, 0), (2, 0)]] }
    (s.reserveDmem 0 65536 (sharing []).record.dmemLengths).isSome = true ∧ (∀ d ∈ (sharing []).record.devices, d.1 ≠ s.device → ∃ a ∈ (sharing [(1, 0), (2, 0)]).shares, a.1 = d.1) ∧
    (∀ b ∈ (sharing [(1, 19), (2, 17)]).shares, b.2 ≠ 0 → ((2, 17) : Nat × Nat).2 ≤ b.2) ∧ (s.posts.any fun q => q.number.isSome) = true ∧
    ((checking recordWords none).posts.any fun q => q.number.isSome) = false := by decide

/-- R405: the post is answered with the least of the refusals of its shares. -/
theorem test_least_refusal : does (.launchRecordCheck 0) { checking recordWords (some 65536) with launches := [sharing [(1, 19), (2, 17)]] }
    (fun s => s.tile.answer = some 17 && s.launches = []) = true := by decide

theorem test_wit_LaunchAndPowerEvents_reserve : tiny.reserveDmem 0 65536 [1, 2 ^ 48] = none := by decide

theorem test_wit_LaunchAndPowerEvents_stands : let l : Launch := { run with state := .ready, groups := [], record := { devices := [(0, 1)] } }; let s := launchIn l false
    l.queued s.device = true ∧ s.standsIn l 0 = true ∧ s.leaving = [] := by decide

theorem test_wit_LaunchAndPowerEvents_leaving : let l : Launch := { run with number := 65537, state := .ready, groups := [], record := { priority := 5, devices := [(0, 1)] } }
    let s : State := { launchIn run true with launches := [run, l] }; let p : State := { s with launches := [{ run with state := .parking }, l] }
    s.leaving = [] ∧ (s.placeFor l s.leaving).isSome = false ∧ (p.placeFor l p.leaving).isSome = true := by decide +kernel

theorem test_wit_LaunchAndPowerEvents_known : let l : Launch := { run with state := .reviving, mapKnown := true, record := { devices := [(0, 1)] } }
    l.mapKnown = true ∧ l.done = none ∧ l.buffers = [] ∧ ({ cluster := 0, home := 0, device := 0, placed := true } : Group).placed = true := by decide

/-- R12, R233: the reset of a tile leaves rank 0 and domain 0. -/
theorem test_tile_reset : does (.tileResetOrPowerGate 0) (tinyTile fun t => { t with rank := 5, mdomain := 9, launch := some 65536 })
    (fun s => s.tile.rank = 0 && s.tile.mdomain = 0 && s.tile.gated) = true := by decide

end Sys2Proof.Tests
end

section
/-! SUPPORT. Where ordinary accesses of the private area trap, and the machine right after reset (R36, R49, R233, R235). -/

namespace Sys2Proof.Machine
open Sys2Proof

/-! ### Where ordinary accesses trap (R36) -/

/-- A misaligned access ends in cause 6 or 4 before its region is looked at (R36). -/
theorem checkPrivate_misaligned (s : State) {ea : Word} {n : Nat} (store : Bool) (h : ea.toNat % n ≠ 0) :
    checkPrivate ea n store s = .error (.trap (if store then 6 else 4) ea) s := by
  simp [checkPrivate, act_bind, h]

/-- An aligned access that no region permits ends in cause 7 or 5 (R36). -/
theorem checkPrivate_forbidden {s : State} {ea : Word} {n : Nat} {store : Bool} (h : ea.toNat % n = 0)
    (hp : s.tile.privateAllows ea.toNat n store = false) :
    checkPrivate ea n store s = .error (.trap (if store then 7 else 5) ea) s := by
  simp [checkPrivate, act_bind, h, hp]

/-- A load whose check ends in a trap takes that trap where it stands. -/
theorem load_trap {s : State} (h : s.Plain) (i : Instr) (d a : Reg) (imm : BitVec 12) {n c : Nat} (f : Nat → Word)
    (hc : checkPrivate (s.tile.rx a + sext imm) n false s = .error (.trap c (s.tile.rx a + sext imm)) s) :
    load i d a imm n f s = .next (s.takeTrap c (s.tile.rx a + sext imm)) := by
  unfold load
  rw [run_trap (t := s) h.toQuiet (misplaced_plain h.kpre), trapFrom_self]
  simp [act_bind, getX_quiet h.armed, loadPrivate, hc]

/-- A store whose check ends in a trap takes that trap where it stands. -/
theorem store_trap {s : State} (h : s.Plain) (i : Instr) (a b : Reg) (imm : BitVec 12) {n c : Nat}
    (hc : checkPrivate (s.tile.rx a + sext imm) n true s = .error (.trap c (s.tile.rx a + sext imm)) s) :
    store i a b imm n s = .next (s.takeTrap c (s.tile.rx a + sext imm)) := by
  unfold store
  rw [run_trap (t := s) h.toQuiet (misplaced_rs2 (.inl h.kpre)), trapFrom_self]
  simp [act_bind, getX_quiet h.armed, rs2_quiet h.armed, storePrivate, hc]

/-- Settles O14: every load and store of the list is `load` or `store` of its size, whose check of the address is what traps. -/
theorem privateAccessTraps : Obligations.PrivateAccessTraps := by
  intro s d a b imm h ea
  have loads {n c : Nat} (i : Instr) (f : Nat → Word) (hc : checkPrivate ea n false s = .error (.trap c ea) s) :
      load i d a imm n f s = .next (s.takeTrap c ea) := load_trap h i d a imm f hc
  have stores {n c : Nat} (i : Instr) (hc : checkPrivate ea n true s = .error (.trap c ea) s) :
      store i a b imm n s = .next (s.takeTrap c ea) := store_trap h i a b imm hc
  refine ⟨fun hn => ?_, fun hn => ?_, fun hn => ?_, fun hp => ?_, fun hp => ?_, fun hn => ⟨fun hp => ?_, fun hp => ?_⟩,
    fun hn => ⟨fun hp => ?_, fun hp => ?_⟩, fun hn hp => ?_, fun hn hp => ?_⟩
  · exact ⟨loads _ _ (checkPrivate_misaligned s false hn), stores _ (checkPrivate_misaligned s true hn)⟩
  · have hl := checkPrivate_misaligned s false hn
    exact ⟨loads _ _ hl, loads _ _ hl, stores _ (checkPrivate_misaligned s true hn)⟩
  · have hl := checkPrivate_misaligned s false hn
    exact ⟨loads _ _ hl, loads _ _ hl, stores _ (checkPrivate_misaligned s true hn)⟩
  · have hl := checkPrivate_forbidden (Nat.mod_one _) hp
    exact ⟨loads _ _ hl, loads _ _ hl⟩
  · exact stores _ (checkPrivate_forbidden (Nat.mod_one _) hp)
  · have hl := checkPrivate_forbidden hn hp
    exact ⟨loads _ _ hl, loads _ _ hl⟩
  · exact stores _ (checkPrivate_forbidden hn hp)
  · have hl := checkPrivate_forbidden hn hp
    exact ⟨loads _ _ hl, loads _ _ hl⟩
  · exact stores _ (checkPrivate_forbidden hn hp)
  · exact loads _ _ (checkPrivate_forbidden hn hp)
  · exact stores _ (checkPrivate_forbidden hn hp)

/-! ### The machine right after reset -/

/-- The search for an index in a list whose places hold rising indexes finds what stands at its place. -/
theorem find_index_map_range {α : Type} (f : Nat → α) (index : α → Nat) {c : Nat} (hf : ∀ j, index (f j) = j + c) {i n : Nat} (h : i < n) :
    ((List.range n).map f).find? (fun t => decide (index t = i + c)) = some (f i) := by
  rw [List.find?_map, List.find?_range_eq_some.mpr]
  · rfl
  · simp only [Function.comp_apply, hf, List.mem_range, h, decide_true, true_and, Bool.not_eq_true', decide_eq_false_iff_not]
    omega

/-- Every tile is there after reset, as its own reset leaves it (R28). -/
theorem reset_tileAt {i : Nat} (h : i < 2048) : State.reset.tileAt i = some (Tile.reset i) := by
  cases i with
  | zero => rfl
  | succ i =>
    have h0 : State.reset.tile.index ≠ i + 1 := (Nat.succ_ne_zero i).symm
    have ho : State.reset.others = (List.range 2047).map fun j => Tile.reset (j + 1) := by rw [State.reset]
    rw [State.tileAt, if_neg h0, ho]
    exact find_index_map_range _ Tile.index (fun _ => rfl) (by omega)

/-- Every cluster is there after reset (R28). -/
theorem reset_clusterAt {k : Nat} (h : k < 256) : State.reset.clusterAt k = some (Cluster.reset k) :=
  find_index_map_range Cluster.reset Cluster.index (c := 0) (fun _ => rfl) h

/-- No gang is formed after reset (R233). -/
theorem reset_gang_word (i : Nat) : (Tile.reset i).gang.word = 0 := by
  show Gang.word {} = 0
  decide

/-- Settles O59: every field is the one that `State.reset` and `Tile.reset` write out, once the tile or cluster of an index is found. -/
theorem resetState : Obligations.ResetState := by
  refine ⟨rfl, rfl, rfl, rfl, rfl, rfl, rfl, rfl, rfl, rfl, rfl, rfl, rfl, rfl, fun i hi => ⟨Tile.reset i, reset_tileAt hi, ?_⟩,
    fun k hk => reset_clusterAt hk, by decide⟩
  exact ⟨rfl, rfl, rfl, rfl, rfl, rfl, rfl, rfl, rfl, rfl, rfl, rfl, rfl, rfl, rfl, reset_gang_word i, rfl, rfl, rfl, rfl, rfl, rfl, rfl, rfl, rfl,
    rfl, rfl, rfl, rfl, rfl, rfl, rfl, rfl⟩

end Sys2Proof.Machine
end

section
/-! SUPPORT. Page tables in memory, the marks that reads of the controllers leave, and what copies of pages change (R168-R170, R185-R190, R435-R438). -/

namespace Sys2Proof.Machine

open Sys2Proof

/-! ### Runs of bytes -/

@[simp] theorem mem_readN_length (m : Memory) (a n : Nat) : (m.readN a n).length = n := by simp [Memory.readN]

theorem mem_readN_getElem (m : Memory) (a n i : Nat) (h : i < (m.readN a n).length) : (m.readN a n)[i] = m.read (a + i) := by simp [Memory.readN]

/-- Bytes that read alike are alike as a run. -/
theorem mem_readN_congr {m m' : Memory} {a n : Nat} (h : ∀ i < n, m.read (a + i) = m'.read (a + i)) : m.readN a n = m'.readN a n :=
  List.map_congr_left fun i hi => h i (List.mem_range.mp hi)

/-- A run that was stored reads back. -/
theorem mem_readN_writeN (m : Memory) (a : Nat) (bs : List Byte) : (m.writeN a bs).readN a bs.length = bs :=
  List.ext_getElem (by simp) fun i _ h => by rw [mem_readN_getElem, mem_read_writeN_inside m a bs i h]

/-- A copied run reads as its source did. -/
theorem mem_read_copied (m m' : Memory) (src dst n : Nat) {i : Nat} (h : i < n) : (m.writeN dst (m'.readN src n)).read (dst + i) = m'.read (src + i) := by
  rw [mem_read_writeN_inside _ _ _ i (by simpa using h), mem_readN_getElem]

/-! ### Page table entries (R168-R170) -/

theorem pte_setPte_same (s : State) (a v : Nat) : (s.setPte a v).pte a = v % 2 ^ 64 := by
  have := mem_readN_writeN s.mem (hbmKey a) (leBytes 8 v)
  rw [leBytes_length] at this
  simp only [State.pte, State.setPte, this, leNat_leBytes]

theorem setPte_read_outside (s : State) {a v k : Nat} (h : k < hbmKey a ∨ hbmKey a + 8 ≤ k) : (s.setPte a v).mem.read k = s.mem.read k :=
  mem_read_writeN_outside _ _ _ (by simpa using h)

/-- An entry is its eight bytes. -/
theorem pte_congr {s t : State} {a : Nat} (h : ∀ i < 8, t.mem.read (hbmKey a + i) = s.mem.read (hbmKey a + i)) : t.pte a = s.pte a := by
  rw [State.pte, State.pte, mem_readN_congr h]

/-- Two entries of which neither lies across the other. -/
def EntriesApart (a b : Nat) : Prop := a = b ∨ a + 8 ≤ b ∨ b + 8 ≤ a

theorem pte_setPte_apart (s : State) {a b v : Nat} (h : a + 8 ≤ b ∨ b + 8 ≤ a) : (s.setPte b v).pte a = s.pte a :=
  pte_congr fun i hi => setPte_read_outside s (by simp only [hbmKey]; omega)

/-- After stores of one value in entries apart from each other, each of them holds it. -/
theorem pte_setPtes (v : Nat) : ∀ (l : List Nat) (s : State) (a : Nat), (∀ b ∈ l, EntriesApart a b) → a ∈ l ∨ s.pte a = v % 2 ^ 64 →
    (l.foldl (fun s a => s.setPte a v) s).pte a = v % 2 ^ 64
  | [], _, _, _, h => h.resolve_left (by simp)
  | b :: l, s, a, hl, h => by
    have hb := hl b List.mem_cons_self
    refine pte_setPtes v l (s.setPte b v) a (fun c hc => hl c (List.mem_cons_of_mem _ hc)) ?_
    rcases hb with rfl | hb
    · exact .inr (pte_setPte_same s a v)
    · rcases h with h | h
      · rcases List.mem_cons.mp h with rfl | h
        · omega
        · exact .inl h
      · exact .inr ((pte_setPte_apart s hb).trans h)

theorem setPtes_read_outside {v k : Nat} : ∀ (l : List Nat) (s : State), (∀ a ∈ l, k < hbmKey a ∨ hbmKey a + 8 ≤ k) →
    (l.foldl (fun s a => s.setPte a v) s).mem.read k = s.mem.read k
  | [], _, _ => rfl
  | a :: l, s, h => (setPtes_read_outside l _ fun b hb => h b (List.mem_cons_of_mem _ hb)).trans (setPte_read_outside s (h a List.mem_cons_self))

/-- A change of a run changes memory alone. -/
theorem setRun_eq (s : State) (size at' v : Nat) : s.setRun size at' v = { s with mem := (s.setRun size at' v).mem } := by
  unfold State.setRun
  generalize runOf size at' = l
  induction l generalizing s with
  | nil => rfl
  | cons a l ih => rw [List.foldl_cons, ih]; rfl

/-- The entries of a run follow each other. -/
theorem mem_runOf {size at' a : Nat} (h : a ∈ runOf size at') : ∃ i, i < pageSize size / entrySpan (pageLevel size) ∧
    a = at' - at' % (8 * (pageSize size / entrySpan (pageLevel size))) + 8 * i := by
  obtain ⟨i, hi, rfl⟩ := List.mem_map.mp h
  exact ⟨i, List.mem_range.mp hi, rfl⟩

theorem runOf_apart {size at' a b : Nat} (ha : a ∈ runOf size at') (hb : b ∈ runOf size at') : EntriesApart a b := by
  obtain ⟨i, -, rfl⟩ := mem_runOf ha
  obtain ⟨j, -, rfl⟩ := mem_runOf hb
  unfold EntriesApart
  omega

/-- A run that was changed holds the value in every entry (R169). -/
theorem setRun_runIs (s : State) (size at' v : Nat) : (s.setRun size at' v).RunIs size at' v :=
  fun a ha => pte_setPtes v (runOf size at') s a (fun _ hb => runOf_apart ha hb) (.inl ha)

/-- Whether a key is none of the bytes of a run. -/
def OutsideRun (size at' k : Nat) : Prop := ∀ a ∈ runOf size at', k < hbmKey a ∨ hbmKey a + 8 ≤ k

theorem setRun_read_outside (s : State) {size at' v k : Nat} (h : OutsideRun size at' k) : (s.setRun size at' v).mem.read k = s.mem.read k :=
  setPtes_read_outside (runOf size at') s h

/-- The bytes of a run are those that no other store reached. -/
theorem runIs_congr {s t : State} {size at' v : Nat} (h : s.RunIs size at' v) (hm : ∀ k, ¬ OutsideRun size at' k → t.mem.read k = s.mem.read k) :
    t.RunIs size at' v := by
  intro a ha
  rw [← h a ha]
  refine pte_congr fun i hi => hm _ fun ho => ?_
  have := ho a ha
  omega

theorem outsideRun_frame {size at' frame i : Nat} (h : RunApart size at' frame) (hi : i < pageSize size) : OutsideRun size at' (hbmKey frame + i) := by
  intro a ha
  have := h a ha
  simp only [hbmKey]
  omega

/-! ### What the reads of a controller leave alone (R435-R438) -/

/-- `t` has the tiles, the translation machinery, the host port and the domains of `s`. -/
structure State.SameAgents (s t : State) : Prop where
  tile : t.tile = s.tile
  others : t.others = s.others
  paging : t.paging = s.paging
  host : t.host = s.host
  descriptors : t.trust.descriptors = s.trust.descriptors

theorem State.SameAgents.refl (s : State) : s.SameAgents s := ⟨rfl, rfl, rfl, rfl, rfl⟩

theorem State.SameAgents.trans {s t u : State} (h : s.SameAgents t) (h' : t.SameAgents u) : s.SameAgents u :=
  ⟨h'.tile.trans h.tile, h'.others.trans h.others, h'.paging.trans h.paging, h'.host.trans h.host, h'.descriptors.trans h.descriptors⟩

theorem State.SameAgents.sealed {s t : State} (h : s.SameAgents t) (d : BitVec 16) : t.sealed d = s.sealed d := by
  rw [State.sealed, State.sealed, h.descriptors]

/-- `t` has the agents and the memory of `s`: what may differ are the marks of errors and their records. -/
structure State.OnlyMarks (s t : State) : Prop extends s.SameAgents t where
  mem : t.mem = s.mem

theorem State.OnlyMarks.refl (s : State) : s.OnlyMarks s := ⟨.refl s, rfl⟩

theorem State.OnlyMarks.trans {s t u : State} (h : s.OnlyMarks t) (h' : t.OnlyMarks u) : s.OnlyMarks u :=
  ⟨h.toSameAgents.trans h'.toSameAgents, h'.mem.trans h.mem⟩

theorem setRun_sameAgents (s : State) (size at' v : Nat) : s.SameAgents (s.setRun size at' v) := by
  rw [setRun_eq]
  exact ⟨rfl, rfl, rfl, rfl, rfl⟩

theorem onlyMarks_foldl {α : Type} {f : State → α → State} (h : ∀ (s : State) (a : α), s.OnlyMarks (f s a)) : ∀ (l : List α) (s : State), s.OnlyMarks (l.foldl f s)
  | [], s => .refl s
  | a :: l, s => (h s a).trans (onlyMarks_foldl h l (f s a))

/-- A record of an event goes to the logs alone. -/
theorem recordEvent_eq (s : State) (h : HomeId) (e : DirEntry) (off code source reason : Nat) (injected : Bool) :
    ∃ ls ps, s.recordEvent h e off code source reason injected = { s with launches := ls, trust := { s.trust with pending := ps } } := by
  unfold State.recordEvent
  cases s.launchAtEndpoint e.owner with
  | none => exact ⟨_, _, rfl⟩
  | some n => exact ⟨_, _, rfl⟩

theorem recordEvent_onlyMarks (s : State) (h : HomeId) (e : DirEntry) (off code source reason : Nat) (injected : Bool) :
    s.OnlyMarks (s.recordEvent h e off code source reason injected) := by
  obtain ⟨ls, ps, hr⟩ := recordEvent_eq s h e off code source reason injected
  rw [hr]
  exact ⟨⟨rfl, rfl, rfl, rfl, rfl⟩, rfl⟩

/-- `t` is `s` after a mark of a sector (R438): it reaches the poisoned sectors, the count of an entry and the logs; no mark goes, and that of the sector
is there. -/
structure State.Marks (s t : State) (sector : Nat) : Prop extends s.OnlyMarks t where
  armed : t.armed = s.armed
  marked : sector ∈ t.poison.map PoisonMark.sector
  kept : ∀ k ∈ s.poison.map PoisonMark.sector, k ∈ t.poison.map PoisonMark.sector

theorem markPoison_marks (s : State) (h : HomeId) (buffer off key code : Nat) (injected : Bool) :
    s.Marks (s.markPoison h buffer off key code injected) (key / 64) := by
  by_cases hp : s.poisoned (key / 64)
  · have hs : (s.poison.map fun m => if m.sector = key / 64 then { m with clean := 0 } else m).map PoisonMark.sector = s.poison.map PoisonMark.sector := by
      rw [List.map_map]
      exact List.map_congr_left fun m _ => by simp only [Function.comp_apply]; split <;> rfl
    rw [State.markPoison, if_pos hp]
    refine ⟨⟨⟨rfl, rfl, rfl, rfl, rfl⟩, rfl⟩, rfl, ?_, fun k hk => ?_⟩
    · rw [hs]
      simpa [State.poisoned] using hp
    · rwa [hs]
  · rw [State.markPoison, if_neg hp]
    generalize (if injected = true then key / 64 :: s.injected else s.injected) = is
    dsimp only
    split
    · exact ⟨⟨⟨rfl, rfl, rfl, rfl, rfl⟩, rfl⟩, rfl, List.mem_cons_self, fun k hk => List.mem_cons_of_mem _ hk⟩
    · next e _ =>
      unfold State.recordPoison
      obtain ⟨ls, ps, hr⟩ := recordEvent_eq _ h e (off / 64 * 64) code 1 code injected
      rw [hr]
      exact ⟨⟨⟨rfl, rfl, rfl, rfl, rfl⟩, rfl⟩, rfl, List.mem_cons_self, fun k hk => List.mem_cons_of_mem _ hk⟩

/-- The error that waits in a sector, found first. -/
def State.armedAt (s : State) (sector : Nat) : Option ArmedError := s.armed.find? fun a => a.item = .sector sector

/-- `t` is `s` after a read of a sector (R435, R438): the error found there no longer waits, an uncorrectable one has marked the sector, and no mark has gone. -/
structure State.Detects (s t : State) (sector : Nat) : Prop extends s.OnlyMarks t where
  armed : t.armed = s.armed.filter fun o => decide (some o ≠ s.armedAt sector)
  marked : ∀ a, s.armedAt sector = some a → a.uncorrectable = true → sector ∈ t.poison.map PoisonMark.sector
  kept : ∀ k ∈ s.poison.map PoisonMark.sector, k ∈ t.poison.map PoisonMark.sector

theorem detects_of_none {s : State} {sector : Nat} (h : s.armedAt sector = none) : s.Detects s sector :=
  ⟨.refl s, by simp [h], fun a ha => by simp [h] at ha, fun _ hk => hk⟩

theorem detect_detects (s : State) (h : HomeId) (buffer off key : Nat) : s.Detects (s.detect h buffer off key) (key / 64) := by
  unfold State.detect
  split
  · next hn => exact detects_of_none hn
  · next a ha =>
    have ha' : s.armedAt (key / 64) = some a := ha
    have hf : (s.armed.filter fun o => decide (o ≠ a)) = s.armed.filter fun o => decide (some o ≠ s.armedAt (key / 64)) := by simp [ha']
    split
    · have hm := markPoison_marks { s with armed := s.armed.filter fun o => decide (o ≠ a) } h buffer off key 69 a.injected
      have hd : s.OnlyMarks { s with armed := s.armed.filter fun o => decide (o ≠ a) } := ⟨⟨rfl, rfl, rfl, rfl, rfl⟩, rfl⟩
      exact ⟨hd.trans hm.toOnlyMarks, hm.armed.trans hf, fun _ _ _ => hm.marked, hm.kept⟩
    · next hu =>
      refine ⟨⟨⟨rfl, rfl, rfl, rfl, rfl⟩, rfl⟩, hf, fun b hb hc => ?_, fun _ hk => hk⟩
      rw [ha'] at hb
      cases hb
      exact absurd hc hu

theorem detectFree_detects (s : State) (h : HomeId) (key : Nat) : s.Detects (s.detectFree h key) (key / 64) := by
  unfold State.detectFree
  split
  · next hn => exact detects_of_none hn
  · have hd := detect_detects s h (2 ^ 24) 0 key
    split
    · exact hd
    · exact ⟨⟨⟨hd.tile, hd.others, hd.paging, hd.host, hd.descriptors⟩, hd.mem⟩, hd.armed, hd.marked, hd.kept⟩

theorem readSector_detects (s : State) (pa : Nat) : s.Detects (s.readSector pa) (hbmKey pa / 64) := by
  unfold State.readSector
  split
  · exact detect_detects s _ _ _ _
  · exact detectFree_detects s _ _

/-- Where no error waits, a read finds none. -/
theorem detectFree_unarmed {s : State} (h : s.armed = []) (m : HomeId) (key : Nat) : s.detectFree m key = s := by simp [State.detectFree, h]

theorem readSector_unarmed {s : State} (h : s.armed = []) (pa : Nat) : s.readSector pa = s := by
  unfold State.readSector
  split
  · exact detect_unarmed h _ _ _ _
  · exact detectFree_unarmed h _ _

theorem readFrames_onlyMarks (s : State) (frame n : Nat) : s.OnlyMarks (s.readFrames frame n) :=
  onlyMarks_foldl (fun s _ => (readSector_detects s _).toOnlyMarks) _ _

theorem retireFrame_onlyMarks (s : State) (frame n : Nat) : s.OnlyMarks (s.retireFrame frame n) := ⟨⟨rfl, rfl, rfl, rfl, rfl⟩, rfl⟩

end Sys2Proof.Machine
end

section
/-! SUPPORT. The service at work on a page: invalidates, moves between frames, and the copies to and from host memory (R185-R190). -/

namespace Sys2Proof.Machine

open Sys2Proof

/-! ### Agents that hold nothing (R143, R188) -/

/-- The host port that holds no request has none to serve. -/
theorem wakeHost_idle {s : State} (h : s.host.waiting = []) : s.wakeHost = s := by
  have hs : ({ s with host := { s.host with waiting := [] } } : State) = s := by rw [← h]
  rw [State.wakeHost, h]
  exact hs

/-- What holds nothing goes on holding nothing when its agents stay as they are. -/
theorem State.NoHeld.of_same {s t : State} (h : s.NoHeld) (ht : t.tile = s.tile) (ho : t.others = s.others) (hh : t.host = s.host) : t.NoHeld :=
  ⟨by rw [State.allTiles, ht, ho]; exact h.lines, by rw [hh]; exact h.host⟩

/-- A change that leaves the tiles concerned as they are changes none. -/
theorem mapTiles_fix {s : State} {p : Tile → Bool} {f : Tile → Tile} (h : ∀ u ∈ s.allTiles, f u = u) : s.mapTiles p f = s := by
  have ht : (if p s.tile then f s.tile else s.tile) = s.tile := by rw [h s.tile List.mem_cons_self, ite_self]
  have ho : (s.others.map fun u => if p u then f u else u) = s.others :=
    (List.map_congr_left fun u hu => by rw [h u (List.mem_cons_of_mem _ hu), ite_self]).trans (List.map_id' _)
  rw [State.mapTiles, ht, ho]

/-- Where no L1 holds a merge back, a release reaches the lines in spores alone. -/
theorem releaseMerges_idle {s : State} (h : ∀ u ∈ s.allTiles, ∀ l ∈ u.l1, l.heldMerge = false) (va span : Nat) :
    ∃ sp, s.releaseMerges va span = { s with spores := sp } := by
  unfold State.releaseMerges
  extract_lets within' free back parked s'
  have hw : ∀ u ∈ s.allTiles, ∀ l ∈ u.l1, within' l = false := fun u hu l hl => by simp [within', h u hu l hl]
  have hf : ∀ u ∈ s.allTiles, free u = u := fun u hu => by
    have hl : (u.l1.map fun l => if within' l = true then { l with heldMerge := false } else l) = u.l1 :=
      (List.map_congr_left fun l hl => by simp [hw u hu l hl]).trans (List.map_id' _)
    simp only [free, hl]
  have hp : parked = s := mapTiles_fix hf
  have hn : s'.allTiles.filter (fun t => t.l1.any within') = [] := by
    simp only [s', hp]
    refine List.filter_eq_nil_iff.mpr fun u hu => ?_
    simpa using hw u hu
  have hs : s' = { s with spores := s'.spores } := by simp only [s', hp]
  refine ⟨s'.spores, ?_⟩
  rw [hn, List.foldl_nil, hs]
  exact if_pos rfl

/-! ### Invalidates (R185) -/

/-- What an invalidate drops over a range leaves nothing that meets it. -/
theorem not_meets_iff (va span a n : Nat) : (!(decide (a < va + span) && decide (va < a + n))) = true ↔ a + n ≤ va ∨ va + span ≤ a := by
  simp only [Bool.not_eq_true', Bool.and_eq_false_iff, decide_eq_false_iff_not, Nat.not_lt]
  exact or_comm

theorem mem_invalidate_tlb {s : State} {va span : Nat} {d : Bool} {x : TlbEntry} :
    x ∈ (s.invalidate va span d).paging.tlb ↔ x ∈ s.paging.tlb ∧ (x.va + pageSize x.size ≤ va ∨ va + span ≤ x.va) :=
  List.mem_filter.trans (and_congr_right fun _ => not_meets_iff ..)

theorem invalidate_tlbClear (s : State) (va span : Nat) (d : Bool) : (s.invalidate va span d).TlbClear va span :=
  fun _ hx => (mem_invalidate_tlb.mp hx).2

theorem invalidate_waits (s : State) (va span : Nat) (d : Bool) {w : PageWait} (h : w ∈ (s.invalidate va span d).paging.waits) :
    w.page + w.span ≤ va ∨ va + span ≤ w.page :=
  (not_meets_iff ..).mp (List.mem_filter.mp h).2

theorem invalidate_l2 (s : State) (va span : Nat) {l : L2Line} (h : l ∈ (s.invalidate va span true).paging.l2) :
    l.line * 256 + 256 ≤ va ∨ va + span ≤ l.line * 256 :=
  (not_meets_iff ..).mp (List.mem_filter.mp h).2

/-! ### The two events of a move (R186, R187, R189) -/

/-- After the first event the run has mig = 1, nothing of the page is held, the move is noted, and no other byte has changed. -/
theorem startMove_moves (s : State) (page size at' e target : Nat) (d : Bool) :
    let t := s.startMove page size at' e target d
    t.RunIs size at' (e + 2 ^ 10) ∧ t.TlbClear page (pageSize size) ∧ t.paging.moving = s.paging.moving ++ [(page, size, target)] ∧
      t.trust = s.trust ∧ ∀ k, OutsideRun size at' k → t.mem.read k = s.mem.read k := by
  have hr := setRun_runIs s size at' (e + 2 ^ 10)
  have hk : ∀ k, OutsideRun size at' k → (s.setRun size at' (e + 2 ^ 10)).mem.read k = s.mem.read k := fun k => setRun_read_outside s
  have hp : (s.setRun size at' (e + 2 ^ 10)).paging = s.paging := by rw [setRun_eq]
  have ht : (s.setRun size at' (e + 2 ^ 10)).trust = s.trust := by rw [setRun_eq]
  refine ⟨hr, invalidate_tlbClear _ _ _ d, ?_, ht, hk⟩
  rw [← hp]
  rfl

/-- The page's lines go and the page's requests walk again where nothing is held: only what the invalidate drops changes, but for lines in spores. -/
theorem release_idle {s : State} (h : s.NoHeld) (va span : Nat) (d : Bool) :
    ∃ sp, ((s.invalidate va span d).releaseMerges va span).wakeHost = { s.invalidate va span d with spores := sp } := by
  obtain ⟨sp, hs⟩ := releaseMerges_idle (s := s.invalidate va span d) h.lines va span
  refine ⟨sp, ?_⟩
  rw [hs]
  exact wakeHost_idle h.host

/-- After the second event the run has its last form, nothing of the page is held, and the move is over. -/
theorem endMove_moved {s : State} (h : s.NoHeld) (page size at' v target : Nat) :
    let t := s.endMove page size at' v target
    t.RunIs size at' v ∧ t.paging.moving = s.paging.moving.erase (page, size, target) ∧ t.TlbClear page (pageSize size) := by
  have hu : (s.setRun size at' v).NoHeld := by
    rw [setRun_eq]
    exact h.of_same rfl rfl rfl
  obtain ⟨sp, hw⟩ := release_idle (s := { s.setRun size at' v with paging := { s.paging with moving := s.paging.moving.erase (page, size, target) } })
    (hu.of_same rfl rfl rfl) page (pageSize size) false
  rw [show s.endMove page size at' v target = _ from hw]
  exact ⟨setRun_runIs s size at' v, rfl, invalidate_tlbClear _ _ _ _⟩

/-- The bytes of a page that has been copied read as those of the old place, and no byte outside the new place has changed. -/
theorem moveBytes_copies (s : State) (src dst n : Nat) :
    let t := s.moveBytes src dst n
    t.paging = s.paging ∧ (∀ i < n, t.mem.read (dst + i) = s.mem.read (src + i)) ∧ ∀ k, k < dst ∨ dst + n ≤ k → t.mem.read k = s.mem.read k := by
  refine ⟨rfl, fun i hi => mem_read_copied _ _ _ _ _ hi, fun k hk => ?_⟩
  refine (mem_read_writeN_outside _ _ _ (by simpa using hk)).trans ?_
  rw [mem_read_zero, if_neg (by omega)]

/-! ### Copies sector by sector (R189, R190) -/

/-- `t` is `s` after the copy of the `i`-th sector from `src` to `dst`: in an open domain its 64 bytes are those of its source, the bytes before it and
those from `stop` on are as before, and the agents are the same. -/
structure State.CopiesSector (s t : State) (d : BitVec 16) (src dst stop i : Nat) : Prop extends s.SameAgents t where
  outside : ∀ k, k < dst + 64 * i ∨ stop ≤ k → t.mem.read k = s.mem.read k
  copied : s.sealed d = false → ∀ j < 64, t.mem.read (dst + 64 * i + j) = s.mem.read (src + 64 * i + j)

/-- `t` is `s` after the copy of the first `m` sectors from `src` to `dst`. -/
structure State.CopiesSectors (s t : State) (d : BitVec 16) (src dst stop m : Nat) : Prop extends s.SameAgents t where
  outside : ∀ k, k < dst ∨ stop ≤ k → t.mem.read k = s.mem.read k
  copied : s.sealed d = false → ∀ i < 64 * m, t.mem.read (dst + i) = s.mem.read (src + i)

/-- Sectors copied one after the other to a place apart from their source are copied. -/
theorem copiesSectors_foldl {f : State → Nat → State} {d : BitVec 16} {src dst stop n : Nat} (hs : ∀ i < 64 * n, src + i < dst ∨ stop ≤ src + i)
    (hf : ∀ (t : State) (i : Nat), i < n → t.CopiesSector (f t i) d src dst stop i) (s : State) :
    ∀ m ≤ n, s.CopiesSectors ((List.range m).foldl f s) d src dst stop m
  | 0, _ => ⟨.refl s, fun _ _ => rfl, fun _ _ hi => absurd hi (by omega)⟩
  | m + 1, hm => by
    have ih := copiesSectors_foldl hs hf s m (by omega)
    rw [List.range_succ, List.foldl_append, List.foldl_cons, List.foldl_nil]
    generalize (List.range m).foldl f s = t at ih
    have hc := hf t m (by omega)
    refine ⟨ih.toSameAgents.trans hc.toSameAgents, fun k hk => (hc.outside k (by omega)).trans (ih.outside k hk), fun ho i hi => ?_⟩
    by_cases him : i < 64 * m
    · exact (hc.outside _ (by omega)).trans (ih.copied ho i him)
    · obtain ⟨j, rfl⟩ := Nat.exists_eq_add_of_le (Nat.not_lt.mp him)
      have := hc.copied ((ih.toSameAgents.sealed d).trans ho) j (by omega)
      rw [← Nat.add_assoc, ← Nat.add_assoc, this]
      exact ih.outside _ (by have := hs (64 * m + j) (by omega); omega)

theorem hostForm_length (s : State) (d : BitVec 16) (va : Nat) (bs : List Byte) : (s.hostForm d va bs).length = bs.length := by
  unfold State.hostForm Config.cipher
  split <;> simp

theorem hostForm_open {s : State} {d : BitVec 16} (h : s.sealed d = false) (va : Nat) (bs : List Byte) : s.hostForm d va bs = bs := by
  simp [State.hostForm, h]

/-- A sector goes to its place in host memory, and its MAC to the eighth of a page after it (R189). -/
theorem sectorOut_copies (s : State) (d : BitVec 16) (page frame host version : Nat) {n i : Nat} (hi : i < n / 64) :
    s.CopiesSector (s.sectorOut d page n frame host version i) d (hbmKey frame) (Space.host.base + host) (Space.host.base + host + n + n / 8) i := by
  have outside : ∀ k, k < Space.host.base + host + 64 * i + 64 ∨ Space.host.base + host + n + n / 8 ≤ k →
      (s.sectorOut d page n frame host version i).mem.read k =
        (s.mem.writeN (Space.host.base + host + 64 * i) (s.hostForm d (page + 64 * i) (s.mem.readN (hbmKey frame + 64 * i) 64))).read k :=
    fun k hk => mem_read_writeN_outside _ _ _ (by rw [leBytes_length]; omega)
  refine ⟨⟨rfl, rfl, rfl, rfl, rfl⟩, fun k hk => ?_, fun ho j hj => ?_⟩
  · exact (outside k (by omega)).trans (mem_read_writeN_outside _ _ _ (by rw [hostForm_length, mem_readN_length]; omega))
  · rw [outside _ (by omega), hostForm_open ho]
    exact mem_read_copied _ _ _ _ _ hj

/-- A sector comes back as its bytes and, where its page fails its check, a mark (R190). -/
theorem sectorIn_eq (s : State) (d : BitVec 16) (page frame host : Nat) (bad : Bool) (i : Nat) :
    ∃ u : State, u.OnlyMarks (s.sectorIn d page frame host bad i) ∧ s.SameAgents u ∧
      u.mem = s.mem.writeN (hbmKey frame + 64 * i) (s.hostForm d (page + 64 * i) (s.mem.readN (Space.host.base + host + 64 * i) 64)) := by
  unfold State.sectorIn
  extract_lets src dst u
  refine ⟨u, ?_, ⟨rfl, rfl, rfl, rfl, rfl⟩, rfl⟩
  split
  · exact .refl u
  · split
    · exact (markPoison_marks u _ _ _ _ _ _).toOnlyMarks
    · exact (markPoison_marks u _ _ _ _ _ _).toOnlyMarks

/-- A sector comes back from host memory to its place in a frame (R190). -/
theorem sectorIn_copies (s : State) (d : BitVec 16) (page frame host : Nat) (bad : Bool) {n i : Nat} (hi : i < n / 64) :
    s.CopiesSector (s.sectorIn d page frame host bad i) d (Space.host.base + host) (hbmKey frame) (hbmKey frame + n) i := by
  obtain ⟨u, hm, hs, hu⟩ := sectorIn_eq s d page frame host bad i
  refine ⟨hs.trans hm.toSameAgents, fun k hk => ?_, fun ho j hj => ?_⟩
  · rw [hm.mem, hu]
    exact mem_read_writeN_outside _ _ _ (by rw [hostForm_length, mem_readN_length]; omega)
  · rw [hm.mem, hu, hostForm_open ho]
    exact mem_read_copied _ _ _ _ _ hj

/-! ### Places of pages (R44, R167, R170) -/

/-- A page is a whole number of sectors, of at most 4 GiB (R168). -/
theorem pageSize_bounds (size : Nat) : 64 ∣ pageSize size ∧ pageSize size ≤ 2 ^ 32 := by
  unfold pageSize
  split <;> decide

/-- The frame that an entry names lies below 2^39 (R170). -/
theorem pteFrame_lt (e : Nat) : pteFrame e < 2 ^ 39 := by
  unfold pteFrame
  omega

/-- A leaf that a walk from a table below 2^39 finds names a frame there, and stands in a table there. -/
theorem walkFrom_leaf_below {s : State} {va page size f at' pte : Nat} : ∀ level {table : Nat}, table < 2 ^ 39 →
    walkFrom s va level table = .leaf page size f at' pte → f < 2 ^ 39 ∧ at' < 2 ^ 39 + 2 ^ 12
  | 0, _, _, h => by simp [walkFrom] at h
  | level + 1, table, ht, h => by
    simp only [walkFrom] at h
    split at h
    · cases h
    · split at h
      · cases h
      · split at h
        · exact walkFrom_leaf_below level (pteFrame_lt _) h
        · split at h
          · split at h
            · cases h
            · cases h
              exact ⟨pteFrame_lt _, by omega⟩
          · split at h
            · cases h
            · split at h <;> cases h

/-- The entries of a run of a leaf there lie below 2^40. -/
theorem mem_runOf_below {size at' a : Nat} (h : a ∈ runOf size at') (hat : at' < 2 ^ 39 + 2 ^ 12) : a < 2 ^ 40 := by
  obtain ⟨i, hi, rfl⟩ := mem_runOf h
  have hn : pageSize size / entrySpan (pageLevel size) ≤ 2 ^ 32 := (Nat.div_le_self _ _).trans (pageSize_bounds size).2
  omega

end Sys2Proof.Machine
end

section
/-! SUPPORT. The events of the translation-fault service and of first touch: migration, host-resident pages, pools, invalidates and the answers to a fault
message (R178-R190). -/

namespace Sys2Proof.Machine

open Sys2Proof

/-! ### Migration (R186, R187) -/

/-- R186 step 1: mig = 1 in the run, the page's bytes in the new frame, nothing of it held, and the move noted. -/
theorem pageMigration_starts {s : State} {va frame page size old at' pte : Nat} (hw : inWindow va = false)
    (hl : s.walk va = .leaf page size old at' pte) (ho : RunApart size at' old) (hf : s.frameFree frame (pageSize size) = true)
    (hn : RunApart size at' frame) :
    ∃ t : State, exec (.pageMigration va frame) s = .next t ∧ t.RunIs size at' (pte + 2 ^ 10) ∧
      (∀ i < pageSize size, t.mem.read (hbmKey frame + i) = s.mem.read (hbmKey old + i)) ∧ t.TlbClear page (pageSize size) ∧
      t.paging.moving = s.paging.moving ++ [(page, size, frame)] := by
  have hm := (readFrames_onlyMarks s old (pageSize size)).trans (retireFrame_onlyMarks _ old (pageSize size))
  generalize hu : (s.readFrames old (pageSize size)).retireFrame old (pageSize size) = u at hm
  obtain ⟨hrun, htlb, hmov, -, hmem⟩ := startMove_moves u page size at' pte frame false
  generalize hv : u.startMove page size at' pte frame false = v at hrun htlb hmov hmem
  obtain ⟨hp, hcopy, hrest⟩ := moveBytes_copies v (hbmKey old) (hbmKey frame) (pageSize size)
  have he : exec (.pageMigration va frame) s = .next (v.moveBytes (hbmKey old) (hbmKey frame) (pageSize size)) := by
    show execPageMigration va frame s = _
    simp [execPageMigration, hw, hl, hf, hu, hv]
  refine ⟨_, he, runIs_congr hrun fun k hk => hrest k ?_, fun i hi => ?_, ?_, ?_⟩
  · by_contra hc
    obtain ⟨i, rfl⟩ := Nat.exists_eq_add_of_le (show hbmKey frame ≤ k by omega)
    exact hk (outsideRun_frame hn (by omega))
  · rw [hcopy i hi, hmem _ (outsideRun_frame ho hi), hm.mem]
  · rwa [State.TlbClear, hp]
  · rw [hp, hmov, hm.paging]

/-- R186 step 3: the last form of the run names the new frame, nothing of the page is held, and the move is over. -/
theorem pageMigration_ends {s : State} (h : s.NoHeld) {va frame page size at' pte : Nat} (hw : inWindow va = false)
    (hl : s.walk va = .hold page size at' pte) (hm : (page, size, frame) ∈ s.paging.moving) :
    ∃ t : State, exec (.pageMigration va frame) s = .next t ∧ t.RunIs size at' (3 + 4 * size + pteKept pte + frame + pteVersion pte * 2 ^ 48) ∧
      t.paging.moving = s.paging.moving.erase (page, size, frame) ∧ t.TlbClear page (pageSize size) := by
  have hu : (s.leaveFrame (pteFrame pte) frame (pageSize size)).NoHeld := h.of_same rfl rfl rfl
  refine ⟨_, ?_, endMove_moved hu page size at' (3 + 4 * size + pteKept pte + frame + pteVersion pte * 2 ^ 48) frame⟩
  show execPageMigration va frame s = _
  simp [execPageMigration, hw, hl, hm]

/-! ### Host-resident pages (R189, R190) -/

/-- A byte of a frame lies below host memory. -/
theorem hbmKey_below_host {k : Nat} (h : k < 2 ^ 80) (host : Nat) : hbmKey k < Space.host.base + host := by
  simp only [hbmKey, Space.base]
  omega

theorem pageSize_sectors (size : Nat) : 64 * (pageSize size / 64) = pageSize size := Nat.mul_div_cancel' (pageSize_bounds size).1

/-- The sectors of a page of a frame go to host memory (R189). -/
theorem sectorsOut_copies (s : State) (d : BitVec 16) (page size host version : Nat) {old : Nat} (h : old < 2 ^ 39) :
    s.CopiesSectors ((List.range (pageSize size / 64)).foldl (fun t i => t.sectorOut d page (pageSize size) old host version i) s) d (hbmKey old)
      (Space.host.base + host) (Space.host.base + host + pageSize size + pageSize size / 8) (pageSize size / 64) := by
  refine copiesSectors_foldl (fun i hi => .inl ?_) (fun t i hi => sectorOut_copies t d page old host version hi) s _ le_rfl
  rw [pageSize_sectors] at hi
  have hb := hbmKey_below_host (k := old + i) (by have := (pageSize_bounds size).2; omega) host
  simp only [hbmKey] at hb ⊢
  omega

/-- The sectors of a host-resident page go to a zeroed frame (R190). -/
theorem sectorsIn_copies (s : State) (d : BitVec 16) (page size host : Nat) (bad : Bool) {frame : Nat} (h : frame + pageSize size ≤ 2 ^ 39) :
    s.CopiesSectors ((List.range (pageSize size / 64)).foldl (fun t i => t.sectorIn d page frame host bad i) (s.zeroRange (hbmKey frame) (pageSize size))) d
      (Space.host.base + host) (hbmKey frame) (hbmKey frame + pageSize size) (pageSize size / 64) := by
  have apart : ∀ i, hbmKey frame + pageSize size ≤ Space.host.base + host + i := fun i => by
    have hb := hbmKey_below_host (k := frame + pageSize size) (by omega) host
    simp only [hbmKey] at hb ⊢
    omega
  have hz : ∀ k, k < hbmKey frame ∨ hbmKey frame + pageSize size ≤ k → (s.zeroRange (hbmKey frame) (pageSize size)).mem.read k = s.mem.read k :=
    fun k hk => (mem_read_zero _ _ _ _).trans (if_neg (by omega))
  have hsame : s.SameAgents (s.zeroRange (hbmKey frame) (pageSize size)) := ⟨rfl, rfl, rfl, rfl, rfl⟩
  have hc := copiesSectors_foldl (fun i _ => .inr (apart i)) (fun t i hi => sectorIn_copies t d page frame host bad hi)
    (s.zeroRange (hbmKey frame) (pageSize size)) _ le_rfl
  exact ⟨hsame.trans hc.toSameAgents, fun k hk => (hc.outside k hk).trans (hz k hk),
    fun ho i hi => (hc.copied ((hsame.sealed d).trans ho) i hi).trans (hz _ (.inr (apart i)))⟩

/-- R189, first event: mig = 1 in the run, nothing of the page held, the move noted, and the bytes of a page of an open domain in host memory. -/
theorem pageOutToHost_starts {s : State} {va host page size old at' pte : Nat} (hw : inWindow va = false)
    (hl : s.walk va = .leaf page size old at' pte) (ho : RunApart size at' old) (ha : host % 4096 = 0) (hh : host < 2 ^ 48) (hroot : s.paging.root < 2 ^ 39) :
    ∃ t : State, exec (.pageOutToHost va host) s = .next t ∧ t.RunIs size at' (pte + 2 ^ 10) ∧ t.TlbClear page (pageSize size) ∧
      t.paging.moving = s.paging.moving ++ [(page, size, 2 ^ 48 + host)] ∧
      (s.sealed (s.pageDomain page (pageSize size)) = false → ∀ i < pageSize size, t.mem.read (Space.host.base + host + i) = s.mem.read (hbmKey old + i)) := by
  obtain ⟨hold, hat⟩ := walkFrom_leaf_below 4 hroot hl
  have hmark := readFrames_onlyMarks s old (pageSize size)
  generalize hu : s.readFrames old (pageSize size) = u at hmark
  obtain ⟨hrun, htlb, hmov, htrust, hmem⟩ := startMove_moves u page size at' pte (2 ^ 48 + host) true
  generalize hv : u.startMove page size at' pte (2 ^ 48 + host) true = v at hrun htlb hmov htrust hmem
  have hcopy := sectorsOut_copies v (s.pageDomain page (pageSize size)) page size host ((pteVersion pte + 1) % 2 ^ 16) hold
  generalize hx : (List.range (pageSize size / 64)).foldl _ v = x at hcopy
  have hret := retireFrame_onlyMarks x old (pageSize size)
  refine ⟨x.retireFrame old (pageSize size), ?_, runIs_congr hrun fun k hk => ?_, ?_, ?_, fun hs i hi => ?_⟩
  · show execPageOutToHost va host s = _
    have hh' : ¬ 2 ^ 48 ≤ host := Nat.not_le.mpr hh
    simp only [execPageOutToHost, hw, hl, ha, hu, hv, hx, hh', ne_eq, not_true_eq_false, decide_false, Bool.or_self, Bool.false_eq_true, if_false]
  · rw [hret.mem]
    refine hcopy.outside k (.inl ?_)
    by_contra hc
    refine hk fun a haa => .inr ?_
    have hb := hbmKey_below_host (k := a + 8) (by have := mem_runOf_below haa hat; omega) host
    simp only [hbmKey] at hb ⊢
    omega
  · rwa [State.TlbClear, hret.paging, hcopy.paging]
  · rw [hret.paging, hcopy.paging, hmov, hmark.paging]
  · have hsv : v.sealed (s.pageDomain page (pageSize size)) = false := by
      rw [State.sealed, htrust, hmark.descriptors]
      exact hs
    rw [hret.mem, hcopy.copied hsv i (by rwa [pageSize_sectors]), hmem _ (outsideRun_frame ho hi), hmark.mem]

/-- R189, second event: the last form of the run names the host address and the next version, and the move is over. -/
theorem pageOutToHost_ends {s : State} (h : s.NoHeld) {va host page size at' pte : Nat} (hw : inWindow va = false)
    (hl : s.walk va = .hold page size at' pte) (ha : host % 4096 = 0) (hh : host < 2 ^ 48) (hm : (page, size, 2 ^ 48 + host) ∈ s.paging.moving) :
    ∃ t : State, exec (.pageOutToHost va host) s = .next t ∧
      t.RunIs size at' (2 + 4 * size + 2 ^ 7 + pteKept pte + host + (pteVersion pte + 1) % 2 ^ 16 * 2 ^ 48) ∧
      t.paging.moving = s.paging.moving.erase (page, size, 2 ^ 48 + host) := by
  obtain ⟨hr, hmov, -⟩ :=
    endMove_moved h page size at' (2 + 4 * size + 2 ^ 7 + pteKept pte + host + (pteVersion pte + 1) % 2 ^ 16 * 2 ^ 48) (2 ^ 48 + host)
  refine ⟨_, ?_, hr, hmov⟩
  show execPageOutToHost va host s = _
  have hh' : ¬ 2 ^ 48 ≤ host := Nat.not_le.mpr hh
  have hm' : s.paging.moving.contains (page, size, 2 ^ 48 + host) = true := List.contains_iff_mem.mpr hm
  simp only [execPageOutToHost, hw, hl, ha, hh', hm', ne_eq, not_true_eq_false, decide_false, Bool.or_self, Bool.false_eq_true, if_false, if_true]

/-- A frame that a page may be given lies in HBM4 (R44). -/
theorem frameFree_below {s : State} {frame n : Nat} (h : s.frameFree frame n = true) : frame + n ≤ 2 ^ 39 := by
  simp only [State.frameFree, Bool.and_eq_true, decide_eq_true_eq, Config.frameEnd] at h
  obtain ⟨⟨⟨⟨⟨-, hb⟩, -⟩, -⟩, -⟩, -⟩ := h
  exact (of_decide_eq_true hb).trans (Nat.sub_le _ _)

/-- The state in which no request waits on a page of a range any more. -/
def State.endWaits (s : State) (va span : Nat) : State :=
  { s with paging := { s.paging with waits := s.paging.waits.filter fun w => !(w.page < va + span && va < w.page + w.span) } }

theorem mem_endWaits {s : State} {va span : Nat} {w : PageWait} (h : w ∈ (s.endWaits va span).paging.waits) :
    w.page + w.span ≤ va ∨ va + span ≤ w.page :=
  (not_meets_iff ..).mp (List.mem_filter.mp h).2

/-- R190: the run names the frame, which has the bytes of a page of an open domain; the page's waits are over, and a page that fails its check is recorded
in the log of its domain. -/
theorem pageInFromHost_installs {s : State} (h : s.NoHeld) {va frame page span at' pte : Nat} (hl : s.walk va = .bad 1 page span at' pte)
    (hf : s.frameFree frame (pageSize (pteSize pte)) = true) (hn : RunApart (pteSize pte) at' frame) :
    let size := pteSize pte
    let d := s.pageDomain page (pageSize size)
    ∃ t : State, exec (.pageInFromHost va frame) s = .next t ∧ t.RunIs size at' (3 + 4 * size + pteKept pte + frame + pteVersion pte * 2 ^ 48) ∧
      (s.sealed d = false → ∀ i < pageSize size, t.mem.read (hbmKey frame + i) = s.mem.read (Space.host.base + pteHost pte + i)) ∧
      (∀ w ∈ t.paging.waits, w.page + w.span ≤ page ∨ page + pageSize size ≤ w.page) ∧
      (s.hostPasses d page (pageSize size) (pteHost pte) (pteVersion pte) = false → ∃ x ∈ t.trust.pending, x.domain = d ∧ x.payload = [2, page]) := by
  intro size d
  generalize hb : (!(s.hostPasses d page (pageSize size) (pteHost pte) (pteVersion pte))) = bad
  have hcopy := sectorsIn_copies s d page size (pteHost pte) bad (frameFree_below hf)
  generalize hx : (List.range (pageSize size / 64)).foldl _ _ = x at hcopy
  generalize hvv : 3 + 4 * size + pteKept pte + frame + pteVersion pte * 2 ^ 48 = v
  have hrun := setRun_runIs x size at' v
  have hrest := fun k => setRun_read_outside x (size := size) (at' := at') (v := v) (k := k)
  have hsame := setRun_sameAgents x size at' v
  generalize hy : x.setRun size at' v = y at hrun hrest hsame
  have hlog : y.OnlyMarks (if bad then y.postItem d 3 1 false 0 [2, page] else y) := by
    split
    · exact ⟨⟨rfl, rfl, rfl, rfl, rfl⟩, rfl⟩
    · exact .refl y
  have hitem : bad = true → ∃ i ∈ (if bad then y.postItem d 3 1 false 0 [2, page] else y).trust.pending, i.domain = d ∧ i.payload = [2, page] := by
    rintro rfl
    exact ⟨_, List.mem_append_right _ List.mem_cons_self, rfl, rfl⟩
  generalize hw : (if bad then y.postItem d 3 1 false 0 [2, page] else y) = w at hlog hitem
  have hhost : (w.endWaits page (pageSize size)).host.waiting = [] :=
    (congrArg HostPort.waiting (hlog.host.trans (hsame.host.trans hcopy.host))).trans h.host
  refine ⟨w.endWaits page (pageSize size), ?_, runIs_congr hrun fun k _ => ?_, fun ho i hi => ?_, fun o ho => mem_endWaits ho, fun hp => hitem ?_⟩
  · show execPageInFromHost va frame s = _
    have hf' : (!s.frameFree frame (pageSize (pteSize pte))) = false := by rw [hf]; rfl
    simp only [execPageInFromHost, hl, hf', Bool.false_eq_true, if_false]
    rw [← wakeHost_idle hhost, State.endWaits, ← hw, ← hy, ← hx, ← hvv, ← hb]
  · exact congrArg (Memory.read · k) hlog.mem
  · exact (congrArg (Memory.read · _) hlog.mem).trans
      ((hrest _ (outsideRun_frame hn hi)).trans (hcopy.copied ho i (by rwa [pageSize_sectors])))
  · rw [← hb, hp]
    rfl

end Sys2Proof.Machine
end

section
/-! SUPPORT. Waits on pages and their answers, first touch, and the requests of a Station core to a controller (R123, R176, R178-R185, R435). -/

namespace Sys2Proof.Machine

open Sys2Proof

/-! ### First touch and its pools (R178, R179) -/

/-- The first-touch unit writes the entry of the run from the first clean frame of the pool. -/
theorem firstTouchService_installs {s : State} (h : s.NoHeld) {die va page size at' pte : Nat} {p : Nat × Nat × Nat} (hw : s.walk va = .touch page size at' pte)
    (hp : s.paging.pools.find? (fun p => decide (p.1 = die) && decide (p.2.1 = size) && s.frameClean p.2.2 (pageSize size)) = some p) :
    ∃ t : State, exec (.firstTouchService die va) s = .next t ∧ t.RunIs size at' (touchedEntry pte p.2.2) ∧ t.paging.pools = s.paging.pools.erase p ∧
      t.tile = s.tile := by
  have hs := setRun_sameAgents s size at' (touchedEntry pte p.2.2)
  have hr := setRun_runIs s size at' (touchedEntry pte p.2.2)
  have he : exec (.firstTouchService die va) s = .next (({ s.setRun size at' (touchedEntry pte p.2.2) with
      paging := { (s.setRun size at' (touchedEntry pte p.2.2)).paging with pools := s.paging.pools.erase p } } : State).wakeHost) := by
    show execFirstTouchService die va s = _
    simp only [execFirstTouchService, hw, State.firstTouch, hp, hs.paging]
  rw [wakeHost_idle (by exact hs.host ▸ h.host)] at he
  exact ⟨_, he, hr, rfl, hs.tile⟩

/-- Without a clean frame of the size nothing is installed. -/
theorem firstTouchService_empty {s : State} {die va page size at' pte : Nat} (hw : s.walk va = .touch page size at' pte)
    (hp : s.paging.pools.find? (fun p => decide (p.1 = die) && decide (p.2.1 = size) && s.frameClean p.2.2 (pageSize size)) = none) :
    exec (.firstTouchService die va) s = .next s := by
  show execFirstTouchService die va s = _
  simp only [execFirstTouchService, hw, State.firstTouch, hp]

/-- A pool is refilled with a frame whose bytes are 0. -/
theorem firstTouchPoolRefill_zeroes {s : State} {die size frame : Nat} (hd : die < 4) (hs : size ≤ 11) (hf : s.frameFree frame (pageSize size) = true) :
    ∃ t : State, exec (.firstTouchPoolRefill die size frame) s = .next t ∧ t.paging.pools = s.paging.pools ++ [(die, size, frame)] ∧
      (∀ i < pageSize size, t.mem.read (hbmKey frame + i) = 0) ∧
      ∀ k, k < hbmKey frame ∨ hbmKey frame + pageSize size ≤ k → t.mem.read k = s.mem.read k := by
  refine ⟨{ s.zeroRange (hbmKey frame) (pageSize size) with paging := { s.paging with pools := s.paging.pools ++ [(die, size, frame)] } }, ?_, rfl,
    fun i hi => (mem_read_zero _ _ _ _).trans (if_pos (by omega)), fun k hk => (mem_read_zero _ _ _ _).trans (if_neg (by omega))⟩
  show execFirstTouchPoolRefill die size frame s = _
  have hd' : ¬ 4 ≤ die := Nat.not_le.mpr hd
  have hs' : ¬ 11 < size := Nat.not_lt.mpr hs
  simp [execFirstTouchPoolRefill, hd', hs', hf]

/-! ### Fault messages and their answers (R180-R184) -/

/-- The words of the message of a wait that has a reason (R180). -/
theorem words_of_reason {w : PageWait} {reason : Nat} (h : w.reason = some reason) :
    w.words = [BitVec.ofNat 64 (w.va + reason * 2 ^ 48 + w.access * 2 ^ 52), BitVec.ofNat 64 (w.slice + w.principal * 2 ^ 32),
      BitVec.ofNat 64 (w.buffer + w.generation.toNat * 2 ^ 24 + w.domain.toNat * 2 ^ 40), w.entry] := by
  rw [PageWait.words, h]
  rfl

/-- The message of a wait that has a reason reaches its Station core, once (R180). -/
theorem faultMessage_sends {s : State} {n reason : Nat} {w : PageWait} (hw : s.paging.waits[n]? = some w) (hr : w.received = false)
    (hx : w.reason = some reason) :
    ∃ t : State, exec (.faultMessage n) s = .next t ∧ t.stationFaults = s.stationFaults ++ [(faultCore w.va, w.words)] ∧
      { w with received := true } ∈ t.paging.waits ∧ t.tile = s.tile ∧ t.mem = s.mem := by
  have he : exec (.faultMessage n) s = .next { s with
      paging := { s.paging with waits := s.paging.waits.map fun o => if o = w then { o with received := true } else o }
      stationFaults := s.stationFaults ++ [(faultCore w.va, w.words)] } := by
    show execFaultMessage n s = _
    simp [execFaultMessage, hw, hr, hx]
  exact ⟨_, he, rfl, List.mem_map.mpr ⟨w, List.mem_of_getElem? hw, if_pos rfl⟩, rfl, rfl⟩

/-- A wait on a migration sends none (R187). -/
theorem faultMessage_none {s : State} {n : Nat} {w : PageWait} (hw : s.paging.waits[n]? = some w) (hr : w.reason = none) :
    exec (.faultMessage n) s = .next s := by
  show execFaultMessage n s = _
  simp [execFaultMessage, hw, hr]

/-- The state in which a wait on a page is over. -/
def State.dropWait (s : State) (w : PageWait) : State := { s with paging := { s.paging with waits := s.paging.waits.erase w } }

/-- Retry (R181): the wait is over. -/
theorem faultAnswerRetry_ends {s : State} (h : s.NoHeld) {n : Nat} {w : PageWait} (hw : s.paging.waits[n]? = some w) (hr : w.received = true) :
    exec (.faultAnswerRetry n) s = .next (s.dropWait w) := by
  show execFaultAnswerRetry n s = _
  simp only [execFaultAnswerRetry, hw, hr, if_true]
  exact congrArg Host.Outcome.next (wakeHost_idle (s := s.dropWait w) h.host)

/-- A change of tiles that keeps their indexes is found at each index. -/
theorem tileAt_mapTiles {s : State} {p : Tile → Bool} {f : Tile → Tile} (hf : ∀ u, (f u).index = u.index) {i : Nat} {u : Tile} (h : s.tileAt i = some u) :
    (s.mapTiles p f).tileAt i = some (if p u then f u else u) := by
  have hg : ∀ u : Tile, (if p u then f u else u).index = u.index := fun u => by split <;> simp [hf]
  unfold State.tileAt at h ⊢
  simp only [State.mapTiles, hg]
  split at h
  · next hi =>
    cases h
    rw [if_pos hi]
  · next hi =>
    rw [if_neg hi, List.find?_map]
    simp only [Function.comp_def, hg, h, Option.map_some]

/-- What a Deny answer does to a tile (R182): a wait that it meets has its answer. -/
def Tile.denied (t : Tile) : Tile := { t with wait := t.wait.map fun o => if o.kind.faultWait then { o with denied := true } else o }

/-- Without posted requests, a Deny answer reaches the tiles that the wait names. -/
theorem denyTiles_eq {s : State} (hq : s.requests = []) (w : PageWait) :
    s.denyTiles w = s.mapTiles (fun t => w.who.contains (.tile t.index t.unitKey)) Tile.denied := by
  simp only [State.denyTiles, hq, List.any_nil, Bool.and_false, Bool.or_false]
  rfl

/-- A change of tiles that keeps their jobs leaves none where there was none. -/
theorem mapTiles_jobs {s : State} {p : Tile → Bool} {f : Tile → Tile} (hf : ∀ u, (f u).jobs = u.jobs) (hj : ∀ u ∈ s.allTiles, u.jobs = []) :
    ∀ u ∈ (s.mapTiles p f).allTiles, u.jobs = [] := by
  have hg : ∀ u : Tile, (if p u then f u else u).jobs = u.jobs := fun u => by split <;> simp [hf]
  have ht : (s.mapTiles p f).allTiles = s.allTiles.map fun u => if p u then f u else u := rfl
  intro u hu
  obtain ⟨v, hv, rfl⟩ := List.mem_map.mp (ht ▸ hu)
  exact (hg v).trans (hj v hv)

theorem denyJobs_idle {s : State} (hj : ∀ u ∈ s.allTiles, u.jobs = []) (w : PageWait) : s.denyJobs w = s := by
  unfold State.denyJobs
  extract_lets hit
  have hn : (s.allTiles.flatMap fun t => t.jobs.filter hit) = [] := List.flatMap_eq_nil_iff.mpr fun u hu => by rw [hj u hu]; rfl
  rw [hn]
  rfl

/-- Deny (R181, R182, R184): the tiles that wait have their answer, and with no request, job or host access that waits nothing else happens. -/
theorem faultAnswerDeny_eq {s : State} (h : s.NoHeld) {n : Nat} {w : PageWait} (hw : s.paging.waits[n]? = some w) (hr : w.received = true)
    (hq : s.requests = []) (hc : s.controls = []) (hj : ∀ u ∈ s.allTiles, u.jobs = []) :
    exec (.faultAnswerDeny n) s = .next ((s.mapTiles (fun t => w.who.contains (.tile t.index t.unitKey)) Tile.denied).dropWait w) := by
  rw [← denyTiles_eq hq w]
  have hposted : ((s.denyTiles w).dropWait w).denyPosted w = (s.denyTiles w).dropWait w := by
    have : ((s.denyTiles w).dropWait w).requests = [] := hq
    simp [State.denyPosted, this]
  have hgrants : ((s.denyTiles w).dropWait w).denyGrants w = (s.denyTiles w).dropWait w := by
    have : ((s.denyTiles w).dropWait w).controls = [] := hc
    simp [State.denyGrants, this]
  have hjobs : ((s.denyTiles w).dropWait w).denyJobs w = (s.denyTiles w).dropWait w := by
    refine denyJobs_idle (s := (s.denyTiles w).dropWait w) ?_ w
    rw [denyTiles_eq hq w]
    exact mapTiles_jobs (p := fun t => w.who.contains (.tile t.index t.unitKey)) (f := Tile.denied) (fun _ => rfl) hj
  have hhost : ((s.denyTiles w).dropWait w).host.waiting = [] := h.host
  calc exec (.faultAnswerDeny n) s
      = .next (let u := ((((s.denyTiles w).dropWait w).denyPosted w).denyGrants w).denyJobs w
          (if w.who.contains .host then (u.host.waiting.take 1).foldl State.failHost u else u).wakeHost) := by
        show execFaultAnswerDeny n s = _
        simp only [execFaultAnswerDeny, hw, hr, Bool.not_true, Bool.false_eq_true, if_false]
        rfl
    _ = .next ((s.denyTiles w).dropWait w) := by
        rw [hposted, hgrants, hjobs]
        dsimp only
        rw [hhost, List.take_nil, List.foldl_nil, ite_self, wakeHost_idle hhost]

/-! ### Invalidates (R185) -/

/-- An invalidate drops what meets its range and keeps the rest. -/
theorem translationInvalidate_drops {s : State} (h : s.NoHeld) {va span : Nat} (dropL2 : Bool) (hv : va % 4096 = 0) (hs : span % 4096 = 0) :
    ∃ t : State, exec (.translationInvalidate va span dropL2) s = .next t ∧ t.TlbClear va span ∧
      (∀ x ∈ s.paging.tlb, (x.va + pageSize x.size ≤ va ∨ va + span ≤ x.va) → x ∈ t.paging.tlb) ∧
      (∀ w ∈ t.paging.waits, w.page + w.span ≤ va ∨ va + span ≤ w.page) ∧ (dropL2 = false → t.paging.l2 = s.paging.l2) ∧
      (dropL2 = true → ∀ l ∈ t.paging.l2, l.line * 256 + 256 ≤ va ∨ va + span ≤ l.line * 256) ∧ t.tile = s.tile ∧ t.mem = s.mem := by
  obtain ⟨sp, hr⟩ := release_idle h va span dropL2
  have he : exec (.translationInvalidate va span dropL2) s = .next { s.invalidate va span dropL2 with spores := sp } := by
    show execTranslationInvalidate va span dropL2 s = _
    simp only [execTranslationInvalidate, hv, hs, hr, ne_eq, not_true_eq_false, decide_false, Bool.or_self, Bool.false_eq_true, if_false]
  refine ⟨_, he, invalidate_tlbClear s va span dropL2, fun x hx ho => mem_invalidate_tlb.mpr ⟨hx, ho⟩, fun w hw => invalidate_waits s va span dropL2 hw,
    ?_, ?_, rfl, rfl⟩
  · rintro rfl
    rfl
  · rintro rfl
    exact fun l hl => invalidate_l2 s va span hl

/-! ### Requests to a controller (R22, R123, R438) -/

/-- A request for a byte that a buffer covers is not served (R22). -/
theorem hbm4Request_buffer {s : State} {pa : Nat} (hp : pa < 2 ^ 39) (hb : (s.bufferOfFrame pa).isSome = true) (w : Bool) (v : Word) :
    exec (.hbm4Request pa w v) s = .next s := by
  have hp' : ¬ Config.frameEnd ≤ pa := Nat.not_le.mpr hp
  have ha : ((List.range 8).any fun i => (s.bufferOfFrame (pa / 8 * 8 + i)).isSome) = true :=
    List.any_eq_true.mpr ⟨pa % 8, List.mem_range.mpr (Nat.mod_lt _ (by omega)), by rwa [Nat.div_add_mod']⟩
  show execHbm4Request pa w v s = _
  simp [execHbm4Request, hp', ha]

/-- The request of a Station core for eight bytes that no buffer covers, where no error waits. -/
theorem hbm4Request_serves {s : State} {pa : Nat} (hp : pa < 2 ^ 39) (hb : ∀ i < 8, s.bufferOfFrame (pa / 8 * 8 + i) = none) (ha : s.armed = [])
    (w : Bool) (v : Word) :
    exec (.hbm4Request pa w v) s = .next (if w then { s with mem := s.mem.writeN (hbmKey (pa / 8 * 8)) (leBytes 8 v.toNat) }.cleanFree (pa / 8 * 8)
      else { s with station := BitVec.ofNat 64 (leNat (s.mem.readN (hbmKey (pa / 8 * 8)) 8)) :: (if s.poisoned (hbmKey (pa / 8 * 8) / 64) then 1 else 0) :: s.station }) := by
  have hp' : ¬ Config.frameEnd ≤ pa := Nat.not_le.mpr hp
  have hn : ((List.range 8).any fun i => (s.bufferOfFrame (pa / 8 * 8 + i)).isSome) = false := by
    simpa using hb
  show execHbm4Request pa w v s = _
  simp only [execHbm4Request, hp', hn, readSector_unarmed ha, Bool.false_eq_true, if_false]
  cases w <;> rfl

/-- Eight aligned bytes lie in one sector. -/
theorem hbmKey_sector (k i : Nat) (hi : i < 8) : (hbmKey (k * 8) + i) / 64 = hbmKey (k * 8) / 64 := by
  simp only [hbmKey, Space.base]
  omega

/-- Bytes stored in a sector that is not poisoned clear no mark (R439). -/
theorem cleanFree_unpoisoned {s : State} (k : Nat) (h : s.poisoned (hbmKey (k * 8) / 64) = false) : s.cleanFree (k * 8) = s := by
  have hc : ∀ p ∈ (List.range 8).map fun i => (k * 8 + i, hbmKey (k * 8) + i), s.poisoned (p.2 / 64) = false := by
    intro p hp
    obtain ⟨i, hi, rfl⟩ := List.mem_map.mp hp
    rwa [hbmKey_sector k i (List.mem_range.mp hi)]
  simp [State.cleanFree, cleanBytes_unpoisoned hc, h]

/-- A byte of a word that was stored. -/
theorem mem_read_writeN_word (m : Memory) (key : Nat) (v : Word) {i : Nat} (hi : i < 8) :
    (m.writeN key (leBytes 8 v.toNat)).read (key + i) = v.extractLsb' (8 * i) 8 := by
  rw [mem_read_writeN_inside _ _ _ i (by simpa using hi), leBytes_getElem]
  apply BitVec.eq_of_toNat_eq
  simp [BitVec.extractLsb'_toNat, Nat.shiftRight_eq_div_pow]

/-- A write of a Station core stores its eight bytes and nothing else. -/
theorem hbm4Request_writes {s : State} {pa : Nat} (v : Word) (hp : pa < 2 ^ 39) (hb : ∀ i < 8, s.bufferOfFrame (pa / 8 * 8 + i) = none) (ha : s.armed = [])
    (hc : s.poisoned (hbmKey (pa / 8 * 8) / 64) = false) :
    ∃ t : State, exec (.hbm4Request pa true v) s = .next t ∧ (∀ i < 8, t.mem.read (hbmKey (pa / 8 * 8) + i) = v.extractLsb' (8 * i) 8) ∧
      (∀ k, k < hbmKey (pa / 8 * 8) ∨ hbmKey (pa / 8 * 8) + 8 ≤ k → t.mem.read k = s.mem.read k) ∧ t = { s with mem := t.mem } := by
  refine ⟨{ s with mem := s.mem.writeN (hbmKey (pa / 8 * 8)) (leBytes 8 v.toNat) }, ?_,
    fun i hi => mem_read_writeN_word _ _ v hi, fun k hk => mem_read_writeN_outside _ _ _ (by simpa using hk), rfl⟩
  rw [hbm4Request_serves hp hb ha true v, if_pos rfl]
  exact congrArg Host.Outcome.next (cleanFree_unpoisoned (s := { s with mem := s.mem.writeN (hbmKey (pa / 8 * 8)) (leBytes 8 v.toNat) }) (pa / 8) hc)

end Sys2Proof.Machine
end

section
/-! SUPPORT. The scrubs: every error of an array that waits is found (R122, R435-R438). -/

namespace Sys2Proof.Machine

open Sys2Proof

/-- How many errors wait in a sector. -/
def State.armedCount (s : State) (sector : Nat) : Nat := s.armed.countP fun a => a.item = .sector sector

theorem armedAt_some {s : State} {k : Nat} {a : ArmedError} (h : s.armedAt k = some a) : a ∈ s.armed ∧ a.item = .sector k :=
  ⟨List.mem_of_find?_eq_some h, by simpa using List.find?_some h⟩

/-- A read of a sector takes one of its errors, if any waits. -/
theorem detects_count {s t : State} {k : Nat} (h : s.Detects t k) : t.armedCount k ≤ s.armedCount k - 1 := by
  unfold State.armedCount
  rw [h.armed]
  have hsplit := List.countP_eq_countP_filter_add s.armed (fun a => decide (a.item = .sector k)) fun o => decide (some o ≠ s.armedAt k)
  cases ha : s.armedAt k with
  | none =>
    have h0 : s.armed.countP (fun a => decide (a.item = .sector k)) = 0 := List.countP_eq_zero.mpr fun a hm => List.find?_eq_none.mp ha a hm
    rw [ha] at hsplit
    omega
  | some a =>
    obtain ⟨hm, hi⟩ := armedAt_some ha
    rw [ha] at hsplit
    have hpos : 0 < (s.armed.filter fun o => !decide (some o ≠ some a)).countP fun a => decide (a.item = .sector k) :=
      List.countP_pos_iff.mpr ⟨a, List.mem_filter.mpr ⟨hm, by simp⟩, by simpa using hi⟩
    omega

/-- No read adds an error to those that wait. -/
theorem detects_count_le {s t : State} {k : Nat} (h : s.Detects t k) (j : Nat) : t.armedCount j ≤ s.armedCount j := by
  unfold State.armedCount
  rw [h.armed]
  exact List.filter_sublist.countP_le

/-- An uncorrectable error that waits goes on waiting, or has marked its sector. -/
theorem detects_waits_or_marks {s t : State} {k j : Nat} (h : s.Detects t k) {a : ArmedError} (ha : a ∈ s.armed) (hi : a.item = .sector j)
    (hu : a.uncorrectable = true) : a ∈ t.armed ∨ j ∈ t.poison.map PoisonMark.sector := by
  by_cases hf : s.armedAt k = some a
  · have hk : ErrorItem.sector j = .sector k := hi.symm.trans (armedAt_some hf).2
    cases hk
    exact .inr (h.marked a hf hu)
  · rw [h.armed]
    exact .inl (List.mem_filter.mpr ⟨ha, by simpa using Ne.symm hf⟩)

/-- `t` is `s` after reads of the sectors of keys, one after the other. -/
structure State.Scrubs (s t : State) (keys : List Nat) : Prop extends s.OnlyMarks t where
  count : ∀ k, t.armedCount k ≤ s.armedCount k - keys.countP fun key => key / 64 = k
  marks : ∀ a ∈ s.armed, ∀ k, a.item = .sector k → a.uncorrectable = true → a ∈ t.armed ∨ k ∈ t.poison.map PoisonMark.sector
  kept : ∀ k ∈ s.poison.map PoisonMark.sector, k ∈ t.poison.map PoisonMark.sector

theorem scrubs_foldl {f : State → Nat → State} : ∀ (keys : List Nat) (s : State), (∀ key ∈ keys, ∀ t : State, t.Detects (f t key) (key / 64)) →
    s.Scrubs (keys.foldl f s) keys
  | [], s, _ => ⟨.refl s, fun _ => Nat.le_refl _, fun _ ha _ _ _ => .inl ha, fun _ hk => hk⟩
  | key :: keys, s, hf => by
    have hd := hf key List.mem_cons_self s
    have ih := scrubs_foldl keys (f s key) fun x hx => hf x (List.mem_cons_of_mem _ hx)
    refine ⟨hd.toOnlyMarks.trans ih.toOnlyMarks, fun k => (ih.count k).trans ?_, fun a ha k hi hu => ?_, fun k hk => ih.kept k (hd.kept k hk)⟩
    · rw [List.countP_cons]
      by_cases hk : key / 64 = k
      · subst hk
        have := detects_count hd
        simp only [decide_true, if_true]
        omega
      · have := detects_count_le hd k
        simp only [hk, decide_false, Bool.false_eq_true, if_false]
        omega
    · rcases detects_waits_or_marks hd ha hi hu with ht | ht
      · exact ih.marks a ht k hi hu
      · exact .inr (ih.kept k ht)

/-- The sectors that a scrub reads are all those of its array in which errors wait. -/
theorem armedCount_le_armedIn (s : State) {p : Nat → Bool} {k : Nat} (hk : p (k * 64) = true) :
    s.armedCount k ≤ (s.armedIn p).countP fun key => key / 64 = k := by
  unfold State.armedCount State.armedIn
  rw [List.countP_filterMap]
  refine List.countP_mono_left fun a _ ha => ?_
  have hi : a.item = .sector k := by simpa using ha
  simp [hi, hk]

theorem mem_armedIn {s : State} {p : Nat → Bool} {key : Nat} (h : key ∈ s.armedIn p) : p key = true := by
  obtain ⟨a, -, ha⟩ := List.mem_filterMap.mp h
  split at ha
  · split at ha
    · next hp =>
      cases ha
      exact hp
    · cases ha
  · cases ha

/-- `t` is `s` after a scrub of an array, of which `mine` tells the sectors: no error of it waits, the uncorrectable ones have marked their sectors, and neither
memory nor the tile has changed. -/
structure State.Scrubbed (s t : State) (mine : Nat → Prop) : Prop where
  gone : ∀ a ∈ t.armed, ∀ k, a.item = .sector k → ¬ mine k
  mem : t.mem = s.mem
  tile : t.tile = s.tile
  marks : ∀ a ∈ s.armed, ∀ k, a.item = .sector k → mine k → a.uncorrectable = true → k ∈ t.poison.map PoisonMark.sector

/-- Reads of every sector in which an error of an array waits scrub the array. -/
theorem armedIn_scrubbed {f : State → Nat → State} {p : Nat → Bool} {mine : Nat → Prop} (hp : ∀ k, mine k ↔ p (k * 64) = true)
    (hf : ∀ key, p key = true → ∀ t : State, t.Detects (f t key) (key / 64)) (s : State) : s.Scrubbed ((s.armedIn p).foldl f s) mine := by
  have hs := scrubs_foldl (s.armedIn p) s fun key hkey => hf key (mem_armedIn hkey)
  have gone : ∀ a ∈ ((s.armedIn p).foldl f s).armed, ∀ k, a.item = .sector k → ¬ mine k := by
    intro a ha k hi hm
    have hc := hs.count k
    have hle := armedCount_le_armedIn s ((hp k).mp hm)
    have hpos : 0 < ((s.armedIn p).foldl f s).armedCount k := List.countP_pos_iff.mpr ⟨a, ha, by simpa using hi⟩
    omega
  exact ⟨gone, hs.mem, hs.tile, fun a ha k hi hm hu => (hs.marks a ha k hi hu).resolve_left fun ht => gone a ht k hi hm⟩

/-- The sectors of an HBM4 stack (R44, R122). -/
def sectorInStack (stk k : Nat) : Prop := hbmKey 0 ≤ k * 64 ∧ k * 64 < hbmKey (2 ^ 39) ∧ (k * 64 - hbmKey 0) / 256 % 8 = stk

theorem scrubHbm4_scrubs (s : State) (stk : Nat) : ∃ t : State, exec (.scrubHbm4 stk) s = .next t ∧ s.Scrubbed t (sectorInStack stk) := by
  refine ⟨_, rfl, armedIn_scrubbed (f := fun s k => s.readSector (k - hbmKey 0)) (fun k => ?_) (fun key hkey t => ?_) s⟩
  · show (hbmKey 0 ≤ k * 64 ∧ k * 64 < hbmKey Config.frameEnd ∧ _) ↔ _
    simp [and_assoc]
  · have hle : hbmKey 0 ≤ key := by
      simp only [Bool.and_eq_true, decide_eq_true_eq] at hkey
      exact hkey.1.1
    have hk : hbmKey (key - hbmKey 0) = key := by
      simp only [hbmKey] at hle ⊢
      omega
    have := readSector_detects t (key - hbmKey 0)
    rwa [hk] at this

/-- The sectors of a TMEM or CMEM array (R32, R42). -/
def sectorInBank (cmem : Bool) (n k : Nat) : Prop :=
  let h := if cmem then HomeId.cluster n else .tile n
  h.space.base ≤ k * 64 ∧ k * 64 < h.space.base + (if cmem then Config.cmemSize else Config.tmemSize)

theorem scrubSram_scrubs (s : State) (cmem : Bool) (n : Nat) : ∃ t : State, exec (.scrubSram cmem n) s = .next t ∧ s.Scrubbed t (sectorInBank cmem n) := by
  refine ⟨_, rfl, armedIn_scrubbed (fun k => ?_) (fun key _ t => ?_) s⟩
  · simp [sectorInBank]
  · split
    · exact detect_detects t _ _ _ _
    · exact detectFree_detects t _ _

end Sys2Proof.Machine
end

section
/-! SUPPORT. Walks for requests at a slice (R120, R171-R176). -/

namespace Sys2Proof.Machine

open Sys2Proof

theorem parityAt_unarmed {s : State} (h : s.armed = []) (slice : Nat) (p : ErrorItem → Bool) : s.parityAt slice p = none := by
  simp [State.parityAt, h]

/-- Where no error waits, the check at a slice changes its cache and the entry's dies alone (R120). -/
theorem sliceCheck_eq {s : State} (h : s.armed = []) (q : Claim) (a : Nat) :
    ∃ ds cs, s.sliceCheck q a = { s with dirs := ds, paging := { s.paging with checks := cs } } := by
  unfold State.sliceCheck
  cases q.home with
  | die d =>
    dsimp only
    rw [State.fillCheck, parityAt_unarmed h]
    dsimp only
    split
    · exact ⟨_, _, rfl⟩
    · exact ⟨_, _, rfl⟩
  | _ => exact ⟨_, _, rfl⟩

/-- A walk reads memory, the errors that wait and the marks, and nothing else. -/
theorem walkFrom_congr {s t : State} (hm : t.mem = s.mem) (ha : t.armed = s.armed) (hp : t.poison = s.poison) (va : Nat) :
    ∀ level table, walkFrom t va level table = walkFrom s va level table
  | 0, _ => rfl
  | level + 1, table => by
    have hpte : ∀ a, t.pte a = s.pte a := fun a => by rw [State.pte, State.pte, hm]
    have hlost : ∀ a, t.pteLost a = s.pteLost a := fun a => by rw [State.pteLost, State.pteLost, ha, hp]
    simp only [walkFrom, hpte, hlost, walkFrom_congr hm ha hp va level]

/-- How a translation that missed the TLB ends, by what its walk found (R171-R178). -/
theorem translate_walks {s : State} {q : Asker} {va : Nat} (hw : s.waiting (sliceOf q.die va) va = none) (ht : s.tlbHit (sliceOf q.die va) va = none)
    (hc : s.paging.walks = []) :
    (∀ u, s.readTwice (sliceOf q.die va) (s.walk va) = (none, u) → s.translate q va = (none, u)) ∧
    (∀ u page size f at' e, s.readTwice (sliceOf q.die va) (s.walk va) = (some (.leaf page size f at' e), u) →
      s.translate q va = (some (f + (va - page)), (u.fillTlb ⟨sliceOf q.die va, page, size, f⟩).fillWalks (sliceOf q.die va) va s.paging.root [3, 2, 1])) ∧
    (∀ u reason page span at' e, s.readTwice (sliceOf q.die va) (s.walk va) = (some (.bad reason page span at' e), u) →
      s.translate q va = (none, u.joinWait q.who (q.waitOn (sliceOf q.die va) va page span (some reason) (if reason = 5 then 0 else e)))) := by
  have hl : s.tlbLook (sliceOf q.die va) va = (none, s) := by simp [State.tlbLook, ht]
  have hs : s.walkStart (sliceOf q.die va) va = (4, s.paging.root, s) := by simp [State.walkStart, State.walkLook, hc]
  have hf : walkFrom s va 4 s.paging.root = s.walk va := rfl
  refine ⟨fun u hu => ?_, fun u page size f at' e hu => ?_, fun u reason page span at' e hu => ?_⟩ <;>
    simp only [State.translate, hw, hl, hs, hf, hu]
  rfl

/-- A fill changes the TLB and the walk cache alone (R173). -/
theorem fillWalks_eq (slice va : Nat) : ∀ (ls : List Nat) (s : State) (table : Nat),
    ∃ ws, s.fillWalks slice va table ls = { s with paging := { s.paging with walks := ws } }
  | [], _, _ => ⟨_, rfl⟩
  | level :: ls, s, table => by
    unfold State.fillWalks
    extract_lets e w others
    split
    · obtain ⟨ws, h⟩ := fillWalks_eq slice va ls { s with paging := { s.paging with walks := putBounded 128 (fun o => o.slice = slice) w others } } (pteFrame e)
      exact ⟨ws, h⟩
    · exact ⟨_, rfl⟩

theorem putBounded_head {α : Type} [DecidableEq α] (n : Nat) (mine : α → Bool) (e : α) (l : List α) : (putBounded n mine e l).head? = some e := by
  unfold putBounded
  extract_lets m
  split
  · rfl
  · split <;> rfl

/-- A request that finds room joins the wait list of its slice as a new page (R176). -/
theorem joinWait_new {s : State} {w : PageWait} (who : Requester) (hr : s.waitRoom w.slice = true)
    (hn : (s.paging.waits.filter fun o => decide (o.slice = w.slice)).length < 16)
    (hp : (s.paging.waits.any fun o => decide (o.slice = w.slice) && decide (o.page = w.page)) = false) :
    s.joinWait who w = { s with paging := { s.paging with waits := s.paging.waits ++ [{ w with who := [who] }] } } := by
  have ha : (s.paging.waits.any fun o => decide (o.slice = w.slice) && decide (o.page = w.page) && decide (o.span = w.span)) = false := by
    rw [List.any_eq_false] at hp ⊢
    intro o ho
    simp [hp o ho]
  simp only [State.joinWait, hr, ha, hn, Bool.not_true, Bool.false_eq_true, if_false, if_true]

/-- The state with other first reads of critical leaves. -/
def State.withSeconds (s : State) (l : List (Nat × Nat × Nat)) : State := { s with paging := { s.paging with seconds := l } }

/-- A walk that reads no critical leaf goes on at once. -/
theorem readTwice_plain {s : State} {w : Walk} (h : w.critical = none) (slice : Nat) : s.readTwice slice w = (some w, s.withSeconds s.paging.seconds) := by
  simp only [State.readTwice, h]
  rfl

/-- The first read of a critical leaf is kept (R175), -/
theorem readTwice_first {s : State} {w : Walk} {at' e : Nat} (h : w.critical = some (at', e)) (slice : Nat) (hs : s.paging.seconds = []) :
    s.readTwice slice w = (none, s.withSeconds [(slice, at', e)]) := by
  simp only [State.readTwice, h, hs, List.find?_nil, List.filter_nil]
  rfl

/-- a second one that gives the same goes on, -/
theorem readTwice_equal {s : State} {w : Walk} {at' e : Nat} (h : w.critical = some (at', e)) (slice : Nat) (hs : s.paging.seconds = [(slice, at', e)]) :
    s.readTwice slice w = (some w, s.withSeconds []) := by
  simp [State.readTwice, State.withSeconds, h, hs]

/-- and one that differs is a fault of reason 4. -/
theorem readTwice_differs {s : State} {page size f at' e x : Nat} (h : (Walk.leaf page size f at' e).critical = some (at', e)) (slice : Nat) (hs : s.paging.seconds = [(slice, at', x)])
    (hx : x ≠ e) : s.readTwice slice (.leaf page size f at' e) = (some (.bad 4 page (pageSize size) at' e), s.withSeconds []) := by
  simp [State.readTwice, State.withSeconds, h, hs, hx]

theorem critical_leaf {page size f at' e : Nat} (h : e / 2 ^ 8 % 2 = 1) : (Walk.leaf page size f at' e).critical = some (at', e) :=
  if_pos (decide_eq_true h)

theorem not_critical_leaf {page size f at' e : Nat} (h : e / 2 ^ 8 % 2 = 0) : (Walk.leaf page size f at' e).critical = none :=
  if_neg (by rw [pteBit, h]; decide)

/-- Where no error waits after a translation, none is found (R175). -/
theorem translateAt_unarmed {s : State} {a : Asker} {va : Nat} (h : (s.translate a va).2.armed = []) : s.translateAt a va = s.translate a va := by
  unfold State.translateAt
  split
  · next ht _ =>
    rw [ht] at h
    rw [ht, detectFree_unarmed h]
  · rfl

/-- The n-th request misses at its slice: its step translates the address, from a state in which only the slice's check of the request has left its trace. -/
structure State.Misses (s u : State) (n : Nat) (a : Asker) (va : Nat) : Prop where
  run : exec (.pageWalk n) s = .next (u.translateAt a va).2
  checked : ∃ ds cs, u = { s with dirs := ds, paging := { s.paging with checks := cs } }
  armed : s.armed = []
  waiting : s.waiting (sliceOf a.die va) va = none
  miss : s.tlbHit (sliceOf a.die va) va = none
  walks : s.paging.walks = []

/-- The step of a request that misses, by what its walk has read. -/
theorem State.Misses.translate {s u : State} {n : Nat} {a : Asker} {va : Nat} (h : s.Misses u n a va) :
    (∀ x, u.readTwice (sliceOf a.die va) (s.walk va) = (none, x) → u.translate a va = (none, x)) ∧
    (∀ x page size f at' e, u.readTwice (sliceOf a.die va) (s.walk va) = (some (.leaf page size f at' e), x) →
      u.translate a va = (some (f + (va - page)), (x.fillTlb ⟨sliceOf a.die va, page, size, f⟩).fillWalks (sliceOf a.die va) va u.paging.root [3, 2, 1])) ∧
    (∀ x reason page span at' e, u.readTwice (sliceOf a.die va) (s.walk va) = (some (.bad reason page span at' e), x) →
      u.translate a va = (none, x.joinWait a.who (a.waitOn (sliceOf a.die va) va page span (some reason) (if reason = 5 then 0 else e)))) := by
  obtain ⟨ds, cs, rfl⟩ := h.checked
  have hw : s.walk va = State.walk { s with dirs := ds, paging := { s.paging with checks := cs } } va := (walkFrom_congr rfl rfl rfl va 4 _).symm
  rw [hw]
  exact translate_walks h.waiting h.miss h.walks

/-- A walk that reads a leaf fills the TLB (R173). -/
theorem State.Misses.fills {s u : State} {w : Walk} {n : Nat} {a : Asker} {va page size f at' e : Nat} {l : List (Nat × Nat × Nat)} (h : s.Misses u n a va)
    (hw : s.walk va = w) (hr : u.readTwice (sliceOf a.die va) w = (some (.leaf page size f at' e), u.withSeconds l)) :
    ∃ t : State, exec (.pageWalk n) s = .next t ∧ t.paging.tlb.head? = some ⟨sliceOf a.die va, page, size, f⟩ ∧ t.paging.waits = s.paging.waits ∧
      t.requests = s.requests ∧ t.mem = s.mem := by
  have ht := h.translate.2.1 _ _ _ _ _ _ (hw ▸ hr)
  obtain ⟨ws, hf⟩ := fillWalks_eq (sliceOf a.die va) va [3, 2, 1] ((u.withSeconds l).fillTlb ⟨sliceOf a.die va, page, size, f⟩) u.paging.root
  rw [hf] at ht
  obtain ⟨ds, cs, hu⟩ := h.checked
  have ha : u.armed = [] := by rw [hu]; exact h.armed
  have hx : (u.translate a va).2.armed = [] := by
    rw [ht]
    simp [State.fillTlb, State.rearm, State.withSeconds, ha]
  refine ⟨_, h.run, ?_⟩
  rw [translateAt_unarmed hx, ht, hu]
  exact ⟨putBounded_head _ _ _ _, rfl, rfl, rfl⟩

/-- A walk that faults is waited on, where the slice has room (R176, R180). -/
theorem State.Misses.waits {s u : State} {w : Walk} {n : Nat} {a : Asker} {va reason page span at' e : Nat} {l : List (Nat × Nat × Nat)} (h : s.Misses u n a va)
    (hw : s.walk va = w) (hr : u.readTwice (sliceOf a.die va) w = (some (.bad reason page span at' e), u.withSeconds l))
    (hroom : s.waitRoom (sliceOf a.die va) = true) (hn : (s.paging.waits.filter fun o => decide (o.slice = sliceOf a.die va)).length < 16)
    (hp : (s.paging.waits.any fun o => decide (o.slice = sliceOf a.die va) && decide (o.page = page)) = false) :
    ∃ t w, exec (.pageWalk n) s = .next t ∧ w ∈ t.paging.waits ∧ w.slice = sliceOf a.die va ∧ w.page = page ∧ w.span = span ∧ w.reason = some reason ∧
      t.paging.tlb = s.paging.tlb ∧ t.requests = s.requests ∧ t.mem = s.mem := by
  have ht := h.translate.2.2 _ _ _ _ _ _ (hw ▸ hr)
  obtain ⟨ds, cs, hu⟩ := h.checked
  rw [joinWait_new (s := u.withSeconds l) a.who (by rw [hu]; exact hroom) (by rw [hu]; exact hn) (by rw [hu]; exact hp)] at ht
  have hx : (u.translate a va).2.armed = [] := by
    rw [ht, hu]
    exact h.armed
  refine ⟨_, a.waitOn (sliceOf a.die va) va page span (some reason) (if reason = 5 then 0 else e), h.run, ?_⟩
  rw [translateAt_unarmed hx, ht, hu]
  exact ⟨List.mem_append_right _ List.mem_cons_self, rfl, rfl, rfl, rfl, rfl, rfl, rfl⟩

/-- After the first read of a critical leaf the request walks again (R175). -/
theorem State.Misses.reads_once {s u : State} {w : Walk} {n : Nat} {a : Asker} {va : Nat} {l : List (Nat × Nat × Nat)} (h : s.Misses u n a va)
    (hw : s.walk va = w) (hr : u.readTwice (sliceOf a.die va) w = (none, u.withSeconds l)) :
    ∃ t : State, exec (.pageWalk n) s = .next t ∧ t.paging.seconds = l ∧ t.paging.tlb = s.paging.tlb ∧ t.paging.waits = s.paging.waits ∧ t.mem = s.mem := by
  have ht := h.translate.1 _ (hw ▸ hr)
  obtain ⟨ds, cs, hu⟩ := h.checked
  have hx : (u.translate a va).2.armed = [] := by
    rw [ht, hu]
    exact h.armed
  refine ⟨_, h.run, ?_⟩
  rw [translateAt_unarmed hx, ht, hu]
  exact ⟨rfl, rfl, rfl, rfl⟩

/-- A request for DMEM that passes the check of its slice and misses in the L2 and in the TLB is walked for (R171, R172). -/
theorem misses_of_checked {s : State} {n die off len access : Nat} {op : BitVec 5} {r : Request} {e : DirEntry} (hr : s.requests[n]? = some r)
    (hh : r.home = .die die) (he : s.entry r.home r.buffer = some e) (hwalks : s.paging.walks = []) (harmed : s.armed = [])
    (hspan : r.kind.span = some (off, len, access, op)) (hcheck : (s.sliceCheck r.claim (e.base + off)).checkAccess r.claim e.base off len access op = none)
    (hl2 : access = 0 → s.l2Hit (r.claim.asker access) (e.base + off) = false)
    (hwait : s.waiting (sliceOf (r.claim.asker access).die (e.base + off)) (e.base + off) = none)
    (hmiss : s.tlbHit (sliceOf (r.claim.asker access).die (e.base + off)) (e.base + off) = none) :
    s.Misses (s.sliceCheck r.claim (e.base + off)) n (r.claim.asker access) (e.base + off) := by
  have hu := sliceCheck_eq harmed r.claim (e.base + off)
  have hhit : (decide (access = 0) && (s.sliceCheck r.claim (e.base + off)).l2Hit (r.claim.asker access) (e.base + off)) = false := by
    obtain ⟨ds, cs, hu⟩ := hu
    rw [hu]
    by_cases h0 : access = 0
    · simpa [h0] using h0 ▸ hl2 h0
    · simp [h0]
  refine ⟨?_, hu, harmed, hwait, hmiss, hwalks⟩
  show execPageWalk n s = _
  rw [hh] at he
  simp only [execPageWalk, hr, hh, he, hspan, hcheck, hhit, Option.isSome_none, Bool.or_self, Bool.false_eq_true, if_false]

end Sys2Proof.Machine
end

section
/-! SUPPORT. The events of paging and of the memory controllers. -/

namespace Sys2Proof.Machine

open Sys2Proof

/-- Settles O53: each event by what it does to the page tables, the TLB, the waits and memory. -/
theorem pagingAndMemoryEvents : Obligations.PagingAndMemoryEvents := by
  intro s n va frame v h
  refine ⟨?_, fun die page size at' pte hw => ⟨fun p hp => firstTouchService_installs h hw hp, fun hp => firstTouchService_empty hw hp⟩, ?_,
    fun span dropL2 hv hs => translationInvalidate_drops h dropL2 hv hs, fun die size hd hs hf => firstTouchPoolRefill_zeroes hd hs hf, rfl, ?_, ?_,
    fun page span at' pte hl hf hn => pageInFromHost_installs h hl hf hn, ?_, ?_, fun cmem => ?_⟩
  · intro r e die off len access op hr hh he hwalks harmed hspan at₁ a slice s₁ hcheck hl2 hwait hmiss fills waits
    have hm : s.Misses s₁ n a at₁ := misses_of_checked hr hh he hwalks harmed hspan hcheck hl2 hwait hmiss
    have hsec : s₁.paging.seconds = s.paging.seconds := by
      obtain ⟨ds, cs, hu⟩ := hm.checked
      rw [hu]
    refine ⟨fun page size f at' pte hw => ⟨fun hb => ?_, fun hb => ⟨fun hs => ?_, fun hs => ?_, fun x hx hs hroom hn hp => ?_⟩⟩,
      fun reason page span at' pte hw hroom hn hp => ?_⟩
    · exact hm.fills hw (readTwice_plain (not_critical_leaf hb) slice)
    · exact hm.reads_once hw (readTwice_first (critical_leaf hb) slice (hsec.trans hs))
    · exact hm.fills hw (readTwice_equal (critical_leaf hb) slice (hsec.trans hs))
    · exact hm.waits hw (readTwice_differs (critical_leaf hb) slice (hsec.trans hs) hx) hroom hn hp
    · exact hm.waits hw (readTwice_plain rfl slice) hroom hn hp
  · intro w hw
    refine ⟨fun reason hr hx => ?_, faultMessage_none hw, faultAnswerRetry_ends h hw, fun hr hq hc hj => ?_⟩
    · obtain ⟨t, he, hf, hrest⟩ := faultMessage_sends hw hr hx
      exact ⟨t, he, words_of_reason hx ▸ hf, hrest⟩
    · exact ⟨_, faultAnswerDeny_eq h hw hr hq hc hj, rfl,
        fun i u hu => tileAt_mapTiles (p := fun t => w.who.contains (.tile t.index t.unitKey)) (f := Tile.denied) (fun _ => rfl) hu, rfl⟩
  · intro page size old at' pte hwin hl ho
    exact ⟨fun hf hn => pageMigration_starts hwin hl ho hf hn, fun host ha hh hroot => pageOutToHost_starts hwin hl ho ha hh hroot⟩
  · intro page size at' pte hwin hl
    exact ⟨fun hm => pageMigration_ends h hwin hl hm, fun host ha hh hm => pageOutToHost_ends h hwin hl ha hh hm⟩
  · intro pa a
    refine ⟨fun hp w => ?_, fun hp hb w => hbm4Request_buffer hp hb w v, fun hp hb ha => ⟨hbm4Request_writes v hp hb ha, ?_⟩⟩
    · exact if_pos hp
    · exact hbm4Request_serves hp hb ha false v
  · obtain ⟨t, he, hs⟩ := scrubHbm4_scrubs s n
    exact ⟨t, he, hs.gone, hs.mem, hs.tile, fun a ha k hi hm hu _ => hs.marks a ha k hi hm hu⟩
  · obtain ⟨t, he, hs⟩ := scrubSram_scrubs s cmem n
    exact ⟨t, he, hs.gone, hs.mem, hs.tile, fun a ha k hi hm hu _ => hs.marks a ha k hi hm hu⟩

end Sys2Proof.Machine
end

section
/-! SUPPORT. Where a cap instruction stops before it does anything, and with which reason (R64, R238, R318, R322, R327). -/

namespace Sys2Proof.Machine

open Sys2Proof

/-- `mcapinfo` of a failure in the tile holds the register and the reason (R238). -/
theorem capInfo_tile (r : Reg) (reason : Nat) : capInfo r.val 0 reason false = BitVec.ofNat 64 (r.val + reason * 2 ^ 6) := by
  have := r.isLt
  simp only [capInfo, word]
  rw [Nat.mod_eq_of_lt this]
  simp

/-- The state in which `mcapinfo` names a register and a reason. -/
def State.blames (s : State) (r : Reg) (reason : Nat) : State :=
  { s with tile := { s.tile with mcapinfo := BitVec.ofNat 64 (r.val + reason * 2 ^ 6) } }

theorem capTrap_run {α : Type} (r : Reg) (reason cause : Nat) (v : Word) (s : State) :
    (capTrap r.val reason false cause v : Act α) s = .error (.trap cause v) (s.blames r reason) := by
  simp [capTrap, act_bind, capInfo_tile, State.blames]

theorem requireCap_false {b : Bool} (h : b = false) (r : Reg) (n : Nat) (s : State) :
    requireCap b r n s = .error (.trap 24 (BitVec.ofNat 64 n)) (s.blames r n) := by
  subst h
  exact capTrap_run r n 24 _ s

theorem requireCap_true {b : Bool} (h : b = true) (r : Reg) (n : Nat) (s : State) : requireCap b r n s = .ok () s := by
  subst h
  rfl

/-- A guard that passes where it is asked passes. -/
theorem passes_ite {β : Type} {x : Act Unit} {s : State} (h : x s = .ok () s) (p : Prop) [Decidable p] (k : Unit → Act β) :
    (if p then x >>= k else k ()) s = k () s := by
  split
  · exact act_bind_ok h
  · rfl

/-- A source that is null or a ring cap is refused with reason 4 (R318). -/
theorem sourceCap_fails {s : State} (ha : s.armed = []) (r : Reg) (host : Bool)
    (h : (s.tile.rc r).kind = .null ∨ (s.tile.rc r).kind = .handle ∨ (s.tile.rc r).kind = .slot) :
    sourceCap r host s = .error (.trap 24 4) (s.blames r 4) := by
  unfold sourceCap
  rw [act_bind_ok (useCap_quiet ha r)]
  rcases h with h | h | h
  · exact act_bind_error (requireCap_false (by simp [h]) r 4 s)
  all_goals
    rw [act_bind_ok (requireCap_true (by simp [h]) r 4 s)]
    exact act_bind_error (requireCap_false (by simp [h]) r 4 s)

theorem sourceCap_ordinary {s : State} (ha : s.armed = []) {r : Reg} (h : (s.tile.rc r).Ordinary) : sourceCap r true s = .ok (s.tile.rc r) s :=
  sourceCap_run ha r true h.1 h.2.1 h.2.2.1 (.inl rfl)

/-- What a split checks before its source (R74, R318) passes outside regions when it names no `c30`. -/
theorem split_sourceFails {s : State} {d a : Reg} (q : s.Quiet) (hd : d ≠ 30) (ha : a ≠ 30) (i : Instr) (fold : Bool) (b : Reg)
    (h : (s.tile.rc a).kind = .null ∨ (s.tile.rc a).kind = .handle ∨ (s.tile.rc a).kind = .slot) :
    split i fold d a b s = .error (.trap 24 4) (s.blames a 4) := by
  have hg : guardC30 i (if (s.tile.rc a).mode = .exec then [d] else [d, a]) s = .ok () s :=
    guardC30_run i (by split <;> simp [Ne.symm hd, Ne.symm ha]) s
  have hs := sourceCap_fails q.armed a false h
  unfold split
  rw [act_bind_ok (getC_run s a), act_bind_ok hg, act_bind_ok (getC_run s a)]
  exact (passes_ite (outsideRegions_quiet q.regions i) _ _).trans (act_bind_error hs)

section
variable {s : State} {d a b : Reg} (q : s.Quiet) (hb : s.TakesRs2 b) (hd : d ≠ 30) (ha : a ≠ 30)
include q hb hd ha

/-- The five instructions that read their source alike refuse a null or ring cap alike. -/
theorem sourceTraps (h : (s.tile.rc a).kind = .null ∨ (s.tile.rc a).kind = .handle ∨ (s.tile.rc a).kind = .slot) :
    ∀ i ∈ [Instr.capNarrow d a b, .capFmt d a b, .capSplitR d a b, .capSplitF d a b, .capCarve d a b],
      exec i s = .next (s.trapFrom (s.blames a 4) 24 4) := by
  have hg (i : Instr) : guardC30 i [d, a] s = .ok () s := guardC30_run i (by simp [Ne.symm hd, Ne.symm ha]) s
  have hs (host : Bool) : sourceCap a host s = _ := sourceCap_fails q.armed a host h
  have hm := misplaced_rs2 hb
  simp only [List.mem_cons, List.not_mem_nil, or_false]
  rintro i (rfl | rfl | rfl | rfl | rfl)
  · exact run_trap q hm (by rw [act_bind_ok (hg _)]; exact act_bind_error (hs true))
  · exact run_trap q hm (by rw [act_bind_ok (hg _)]; exact act_bind_error (hs true))
  · exact run_trap q hm (split_sourceFails q hd ha _ false b h)
  · exact run_trap q hm (split_sourceFails q hd ha _ true b h)
  · exact run_trap q hm (by rw [act_bind_ok (hg _), act_bind_ok (outsideRegions_quiet q.regions _)]; exact act_bind_error (hs false))

/-- `cap.narrow` refuses with reason 9 the bits of its operand that are not assigned, and with reason 5 a length that is 0 or beyond the cap's (R322). -/
theorem capNarrow_traps (h : (s.tile.rc a).Ordinary) :
    ((s.rs2Of b).toNat / 2 ^ 46 ≠ 0 → exec (.capNarrow d a b) s = .next (s.trapFrom (s.blames a 9) 24 9)) ∧
    ((s.rs2Of b).toNat / 2 ^ 46 = 0 → ((s.rs2Of b).toNat % 2 ^ 40 = 0 ∨ (s.tile.rc a).length.toNat < (s.rs2Of b).toNat % 2 ^ 40) →
      exec (.capNarrow d a b) s = .next (s.trapFrom (s.blames a 5) 24 5)) := by
  have hg : guardC30 (.capNarrow d a b) [d, a] s = .ok () s := guardC30_run _ (by simp [Ne.symm hd, Ne.symm ha]) s
  constructor
  · intro h9
    refine run_trap q (misplaced_rs2 hb) ?_
    rw [act_bind_ok hg, act_bind_ok (sourceCap_ordinary q.armed h), act_bind_ok (rs2_quiet q.armed b)]
    exact act_bind_error (requireCap_false (decide_eq_false h9) a 9 s)
  · intro h9 h5
    refine run_trap q (misplaced_rs2 hb) ?_
    rw [act_bind_ok hg, act_bind_ok (sourceCap_ordinary q.armed h), act_bind_ok (rs2_quiet q.armed b),
      act_bind_ok (requireCap_true (decide_eq_true h9) a 9 s)]
    refine act_bind_error (requireCap_false ?_ a 5 s)
    simp only [ne_eq, decide_not, Bool.and_eq_false_iff, Bool.not_eq_false', decide_eq_true_eq, decide_eq_false_iff_not, not_le]
    exact h5

/-- `cap.fmt` refuses with reason 4 a descriptor of which a bit above 29 is set (R326). -/
theorem capFmt_traps (h : (s.tile.rc a).Ordinary) (h4 : (s.rs2Of b).toNat % 2 ^ 32 / 2 ^ 30 ≠ 0) :
    exec (.capFmt d a b) s = .next (s.trapFrom (s.blames a 4) 24 4) := by
  have hg : guardC30 (.capFmt d a b) [d, a] s = .ok () s := guardC30_run _ (by simp [Ne.symm hd, Ne.symm ha]) s
  refine run_trap q (misplaced_rs2 hb) ?_
  rw [act_bind_ok hg, act_bind_ok (sourceCap_ordinary q.armed h), act_bind_ok (rs2_quiet q.armed b)]
  exact act_bind_error (requireCap_false (decide_eq_false (by simpa [lo32] using h4)) a 4 s)

omit hd ha in
/-- `cap.get` refuses with reason 9 a word beyond the four (R325). -/
theorem capGet_traps (h : 3 < (s.rs2Of b).toNat) : exec (.capGet d a b) s = .next (s.trapFrom (s.blames a 9) 24 9) := by
  refine run_trap q (misplaced_rs2 hb) ?_
  rw [act_bind_ok (useCap_quiet q.armed a), act_bind_ok (rs2_quiet q.armed b)]
  exact act_bind_error (requireCap_false (decide_eq_false (by omega)) a 9 s)

end

/-! ### Accesses (R64, R327) -/

/-- An access that its cap does not allow, or that goes beyond the length, or under a cap of a kind that no access reaches, traps with the offset. -/
theorem checkedCap_traps {s : State} (q : s.Quiet) (r : Reg) (off : Word) (n : Nat) (k : AccessKind)
    (h : accessAllowed (s.tile.rc r) k = false ∨ (s.tile.rc r).length.toNat < off.toNat + n ∨ reachable (s.tile.rc r) = false) :
    checkedCap r off n k s = .error (.trap 24 off) (s.blames r 0) := by
  unfold checkedCap
  rw [act_bind_ok (useCap_quiet q.armed r)]
  by_cases h1 : accessAllowed (s.tile.rc r) k = false
  · simp [h1, act_bind, capTrap_run]
  · rw [Bool.not_eq_false] at h1
    by_cases h2 : (s.tile.rc r).length.toNat < off.toNat + n
    · simp [h1, h2, act_bind, capTrap_run]
    · have h3 : reachable (s.tile.rc r) = false := by simpa [h1, h2] using h
      simp [h1, h2, h3, act_bind, capTrap_run]

section
variable {s : State} (p : s.Plain) (d rs cs : Reg) (imm : BitVec 4) (n : Nat)
include p

theorem capLoad_traps {i : Instr} {f : Nat → Word} (hi : exec i s = capLoad i d rs cs imm n f s)
    (h : checkedCap cs (pmOffset (s.tile.rx rs) imm n) n .load s = .error (.trap 24 (pmOffset (s.tile.rx rs) imm n)) (s.blames cs 0)) :
    exec i s = .next (s.trapFrom (s.blames cs 0) 24 (pmOffset (s.tile.rx rs) imm n)) := by
  rw [hi]
  refine run_trap p.toQuiet (misplaced_plain p.kpre) ?_
  rw [act_bind_ok (getX_quiet p.armed rs)]
  exact act_bind_error h

theorem capStore_traps {i : Instr} (hi : exec i s = capStore i d rs cs imm n s)
    (h : checkedCap cs (pmOffset (s.tile.rx rs) imm n) n .store s = .error (.trap 24 (pmOffset (s.tile.rx rs) imm n)) (s.blames cs 0)) :
    exec i s = .next (s.trapFrom (s.blames cs 0) 24 (pmOffset (s.tile.rx rs) imm n)) := by
  rw [hi]
  refine run_trap p.toQuiet (misplaced_plain p.kpre) ?_
  rw [act_bind_ok (getX_quiet p.armed rs), act_bind_ok (getX_quiet p.armed d)]
  exact act_bind_error h

theorem capFold_misaligned {i : Instr} (hi : exec i s = capFold i d rs cs imm n s) (h : (pmOffset (s.tile.rx rs) imm n).toNat % n ≠ 0) :
    exec i s = .next (s.takeTrap 6 (pmOffset (s.tile.rx rs) imm n)) := by
  rw [hi, ← trapFrom_self]
  refine run_trap p.toQuiet (misplaced_plain p.kpre) ?_
  rw [act_bind_ok (getX_quiet p.armed rs)]
  simp [h, act_bind]

theorem capFold_traps {i : Instr} (hi : exec i s = capFold i d rs cs imm n s) (ha : (pmOffset (s.tile.rx rs) imm n).toNat % n = 0)
    (h : checkedCap cs (pmOffset (s.tile.rx rs) imm n) n (.fold n) s = .error (.trap 24 (pmOffset (s.tile.rx rs) imm n)) (s.blames cs 0)) :
    exec i s = .next (s.trapFrom (s.blames cs 0) 24 (pmOffset (s.tile.rx rs) imm n)) := by
  rw [hi]
  refine run_trap p.toQuiet (misplaced_plain p.kpre) ?_
  rw [act_bind_ok (getX_quiet p.armed rs)]
  simp only [ha, ne_eq, not_true_eq_false, if_false]
  rw [act_bind_ok (getX_quiet p.armed d)]
  exact act_bind_error h

end

/-- Settles O38: every failing check of a cap instruction stops it before it changes anything but `mcapinfo`. -/
theorem capTraps : Obligations.CapTraps := by
  intro s d a b imm q
  have hpm (n : Nat) : s.tile.rx b + imm.setWidth 64 * BitVec.ofNat 64 n = pmOffset (s.tile.rx b) imm n := rfl
  have hoff : ({ s with tile := { s.tile with mcapinfo := BitVec.ofNat 64 a.val } } : State) = s.blames a 0 := by simp [State.blames]
  refine ⟨fun hb hd ha => ⟨fun h => ?_, fun h => ?_, fun h => capGet_traps q hb h⟩, fun hk => ?_⟩
  · have := sourceTraps q hb hd ha h
    exact ⟨this (.capNarrow d a b) (by simp), this (.capFmt d a b) (by simp), this (.capSplitR d a b) (by simp), this (.capSplitF d a b) (by simp),
      this (.capCarve d a b) (by simp)⟩
  · obtain ⟨h9, h5⟩ := capNarrow_traps q hb hd ha h
    exact ⟨h9, h5, capFmt_traps q hb hd ha h⟩
  · simp only [hoff, hpm]
    have p : s.Plain := ⟨q, hk⟩
    have cldB : exec (.cldB d b a imm) s = execCldB d b a imm s := rfl
    have cldBu : exec (.cldBu d b a imm) s = execCldBu d b a imm s := rfl
    have cldD : exec (.cldD d b a imm) s = execCldD d b a imm s := rfl
    have cstB : exec (.cstB d b a imm) s = execCstB d b a imm s := rfl
    have cstD : exec (.cstD d b a imm) s = execCstD d b a imm s := rfl
    have cfoldW : exec (.cfoldW d b a imm) s = execCfoldW d b a imm s := rfl
    have cfoldD : exec (.cfoldD d b a imm) s = execCfoldD d b a imm s := rfl
    refine ⟨fun h => ?_, fun h => ?_, ?_, ?_, ?_, ?_, ?_⟩
    · have cldH : exec (.cldH d b a imm) s = execCldH d b a imm s := rfl
      have cldW : exec (.cldW d b a imm) s = execCldW d b a imm s := rfl
      have hc (off : Word) (n : Nat) : checkedCap a off n .load s = _ := checkedCap_traps q a off n .load (by
        rcases h with h | h | h | h <;> simp [accessAllowed, reachable, h])
      exact ⟨capLoad_traps p d b a imm 1 cldB (hc _ _), capLoad_traps p d b a imm 2 cldH (hc _ _), capLoad_traps p d b a imm 4 cldW (hc _ _),
        capLoad_traps p d b a imm 8 cldD (hc _ _)⟩
    · have cstH : exec (.cstH d b a imm) s = execCstH d b a imm s := rfl
      have cstW : exec (.cstW d b a imm) s = execCstW d b a imm s := rfl
      have hc (off : Word) (n : Nat) : checkedCap a off n .store s = _ := checkedCap_traps q a off n .store (by
        rcases h with h | h | h | h | h <;> simp [accessAllowed, reachable, h])
      exact ⟨capStore_traps p d b a imm 1 cstB (hc _ _), capStore_traps p d b a imm 2 cstH (hc _ _), capStore_traps p d b a imm 4 cstW (hc _ _),
        capStore_traps p d b a imm 8 cstD (hc _ _)⟩
    · intro h
      have hc (k : AccessKind) : checkedCap a (pmOffset (s.tile.rx b) imm 1) 1 k s = _ := checkedCap_traps q a _ 1 k (.inr (.inl h))
      exact ⟨capLoad_traps p d b a imm 1 cldB (hc _), capLoad_traps p d b a imm 1 cldBu (hc _), capStore_traps p d b a imm 1 cstB (hc _)⟩
    · intro h
      have hc (k : AccessKind) : checkedCap a (pmOffset (s.tile.rx b) imm 8) 8 k s = _ := checkedCap_traps q a _ 8 k (.inr (.inl h))
      exact ⟨capLoad_traps p d b a imm 8 cldD (hc _), capStore_traps p d b a imm 8 cstD (hc _)⟩
    · exact capFold_misaligned p d b a imm 4 cfoldW
    · exact capFold_misaligned p d b a imm 8 cfoldD
    · exact fun h hm => capFold_traps p d b a imm 8 cfoldD h (checkedCap_traps q a _ 8 (.fold 8) (.inl (by simp [accessAllowed, hm])))

end Sys2Proof.Machine
end

section
/-! SUPPORT. A fold that its cap allows goes into the update line of the tile's L1 and nowhere else (R80, R82). -/

namespace Sys2Proof.Machine

open Sys2Proof

theorem checkedCap_run {s : State} (q : s.Quiet) {r : Reg} {off : Word} {n : Nat} {k : AccessKind} (ha : accessAllowed (s.tile.rc r) k = true)
    (hn : off.toNat + n ≤ (s.tile.rc r).length.toNat) (hr : reachable (s.tile.rc r) = true) (hl : (s.tile.rc r).lent = false) :
    checkedCap r off n k s = .ok (s.tile.rc r) s := by
  unfold checkedCap
  rw [act_bind_ok (useCap_quiet q.armed r)]
  simp [ha, Nat.not_lt.mpr hn, hr, lentStall_run hl, act_map]

/-- An open region shows in the level of the tile: with none there is no depth. -/
theorem depth_quiet {t : Tile} (h : t.openRegions = []) : t.depth = 0 := by simp [Tile.depth, h]

/-- The fold instructions of four and eight bytes. -/
theorem exec_capFold {i : Instr} {d rs cs : Reg} {imm : BitVec 4} {n : Nat} (hi : n = 4 ∧ i = .cfoldW d rs cs imm ∨ n = 8 ∧ i = .cfoldD d rs cs imm)
    (s : State) : exec i s = capFold i d rs cs imm n s := by
  rcases hi with ⟨rfl, rfl⟩ | ⟨rfl, rfl⟩
  · show execCfoldW d rs cs imm s = _; rfl
  · show execCfoldD d rs cs imm s = _; rfl

/-- The operand of a fold of `n` bytes is the low ones of its register. -/
theorem foldOperand {n : Nat} (hn : n = 4 ∨ n = 8) (v : Word) :
    (if n = 4 then zext (lo32 v) else v) = BitVec.ofNat 64 (v.toNat % 2 ^ (8 * n)) := by
  rcases hn with rfl | rfl
  · simp [zext, lo32, ← BitVec.toNat_inj]
  · rw [if_neg (by decide), Nat.mod_eq_of_lt v.isLt, BitVec.ofNat_toNat, BitVec.setWidth_eq]

/-- The tile of `s` with one line in its L1. -/
def State.withLine (s : State) (l : L1Line) : State := { s with tile := { s.tile with l1 := [l] } }

/-- The fold of a word puts the line with the word combined in place of the line (R82). -/
theorem foldInto_run {s : State} {c : Cap} (hc : c.kind ≠ .remote) {l : L1Line} {u : UpdateLine} (hu : l.update = some u) (hl : s.tile.l1 = [l])
    (i : Nat) (v : Word) : foldInto c l i v s = .ok () (s.withLine { l with update := some (u.fold i v) }) := by
  simp [foldInto, hu, hc, State.withLine, Tile.putLine, hl]

/-- An empty L1 takes an update line. -/
theorem allocUpdate_empty {s : State} (hl : s.tile.l1 = []) (l : L1Line) : allocUpdate l s = .ok () (s.withLine l) := by
  have hr : s.retireData l = s := by
    cases s with
    | mk tile => cases tile; simp_all [State.retireData]
  simp [allocUpdate, allocLine, act_bind, act_map, hr, hl, State.withLine]

/-- With no line of the L1 a fold starts one (R82). -/
theorem foldAt_empty {s : State} (q : s.Quiet) {c : Cap} {h : HomeId} (hh : s.homeOf c = some h) (hc : c.kind ≠ .remote) (hl : s.tile.l1 = [])
    (off : Nat) (v : Word) : ∃ u : UpdateLine, newUpdate s c h (off / 256) none = { emptyLine c (off / 256) with update := some u } ∧
      u.op = c.foldOp ∧ u.line = off / 256 ∧ u.words = List.replicate (256 / foldBytes c.foldOp) none ∧
      foldAt c off v s = .ok () (s.withLine { emptyLine c (off / 256) with update := some (u.fold (off % 256 / foldBytes c.foldOp) v) }) := by
  refine ⟨_, rfl, rfl, rfl, rfl, ?_⟩
  have hn : s.tile.updateLine c (off / 256) = none := by simp [Tile.updateLine, hl]
  simp only [foldAt, act_bind, act_get, hh, hn, depth_quiet q.regions, if_true, allocUpdate_empty hl]
  rw [foldInto_run hc rfl rfl]
  rfl

/-- With an update line of the buffer that is not pinned a fold goes into it (R82). -/
theorem foldAt_line {s : State} (q : s.Quiet) {c : Cap} {h : HomeId} (hh : s.homeOf c = some h) (hc : c.kind ≠ .remote) {l : L1Line} {u : UpdateLine}
    (hl : s.tile.l1 = [l]) (ht : l.tagged c = true) (hp : l.pin = none) (hu : l.update = some u) (ho : u.op = c.foldOp) {off : Nat}
    (hln : l.line = off / 256) (v : Word) :
    foldAt c off v s = .ok () (s.withLine { l with update := some (u.fold (off % 256 / foldBytes c.foldOp) v) }) := by
  have hn : s.tile.updateLine c (off / 256) = some l := by simp [Tile.updateLine, hl, ht, hp, hu, ho, hln]
  simp only [foldAt, act_bind, act_get, hh, hn, depth_quiet q.regions, if_true]
  exact foldInto_run hc hu hl _ v

section
variable {s : State} (p : s.Plain) {d rs cs : Reg} {imm : BitVec 4} {n : Nat} {i : Instr}
  (hi : n = 4 ∧ i = .cfoldW d rs cs imm ∨ n = 8 ∧ i = .cfoldD d rs cs imm)
include p hi

/-- A fold that passes the checks of R64 is its fold of the word. -/
theorem capFold_run {t : State} (ha : (pmOffset (s.tile.rx rs) imm n).toNat % n = 0)
    (hc : checkedCap cs (pmOffset (s.tile.rx rs) imm n) n (.fold n) s = .ok (s.tile.rc cs) s)
    (hf : foldAt (s.tile.rc cs) (pmOffset (s.tile.rx rs) imm n).toNat (BitVec.ofNat 64 ((s.tile.rx d).toNat % 2 ^ (8 * n))) s = .ok () t) :
    exec i s = .next (t.retired t.tile) := by
  rw [exec_capFold hi]
  refine run_ok p.toQuiet (misplaced_plain p.kpre) ?_
  rw [act_bind_ok (getX_quiet p.armed rs)]
  simp only [ha, ne_eq, not_true_eq_false, if_false]
  rw [act_bind_ok (getX_quiet p.armed d), act_bind_ok hc, foldOperand (hi.imp And.left And.left)]
  exact hf

end

/-- Settles O40: the two cases of the update line, none yet and one with the word. -/
theorem foldResults : Obligations.FoldResults := by
  intro s d rs cs imm h n i p hi c off v k hk hh hl hm hw hb ha hlen line
  have hne : c.kind ≠ .remote ∧ c.kind ≠ .null ∧ c.kind ≠ .host ∧ c.kind ≠ .handle := by rcases hk with hk | hk | hk <;> simp [hk]
  obtain ⟨h4, h0, h5, h6⟩ := hne
  have hc : checkedCap cs (pmOffset (s.tile.rx rs) imm n) n (.fold n) s = .ok c s :=
    checkedCap_run p.toQuiet (by simp [accessAllowed, c, h0, hm, hb, Cap.eff, hw]) hlen (by simp [reachable, c, h5, h6]) hl
  constructor
  · intro hempty
    obtain ⟨u, -, ho, hline, hws, hrun⟩ := foldAt_empty p.toQuiet hh h4 hempty off v
    refine ⟨_, _, capFold_run p hi ha hc hrun, rfl, by simp [L1Line.tagged, emptyLine], rfl, _, rfl, ho, hline, ?_⟩
    simp [UpdateLine.fold, hws, hb, k]
  · intro l u w hl1 ht hln hp hu ho hline hword
    refine ⟨_, _, capFold_run p hi ha hc (foldAt_line p.toQuiet hh h4 hl1 ht hp hu ho hln v), rfl, ht, hp, _, rfl, ho, hline, ?_⟩
    simp [UpdateLine.fold, hb, ho, hword, k, List.getD_eq_getElem?_getD]

end Sys2Proof.Machine
end

section
/-! SUPPORT. Directory entries after the transitions of a home, and what the transitions leave alone (R71, R73, R164). -/

namespace Sys2Proof.Machine

open Sys2Proof

/-! ### What a transition leaves alone -/

/-- `t` is `s` but for directories, level records, copies, and what the slices cache of them. -/
def State.OnlyHomes (s t : State) : Prop :=
  ∃ dirs levels copies paging, t = { s with dirs := dirs, levels := levels, copies := copies, paging := paging }

namespace State.OnlyHomes

theorem refl (s : State) : s.OnlyHomes s := ⟨_, _, _, _, rfl⟩

theorem trans {s t u : State} (h : s.OnlyHomes t) (h' : t.OnlyHomes u) : s.OnlyHomes u := by
  obtain ⟨_, _, _, _, rfl⟩ := h
  obtain ⟨_, _, _, _, rfl⟩ := h'
  exact ⟨_, _, _, _, rfl⟩

section
variable {s t : State} (h : s.OnlyHomes t)
include h

theorem tile : t.tile = s.tile := by obtain ⟨_, _, _, _, rfl⟩ := h; rfl
theorem mem : t.mem = s.mem := by obtain ⟨_, _, _, _, rfl⟩ := h; rfl
theorem device : t.device = s.device := by obtain ⟨_, _, _, _, rfl⟩ := h; rfl
theorem armed : t.armed = s.armed := by obtain ⟨_, _, _, _, rfl⟩ := h; rfl
theorem poison : t.poison = s.poison := by obtain ⟨_, _, _, _, rfl⟩ := h; rfl

theorem quiet (q : s.Quiet) : t.Quiet := ⟨h.armed.trans q.armed, by rw [h.tile]; exact q.regions⟩

end

end State.OnlyHomes

theorem mapEntry_onlyHomes (s : State) (h : HomeId) (b : Nat) (f : DirEntry → DirEntry) : s.OnlyHomes (s.mapEntry h b f) := ⟨_, _, _, _, rfl⟩

theorem dropChecks_onlyHomes (s : State) (h : HomeId) (b : Nat) : s.OnlyHomes (s.dropChecks h b) := by
  cases h <;> exact ⟨_, _, _, _, rfl⟩

theorem dropStamps_onlyHomes (s : State) (h : HomeId) (b : Nat) : s.OnlyHomes (s.dropStamps h b) := by
  cases h <;> exact ⟨_, _, _, _, rfl⟩

theorem change_onlyHomes (s : State) (h : HomeId) (b : Nat) (f : DirEntry → DirEntry) : s.OnlyHomes (s.change h b f) :=
  (dropChecks_onlyHomes s h b).trans (mapEntry_onlyHomes _ h b f)

theorem bump_onlyHomes (s : State) (h : HomeId) (b : Nat) (f : DirEntry → DirEntry) : s.OnlyHomes (s.bump h b f).2.2 := by
  unfold State.bump
  split
  · exact .refl s
  · refine (dropChecks_onlyHomes s h b).trans ?_
    split
    · exact mapEntry_onlyHomes _ h b _
    · dsimp only
      split
      · exact mapEntry_onlyHomes _ h b _
      · exact .trans ⟨_, _, _, _, rfl⟩ (dropStamps_onlyHomes _ h _)

theorem discardLevels_onlyHomes (s : State) (h : HomeId) (b : Nat) : s.OnlyHomes (s.discardLevels h b) := ⟨_, _, _, _, rfl⟩

theorem endEntry_onlyHomes (s : State) (h : HomeId) (b : Nat) : s.OnlyHomes (s.endEntry h b) :=
  (discardLevels_onlyHomes s h b).trans (bump_onlyHomes _ h b _)

/-- With no sector poisoned a buffer is freed without a record (R437, R439). -/
theorem freeEntry_clean {s : State} (hp : s.poison = []) (h : HomeId) (b : Nat) {e : DirEntry} (he : s.entry h b = some e) :
    s.freeEntry h b = s.endEntry h b := by
  cases s
  simp_all [State.freeEntry, State.withhold]

theorem freeEntry_onlyHomes {s : State} (hp : s.poison = []) (h : HomeId) (b : Nat) : s.OnlyHomes (s.freeEntry h b) := by
  cases he : s.entry h b with
  | none => simpa [State.freeEntry, he] using .refl s
  | some e => rw [freeEntry_clean hp h b he]; exact endEntry_onlyHomes s h b

theorem freeBuffer_onlyHomes (h : HomeId) : ∀ (n : Nat) {s : State} (b : Nat), s.poison = [] → s.OnlyHomes (s.freeBuffer h n b)
  | 0, _, b, hp => freeEntry_onlyHomes hp h b
  | n + 1, s, b, hp => by
    have hf := freeEntry_onlyHomes hp h b
    unfold State.freeBuffer
    simp only
    split
    · exact hf
    · split
      · exact hf
      · split
        · exact hf
        · split
          · exact hf.trans (freeBuffer_onlyHomes h n _ (hf.poison.trans hp))
          · exact hf.trans (change_onlyHomes _ h _ _)

theorem giveBack_onlyHomes {s : State} (hp : s.poison = []) (h : HomeId) (e : DirEntry) (c : Cap) : s.OnlyHomes (s.giveBack h e c) := by
  have hf := freeBuffer_onlyHomes h s.dirs.length e.number hp
  unfold State.giveBack
  split
  · exact hf
  · split
    · exact hf
    · exact change_onlyHomes s h _ _
  · split
    · exact hf
    · exact change_onlyHomes s h _ _

/-! ### Entries after a transition -/

theorem entry_home {s : State} {h : HomeId} {b : Nat} {e : DirEntry} (he : s.entry h b = some e) : e.home = h ∧ e.number = b := by
  simpa using List.find?_some he

/-- A change of an entry that leaves its name alone. -/
def KeepsName (f : DirEntry → DirEntry) : Prop := ∀ o, (f o).home = o.home ∧ (f o).number = o.number

/-- A change of the other fields of one entry leaves every other entry as it is. -/
theorem entry_mapEntry {f : DirEntry → DirEntry} (s : State) (h h' : HomeId) (b b' : Nat)
    (hf : KeepsName f := by exact fun _ => ⟨rfl, rfl⟩) : (s.mapEntry h b f).entry h' b' = (s.entry h' b').map fun e => if h' = h ∧ b' = b then f e else e := by
  have hp : ∀ o : DirEntry, (decide ((if o.home = h && o.number = b then f o else o).home = h') && decide ((if o.home = h && o.number = b then f o else o).number = b')) =
      (decide (o.home = h') && decide (o.number = b')) := by
    intro o
    split <;> simp [hf o]
  simp only [State.entry, State.mapEntry, List.find?_map, Function.comp_def, hp]
  cases he : s.dirs.find? fun e => decide (e.home = h') && decide (e.number = b') with
  | none => rfl
  | some e =>
    obtain ⟨hh, hb⟩ := entry_home (s := s) he
    simp [hh, hb]

theorem entry_mapEntry_same {f : DirEntry → DirEntry} {s : State} {h : HomeId} {b : Nat}
    {e : DirEntry} (he : s.entry h b = some e) (hf : KeepsName f := by exact fun _ => ⟨rfl, rfl⟩) : (s.mapEntry h b f).entry h b = some (f e) := by
  simp [entry_mapEntry s h h b b hf, he]

/-- An entry that no die's check cache holds any more. -/
def DirEntry.unnoted (e : DirEntry) : DirEntry := match e.home with
  | .die _ => { e with dies := 0 }
  | _ => e

theorem DirEntry.unnoted_eq (e : DirEntry) : ∃ d, e.unnoted = { e with dies := d } := by
  unfold DirEntry.unnoted
  split
  · exact ⟨0, rfl⟩
  · exact ⟨e.dies, rfl⟩

theorem entry_dropChecks {s : State} {h : HomeId} {b : Nat} {e : DirEntry} (he : s.entry h b = some e) :
    (s.dropChecks h b).entry h b = some e.unnoted := by
  have hh := (entry_home he).1
  cases h with
  | die d =>
    rw [show e.unnoted = { e with dies := 0 } by simp [DirEntry.unnoted, hh]]
    exact entry_mapEntry_same (f := fun o => { o with dies := 0 }) he
  | _ => rw [show e.unnoted = e by simp [DirEntry.unnoted, hh]]; exact he

theorem entry_change {f : DirEntry → DirEntry} {s : State} {h : HomeId} {b : Nat}
    {e : DirEntry} (he : s.entry h b = some e) (hf : KeepsName f := by exact fun _ => ⟨rfl, rfl⟩) : (s.change h b f).entry h b = some (f e.unnoted) :=
  entry_mapEntry_same (entry_dropChecks he) hf

/-- A transition whose generation can rise keeps the number (R73). -/
theorem bump_rises {f : DirEntry → DirEntry} {s : State} {h : HomeId} {b : Nat} {e : DirEntry} (he : s.entry h b = some e) (hg : e.generation ≠ 0xFFFF) :
    s.bump h b f = (b, e.generation + 1, (s.dropChecks h b).mapEntry h b fun o => { f o with generation := e.generation + 1, dies := 0 }) := by
  have : nextGeneration e.generation = some (e.generation + 1) := if_neg hg
  simp only [State.bump, he, this]

theorem entry_bump {f : DirEntry → DirEntry} {s : State} {h : HomeId} {b : Nat}
    {e : DirEntry} (he : s.entry h b = some e) (hg : e.generation ≠ 0xFFFF) (hf : KeepsName f := by exact fun _ => ⟨rfl, rfl⟩) :
    (s.bump h b f).2.2.entry h b = some { f e.unnoted with generation := e.generation + 1, dies := 0 } := by
  rw [bump_rises he hg]
  exact entry_mapEntry_same (f := fun o => { f o with generation := e.generation + 1, dies := 0 }) (entry_dropChecks he) hf

theorem entry_endEntry {s : State} {h : HomeId} {b : Nat} {e : DirEntry} (he : s.entry h b = some e) (hg : e.generation ≠ 0xFFFF) :
    ∃ o, (s.endEntry h b).entry h b = some o ∧ o.state = .free ∧ o.generation = e.generation + 1 ∧ o.owner = 0 ∧ o.count = 0 := by
  have hd : (s.discardLevels h b).entry h b = some { e with depth := 0 } := entry_mapEntry_same he
  exact ⟨_, entry_bump hd hg, rfl, rfl, rfl, rfl⟩

/-- A buffer that is no child is freed alone (R71). -/
theorem freeBuffer_alone {s : State} {h : HomeId} {b : Nat} {e : DirEntry} (he : s.entry h b = some e) (hl : e.link = none) :
    ∀ n, s.freeBuffer h n b = s.freeEntry h b
  | 0 => rfl
  | n + 1 => by simp [State.freeBuffer, he, hl]

theorem nowHas_freeBuffer {s : State} (hp : s.poison = []) {h : HomeId} {b : Nat} {e : DirEntry} (he : s.entry h b = some e) (hl : e.link = none)
    (hg : e.generation ≠ 0xFFFF) (n : Nat) :
    (s.freeBuffer h n b).nowHas h b fun o => o.state = .free ∧ o.generation = e.generation + 1 ∧ o.owner = 0 ∧ o.count = 0 := by
  rw [freeBuffer_alone he hl, freeEntry_clean hp h b he]
  exact entry_endEntry he hg

end Sys2Proof.Machine
end

section
/-! SUPPORT. `cap.alloc` and `cap.free`: the cap of a new buffer, and what a cap gives back (R71, R77, R319, R320). -/

namespace Sys2Proof.Machine

open Sys2Proof

/-! ### Allocation -/

theorem issueNumber_onlyHomes {s t : State} {h : HomeId} {b : Nat} {g : BitVec 16} (hi : s.issueNumber h = some (b, g, t)) : s.OnlyHomes t := by
  unfold State.issueNumber at hi
  split at hi
  · cases hi
  · split at hi
    · cases hi
      exact dropStamps_onlyHomes s h _
    · split at hi
      · cases hi
        exact dropStamps_onlyHomes s h _
      · obtain ⟨b', -, hb⟩ := Option.map_eq_some_iff.mp hi
        cases hb
        exact (mapEntry_onlyHomes s h _ _).trans (dropStamps_onlyHomes _ h _)

/-- An allocation leaves the tile as it is, and its entry is a clean one of the length and domain asked for (R319). -/
theorem alloc_some {s t : State} {h : HomeId} {len owner quota : Nat} {domain : BitVec 16} {e : DirEntry}
    (ha : s.alloc h len owner domain quota = some (e, t)) :
    e.length = len ∧ e.domain = domain ∧ e.poison = 0 ∧ e.depth = 0 ∧ t.tile = s.tile ∧ t.device = s.device ∧ (s.armed = [] → t.armed = []) := by
  unfold State.alloc at ha
  dsimp only at ha
  split at ha
  · next b g u hf hi =>
    cases ha
    obtain ⟨_, _, _, _, rfl⟩ := issueNumber_onlyHomes hi
    exact ⟨rfl, rfl, rfl, rfl, rfl, rfl, fun harm => by simp [State.zeroRange, harm]⟩
  · cases ha

/-- Where `cap.alloc` takes its buffer from (R319). -/
def State.ownHeap (s : State) (k : BitVec 5) : HomeId := if k = 1 then .tile s.tile.index else .cluster (clusterOf s.tile.index)

section
variable {s : State} (q : s.Quiet) (hk : s.tile.kpre = none) {d a : Reg} {k : BitVec 5} (h12 : k = 1 ∨ k = 2) (hd : s.TakesCap d)
  (h0 : s.tile.rx a ≠ 0) (h40 : (s.tile.rx a).toNat < 2 ^ 40)
include q hk h12 hd h0 h40

/-- `cap.alloc` writes what its home answers (R319). -/
theorem capAlloc_runs :
    exec (.capAlloc d a k) s = match s.alloc (s.ownHeap k) (s.tile.rx a).toNat (s.tile.principal s.device) s.tile.mdomain 0 with
      | none => .next (s.wroteC [(d, Cap.null)])
      | some (e, t) => .next (t.wroteC [(d, t.capOf e (if k = 1 then .tmem else .cmem) (if k = 1 then s.tile.homeName else clusterOf s.tile.homeName)
          ⟨true, true, true, true, true, true⟩ 0)]) := by
  have hn : (s.tile.rx a).toNat ≠ 0 := fun h => h0 (BitVec.eq_of_toNat_eq h)
  have hbad : (decide (k ≠ 1) && decide (k ≠ 2)) = false := by rcases h12 with rfl | rfl <;> rfl
  show execCapAlloc d a k s = _
  unfold execCapAlloc
  rw [run_quiet q _ _ (misplaced_plain hk), act_bind_ok (guardC30_run _ (by simpa using Ne.symm hd.1) s)]
  simp only [hbad, Bool.false_eq_true, if_false]
  rw [act_bind_ok (outsideRegions_quiet q.regions _), act_bind_ok (getX_quiet q.armed a),
    act_bind_ok (requireCap_true (by simpa [hn] using h40) d 9 s), act_bind_ok (freeDest_run hd.2), act_bind_ok (act_get s)]
  unfold State.ownHeap
  cases ha : s.alloc (if k = 1 then .tile s.tile.index else .cluster (clusterOf s.tile.index)) (s.tile.rx a).toNat (s.tile.principal s.device)
    s.tile.mdomain 0 with
  | none => exact congrArg (finish s) (putCaps_quiet q _)
  | some p =>
    obtain ⟨e, t⟩ := p
    obtain ⟨-, -, -, -, ht, -, hq⟩ := alloc_some ha
    have qt : t.Quiet := ⟨hq q.armed, by rw [ht]; exact q.regions⟩
    show finish s ((set t >>= fun _ => putCaps _) s) = _
    rw [act_bind_ok (act_set s t), putCaps_quiet qt]
    rfl

end

/-! ### Freeing -/

/-- `t` is `s` but for the violation log and what the trusted firmware keeps of it (R68). -/
def State.OnlyLogs (s t : State) : Prop :=
  ∃ violations overflow trust, t = { s with violations := violations, violationOverflow := overflow, trust := trust }

theorem refuse_onlyLogs {s : State} (ha : s.armed = []) (q : Claim) (access off reason : Nat) : s.OnlyLogs (s.refuse q access off reason) := by
  simp only [State.refuse, loseStruck_unarmed ha, State.violate]
  split
  · exact ⟨_, _, _, rfl⟩
  · split <;> exact ⟨_, _, _, rfl⟩

/-- A home's refusal of a cap instruction is a trap with cause 24 and the reason; the directory, the cap registers and memory are as before (R67). -/
theorem refuseHome_traps {s : State} (ha : s.armed = []) {α : Type} (r : Reg) (c : Cap) (h : HomeId) (n : Nat) :
    ∃ t v, (refuseHome r c h n : Act α) s = .error (.trap 24 (word n)) t ∧ s.OnlyLogs v ∧ ∃ m, t = { v with tile := { v.tile with mcapinfo := m } } :=
  ⟨_, _, rfl, refuse_onlyLogs ha _ _ _ _, _, rfl⟩

/-- A trap is taken in the state it was raised in, or in the state the instruction began in (R413). -/
theorem trapFrom_cases (s t : State) (c : Nat) (v : Word) : s.trapFrom t c v = t.takeTrap c v ∨ s.trapFrom t c v = s.takeTrap c v := by
  unfold State.trapFrom
  split
  · exact .inl rfl
  · exact .inr rfl

/-- What `cap.free` has done when its home has given the buffer or the share back (R320). -/
def State.freed (s : State) (a : Reg) (c : Cap) : State := { s with tile := (s.tile.setC a Cap.null).forget c }

section
variable {s : State} (hs : s.Settled) (hk : s.tile.kpre = none) {a : Reg} (ha : a ≠ 30) {h : HomeId} {e : DirEntry}
  (k : s.Keeps (s.tile.rc a) h e (s.tile.rc a).mode.state)
  (ho : (s.tile.rc a).mode = .exclusive → e.owner = s.tile.principal s.device)
include hs hk ha k ho

/-- Up to its home `cap.free` passes, and what the home does then decides (R320). -/
theorem capFree_reaches : exec (.capFree a) s = finish s (if e.owes (s.tile.rc a) then
      .ok () ((s.giveBack h e (s.tile.rc a)).freed a (s.tile.rc a)) else (refuseHome a (s.tile.rc a) h 2 : Act Unit) s) := by
  have h5 : (s.tile.rc a).kind ≠ .host := by rcases k.kind with h | h | h <;> simp [h]
  have h0 : (s.tile.rc a).kind ≠ .null ∧ (s.tile.rc a).kind ≠ .handle ∧ (s.tile.rc a).kind ≠ .slot := by rcases k.kind with h | h | h <;> simp [h]
  show execCapFree a s = _
  unfold execCapFree
  rw [run_quiet hs.toQuiet _ _ (misplaced_plain hk), act_bind_ok (guardC30_run _ (by simpa using Ne.symm ha) s),
    act_bind_ok (outsideRegions_quiet hs.regions _), act_bind_ok (sourceCap_run hs.armed a true h0.1 h0.2.1 h0.2.2 (.inl rfl))]
  simp only [ne_eq, h5, not_false_eq_true, if_true]
  rw [act_bind_ok (guardRegions_settled hs a _), act_bind_ok (lentStall_run k.lent a s)]
  refine congrArg (finish s) ((passes_ite (drain_settled hs k.home k.awake) _ _).trans ?_)
  have hmode : ∀ m : CapMode, (m.state ≠ .free ∧ m.state ≠ .carved) ∧ (m.state = .exclusive → m = .exclusive) := by intro m; cases m <;> decide
  have hgive := giveBack_onlyHomes hs.poison h e (s.tile.rc a)
  rw [act_bind, homeAct_keeps hs k a _ _ 0 _ _ (hmode _).1 fun hx _ => ho ((hmode _).2 hx)]
  cases how : e.owes (s.tile.rc a) with
  | true => simp [act_bind, act_map, putCaps_quiet (hgive.quiet hs.toQuiet), dropIfLast, State.freed]
  | false =>
    obtain ⟨t, v, hr, -⟩ := refuseHome_traps hs.armed (α := Unit) a (s.tile.rc a) h 2
    simp [act_bind, hr]

theorem capFree_done (how : e.owes (s.tile.rc a) = true) : ∃ t : State, exec (.capFree a) s = .next t ∧
    s.movedCaps t [(a, Cap.null)] [s.tile.rc a] ∧ ∀ b, t.entry h b = (s.giveBack h e (s.tile.rc a)).entry h b := by
  have hgive := giveBack_onlyHomes hs.poison h e (s.tile.rc a)
  have hrun := capFree_reaches hs hk ha k ho
  rw [if_pos how, finish_ok] at hrun
  refine ⟨_, hrun, ⟨?_, hgive.mem⟩, fun _ => rfl⟩
  simp [State.retired, State.freed, hgive.tile]

theorem capFree_refused (how : e.owes (s.tile.rc a) = false) :
    ∃ u : State, exec (.capFree a) s = .next (u.takeTrap 24 2) ∧ u.dirs = s.dirs ∧ u.tile.c = s.tile.c ∧ u.mem = s.mem := by
  obtain ⟨t, v, hr, ⟨_, _, _, rfl⟩, m, rfl⟩ := refuseHome_traps hs.armed (α := Unit) a (s.tile.rc a) h 2
  have hrun := capFree_reaches hs hk ha k ho
  rw [if_neg (by simp [how]), hr, finish_trap] at hrun
  rcases trapFrom_cases s _ 24 (word 2) with hc | hc <;> rw [hc] at hrun
  · exact ⟨_, hrun, rfl, rfl, rfl⟩
  · exact ⟨s, hrun, rfl, rfl, rfl⟩

end

/-- What a share gives back: its weight, or one of the exec count (R71). -/
def Cap.owed (c : Cap) : Nat := if c.mode = .exec then 1 else c.weight.toNat

theorem owes_share {c : Cap} (hm : c.mode ≠ .exclusive) (e : DirEntry) : e.owes c = decide (c.owed ≤ e.count) := by
  unfold DirEntry.owes Cap.owed
  cases hc : c.mode <;> simp_all

theorem giveBack_share {c : Cap} (hm : c.mode ≠ .exclusive) (s : State) (h : HomeId) (e : DirEntry) :
    s.giveBack h e c = if e.count ≤ c.owed then s.freeBuffer h s.dirs.length e.number
      else s.change h e.number fun e => { e with count := e.count - c.owed } := by
  unfold State.giveBack Cap.owed
  cases hc : c.mode <;> simp_all

theorem giveBack_exclusive {c : Cap} (hm : c.mode = .exclusive) (s : State) (h : HomeId) (e : DirEntry) :
    s.giveBack h e c = s.freeBuffer h s.dirs.length e.number := by
  simp [State.giveBack, hm]

theorem nowHas_of_entry {t u : State} {h : HomeId} {b : Nat} {p : DirEntry → Prop} (he : ∀ b, t.entry h b = u.entry h b) (hu : u.nowHas h b p) :
    t.nowHas h b p := by
  simpa only [State.nowHas, he] using hu

theorem State.nowHas.mono {t : State} {h : HomeId} {b : Nat} {p q : DirEntry → Prop} (ht : t.nowHas h b p) (hpq : ∀ o, p o → q o) : t.nowHas h b q := by
  obtain ⟨e, he, hp⟩ := ht
  exact ⟨e, he, hpq e hp⟩

theorem nowHas_change {f : DirEntry → DirEntry} {s : State} {h : HomeId} {b : Nat} {e : DirEntry} (he : s.entry h b = some e) {p : DirEntry → Prop}
    (hp : ∀ d, p (f { e with dies := d })) (hf : KeepsName f := by exact fun _ => ⟨rfl, rfl⟩) : (s.change h b f).nowHas h b p := by
  obtain ⟨d, hd⟩ := e.unnoted_eq
  exact ⟨_, entry_change he hf, by rw [hd]; exact hp d⟩

/-- Settles O34: allocation writes what the home answers; a free reaches `State.giveBack` or is refused. -/
theorem allocAndFreeResults : Obligations.AllocAndFreeResults := by
  intro s d a h e hs hk c
  refine ⟨fun k h12 hd h0 h40 => ?_, fun ha o => ?_, fun ha hm k => ?_⟩
  · have hrun := capAlloc_runs hs.toQuiet hk h12 hd h0 h40
    unfold State.ownHeap at hrun
    dsimp only
    cases hal : s.alloc (if k = 1 then .tile s.tile.index else .cluster (clusterOf s.tile.index)) (s.tile.rx a).toNat (s.tile.principal s.device)
      s.tile.mdomain 0 with
    | none => simpa only [hal] using hrun
    | some p =>
      obtain ⟨e', t⟩ := p
      obtain ⟨hl, hdom, hp, hdep, -, hdev, -⟩ := alloc_some hal
      simp only [hal] at hrun
      simp only [hrun, State.capOf, State.sign, hdev, hl, hdom, hp, hdep]
      rfl
  · obtain ⟨hh, hn⟩ := entry_home o.entry
    obtain ⟨t, ht, hmoved, hentry⟩ := capFree_done hs hk ha (by rw [o.mode]; exact o.toKeeps) (fun _ => o.owner)
      (by rw [DirEntry.owes, o.mode])
    refine ⟨t, ht, hmoved, fun hlink hgen => nowHas_of_entry hentry ?_⟩
    rw [giveBack_exclusive o.mode, hn]
    exact nowHas_freeBuffer hs.poison o.entry hlink hgen _
  · obtain ⟨hh, hn⟩ := entry_home k.entry
    have howes : e.owes (s.tile.rc a) = decide (c.owed ≤ e.count) := owes_share hm e
    refine ⟨fun (hw : c.owed ≤ e.count) => ?_, fun (hw : e.count < c.owed) => capFree_refused hs hk ha k (absurd · hm) (by simpa [howes] using hw)⟩
    obtain ⟨t, ht, hmoved, hentry⟩ := capFree_done hs hk ha k (absurd · hm) (by simpa [howes] using hw)
    rw [giveBack_share hm, hn] at hentry
    refine ⟨t, ht, hmoved, fun (hlt : c.owed < e.count) => nowHas_of_entry hentry ?_, fun (heq : c.owed = e.count) hlink hgen => nowHas_of_entry hentry ?_⟩
    · rw [if_neg (Nat.not_le.mpr hlt)]
      exact nowHas_change k.entry fun _ => ⟨rfl, rfl, rfl⟩
    · rw [if_pos heq.ge]
      exact (nowHas_freeBuffer hs.poison k.entry hlink hgen _).mono fun o ho => ⟨ho.1, ho.2.1⟩

end Sys2Proof.Machine
end

section
/-! SUPPORT. `cap.join`, the reclaim and `cap.seal`: what a home makes of the last share, and what the tile writes (R71, R75, R76, R324). -/

namespace Sys2Proof.Machine

open Sys2Proof

theorem issue_congr {s t : State} (h : t.device = s.device) (c : Cap) (e : DirEntry) : t.issue c e = s.issue c e := by
  simp only [State.issue, State.sign, h]

theorem sign_congr {s t : State} (h : t.device = s.device) (c : Cap) : t.sign c = s.sign c := by simp only [State.sign, h]

/-- The entry of a shared buffer that its home has made Exclusive again for an owner (R71). -/
def DirEntry.regained (e : DirEntry) (owner : Nat) : DirEntry :=
  { e with state := .exclusive, count := 0, foldOp := 0, owner := owner, generation := e.generation + 1, dies := 0 }

theorem entryNow_run {s : State} {h : HomeId} {b : Nat} {e : DirEntry} (he : s.entry h b = some e) (r : Reg) : entryNow r h b s = .ok e s := by
  simp [entryNow, act_bind, he]

/-- A shared buffer's entry as its home makes it Exclusive, the generation apart (R71). -/
def DirEntry.claimedBy (owner : Nat) (e : DirEntry) : DirEntry := { e with state := .exclusive, count := 0, foldOp := 0, owner := owner }

/-- The home makes a shared buffer Exclusive under its own number while the generation can rise (R71, R73). -/
theorem makeExclusive_run {s : State} {h : HomeId} {b : Nat} {e : DirEntry} (he : s.entry h b = some e) (hg : e.generation ≠ 0xFFFF) (r : Reg) :
    ∃ t, makeExclusive r h e s = .ok (e.regained (s.tile.principal s.device)) t ∧ s.OnlyHomes t ∧
      t.entry h b = some (e.regained (s.tile.principal s.device)) := by
  obtain ⟨-, hn⟩ := entry_home he
  obtain ⟨d, hd⟩ := e.unnoted_eq
  have hfst : (s.bump h b (DirEntry.claimedBy (s.tile.principal s.device))).1 = b := by rw [bump_rises he hg]
  have hx : (s.bump h b (DirEntry.claimedBy (s.tile.principal s.device))).2.2.entry h b = some (e.regained (s.tile.principal s.device)) := by
    rw [entry_bump he hg, hd]
    rfl
  refine ⟨_, ?_, bump_onlyHomes s h b _, hx⟩
  show (set (s.bump h e.number (DirEntry.claimedBy (s.tile.principal s.device))).2.2 >>= fun _ =>
    entryNow r h (s.bump h e.number (DirEntry.claimedBy (s.tile.principal s.device))).1) s = _
  rw [hn, hfst, act_bind_ok (act_set s _)]
  exact entryNow_run hx r

/-- The state of a tile that has written caps and dropped the tags of others, at a home that has changed its directory. -/
theorem movedCaps_of_onlyHomes {s t : State} (h : s.OnlyHomes t) (rs : List (Reg × Cap)) (gone : List Cap) :
    s.movedCaps { t with tile := (gone.foldl Tile.forget (rs.foldl (fun t p => t.setC p.1 p.2) t.tile)).retire } rs gone :=
  ⟨by rw [h.tile], h.mem⟩

/-- A transition that its home carries out (R71). -/
theorem homeAct_done {s t : State} (hs : s.Settled) {c : Cap} {h : HomeId} {e e' : DirEntry} {st : DirState} (k : s.Keeps c h e st) {r : Reg}
    {owned : Bool} {bad op : Nat} {args : List Nat} {act : HomeId → DirEntry → Act DirEntry} (hst : st ≠ .free ∧ st ≠ .carved)
    (ho : st = .exclusive → owned = true → e.owner = s.tile.principal s.device) (hact : act h e s = .ok e' t) :
    homeAct r c [st] owned bad op args act s = .ok (h, e') t := by
  rw [homeAct_keeps hs k r owned bad op args act hst ho]
  exact act_bind_ok hact

/-- A transition that its home does not carry out. -/
theorem homeAct_stops {s t : State} (hs : s.Settled) {c : Cap} {h : HomeId} {e : DirEntry} {st : DirState} (k : s.Keeps c h e st) {r : Reg}
    {owned : Bool} {bad op : Nat} {args : List Nat} {act : HomeId → DirEntry → Act DirEntry} {x : Stop} (hst : st ≠ .free ∧ st ≠ .carved)
    (ho : st = .exclusive → owned = true → e.owner = s.tile.principal s.device) (hact : act h e s = .error x t) :
    homeAct r c [st] owned bad op args act s = .error x t := by
  rw [homeAct_keeps hs k r owned bad op args act hst ho]
  exact act_bind_error hact

section
variable {s : State} (hs : s.Settled) {d a : Reg} (hd : d ≠ 30) (ha : a ≠ 30) (hl : (s.tile.rc d).lent = false) {h : HomeId} {e : DirEntry}

/-- The modes of shares have states in which their homes take control requests. -/
theorem mode_state (m : CapMode) : (m.state ≠ .free ∧ m.state ≠ .carved) ∧ (m.state = .exclusive → m = .exclusive) := by cases m <;> decide

/-! ### The reclaim (R76) -/

section
variable (hk : s.tile.kpre = none) (k : s.Keeps (s.tile.rc a) h e (s.tile.rc a).mode.state) (hm : (s.tile.rc a).mode ≠ .exclusive)
include hs hk hd ha hl k hm

theorem capReclaim_cases :
    (e.count = (s.tile.rc a).owed → e.generation ≠ 0xFFFF → ∃ t : State, exec (.capReclaim d a) s = .next t ∧
      s.movedCaps t [(a, Cap.null), (d, s.issue (s.tile.rc a) (e.regained (s.tile.principal s.device)))] [s.tile.rc a] ∧
      t.entry h (s.tile.rc a).buffer.toNat = some (e.regained (s.tile.principal s.device))) ∧
    (e.count ≠ (s.tile.rc a).owed → exec (.capReclaim d a) s = .next (s.stallOn (.reclaim a))) := by
  have h0 : (s.tile.rc a).kind ≠ .null ∧ (s.tile.rc a).kind ≠ .handle ∧ (s.tile.rc a).kind ≠ .slot ∧ (s.tile.rc a).kind ≠ .host := by
    rcases k.kind with h | h | h <;> simp [h]
  have he : exec (.capReclaim d a) s = execCapReclaim d a s := rfl
  have hr : reclaimable e (s.tile.rc a) = decide (e.count = (s.tile.rc a).owed) := by unfold reclaimable Cap.owed; split <;> rfl
  rw [he]
  unfold execCapReclaim
  rw [run_quiet hs.toQuiet _ _ (misplaced_plain hk), act_bind_ok (guardC30_run _ (by simp [Ne.symm hd, Ne.symm ha]) s),
    act_bind_ok (outsideRegions_quiet hs.regions _), act_bind_ok (sourceCap_run hs.armed a false h0.1 h0.2.1 h0.2.2.1 (.inr h0.2.2.2)),
    act_bind_ok (requireCap_true (by simpa using hm) a 4 s), act_bind_ok (guardRegions_settled hs a _), act_bind_ok (lentStall_run k.lent a s),
    act_bind_ok (freeDest_run hl), act_bind_ok (drain_settled hs k.home k.awake)]
  constructor
  · intro hc hg
    obtain ⟨t, ht, honly, hentry⟩ := makeExclusive_run k.entry hg a
    refine ⟨_, ?_, movedCaps_of_onlyHomes honly _ _, hentry⟩
    rw [act_bind_ok (homeAct_done (t := t) (e' := e.regained _) hs k (mode_state _).1 (by simp) (by simpa [hr, hc] using ht))]
    dsimp only
    rw [act_bind_ok (act_get t), act_bind_ok (putCaps_quiet (honly.quiet hs.toQuiet) _), issue_congr honly.device]
    rfl
  · intro hc
    rw [act_bind_error (homeAct_stops (t := s) (x := .wait (.reclaim a)) hs k (mode_state _).1 (by simp) (by simp [hr, hc, act_bind]))]
    rfl

end

/-! ### The seal (R324) -/

section
variable (hk : s.tile.kpre = none) (o : s.Owns (s.tile.rc a) h e) (hp : (s.tile.rc a).rights.p = true)
include hs hk hd ha hl o hp

theorem capSealX_runs : ∃ t : State, exec (.capSealX d a) s = .next t ∧
    s.movedCaps t ((if d = a then [] else [(a, Cap.null)]) ++ [(d, s.sign { s.tile.rc a with mode := .exec, weight := 0 })]) [] ∧
    t.nowHas h (s.tile.rc a).buffer.toNat fun o => o.state = .execShared ∧ o.count = 1 ∧ o.generation = e.generation ∧ o.owner = e.owner := by
  have h0 : (s.tile.rc a).kind ≠ .null ∧ (s.tile.rc a).kind ≠ .handle ∧ (s.tile.rc a).kind ≠ .slot ∧ (s.tile.rc a).kind ≠ .host := by
    rcases o.kind with h | h | h <;> simp [h]
  have hn := (entry_home o.entry).2
  have honly := change_onlyHomes s h (s.tile.rc a).buffer.toNat fun e => { e with state := .execShared, count := 1, owner := s.tile.principal s.device }
  have hnow := nowHas_change (f := fun e => { e with state := .execShared, count := 1, owner := s.tile.principal s.device }) o.entry
    (p := fun o => o.state = .execShared ∧ o.count = 1 ∧ o.generation = e.generation ∧ o.owner = e.owner) fun _ => ⟨rfl, rfl, rfl, o.owner.symm⟩
  have he : exec (.capSealX d a) s = execCapSealX d a s := rfl
  rw [he]
  unfold execCapSealX
  rw [run_quiet hs.toQuiet _ _ (misplaced_plain hk), act_bind_ok (guardC30_run _ (by simp [Ne.symm hd, Ne.symm ha]) s),
    act_bind_ok (outsideRegions_quiet hs.regions _), act_bind_ok (sourceCap_run hs.armed a false h0.1 h0.2.1 h0.2.2.1 (.inr h0.2.2.2)),
    act_bind_ok (requireCap_true (by simp [Cap.eff, o.mode, hp]) a 4 s), act_bind_ok (guardRegions_settled hs a _),
    act_bind_ok (lentStall_run o.lent a s), act_bind_ok (freeDest_run hl), act_bind_ok (drain_settled hs o.home o.awake),
    act_bind_ok (homeAct_done hs o.toKeeps (by decide) (fun _ _ => o.owner) rfl), hn, act_bind_ok (act_get _), sign_congr honly.device,
    putCaps_quiet (honly.quiet hs.toQuiet)]
  refine ⟨_, ?_, movedCaps_of_onlyHomes honly _ _, hnow⟩
  by_cases hda : d = a
  · simp only [if_pos hda]
    rfl
  · simp only [if_neg hda]
    rfl

end

/-! ### The join (R75) -/

/-- Two shares that a join takes together (R75): the second is not lent and agrees with the first. -/
structure Cap.Joins (c cb : Cap) : Prop where
  lent : cb.lent = false
  mode : cb.mode = c.mode
  kind : cb.kind = c.kind
  location : cb.location = c.location
  buffer : cb.buffer = c.buffer
  domain : cb.domain = c.domain
  generation : cb.generation = c.generation
  foldOp : cb.foldOp = c.foldOp

/-- What a join makes of two shares, the weight apart (R75). -/
def Cap.joined (c cb : Cap) : Cap := { c with rights := c.rights.and cb.rights, z := c.z || cb.z }

section
variable (hk : s.tile.kpre = none) {b : Reg} (hb : b ≠ 30) (hab : a ≠ b) (k : s.Keeps (s.tile.rc a) h e (s.tile.rc a).mode.state)
  (hm : (s.tile.rc a).mode ≠ .exclusive) (j : (s.tile.rc a).Joins (s.tile.rc b))
include hs hk hd ha hl hb hab k hm j

theorem capJoin_cases :
    let sum := (s.tile.rc a).weight.toNat + (s.tile.rc b).weight.toNat
    ((s.tile.rc a).mode ≠ .exec → sum < 65536 → exec (.capJoin d a b) s =
      .next (s.wroteC [(a, Cap.null), (b, Cap.null), (d, s.sign { (s.tile.rc a).joined (s.tile.rc b) with weight := BitVec.ofNat 17 sum })])) ∧
    ((s.tile.rc a).mode ≠ .exec → sum = 65536 → e.count = 65536 → e.generation ≠ 0xFFFF → ∃ t : State, exec (.capJoin d a b) s = .next t ∧
      s.movedCaps t [(a, Cap.null), (b, Cap.null), (d, s.issue ((s.tile.rc a).joined (s.tile.rc b)) (e.regained (s.tile.principal s.device)))]
        [s.tile.rc a] ∧ t.entry h (s.tile.rc a).buffer.toNat = some (e.regained (s.tile.principal s.device))) ∧
    ((s.tile.rc a).mode = .exec → 1 < e.count → ∃ t : State, exec (.capJoin d a b) s = .next t ∧
      s.movedCaps t [(a, Cap.null), (b, Cap.null), (d, s.sign ((s.tile.rc a).joined (s.tile.rc b)))] [] ∧
      t.nowHas h (s.tile.rc a).buffer.toNat fun o => o.state = .execShared ∧ o.count = e.count - 1 ∧ o.generation = e.generation) := by
  intro sum
  have h0 : (s.tile.rc a).kind ≠ .null ∧ (s.tile.rc a).kind ≠ .handle ∧ (s.tile.rc a).kind ≠ .slot ∧ (s.tile.rc a).kind ≠ .host := by
    rcases k.kind with h | h | h <;> simp [h]
  have hn := (entry_home k.entry).2
  have he : exec (.capJoin d a b) s = execCapJoin d a b s := rfl
  have hguard : guardKind a (s.tile.rc a) false s = .ok () s := requireCap_true (by simp [h0]) a 4 s
  rw [he]
  unfold execCapJoin
  rw [run_quiet hs.toQuiet _ _ (misplaced_plain hk), act_bind_ok (guardC30_run _ (by simp [Ne.symm hd, Ne.symm ha, Ne.symm hb]) s),
    act_bind_ok (getC_run s a), act_bind_ok (getC_run s b)]
  simp only [passes_ite (outsideRegions_quiet hs.regions _)]
  rw [act_bind_ok (useCap_quiet hs.armed a), act_bind_ok (useCap_quiet hs.armed b), act_bind_ok (requireCap_true (decide_eq_true hab) a 4 s),
    act_bind_ok (requireCap_true (decide_eq_true h0.1) a 4 s), act_bind_ok hguard,
    act_bind_ok (requireCap_true (by simp [hm, j.mode, j.kind, j.location, j.buffer, j.domain]) a 4 s),
    act_bind_ok (requireCap_true (decide_eq_true j.generation.symm) a 2 s), act_bind_ok (requireCap_true (by simp [j.foldOp]) a 11 s)]
  refine ⟨fun hx hlt => ?_, fun hx heq hcount hg => ?_, fun hx hcount => ?_⟩
  · have hne : (s.tile.rc a).weight.toNat + (s.tile.rc b).weight.toNat ≠ 65536 := Nat.ne_of_lt hlt
    rw [act_bind_ok (requireCap_true (by simpa [hx] using Nat.le_of_lt hlt) a 9 s), if_neg (by simp [hne]), act_bind_ok (lentStall_run k.lent a s),
      act_bind_ok (lentStall_run j.lent b s), act_bind_ok (freeDest_run hl), if_neg hne]
    simp only
    rw [act_bind_ok (act_get s), putCaps_quiet hs.toQuiet]
    rfl
  · obtain ⟨t, ht, honly, hentry⟩ := makeExclusive_run k.entry hg a
    refine ⟨_, ?_, movedCaps_of_onlyHomes honly _ _, hentry⟩
    have hsum : (s.tile.rc a).weight.toNat + (s.tile.rc b).weight.toNat = 65536 := heq
    rw [act_bind_ok (requireCap_true (by simp [hsum]) a 9 s), if_pos (by simp [hx, hsum]), act_bind_ok (guardRegions_settled hs a _),
      act_bind_ok (guardRegions_settled hs b _), act_bind_ok (lentStall_run k.lent a s), act_bind_ok (lentStall_run j.lent b s),
      act_bind_ok (freeDest_run hl), if_pos hsum]
    simp only
    rw [act_bind_ok (drain_settled hs k.home k.awake),
      act_bind_ok (homeAct_done (t := t) (e' := e.regained _) hs k (mode_state _).1 (by simp) (by simpa [hcount] using ht)),
      act_bind_ok (act_get t), act_bind_ok (putCaps_quiet (honly.quiet hs.toQuiet) _), issue_congr honly.device]
    rfl
  · have honly := change_onlyHomes s h (s.tile.rc a).buffer.toNat fun e => { e with count := e.count - 1 }
    have hst : e.state = .execShared := by rw [k.state, hx]; rfl
    have hnow := nowHas_change (f := fun e => { e with count := e.count - 1 }) k.entry
      (p := fun o => o.state = .execShared ∧ o.count = e.count - 1 ∧ o.generation = e.generation) fun _ => ⟨hst, rfl, rfl⟩
    refine ⟨_, ?_, movedCaps_of_onlyHomes honly _ _, hnow⟩
    rw [act_bind_ok (requireCap_true (by simp [hx]) a 9 s), if_neg (by simp [hx]), act_bind_ok (lentStall_run k.lent a s),
      act_bind_ok (lentStall_run j.lent b s), act_bind_ok (freeDest_run hl)]
    have hk' : s.Keeps (s.tile.rc a) h e .execShared := by have := k; rwa [hx] at this
    simp only [hx]
    rw [act_bind_ok (homeAct_done (t := s.change h e.number _) (e' := e) hs hk' (by decide) (by simp)
        (by rw [if_neg (by omega : ¬ e.count ≤ 1)]; exact act_bind_ok (act_modify _ s))), hn, act_bind_ok (act_get _),
      putCaps_quiet (honly.quiet hs.toQuiet), sign_congr honly.device, ← hx]
    rfl

end

end

theorem nowHas_regained {t : State} {h : HomeId} {b owner : Nat} {e : DirEntry} (ht : t.entry h b = some (e.regained owner)) :
    t.nowHas h b fun o => o.state = .exclusive ∧ o.generation = e.generation + 1 ∧ o.count = 0 ∧ o.owner = owner :=
  ⟨_, ht, rfl, rfl, rfl, rfl⟩

/-- Settles O37: the join, the reclaim and the seal, each by what its home makes of the entry. -/
theorem joinReclaimSealResults : Obligations.JoinReclaimSealResults := by
  intro s d a b h e hs hk hd ha hl c cb sum j mine next
  refine ⟨fun hab hb k hm hlent hmode hkind hloc hbuf hdom hgen hop => ?_, fun k hm hg => ?_, fun o hp => capSealX_runs hs hd ha hl hk o hp⟩
  · have hj : c.Joins cb := ⟨hlent, hmode, hkind, hloc, hbuf, hdom, hgen, hop⟩
    obtain ⟨hadd, hwhole, hexec⟩ := capJoin_cases hs hd ha hl hk hb hab k hm hj
    refine ⟨hadd, fun hx hsum hcount hg => ?_, hexec⟩
    obtain ⟨t, ht, hmoved, hentry⟩ := hwhole hx hsum hcount hg
    exact ⟨t, ht, hmoved, nowHas_regained hentry⟩
  · obtain ⟨hlast, hmore⟩ := capReclaim_cases hs hd ha hl hk k hm
    refine ⟨fun heq => ?_, hmore⟩
    obtain ⟨t, ht, hmoved, hentry⟩ := hlast heq hg
    exact ⟨t, ht, hmoved, nowHas_regained hentry⟩

end Sys2Proof.Machine
end

section
/-! SUPPORT. Splits: what the tile writes in each mode, the notice it posts, and what the home makes of the notice (R71, R72, R74). -/

namespace Sys2Proof.Machine

open Sys2Proof

/-! ### The home serves a tile's request -/

/-- The answer of a home to a request of a tile of this device: the request leaves the queue, the reply is the last, and memory and directories stay. -/
theorem answered_done {s u : State} {r : Request} (hr : r.remote = none) (hq : u.requests = s.requests) (hp : u.replies = s.replies) :
    s.Answers (u.answered r none) r .done ∧ (u.answered r none).mem = u.mem ∧ (u.answered r none).dirs = u.dirs := by
  have hack (v : State) : (v.acked r).requests = v.requests ∧ (v.acked r).replies = v.replies ∧ (v.acked r).mem = v.mem ∧ (v.acked r).dirs = v.dirs := by
    unfold State.acked
    split <;> simp
  unfold State.answered State.Answers
  cases r.home <;> simp [hr, hack, hq, hp]

/-- A claim that passes the checks of a control request (R66). -/
theorem checkControl_passes {s : State} {q : Claim} {e : DirEntry} {st : DirState} {owned : Bool} {bad : Nat} (he : s.entry q.home q.buffer = some e)
    (hk : s.gone e = false) (hst : e.state = st) (hne : st ≠ .free ∧ st ≠ .carved) (hg : e.generation = q.generation) (hd : e.domain = q.domain)
    (hf : s.rangeLeaves q e = false) (hw : q.inWindow e = false) (ho : st = .exclusive → owned = true → e.owner = q.principal) :
    s.checkControl q [st] owned bad = none := by
  simp [State.checkControl, he, hk, hst, hne, hg, hd, hf, hw]
  exact fun h1 h2 => by simp [ho h1 h2]

theorem serve_plain {s : State} {n : Nat} {r : Request} {e : DirEntry} (v : s.Serves n r e) : s.serve r = s.serveAt r r.claim e.base := by
  simp [State.serve, v.awake, v.plain, v.entry]

/-- A request that is no merge is never held at its slice (R188). -/
theorem mergeHeld_none {s : State} {r : Request} (h : ∀ u, r.kind ≠ .merge u) : s.mergeHeld r = none := by
  unfold State.mergeHeld
  split
  · next u hu => exact absurd hu (h u)
  · rfl

/-- The notice of a split at the home that the cap names (R71, R74). -/
theorem notice_served {s : State} {n : Nat} {r : Request} {e : DirEntry} {m : DirState} {op : BitVec 5} (v : s.Serves n r e) (hk : r.kind = .notice m op)
    (hx : e.state = .exclusive) (ho : e.owner = r.principal) :
    ∃ t : State, exec (.homeAccessRequest n) s = .next t ∧ s.Answers t r .done ∧ t.mem = s.mem ∧
      t.nowHas r.home r.buffer fun o => o.state = m ∧ o.count = 65536 ∧ o.foldOp = op ∧ o.generation = e.generation ∧ o.owner = e.owner := by
  have hc : s.checkControl r.claim [.exclusive] true = none :=
    checkControl_passes v.entry v.kept hx (by decide) v.generation v.domain v.fits v.window fun _ _ => ho
  have hserve : s.serve r = .done (s.change r.home r.buffer fun e => { e with state := m, count := 65536, foldOp := op, owner := r.principal }) := by
    have hnote : s.applyNotice r.claim m op = .done (s.change r.home r.buffer fun e => { e with state := m, count := 65536, foldOp := op, owner := r.principal }) := by
      unfold State.applyNotice
      rw [hc]
      rfl
    rw [serve_plain v]
    simp only [State.serveAt, hk, hnote]
  have honly := change_onlyHomes s r.home r.buffer fun e => { e with state := m, count := 65536, foldOp := op, owner := r.principal }
  have hnow := nowHas_change (f := fun e => { e with state := m, count := 65536, foldOp := op, owner := r.principal }) v.entry
    (p := fun o => o.state = m ∧ o.count = 65536 ∧ o.foldOp = op ∧ o.generation = e.generation ∧ o.owner = e.owner) fun _ => ⟨rfl, rfl, rfl, rfl, ho.symm⟩
  obtain ⟨ha, hm, hdirs⟩ := answered_done (s := s) (u := s.change r.home r.buffer _) v.local' (by obtain ⟨_, _, _, _, h⟩ := honly; rw [h])
    (by obtain ⟨_, _, _, _, h⟩ := honly; rw [h])
  refine ⟨_, ?_, ha, hm.trans honly.mem, by simpa only [State.nowHas, State.entry, hdirs] using hnow⟩
  show execHomeAccessRequest n s = _
  simp only [execHomeAccessRequest, v.here, State.serveRequest, v.first, mergeHeld_none (r := r) (by simp [hk]), hserve]
  rfl

/-! ### The tile splits (R74) -/

/-- The two shares that a split of a cap by a weight writes. -/
def State.halves (s : State) (d a : Reg) (c : Cap) (w : Nat) : List (Reg × Cap) :=
  [(a, s.sign { c with weight := c.weight - BitVec.ofNat 17 w }), (d, s.sign { c with weight := BitVec.ofNat 17 w })]

/-- The operand of a split has no unassigned bit set (R74). -/
def splitOperand (fold : Bool) (v : Nat) : Bool := if fold then v / 2 ^ 17 % 2 ^ 15 = 0 && v / 2 ^ 37 = 0 else v / 2 ^ 17 = 0

theorem Cap.eff_p (c : Cap) : c.eff.p = c.rights.p := by unfold Cap.eff; split <;> rfl

/-- The tile after it has posted a request to a home. -/
def Tile.posted (t : Tile) : Tile := ({ t with serial := t.serial + 1 } : Tile).countPacket 5 true

/-- The state after the notice of a split has been posted (R72). -/
def State.noticed (s : State) (c : Cap) (h : HomeId) (m : DirState) (op : BitVec 5) : State :=
  { s with
    tile := s.tile.posted
    requests := [{ serial := s.tile.serial, tile := s.tile.index, principal := s.tile.principal s.device, home := h, buffer := c.buffer.toNat,
                   generation := c.generation, domain := c.domain, kind := .notice m op }] }

theorem postSplit_run {s : State} (hs : s.Settled) {c : Cap} {h : HomeId} (hh : s.homeOf c = some h) (h4 : c.kind ≠ .remote) (h7 : c.kind ≠ .slot)
    (m : CapMode) (op : BitVec 5) (w : Nat) : postSplit c m op w s = .ok () (s.noticed c h m.state op) := by
  simp [postSplit, act_bind, hh, h4, State.post, h7, hs.requests, State.noticed, Tile.posted]

section
variable {s : State} (hs : s.Settled) {d a b : Reg} (hd : d ≠ 30) (hl : (s.tile.rc d).lent = false) (hda : d ≠ a) (ha : a ≠ 30 ∨ (s.tile.rc a).mode = .exec)
  (ho : (s.tile.rc a).Ordinary) (h5 : (s.tile.rc a).kind ≠ .host) (hp : (s.tile.rc a).rights.p = true) (i : Instr) (fold : Bool)
  (hv : splitOperand fold (s.rs2Of b).toNat = true)
include hs hd hl hda ha ho h5 hp hv

/-- What a split does by the mode of its source: it divides a share, divides an exclusive cap and posts a notice, or adds to an exec count at the home. -/
theorem split_cases :
    let c := s.tile.rc a
    let w := (s.rs2Of b).toNat % 2 ^ 17
    let f : BitVec 5 := BitVec.ofNat 5 ((s.rs2Of b).toNat / 2 ^ 32)
    let m : CapMode := if fold then .fold else .read
    let op : BitVec 5 := if fold then f else 0
    (c.mode = m → (fold = true → f = 0) → 1 ≤ w ∧ w + 1 ≤ c.weight.toNat →
      split i fold d a b s = .ok () { s with tile := (s.halves d a c w).foldl (fun t p => t.setC p.1 p.2) s.tile }) ∧
    (∀ h e, s.Owns c h e → (fold = true → c.depth = 0 ∧ validFoldOp f = true) → 1 ≤ w ∧ w + 1 ≤ c.weight.toNat →
      let u := s.noticed c h m.state op
      split i fold d a b s = .ok () { u with tile := (s.halves d a { c with mode := m, foldOp := op } w).foldl (fun t p => t.setC p.1 p.2) u.tile }) ∧
    (∀ h e, c.mode = .exec → fold = false → s.Keeps c h e .execShared → e.count < 2 ^ 24 - 1 →
      let u := s.change h c.buffer.toNat fun e => { e with count := e.count + 1 }
      split i fold d a b s = .ok () { u with tile := u.tile.setC d (s.sign c) }) := by
  intro c w f m op
  have hg : guardC30 i (if (s.tile.rc a).mode = .exec then [d] else [d, a]) s = .ok () s := by
    refine guardC30_run i ?_ s
    rcases ha with ha | ha
    · split <;> simp [Ne.symm hd, Ne.symm ha]
    · simp [ha, Ne.symm hd]
  unfold splitOperand at hv
  unfold split
  rw [act_bind_ok (getC_run s a), act_bind_ok hg, act_bind_ok (getC_run s a)]
  simp only [passes_ite (outsideRegions_quiet hs.regions i)]
  rw [act_bind_ok (sourceCap_run hs.armed a false ho.1 ho.2.1 ho.2.2.1 (.inr h5)), act_bind_ok (requireCap_true (by simp [Cap.eff_p, hp, hda]) a 4 s),
    act_bind_ok (rs2_quiet hs.armed b), act_bind_ok (requireCap_true hv a 9 s)]
  have hweight (hw : 1 ≤ w ∧ w + 1 ≤ c.weight.toNat) :
      (decide (1 ≤ (s.rs2Of b).toNat % 2 ^ 17) && decide ((s.rs2Of b).toNat % 2 ^ 17 + 1 ≤ (s.tile.rc a).weight.toNat)) = true := by
    simp only [Bool.and_eq_true, decide_eq_true_eq]
    exact hw
  refine ⟨fun hm hf hw => ?_, fun h e o hf hw => ?_, fun h e hm hf k hcount => ?_⟩
  · have hx : (s.tile.rc a).mode ≠ .exec ∧ (s.tile.rc a).mode ≠ .exclusive := by rw [hm]; cases fold <;> decide
    obtain ⟨hx, hx'⟩ := hx
    have hf' : (!fold || decide (BitVec.ofNat 5 ((s.rs2Of b).toNat / 2 ^ 32) = 0)) = true := by
      cases fold
      · rfl
      · simpa [f] using hf rfl
    simp only
    rw [act_bind_ok (requireCap_true (decide_eq_true hm) a 4 s), act_bind_ok (requireCap_true hf' a 11 s),
      act_bind_ok (requireCap_true (hweight hw) a 9 s), act_bind_ok (lentStall_run ho.2.2.2 a s), act_bind_ok (freeDest_run hl),
      act_bind_ok (act_get s), putCaps_quiet hs.toQuiet]
    rfl
  · have hu : (s.noticed c h m.state op).Quiet := ⟨hs.armed, hs.regions⟩
    have h4 : c.kind ≠ .remote := by rcases o.kind with h | h | h <;> simp [h]
    have hmode : (s.tile.rc a).mode = .exclusive := o.mode
    simp only [hmode]
    rw [act_bind_ok (guardRegions_settled hs a _)]
    cases fold
    case' true => rw [if_pos rfl, act_bind_ok (requireCap_true (decide_eq_true (hf rfl).1) a 12 s), act_bind_ok (requireCap_true (hf rfl).2 a 11 s)]
    case' false => rw [if_neg Bool.false_ne_true]
    all_goals
      rw [act_bind_ok (requireCap_true (hweight hw) a 9 s), act_bind_ok (lentStall_run ho.2.2.2 a s), act_bind_ok (freeDest_run hl),
        act_bind_ok (postSplit_run hs o.home h4 ho.2.2.1 _ _ _), act_bind_ok (act_get _), putCaps_quiet hu]
      rfl
  · have honly := change_onlyHomes s h c.buffer.toNat fun e => { e with count := e.count + 1 }
    have hmode : (s.tile.rc a).mode = .exec := hm
    have hn := (entry_home k.entry).2
    subst hf
    simp only [hmode]
    rw [act_bind_ok (requireCap_true (b := !false) rfl a 4 s), act_bind_ok (lentStall_run ho.2.2.2 a s), act_bind_ok (freeDest_run hl),
      act_bind_ok (homeAct_done (t := s.change h e.number _) (e' := e) hs k (by decide) (by simp)
        (by rw [if_neg (by omega : ¬ e.count ≥ 2 ^ 24 - 1)]; exact act_bind_ok (act_modify _ s))), hn, act_bind_ok (act_get _),
      putCaps_quiet (honly.quiet hs.toQuiet), sign_congr honly.device]
    rfl

end

/-- The state after caps have been written and the instruction has retired. -/
theorem wroteC_eq {s : State} {rs : List (Reg × Cap)} {o : Host.Outcome State Fault Refusal} {t : State}
    (ht : t = { s with tile := rs.foldl (fun t p => t.setC p.1 p.2) s.tile }) (ho : o = .next (t.retired t.tile)) : o = .next (s.wroteC rs) := by
  rw [ho, ht]
  rfl

theorem posted_eq {s t : State} {c : Cap} {h : HomeId} {m : DirState} {op : BitVec 5} {rs : List (Reg × Cap)} {o : Host.Outcome State Fault Refusal}
    (ht : t = { s.noticed c h m op with tile := rs.foldl (fun t p => t.setC p.1 p.2) (s.noticed c h m op).tile }) (ho : o = .next (t.retired t.tile)) :
    o = .next { s with tile := (rs.foldl (fun t p => t.setC p.1 p.2) s.tile.posted).retire, requests := (s.noticed c h m op).requests } := by
  rw [ho, ht]
  rfl

/-- Settles O36: the home serves the notice; a split by the mode of its source. -/
theorem splitResults : Obligations.SplitResults := by
  refine ⟨fun s n r e m op v hk hx ho => notice_served v hk hx ho, ?_⟩
  intro s d a b hs hb hd hl hda c v w halves posts ha ho h5 hp hw h37 h15
  have hR (hv : v / 2 ^ 17 = 0) := split_cases hs (b := b) hd hl hda ha ho h5 hp (.capSplitR d a b) false (decide_eq_true hv)
  have hF := split_cases hs (b := b) hd hl hda ha ho h5 hp (.capSplitF d a b) true (by simp only [splitOperand, if_true, Bool.and_eq_true, decide_eq_true_eq]; exact ⟨h15, h37⟩)
  have runR {t : State} (hx : split (.capSplitR d a b) false d a b s = .ok () t) : exec (.capSplitR d a b) s = .next (t.retired t.tile) := by
    show execCapSplitR d a b s = _
    exact run_ok hs.toQuiet (misplaced_rs2 hb) hx
  have runF {t : State} (hx : split (.capSplitF d a b) true d a b s = .ok () t) : exec (.capSplitF d a b) s = .next (t.retired t.tile) := by
    show execCapSplitF d a b s = _
    exact run_ok hs.toQuiet (misplaced_rs2 hb) hx
  have hne (hm : c.mode ≠ .exec) : 1 ≤ w ∧ w + 1 ≤ c.weight.toNat := hw.resolve_right hm
  refine ⟨fun hv hm => ?_, fun hv hm => ?_, fun h e => ⟨fun hv o => ?_, fun hop hdepth o => ?_, fun hv hm k hcount => ?_⟩⟩
  · exact wroteC_eq rfl (runR ((hR hv).1 hm nofun (hne (by simp [hm]))))
  · have h32 : (s.rs2Of b).toNat / 2 ^ 32 = 0 := by
      change (s.rs2Of b).toNat / 2 ^ 17 = 0 at hv
      omega
    exact wroteC_eq rfl (runF (hF.1 hm (fun _ => congrArg (BitVec.ofNat 5) h32) (hne (by simp [hm]))))
  · exact posted_eq rfl (runR ((hR hv).2.1 h e o nofun (hne (by simp [o.mode]))))
  · exact posted_eq rfl (runF (hF.2.1 h e o (fun _ => ⟨hdepth, hop⟩) (hne (by simp [o.mode]))))
  · have honly := change_onlyHomes s h c.buffer.toNat fun e => { e with count := e.count + 1 }
    exact ⟨_, runR ((hR hv).2.2 h e hm rfl k hcount), movedCaps_of_onlyHomes honly [(d, s.sign c)] [],
      nowHas_change k.entry fun _ => ⟨k.state, rfl, rfl⟩⟩

end Sys2Proof.Machine
end

section
/-! SUPPORT. A merge that ends two children ends the second after the first is Free: when the second's generation cannot rise, its fresh number is the one that
the first has just given up (R73, R79). -/

namespace Sys2Proof.Machine

open Sys2Proof

/-- A child of the parent 4 of die 0, at an offset of the parent's range. -/
def lastChild (number offset : Nat) (generation : BitVec 16) : DirEntry :=
  { home := .die 0, number := number, base := 0x100000 + offset, length := 512, state := .exclusive, link := some 4, generation := generation, domain := 0,
    owner := 0 }

/-- Their Carved parent. -/
def lastParent : DirEntry :=
  { home := .die 0, number := 4, base := 0x100000, length := 1024, state := .carved, count := 2, generation := 1, domain := 0, owner := 0 }

/-- The exclusive cap of such a child. -/
def DirEntry.childCap (e : DirEntry) : Cap :=
  { kind := .dmem, base := BitVec.ofNat 48 e.base, length := 512, rights := ⟨true, true, true, true, true, true⟩, buffer := BitVec.ofNat 24 e.number,
    generation := e.generation, weight := 65536 }

/-- A tile that holds both children of a buffer of die 0: number 0 under generation 5, and number 8 under the last generation there is. -/
def lastGeneration : State :=
  { State.reset with
    tile := ((Tile.reset 0).setC 1 (lastChild 0 0 5).childCap).setC 2 (lastChild 8 512 0xFFFF).childCap
    others := []
    clusters := []
    dirs := [lastParent, lastChild 0 0 5, lastChild 8 512 0xFFFF] }

theorem lastGeneration_settled : lastGeneration.Settled :=
  { armed := rfl, regions := rfl, cache := rfl, requests := rfl, replies := rfl, remotes := rfl, asks := rfl, sending := rfl, denied := nofun,
    levels := rfl, poison := rfl, release := rfl }

theorem lastGeneration_owns_first : lastGeneration.Owns (lastGeneration.tile.rc 1) (.die 0) (lastChild 0 0 5) :=
  { kind := .inr (.inr rfl), lent := rfl, home := rfl, awake := rfl, entry := rfl, kept := rfl, state := rfl, fits := by decide, window := by decide,
    generation := rfl, domain := rfl, mode := rfl, owner := rfl }

theorem lastGeneration_owns_second : lastGeneration.Owns (lastGeneration.tile.rc 2) (.die 0) (lastChild 8 512 0xFFFF) :=
  { kind := .inr (.inr rfl), lent := rfl, home := rfl, awake := rfl, entry := rfl, kept := rfl, state := rfl, fits := by decide, window := by decide,
    generation := rfl, domain := rfl, mode := rfl, owner := rfl }

/-- After the merge number 0 is the fresh number of the second child, under generation 0. -/
theorem lastGeneration_merges : (match exec (.capMerge 5 1 2) lastGeneration with
    | .next t => (t.entry (.die 0) 0).map (·.generation)
    | _ => none) = some 0 := by
  show (match execCapMerge 5 1 2 lastGeneration with
    | .next t => (t.entry (.die 0) 0).map (·.generation)
    | _ => none) = some 0
  decide

/-- Refutes O35: in `lastGeneration` the first child is not left Free with a generation one higher, for its number goes to the second. -/
theorem not_carveAndMergeResults : ¬ Obligations.CarveAndMergeResults := by
  intro h
  obtain ⟨-, hmerge⟩ := h lastGeneration 5 1 2 lastGeneration_settled (by decide) (by decide) rfl
  obtain ⟨hjoin, -⟩ := hmerge (.die 0) (lastChild 0 0 5) (lastChild 8 512 0xFFFF) rfl lastGeneration_owns_first lastGeneration_owns_second (by decide)
    (by decide) rfl rfl rfl rfl
  obtain ⟨t, e, hexec, -, -, -, -, -, -, -, -, -, hfirst, -⟩ := hjoin lastParent rfl rfl rfl rfl (by decide) rfl rfl (.inl rfl)
  obtain ⟨o, ho, -, hgen⟩ := hfirst (by decide)
  have hzero := lastGeneration_merges
  simp only [hexec, show t.entry (.die 0) 0 = some o from ho, Option.map_some, hgen] at hzero
  exact absurd hzero (by decide)

end Sys2Proof.Machine
end

section
/-! SUPPORT. Sends: the drain and the Send transition of each cap of a send buffer, and the message in the network (R71, R83, R331, R332). -/

namespace Sys2Proof.Machine

open Sys2Proof

/-! ### Homes while a send is under way

`State.Settled` asks for an empty send buffer; what the homes ask of the tile in a send is less. -/

/-- Nothing of the tile is on its way to a home but what its send buffer holds. -/
structure State.Calm (s : State) : Prop extends s.Quiet where
  cache : s.tile.l1 = []
  requests : s.requests = []
  replies : s.replies = []
  remotes : s.tile.remotes = []
  denied : ∀ w, s.tile.wait = some w → w.denied = false
  levels : s.levels = []

theorem State.Settled.calm {s : State} (h : s.Settled) : s.Calm :=
  { toQuiet := h.toQuiet, cache := h.cache, requests := h.requests, replies := h.replies, remotes := h.remotes, denied := h.denied, levels := h.levels }

section
variable {s : State} (hc : s.Calm)
include hc

theorem orderHome_calm {h : HomeId} (hw : s.asleep h = false) (b : Nat) : orderHome h b none true s = .ok () s := by
  simp [orderHome, act_bind, hw, hc.requests, takeDeny_none hc.denied, settle_nil hc.replies]

/-- A drain finds nothing to wait for; a host cap has no home to drain to (R83). -/
theorem drain_calm {c : Cap} (hw : ∀ h, s.homeOf c = some h → s.asleep h = false) : drain c s = .ok () s := by
  simp only [drain, act_bind, act_modify, State.pushLines, pushWhere_nil hc.cache, act_get]
  cases hh : s.homeOf c with
  | none => rfl
  | some h => cases c.kind <;> simp [act_bind, hc.remotes, orderHome_calm hc (hw h hh), hc.cache]

theorem guardRegions_calm (r : Reg) (c : Cap) : guardRegions r c s = .ok () s := by
  simp only [guardRegions, otherRegion, act_bind, act_get]
  cases s.homeOf c <;> simp [hc.levels, hc.cache]

/-- A transition of a buffer that the tile owns, at a home of this device. -/
theorem homeAct_calm {t : State} {c : Cap} {h : HomeId} {e e' : DirEntry} (o : s.Owns c h e) {r : Reg} {bad op : Nat} {args : List Nat}
    {act : HomeId → DirEntry → Act DirEntry} (hact : act h e s = .ok e' t) : homeAct r c [.exclusive] true bad op args act s = .ok (h, e') t := by
  have hk : c.kind ≠ .remote := by rcases o.kind with h | h | h <;> simp [h]
  have hcheck := checkControl_keeps o.toKeeps true bad (by decide) fun _ _ => o.owner
  simp [homeAct, homeEntry, hk, act_bind, act_map, o.home, orderAll, orderHome_calm hc o.awake, failLevels_none hc.levels, hcheck, o.entry, hact]

end

/-! ### What a Send transition changes -/

/-- `t` is `s` but for directories and the check caches of the slices. -/
def State.OnlyDirs (s t : State) : Prop := ∃ dirs paging, t = { s with dirs := dirs, paging := paging }

/-- The entry of every other buffer than that of a cap is as before. -/
def State.LeavesOthers (s t : State) (c : Cap) : Prop := ∀ h b, (s.homeOf c ≠ some h ∨ c.buffer.toNat ≠ b) → t.entry h b = s.entry h b

theorem dropChecks_onlyDirs (s : State) (h : HomeId) (b : Nat) : s.OnlyDirs (s.dropChecks h b) := by cases h <;> exact ⟨_, _, rfl⟩

theorem bump_onlyDirs {s : State} {h : HomeId} {b : Nat} {e : DirEntry} (he : s.entry h b = some e) (hg : e.generation ≠ 0xFFFF)
    (f : DirEntry → DirEntry) : s.OnlyDirs (s.bump h b f).2.2 := by
  rw [bump_rises he hg]
  obtain ⟨_, _, hd⟩ := dropChecks_onlyDirs s h b
  rw [hd]
  exact ⟨_, _, rfl⟩

theorem entry_mapEntry_other {f : DirEntry → DirEntry} (s : State) {h h' : HomeId} {b b' : Nat} (hne : h ≠ h' ∨ b ≠ b')
    (hf : KeepsName f := by exact fun _ => ⟨rfl, rfl⟩) : (s.mapEntry h b f).entry h' b' = s.entry h' b' := by
  have : ¬(h' = h ∧ b' = b) := fun ⟨h1, h2⟩ => hne.elim (fun n => n h1.symm) fun n => n h2.symm
  simp [entry_mapEntry s h h' b b' hf, this]

theorem entry_dropChecks_other (s : State) {h h' : HomeId} {b b' : Nat} (hne : h ≠ h' ∨ b ≠ b') : (s.dropChecks h b).entry h' b' = s.entry h' b' := by
  cases h with
  | die d => exact entry_mapEntry_other (f := fun e => { e with dies := 0 }) _ hne
  | _ => rfl

theorem entry_bump_other {s : State} {h h' : HomeId} {b b' : Nat} {e : DirEntry} (he : s.entry h b = some e) (hg : e.generation ≠ 0xFFFF)
    (hne : h ≠ h' ∨ b ≠ b') (f : DirEntry → DirEntry) (hf : KeepsName f := by exact fun _ => ⟨rfl, rfl⟩) :
    (s.bump h b f).2.2.entry h' b' = s.entry h' b' := by
  rw [bump_rises he hg]
  exact (entry_mapEntry_other (f := fun o => { f o with generation := e.generation + 1, dies := 0 }) _ hne hf).trans (entry_dropChecks_other s hne)

/-- The entry of a buffer that its owner has sent (R71, R83). -/
def DirEntry.sent (owner : Nat) (e : DirEntry) : DirEntry := { e with state := .inTransit, owner := owner }

theorem sendable_cases {s : State} {c : Cap} (hs : s.Sendable c) :
    (∃ h e, s.Owns c h e ∧ e.generation ≠ 0xFFFF) ∨ ((∀ h e, ¬ s.Owns c h e) ∧
      ((c.mode ≠ .exclusive ∧ ∃ h e st, s.Keeps c h e st) ∨ c.kind = .host ∨
        ((c.kind = .handle ∨ c.kind = .slot) ∧ ∃ h, s.homeOf c = some h ∧ s.asleep h = false ∧ s.checkRing h c = none))) := by
  rcases hs.2.2 with h | h | h | h
  · exact .inl h
  · exact .inr ⟨fun _ _ o => h.1 o.mode, .inl h⟩
  · exact .inr ⟨fun _ _ o => by have := o.kind; simp [h] at this, .inr (.inl h)⟩
  · exact .inr ⟨fun _ _ o => by have := o.kind; rcases h.1 with h | h <;> simp [h] at this, .inr (.inr h)⟩

/-- The directory after the Send transition of a cap's buffer. -/
def State.sentOff (s : State) (h : HomeId) (c : Cap) : State := (s.bump h c.buffer.toNat (DirEntry.sent (s.tile.principal s.device))).2.2

/-- The Send transition at the home (R71), as `sendCap` asks for it. -/
def sendTransition (r : Reg) (h : HomeId) (e : DirEntry) : Act DirEntry := do
  let s ← get
  let (b, _, s) := s.bump h e.number fun e => { e with state := .inTransit, owner := s.tile.principal s.device }
  set s
  entryNow r h b

section
variable {s : State} {c : Cap}

section
variable {h : HomeId} {e : DirEntry} (o : s.Owns c h e) (hg : e.generation ≠ 0xFFFF)
include o hg

theorem entry_sentOff : (s.sentOff h c).entry h c.buffer.toNat =
    some { e.unnoted with state := .inTransit, owner := s.tile.principal s.device, generation := e.generation + 1, dies := 0 } :=
  entry_bump (f := DirEntry.sent (s.tile.principal s.device)) o.entry hg

theorem sendTransition_run (r : Reg) : sendTransition r h e s =
    .ok { e.unnoted with state := .inTransit, owner := s.tile.principal s.device, generation := e.generation + 1, dies := 0 } (s.sentOff h c) := by
  have hfst : (s.bump h c.buffer.toNat (DirEntry.sent (s.tile.principal s.device))).1 = c.buffer.toNat := by rw [bump_rises o.entry hg]
  show (set (s.bump h e.number (DirEntry.sent (s.tile.principal s.device))).2.2 >>= fun _ =>
    entryNow r h (s.bump h e.number (DirEntry.sent (s.tile.principal s.device))).1) s = _
  rw [(entry_home o.entry).2, hfst, act_bind_ok (act_set s _)]
  exact entryNow_run (entry_sentOff o hg) r

theorem sendCap_owned (hc : s.Calm) (r : Reg) : sendCap s.device r c s =
    .ok (s.sign { c with generation := c.generation + 1, depth := BitVec.ofNat 3 e.depth }) (s.sentOff h c) := by
  have hmay : (!s.mayLeave s.device c) = false := by simp [State.mayLeave]
  have hdev : (s.sentOff h c).device = s.device := by
    obtain ⟨_, _, heq⟩ := bump_onlyDirs o.entry hg (DirEntry.sent (s.tile.principal s.device))
    show (s.bump h _ _).2.2.device = _
    rw [heq]
  have hn := (entry_home o.entry).2
  have hgen := o.generation
  obtain ⟨d, hd⟩ := e.unnoted_eq
  have hrun := sendTransition_run o hg r
  rw [hd] at hrun
  have hact := homeAct_calm hc o (r := r) (bad := 3) (op := 1) (args := []) (act := sendTransition r) hrun
  have hcap : ((homeAct r c [.exclusive] true 3 1 [] (sendTransition r) >>= fun p => do
      return (← get).sign { c with buffer := BitVec.ofNat 24 p.2.number, generation := p.2.generation, depth := BitVec.ofNat 3 p.2.depth }) : Act Cap) s =
      .ok (s.sign { c with generation := c.generation + 1, depth := BitVec.ofNat 3 e.depth }) (s.sentOff h c) := by
    rw [act_bind_ok hact, act_bind_ok (act_get _), sign_congr hdev]
    simp [hn, hgen]
  unfold sendCap
  simp only [act_bind_ok (act_get s), hmay, Bool.false_eq_true, if_false]
  rcases o.kind with hk | hk | hk <;> simp only [hk, o.mode, if_true] at hcap ⊢ <;> exact hcap

end

/-- A cap that the tile does not own goes as it is. -/
theorem sendCap_unowned (hrest : (c.mode ≠ .exclusive ∧ ∃ h e st, s.Keeps c h e st) ∨ c.kind = .host ∨
    ((c.kind = .handle ∨ c.kind = .slot) ∧ ∃ h, s.homeOf c = some h ∧ s.asleep h = false ∧ s.checkRing h c = none)) (r : Reg) :
    sendCap s.device r c s = .ok c s := by
  have hmay : (!s.mayLeave s.device c) = false := by simp [State.mayLeave]
  unfold sendCap
  simp only [act_bind_ok (act_get s), hmay, Bool.false_eq_true, if_false]
  rcases hrest with ⟨hm, h, e, st, k⟩ | hk | ⟨hk, h, hh, -, hring⟩
  · rcases k.kind with hk | hk | hk <;> simp [hk, hm, act_bind, k.home, k.entry, k.fits]
  · simp only [hk]
    rfl
  · rcases hk with hk | hk <;> simp only [hk] <;> rw [act_bind_ok (act_get s)] <;> simp only [hh, hring] <;> rfl

end

end Sys2Proof.Machine
end

section
/-! SUPPORT. Sends: what stays true of the machine while a send is under way. -/

namespace Sys2Proof.Machine

open Sys2Proof

/-! ### A tile that sends -/

/-- `t` is `s` but for the cap file and the send buffer of the current tile, directories, and the check caches of the slices. -/
def State.MidSend (s t : State) : Prop :=
  ∃ c cBank sending dirs paging, t = { s with tile := { s.tile with c := c, cBank := cBank, sending := sending }, dirs := dirs, paging := paging }

theorem State.MidSend.refl (s : State) : s.MidSend s := ⟨_, _, _, _, _, rfl⟩

theorem State.MidSend.symm {s t : State} (h : s.MidSend t) : t.MidSend s := by
  obtain ⟨_, _, _, _, _, rfl⟩ := h
  exact ⟨_, _, _, _, _, rfl⟩

theorem State.MidSend.trans {s t u : State} (h : s.MidSend t) (h' : t.MidSend u) : s.MidSend u := by
  obtain ⟨_, _, _, _, _, rfl⟩ := h
  obtain ⟨_, _, _, _, _, rfl⟩ := h'
  exact ⟨_, _, _, _, _, rfl⟩

theorem State.OnlyDirs.midSend {s t : State} (h : s.OnlyDirs t) : s.MidSend t := by
  obtain ⟨_, _, rfl⟩ := h
  exact ⟨_, _, _, _, _, rfl⟩

theorem midSend_setC (s : State) (r : Reg) (c : Cap) : s.MidSend { s with tile := s.tile.setC r c } := by
  rw [Tile.setC_eq]
  exact ⟨_, _, _, _, _, rfl⟩

theorem midSend_sending (s : State) (b : Option Sending) : s.MidSend { s with tile := { s.tile with sending := b } } := ⟨_, _, _, _, _, rfl⟩

section
variable {s t : State} (m : s.MidSend t)
include m

theorem tileAt_midSend (i : Nat) : t.tileAt i = s.tileAt i ∨ (s.tileAt i = some s.tile ∧ t.tileAt i = some t.tile) := by
  obtain ⟨_, _, _, _, _, rfl⟩ := m
  by_cases hi : s.tile.index = i
  · exact .inr ⟨by simp [State.tileAt, hi], by simp [State.tileAt, hi]⟩
  · exact .inl (by simp [State.tileAt, hi])

theorem homeOf_midSend (c : Cap) : t.homeOf c = s.homeOf c := by
  obtain ⟨_, _, _, _, _, rfl⟩ := m
  rfl

theorem asleep_midSend (h : HomeId) : t.asleep h = s.asleep h := by
  cases h with
  | tile i =>
    have hp : (t.tileAt i).any (·.parked) = (s.tileAt i).any (·.parked) := by
      rcases tileAt_midSend m i with hi | ⟨hs, ht⟩
      · rw [hi]
      · rw [hs, ht]
        obtain ⟨_, _, _, _, _, rfl⟩ := m
        rfl
    simp [State.asleep, hp]
  | cluster k =>
    obtain ⟨_, _, _, _, _, rfl⟩ := m
    rfl
  | die => rfl
  | remote => rfl

theorem blocked_midSend (o : Msg) : t.blocked o = s.blocked o := by
  have hd : t.destTile o.dest = s.destTile o.dest := by
    obtain ⟨_, _, _, _, _, rfl⟩ := m
    rfl
  have hc : t.clusters = s.clusters := by
    obtain ⟨_, _, _, _, _, rfl⟩ := m
    rfl
  unfold State.blocked
  rw [hd]
  cases s.destTile o.dest with
  | none => rfl
  | some i =>
    simp only [Option.bind_some, State.clusterAt, hc]
    rcases tileAt_midSend m i with hi | ⟨hs, ht⟩
    · rw [hi]
    · rw [hs, ht]
      obtain ⟨_, _, _, _, _, rfl⟩ := m
      rfl

theorem checkRing_midSend (h : HomeId) (c : Cap) : t.checkRing h c = s.checkRing h c := by
  obtain ⟨_, _, _, _, _, rfl⟩ := m
  rfl

theorem calm_midSend (hc : s.Calm) : t.Calm := by
  obtain ⟨_, _, _, _, _, rfl⟩ := m
  exact ⟨⟨hc.armed, hc.regions⟩, hc.cache, hc.requests, hc.replies, hc.remotes, hc.denied, hc.levels⟩

theorem sign_midSend (c : Cap) : t.sign c = s.sign c := by
  obtain ⟨_, _, _, _, _, rfl⟩ := m
  rfl

theorem principal_midSend : t.tile.principal t.device = s.tile.principal s.device := by
  obtain ⟨_, _, _, _, _, rfl⟩ := m
  rfl

theorem keeps_midSend {c : Cap} {h : HomeId} {e : DirEntry} {st : DirState} (k : s.Keeps c h e st)
    (he : t.entry h c.buffer.toNat = s.entry h c.buffer.toNat) : t.Keeps c h e st := by
  have hawake := (asleep_midSend m h).trans k.awake
  have hentry := he.trans k.entry
  obtain ⟨_, _, _, _, _, rfl⟩ := m
  exact { kind := k.kind, lent := k.lent, home := k.home, awake := hawake, entry := hentry, kept := k.kept, state := k.state,
          fits := by cases h <;> exact k.fits, window := k.window, generation := k.generation, domain := k.domain }

theorem owns_midSend {c : Cap} {h : HomeId} {e : DirEntry} (o : s.Owns c h e)
    (he : t.entry h c.buffer.toNat = s.entry h c.buffer.toNat) : t.Owns c h e :=
  { keeps_midSend m o.toKeeps he with mode := o.mode, owner := o.owner.trans (principal_midSend m).symm }

/-- A cap that may be sent may still be sent while the entry of its own buffer is as before. -/
theorem sendable_midSend {c : Cap} (hs : s.Sendable c) (he : ∀ h, s.homeOf c = some h → t.entry h c.buffer.toNat = s.entry h c.buffer.toNat) :
    t.Sendable c := by
  obtain ⟨hl, hr, hcase⟩ := hs
  refine ⟨hl, hr, ?_⟩
  rcases hcase with ⟨h, e, o, hg⟩ | ⟨hm, h, e, st, k⟩ | hk | ⟨hk, h, hh, hw, hring⟩
  · exact .inl ⟨h, e, owns_midSend m o (he h o.home), hg⟩
  · exact .inr (.inl ⟨hm, h, e, st, keeps_midSend m k (he h k.home)⟩)
  · exact .inr (.inr (.inl hk))
  · exact .inr (.inr (.inr ⟨hk, h, (homeOf_midSend m c).trans hh, (asleep_midSend m h).trans hw, (checkRing_midSend m h c).trans hring⟩))

end

theorem sendable_awake {s : State} {c : Cap} (hs : s.Sendable c) (h : HomeId) (hh : s.homeOf c = some h) : s.asleep h = false := by
  rcases hs.2.2 with ⟨h', e, o, -⟩ | ⟨-, h', e, st, k⟩ | hk | ⟨-, h', hh', hw, -⟩
  · obtain rfl : h' = h := Option.some.inj (o.home.symm.trans hh)
    exact o.awake
  · obtain rfl : h' = h := Option.some.inj (k.home.symm.trans hh)
    exact k.awake
  · simp [State.homeOf, hk] at hh
  · obtain rfl : h' = h := Option.some.inj (hh'.symm.trans hh)
    exact hw

end Sys2Proof.Machine
end

section
/-! SUPPORT. Sends: the slots of a send buffer, one after the other (R83). -/

namespace Sys2Proof.Machine

open Sys2Proof

/-! ### The slots of a send buffer -/

theorem owns_unique {s : State} {c : Cap} {h h' : HomeId} {e e' : DirEntry} (o : s.Owns c h e) (o' : s.Owns c h' e') : h' = h ∧ e' = e := by
  obtain rfl : h = h' := Option.some.inj (o.home.symm.trans o'.home)
  exact ⟨rfl, Option.some.inj (o'.entry.symm.trans o.entry)⟩

/-- Step 4 of R83 for a cap that may be sent: the cap as sent, and only the entry of its buffer has changed. -/
theorem sendCap_sendable {s : State} (hc : s.Calm) {c : Cap} (hs : s.Sendable c) (r : Reg) :
    ∃ c' t, sendCap s.device r c s = .ok c' t ∧ s.OnlyDirs t ∧ s.SentAs t c c' ∧ s.LeavesOthers t c := by
  rcases sendable_cases hs with ⟨h, e, o, hg⟩ | ⟨hnot, hrest⟩
  · refine ⟨_, _, sendCap_owned o hg hc r, bump_onlyDirs o.entry hg _, ⟨fun h' e' o' => ?_, fun hno => absurd o (hno h e)⟩, fun h' b hne => ?_⟩
    · obtain ⟨rfl, rfl⟩ := owns_unique o o'
      exact ⟨rfl, _, entry_sentOff o hg, rfl, rfl, rfl⟩
    · exact entry_bump_other (f := DirEntry.sent (s.tile.principal s.device)) o.entry hg (hne.imp (fun hn hh => hn (o.home.trans (congrArg some hh))) id)
        fun _ => ⟨rfl, rfl⟩
  · exact ⟨c, s, sendCap_unowned hrest r, ⟨_, _, rfl⟩, ⟨fun h e o => absurd o (hnot h e), fun _ => rfl⟩, fun _ _ _ => rfl⟩

/-- The name of the buffer of a cap: its home and its number there. -/
def State.bufferName (s : State) (c : Cap) : Option HomeId × Nat := (s.homeOf c, c.buffer.toNat)

/-- `t` is `u` after steps 2 to 4 of R83 for the slots `cs`, whose caps, as they stood in `s`, went as `sent`: their registers are null. -/
structure State.SlotsDone (s u t : State) (cs : List (Reg × Cap)) (sent : List Cap) : Prop where
  mid : u.MidSend t
  regs : ∀ r, t.tile.rc r = if r ∈ cs.map (·.1) then Cap.null else u.tile.rc r
  buffer : t.tile.sending = u.tile.sending.map fun b => { b with done := b.done ++ sent }
  caps : List.Forall₂ (s.SentAs t) (cs.map (·.2)) sent
  rest : ∀ h n, (∀ p ∈ cs, s.bufferName p.2 ≠ (some h, n)) → t.entry h n = u.entry h n

/-- The state in which a cap register of the current tile has become null. -/
def State.emptied (s : State) (r : Reg) : State := { s with tile := s.tile.setC r Cap.null }

theorem sentAs_mono {s t u : State} {c c' : Cap} (hs : s.SentAs t c c') (he : ∀ h, s.homeOf c = some h → u.entry h c.buffer.toNat = t.entry h c.buffer.toNat) :
    s.SentAs u c c' := by
  refine ⟨fun h e o => ?_, hs.2⟩
  obtain ⟨hcap, o', ho', hp⟩ := hs.1 h e o
  exact ⟨hcap, o', (he h o.home).trans ho', hp⟩

theorem sentAs_midSend {s t u : State} (m : s.MidSend t) {c c' : Cap} (he : ∀ h, s.homeOf c = some h → t.entry h c.buffer.toNat = s.entry h c.buffer.toNat)
    (hs : t.SentAs u c c') : s.SentAs u c c' := by
  refine ⟨fun h e o => ?_, fun hno => hs.2 fun h e o => hno h e (owns_midSend m.symm o (he h ?_).symm)⟩
  · have := hs.1 h e (owns_midSend m o (he h o.home))
    rwa [sign_midSend m, principal_midSend m] at this
  · rw [← homeOf_midSend m]
    exact o.home

/-- A cap register after a write of one, the banked ones at the current level (R54, R225). -/
theorem Tile.rc_setC (t : Tile) (r q : Reg) (c : Cap) : (t.setC r c).rc q = if q = r ∧ r ≠ 0 then c else t.rc q := by
  by_cases h0 : r = 0
  · simp [Tile.setC, Tile.setCBank, h0]
  have hbank : ∀ i j : Fin 2, ((t.cBank.set t.level.val ((t.cBank.get t.level).set i.val c)).get t.level).get j =
      if j = i then c else (t.cBank.get t.level).get j := fun i j => by rw [vector_get_set, if_pos rfl, vector_get_set]
  by_cases hl : t.level = 0
  · by_cases hq : q = r <;> simp [Tile.setC, Tile.setCBank, Tile.rc, Tile.rcBank, h0, hl, vector_get_set, hq]
  by_cases h28 : r = 28
  · by_cases hq : q = 28
    · simpa [Tile.setC, Tile.setCBank, Tile.rc, Tile.rcBank, hl, h28, hq] using hbank 0 0
    · simpa [Tile.setC, Tile.setCBank, Tile.rc, Tile.rcBank, hl, h28, hq] using
        congrArg (fun y => if q = 0 then Cap.null else if q = 29 then y else t.c.get q) (hbank 0 1)
  by_cases h29 : r = 29
  · by_cases hq : q = 29
    · simpa [Tile.setC, Tile.setCBank, Tile.rc, Tile.rcBank, hl, h29, hq] using hbank 1 1
    · simpa [Tile.setC, Tile.setCBank, Tile.rc, Tile.rcBank, hl, h29, hq] using
        congrArg (fun y => if q = 0 then Cap.null else if q = 28 then y else t.c.get q) (hbank 1 0)
  · by_cases hq : q = r <;> simp [Tile.setC, Tile.setCBank, Tile.rc, Tile.rcBank, h0, hl, h28, h29, vector_get_set, hq]

theorem Tile.rc_setC_null (t : Tile) (r q : Reg) : (t.setC r Cap.null).rc q = if q = r then Cap.null else t.rc q := by
  rw [Tile.rc_setC]
  by_cases h : q = r ∧ r = 0
  · obtain ⟨rfl, rfl⟩ := h
    rfl
  · exact if_congr (and_iff_left_of_imp fun hq h0 => h ⟨hq, h0⟩) rfl rfl

/-- Steps 2 to 4 of R83 for one slot. -/
theorem slot_done {s u : State} (hc : s.Calm) (m : s.MidSend u) {c : Cap} (hs : s.Sendable c)
    (he : ∀ h, s.homeOf c = some h → u.entry h c.buffer.toNat = s.entry h c.buffer.toNat) (r : Reg) (rest : List (Reg × Cap)) :
    ∃ t c', sendSlots s.device ((r, c) :: rest) u = sendSlots s.device rest t ∧ s.SlotsDone u t [(r, c)] [c'] := by
  have hu : u.MidSend (u.emptied r) := midSend_setC u r Cap.null
  have m0 : s.MidSend (u.emptied r) := m.trans hu
  have hs0 : (u.emptied r).Sendable c := sendable_midSend m0 hs he
  have hc0 : (u.emptied r).Calm := calm_midSend m0 hc
  have hdev : (u.emptied r).device = s.device := by
    obtain ⟨_, _, _, _, _, hu⟩ := m
    rw [hu]
    rfl
  obtain ⟨c', t, ht, hdirs, hsent, hothers⟩ := sendCap_sendable hc0 hs0 r
  have htile : t.tile = u.tile.setC r Cap.null := by
    obtain ⟨_, _, rfl⟩ := hdirs
    rfl
  rw [hdev] at ht
  refine ⟨_, c', ?_, hu.trans (hdirs.midSend.trans (midSend_sending t (t.tile.sending.map fun b => { b with done := b.done ++ [c'] }))), fun q => ?_, ?_,
    .cons (sentAs_mono (sentAs_midSend m0 he hsent) fun _ _ => rfl) .nil, fun h n hne => hothers h n ?_⟩
  · rw [sendSlots, act_bind_ok (t := u.emptied r) (onTile_run _ u), act_bind_ok (drain_calm hc0 (sendable_awake hs0)), act_bind_ok ht, act_bind_ok (onTile_run _ t)]
  · show t.tile.rc q = _
    rw [htile, Tile.rc_setC_null]
    simp
  · show t.tile.sending.map _ = _
    rw [htile, Tile.setC_sending]
  · rw [homeOf_midSend m0]
    exact not_and_or.mp fun hh => hne (r, c) (by simp) (Prod.ext hh.1 hh.2)

/-- Steps 2 to 4 of R83 for caps of different buffers, which all may be sent. -/
theorem sendSlots_done {s : State} (hc : s.Calm) (cs : List (Reg × Cap)) (hs : ∀ p ∈ cs, s.Sendable p.2)
    (hnames : cs.Pairwise fun p q => s.bufferName p.2 ≠ s.bufferName q.2) {u : State} (m : s.MidSend u)
    (he : ∀ p ∈ cs, ∀ h, s.homeOf p.2 = some h → u.entry h p.2.buffer.toNat = s.entry h p.2.buffer.toNat) :
    ∃ t sent, sendSlots s.device cs u = .ok () t ∧ s.SlotsDone u t cs sent := by
  induction cs generalizing u with
  | nil => exact ⟨u, [], rfl, .refl u, fun _ => by simp, by cases h : u.tile.sending <;> simp, .nil, fun _ _ _ => rfl⟩
  | cons p rest ih =>
    obtain ⟨r, c⟩ := p
    obtain ⟨hfirst, hrest⟩ := List.pairwise_cons.mp hnames
    have hname : ∀ d h, s.homeOf d = some h → s.bufferName d = (some h, d.buffer.toNat) := fun d h hh => by rw [State.bufferName, hh]
    obtain ⟨t, c', ht, d⟩ := slot_done hc m (hs (r, c) (by simp)) (he (r, c) (by simp)) r rest
    obtain ⟨t', sent, ht', d'⟩ := ih (fun p hp => hs p (by simp [hp])) hrest (m.trans d.mid) fun p hp h hh =>
      (d.rest h _ (by simpa [← hname p.2 h hh] using hfirst p hp)).trans (he p (by simp [hp]) h hh)
    have hhead : s.SentAs t' c c' := sentAs_mono (List.forall₂_cons.mp d.caps).1 fun h hh => d'.rest h _ fun q hq => hname c h hh ▸ (hfirst q hq).symm
    refine ⟨t', c' :: sent, ht.trans ht', d.mid.trans d'.mid, fun q => ?_, ?_, .cons hhead d'.caps, fun h n hne => ?_⟩
    · simp only [d'.regs, d.regs, List.map_cons, List.map_nil, List.mem_cons, List.not_mem_nil, or_false, ← ite_or]
      exact if_congr or_comm rfl rfl
    · rw [d'.buffer, d.buffer]
      cases u.tile.sending <;> simp
    · exact (d'.rest h n fun q hq => hne q (by simp [hq])).trans (d.rest h n fun q hq => hne q (by simp_all))

end Sys2Proof.Machine
end

section
/-! SUPPORT. Sends: the send buffer empties and the message enters the network (R332). -/

namespace Sys2Proof.Machine

open Sys2Proof

/-! ### The message in the network -/

theorem Tile.forget_lines (t : Tile) (c : Cap) : ∃ l1 icache grants, t.forget c = { t with l1 := l1, icache := icache, grants := grants } := by
  unfold Tile.forget
  split <;> exact ⟨_, _, _, rfl⟩

theorem Tile.forgetAll_lines (cs : List Cap) (t : Tile) :
    ∃ l1 icache grants, cs.foldl Tile.forget t = { t with l1 := l1, icache := icache, grants := grants } := by
  induction cs generalizing t with
  | nil => exact ⟨_, _, _, rfl⟩
  | cons c cs ih =>
    obtain ⟨_, _, _, h⟩ := t.forget_lines c
    obtain ⟨_, _, _, h'⟩ := ih (t.forget c)
    rw [List.foldl_cons, h', h]
    exact ⟨_, _, _, rfl⟩

theorem dropAll_run (cs : List Cap) (s : State) : dropAll cs s = .ok () { s with tile := cs.foldl Tile.forget s.tile } := by
  induction cs generalizing s with
  | nil => rfl
  | cons c cs ih =>
    rw [dropAll, dropIfLast, act_bind_ok (onTile_run _ s), ih]
    rfl

/-- `t` is `s` but for the send buffer, the lines and the grants of the current tile. -/
def State.OnlyLines (s t : State) : Prop :=
  ∃ l1 icache grants sending, t = { s with tile := { s.tile with l1 := l1, icache := icache, grants := grants, sending := sending } }

/-- The send buffer empties (R83): its caps as sent are returned, and only lines and grants go. -/
theorem emptyBuffer_run {s : State} {b b' : Sending} (h : s.tile.sending = some b') : ∃ t, emptyBuffer b s = .ok b'.done t ∧ s.OnlyLines t := by
  obtain ⟨l1, icache, grants, hl⟩ := Tile.forgetAll_lines b.msg.caps { s.tile with sending := none }
  refine ⟨_, ?_, l1, icache, grants, none, rfl⟩
  rw [emptyBuffer, act_bind_ok (curTile_run s), act_bind_ok (onTile_run _ s), act_bind_ok (dropAll_run _ _), hl, h]
  rfl

/-- `t` is `s` after the message `m` has entered the network (R332). -/
structure State.Injected (s t : State) (m : Msg) : Prop where
  net : t.net = s.net ++ [{ m with seq := s.msgSeq }]
  seq : t.msgSeq = s.msgSeq + 1
  count : t.tile.msgsent = s.tile.msgsent + if m.counted then 1 else 0
  regs : ∀ r, t.tile.rc r = s.tile.rc r
  x : t.tile.x = s.tile.x
  v : t.tile.v = s.tile.v
  mem : t.mem = s.mem
  dirs : t.dirs = s.dirs

theorem resolveRank_cache (s : State) (t : Tile) (d : Dest) : ∃ rankCache, s.resolveRank t d = { t with rankCache := rankCache } := by
  unfold State.resolveRank
  split
  · split
    · dsimp only
      split <;> exact ⟨_, rfl⟩
    · exact ⟨_, rfl⟩
  · exact ⟨_, rfl⟩

/-- A message to a rank of this device enters the network. -/
theorem injectMsg_here {s : State} {m : Msg} (hd : s.destDevice m.dest = some s.device) : s.Injected (s.injectMsg m) m := by
  obtain ⟨rc, hr⟩ := resolveRank_cache s (s.tile.countPacket (s.tile.networkOf m) true) m.dest
  have hd' : ∀ t : Tile, ({ s with tile := t } : State).destDevice m.dest = some s.device := fun _ => hd
  have hd'' : ∀ t : Tile, ({ s with tile := t, msgSeq := s.msgSeq + 1 } : State).destDevice m.dest = some s.device := fun _ => hd
  simp only [State.injectMsg, hr, State.sendMsg, State.carry, hd', hd'', ne_eq, not_true_eq_false, decide_false, Bool.false_and, Bool.false_eq_true, if_false,
    if_true]
  exact { net := rfl, seq := rfl, count := by cases m.counted <;> simp [Tile.countPacket], regs := fun _ => rfl, x := rfl, v := rfl, mem := rfl, dirs := rfl }

/-! ### A send from its control word -/

theorem act_tryCatch_ok {α : Type} {x : Act α} {f : Stop → Act α} {s t : State} {a : α} (h : x s = .ok a t) : (tryCatch x f : Act α) s = .ok a t := by
  show EStateM.tryCatch x f s = _
  rw [EStateM.tryCatch, h]

/-- The state in which a message has entered the send buffer. -/
def State.buffering (s : State) (b : Sending) : State := { s with tile := { s.tile with sending := some b } }

/-- `t` is `s` after a send has put the message `m` into the network, with the caps of `cs` as `sent`; the instruction has not yet retired. -/
structure State.HasSent (s t : State) (cs : List (Reg × Cap)) (m : Msg) (sent : List Cap) : Prop where
  net : t.net = s.net ++ [{ m with caps := sent, seq := s.msgSeq }]
  caps : List.Forall₂ (s.SentAs t) (cs.map (·.2)) sent
  seq : t.msgSeq = s.msgSeq + 1
  count : t.tile.msgsent = s.tile.msgsent + if m.counted then 1 else 0
  regs : ∀ r, t.tile.rc r = if r ∈ cs.map (·.1) then Cap.null else s.tile.rc r
  x : t.tile.x = s.tile.x
  v : t.tile.v = s.tile.v
  mem : t.mem = s.mem

section
variable {s : State} (hs : s.Settled) (hnet : ∀ o ∈ s.net, s.blocked o = false)
include hs hnet

omit hs in
theorem heldBack_midSend {t : State} (m : s.MidSend t) (o : Msg) : t.heldBack o = false := by
  have hn : t.net = s.net := by
    obtain ⟨_, _, _, _, _, rfl⟩ := m
    rfl
  simp only [State.heldBack, hn, List.any_eq_false, blocked_midSend m]
  intro o ho
  simp [hnet o ho]

/-- Steps 2 to 4 of R83 and the injection, of a message that has just entered the send buffer. -/
theorem sendBuffered_run {cs : List (Reg × Cap)} {m : Msg} (hd : s.destDevice m.dest = some s.device) (hcaps : m.caps = cs.map (·.2))
    (hsend : ∀ p ∈ cs, s.Sendable p.2) (hnames : cs.Pairwise fun p q => s.bufferName p.2 ≠ s.bufferName q.2) :
    ∃ t sent, sendBuffered { msg := m, regs := cs.map (·.1) } (s.buffering { msg := m, regs := cs.map (·.1) }) = .ok () t ∧
      s.HasSent t cs m sent := by
  set b : Sending := { msg := m, regs := cs.map (·.1) } with hb
  have m0 : s.MidSend (s.buffering b) := midSend_sending s (some b)
  obtain ⟨u, sent, hrun, d⟩ := sendSlots_done hs.calm cs hsend hnames m0 fun _ _ _ _ => rfl
  have hmid := m0.trans d.mid
  have hdest : ∀ t, s.MidSend t → t.destDevice m.dest = some t.device := fun t ⟨_, _, _, _, _, ht⟩ => by
    rw [ht]
    exact hd
  have hzip : (b.regs.zip b.msg.caps).drop b.done.length = cs := by
    rw [hb, hcaps]
    exact (List.zip_of_prod (l := cs.map (·.1)) (l' := cs.map (·.2)) rfl rfl).symm
  have hsteps : sendSteps b (s.buffering b) = .ok () u := by
    rw [sendSteps, act_bind_ok (act_get _), hzip, hdest _ m0]
    exact act_tryCatch_ok hrun
  have hbuf : u.tile.sending = some { b with done := sent } := d.buffer
  obtain ⟨w, hempty, hlines⟩ := emptyBuffer_run (b := b) hbuf
  have hrun : sendBuffered b (s.buffering b) = .ok () (w.injectMsg { m with caps := sent }) := by
    rw [sendBuffered, act_bind_ok hsteps, act_bind_ok (act_get u), heldBack_midSend hnet hmid, if_neg (by decide)]
    exact act_bind_ok hempty
  have hdestw : w.destDevice m.dest = some w.device := by
    obtain ⟨_, _, _, _, rfl⟩ := hlines
    exact hdest u hmid
  have i := injectMsg_here (m := { m with caps := sent }) hdestw
  refine ⟨_, sent, hrun, ?_⟩
  generalize w.injectMsg _ = t at i
  have hregs := d.regs
  have hcapsT : List.Forall₂ (s.SentAs t) (cs.map (·.2)) sent := d.caps.imp fun c c' h => sentAs_mono h fun h _ => by
    obtain ⟨_, _, _, _, rfl⟩ := hlines
    simp [State.entry, i.dirs]
  obtain ⟨_, _, _, _, _, hu⟩ := hmid
  obtain ⟨_, _, _, _, hw⟩ := hlines
  have hrc : ∀ r, w.tile.rc r = u.tile.rc r := fun r => by rw [hw]; rfl
  subst hw hu
  exact { net := i.net, caps := hcapsT, seq := i.seq, count := i.count, regs := fun r => (i.regs r).trans ((hrc r).trans (hregs r)), x := i.x, v := i.v, mem := i.mem }

end

end Sys2Proof.Machine
end

section
/-! SUPPORT. Sends: the send instructions (R331, R332). -/

namespace Sys2Proof.Machine

open Sys2Proof

theorem Cap.eff_s (c : Cap) : c.eff.s = c.rights.s := by
  unfold Cap.eff
  cases c.mode <;> rfl

theorem sendable_kind {s : State} {c : Cap} (hs : s.Sendable c) : c.kind ≠ .null := fun h => by
  rcases hs.2.2 with ⟨_, _, o, -⟩ | ⟨-, _, _, _, k⟩ | hk | ⟨hk, -⟩
  · simpa [h] using o.kind
  · simpa [h] using k.kind
  · simp [h] at hk
  · simp [h] at hk

section
variable {s : State} (hs : s.Settled)
include hs

theorem checkCaps_run {cs : List (Reg × Cap)} (hsend : ∀ p ∈ cs, s.Sendable p.2) : checkCaps cs s = .ok () s := by
  induction cs with
  | nil => rfl
  | cons p cs ih =>
    have hp := hsend p (by simp)
    rw [checkCaps, act_bind_ok (requireCap_true (by simp [sendable_kind hp, Cap.eff_s, hp.2.1]) _ _ s), act_bind_ok (guardRegions_settled hs _ _)]
    exact ih fun q hq => hsend q (by simp [hq])

omit hs in
theorem stallLent_run {cs : List (Reg × Cap)} (hsend : ∀ p ∈ cs, s.Sendable p.2) : stallLent cs s = .ok () s := by
  induction cs with
  | nil => rfl
  | cons p cs ih =>
    rw [stallLent, act_bind_ok (lentStall_run (hsend p (by simp)).1 _ s)]
    exact ih fun q hq => hsend q (by simp [hq])

theorem checkDest_run (cs : List (Reg × Cap)) : checkDest s.device s.tile.inRegion cs s = .ok () s := by
  cases cs <;> simp [checkDest, act_bind, inRegion_quiet hs.regions]

theorem readCaps_run (rs : List Reg) : readCaps rs s = .ok (rs.map fun r => (r, s.tile.rc r)) s := by
  induction rs with
  | nil => rfl
  | cons r rs ih => rw [readCaps, act_bind_ok (useCap_quiet hs.armed r), act_bind_ok ih]; rfl

theorem getXs_run (rs : List Reg) : getXs rs s = .ok (rs.map s.tile.rx) s := by
  induction rs with
  | nil => rfl
  | cons r rs ih => rw [getXs, act_bind_ok (getX_quiet hs.armed r), act_bind_ok ih]; rfl

/-- The message that a send makes of its control word, its caps and its payload (R331, R332). -/
def State.sendMsgOf (s : State) (w : SendWord) (cs : List (Reg × Cap)) (payload : List Word) (hint : BitVec 2) : Msg :=
  { sender := s.tile.rank, senderEp := s.tile.principal s.device, senderLaunch := s.tile.launch.getD 0, dest := .rank (s.tile.launch.getD 0) w.rank,
    type := w.type, payload := payload, caps := cs.map (·.2), hint := hint, places := cs.map fun _ => 0, placed := cs.isEmpty,
    counted := s.tile.mode = Mode.u }

/-- A send whose control word has passed, of caps of different buffers that may be sent, outside every region. -/
theorem sendMessage_run (hnet : ∀ o ∈ s.net, s.blocked o = false) {w : SendWord} {i : Nat} (hd : s.place (s.tile.launch.getD 0) w.rank = some (s.device, i))
    {cs : List (Reg × Cap)} (hsend : ∀ p ∈ cs, s.Sendable p.2) (hnames : cs.Pairwise fun p q => s.bufferName p.2 ≠ s.bufferName q.2)
    (payload : List Word) (hint : BitVec 2) :
    ∃ t sent, sendMessage w s.device cs payload hint s = .ok () t ∧ s.HasSent t cs (s.sendMsgOf w cs payload hint) sent := by
  have hdest : s.destDevice (s.sendMsgOf w cs payload hint).dest = some s.device := by simp [State.destDevice, State.sendMsgOf, hd]
  obtain ⟨t, sent, hrun, hsent⟩ := sendBuffered_run hs hnet hdest rfl hsend hnames
  refine ⟨t, sent, ?_, hsent⟩
  unfold sendMessage
  rw [act_bind_ok (checkCaps_run hs hsend), act_bind_ok (stallLent_run hsend), act_bind_ok (act_get s), act_bind_ok (checkDest_run hs cs)]
  simp only [hs.release, List.isEmpty_nil, Bool.not_true, Bool.false_eq_true, if_false, inRegion_quiet hs.regions, heldBack_midSend hnet (.refl s), Bool.and_false]
  exact hrun

omit hs in
/-- The checks on a control word that is in order (R331). -/
theorem checkSend_run {w : SendWord} {fits : Bool} (hc : w.clean = true) (hf : fits = true) (ht : w.type.toNat < 0xF0 ∨ s.tile.mode = .m) {p : Nat × Nat}
    (hd : s.place (s.tile.launch.getD 0) w.rank = some p) : checkSend w fits s = .ok p s := by
  unfold checkSend
  rw [act_bind_ok (requireCap_true (by simp [hc, hf]) _ _ s), act_bind_ok (act_get s), act_bind_ok (requireCap_true (by simpa using ht) _ _ s)]
  simp only [hd]
  rfl

/-- An instruction whose action is a send that has succeeded. -/
theorem sendsMsg_of_hasSent {t : State} {f : Form} {i : Instr} {a : Act Unit} (hrun : exec i s = run f i a s) (hm : s.tile.misplaced f = false)
    (ha : a s = .ok () t) {rs : List Reg} {m m' : Msg} {sent : List Cap} (h : s.HasSent t (rs.map fun r => (r, s.tile.rc r)) m sent)
    (hmsg : { m with caps := [] } = m') (hcount : m.counted = decide (s.tile.mode = .u)) : s.SendsMsg i rs m' := by
  subst hmsg
  have hregs : (rs.map fun r => (r, s.tile.rc r)).map (·.1) = rs := by simp [Function.comp_def]
  have hcaps : (rs.map fun r => (r, s.tile.rc r)).map (·.2) = rs.map s.tile.rc := by simp [Function.comp_def]
  have hrc : ∀ r, (t.retired t.tile).tile.rc r = if r ∈ rs then Cap.null else s.tile.rc r := fun r => by
    rw [← hregs, ← h.regs r]
    simp [State.retired, Tile.rc, Tile.rcBank]
  refine ⟨_, sent, hrun.trans (run_ok hs.toQuiet hm ha), h.net, hcaps ▸ h.caps, h.seq, ?_, fun r hr => by rw [hrc, if_pos hr], fun r hr => by rw [hrc, if_neg hr], ?_, ?_, h.mem⟩
  · simp [State.retired, h.count, hcount]
  · simp [State.retired, h.x]
  · simp [State.retired, h.v]

end

/-! ### The send instructions -/

/-- A send of the tile under the control word `w` may go: the word is in order and names a rank of this device (R331). -/
structure State.MaySend (s : State) (w : SendWord) (launch i : Nat) : Prop where
  settled : s.Settled
  unprefixed : s.tile.kpre = none
  launched : s.tile.launch = some launch
  free : ∀ o ∈ s.net, s.blocked o = false
  place : s.place launch w.rank = some (s.device, i)
  clean : w.clean = true
  type : w.type.toNat < 0xF0 ∨ s.tile.mode = .m

section
variable {s : State} {w : SendWord} {launch i : Nat} (hm : s.MaySend w launch i)
include hm

theorem State.MaySend.placed : s.place (s.tile.launch.getD 0) w.rank = some (s.device, i) := by
  rw [hm.launched]
  exact hm.place

theorem State.MaySend.check {fits : Bool} (hf : fits = true) : checkSend w fits s = .ok (s.device, i) s :=
  checkSend_run hm.clean hf hm.type hm.placed

theorem State.MaySend.form : s.tile.misplaced { launch := true } = false := misplaced_launch hm.unprefixed (by simp [hm.launched])

/-- A send instruction, none of which has begun, makes its checks (R83). -/
theorem State.MaySend.begins (begin : Act Unit) : sendOr begin s = begin s := by
  rw [sendOr, act_bind_ok (curTile_run s), hm.settled.sending]

section
variable {a : Reg} (hw : SendWord.ofWord (s.tile.rx a) = w)
include hw

theorem execMsgSend_sends {b : Reg} (hk : w.k = 0) (hb : b.val + w.n ≤ 32) :
    s.SendsMsg (.msgSend a b) [] (s.sendMsgOf w [] ((regsFrom b w.n).map s.tile.rx) 0) := by
  obtain ⟨t, sent, hrun, hsent⟩ := sendMessage_run hm.settled hm.free hm.placed (cs := []) (by simp) .nil ((regsFrom b w.n).map s.tile.rx) 0
  refine sendsMsg_of_hasSent hm.settled rfl hm.form ?_ (rs := []) hsent rfl rfl
  rw [act_bind_ok (getX_quiet hm.settled.armed a), hw, act_bind_ok (hm.check (by simp [hk, hb]))]
  exact (act_bind_ok (getXs_run hm.settled _)).trans hrun

theorem execXfer_sends {b : Reg} (hint : BitVec 2) (hk : w.k = 0) (hn : w.n = 0) (hb : b ≠ 30) (hsend : s.Sendable (s.tile.rc b)) :
    s.SendsMsg (.xfer a b hint) [b] { s.sendMsgOf w [(b, s.tile.rc b)] [] hint with caps := [] } := by
  obtain ⟨t, sent, hrun, hsent⟩ :=
    sendMessage_run hm.settled hm.free hm.placed (cs := [(b, s.tile.rc b)]) (by simpa using hsend) (List.pairwise_singleton ..) [] hint
  refine sendsMsg_of_hasSent hm.settled rfl hm.form ?_ (rs := [b]) hsent rfl rfl
  rw [hm.begins, act_bind_ok (guardC30_run _ (by simpa using hb.symm) s), act_bind_ok (getX_quiet hm.settled.armed a),
    act_bind_ok (readCaps_run hm.settled [b]), hw, act_bind_ok (hm.check (by simp [hk, hn]))]
  exact hrun

/-- `msg.sendc` of the caps of the `k` registers from `d` on. -/
theorem execMsgSendc_sends {d b : Reg} (hint : BitVec 2) (hk : w.k = 1 ∨ w.k = 2) (hd : d ≠ 30 ∧ ¬(d = 29 ∧ w.k = 2)) (hdk : d.val + w.k ≤ 32)
    (hb : b.val + w.n ≤ 32) {rs : List Reg} (hrs : regsFrom d w.k = rs) (hsend : ∀ r ∈ rs, s.Sendable (s.tile.rc r))
    (hnames : rs.Pairwise fun p q => s.bufferName (s.tile.rc p) ≠ s.bufferName (s.tile.rc q)) :
    s.SendsMsg (.msgSendc d a b hint) rs
      { s.sendMsgOf w (rs.map fun r => (r, s.tile.rc r)) ((regsFrom b w.n).map s.tile.rx) hint with caps := [] } := by
  obtain ⟨t, sent, hrun, hsent⟩ := sendMessage_run hm.settled hm.free hm.placed (cs := rs.map fun r => (r, s.tile.rc r)) (by simpa using hsend)
    (List.pairwise_map.mpr hnames) ((regsFrom b w.n).map s.tile.rx) hint
  have hfits : ((w.k = 1 || w.k = 2) && b.val + w.n ≤ 32 && d.val + w.k ≤ 32 : Bool) = true := by simp [hk, hdk, hb]
  have hlegal : ¬((d = 30 || (d = 29 && w.k = 2) : Bool) = true) := by simpa using hd
  refine sendsMsg_of_hasSent hm.settled rfl hm.form ?_ (rs := rs) hsent rfl rfl
  rw [hm.begins, act_bind_ok (getX_quiet hm.settled.armed a), hw]
  refine (congrFun (if_neg hlegal) s).trans ?_
  rw [hfits]
  show (readCaps (regsFrom d w.k) >>= fun cs => checkSend w true >>= fun p => getXs (regsFrom b w.n) >>= fun ws => sendMessage w p.1 cs ws hint) s = _
  rw [hrs, act_bind_ok (readCaps_run hm.settled rs), act_bind_ok (hm.check rfl)]
  exact (act_bind_ok (getXs_run hm.settled _)).trans hrun

end

end

/-- Settles O42. -/
theorem messageSendResults : Obligations.MessageSendResults := by
  unfold Obligations.MessageSendResults
  intro s d a b hint launch i hs hp hl hnet v rank n k hplace hlow hhigh htype payload msg
  have htypes : (SendWord.ofWord (s.tile.rx a)).type = BitVec.ofNat 8 (v / 2 ^ 32) := by
    rw [← Nat.shiftRight_eq_div_pow]
    rfl
  have hm : s.MaySend (SendWord.ofWord (s.tile.rx a)) launch i :=
    { settled := hs, unprefixed := hp, launched := hl, free := hnet, place := hplace, clean := Bool.and_eq_true_iff.mpr ⟨decide_eq_true hlow, decide_eq_true hhigh⟩,
      type := by simpa [htypes] using htype }
  have hmsg : ∀ (cs : List (Reg × Cap)) (ws : List Word) (hint : BitVec 2),
      { s.sendMsgOf (SendWord.ofWord (s.tile.rx a)) cs ws hint with caps := [] } = msg ws cs.length hint := fun cs ws hint => by
    have hempty : cs.isEmpty = decide (cs.length = 0) := by cases cs <;> rfl
    simp [State.sendMsgOf, msg, htypes, hl, hempty]
    rfl
  have hpayload : ((regsFrom b (SendWord.ofWord (s.tile.rx a)).n).map s.tile.rx) = payload := by
    rw [regsFrom, List.map_map]
    rfl
  refine ⟨fun hk hb => ?_, fun hk hn hb hsend => ?_, fun hk hb hd hsend => ?_, fun hk hb hd hsend hsend' hne => ?_⟩
  · have h := execMsgSend_sends hm rfl hk hb
    rw [hpayload] at h
    exact hmsg [] payload 0 ▸ h
  · exact hmsg [(b, s.tile.rc b)] [] hint ▸ execXfer_sends hm rfl hint hk hn hb hsend
  · have hk' : (SendWord.ofWord (s.tile.rx a)).k = 1 := hk
    have hrs : regsFrom d (SendWord.ofWord (s.tile.rx a)).k = [d] := by simp [regsFrom, hk']
    have h := execMsgSendc_sends hm rfl hint (.inl hk') ⟨hd, by simp [hk']⟩ (by omega) hb hrs (by simpa using hsend) (List.pairwise_singleton ..)
    rw [hpayload] at h
    exact hmsg [(d, s.tile.rc d)] payload hint ▸ h
  · have hk' : (SendWord.ofWord (s.tile.rx a)).k = 2 := hk
    have hrs : regsFrom d (SendWord.ofWord (s.tile.rx a)).k = [d, d + 1] := by
      have : (1 : Reg).val = 1 := rfl
      simp [regsFrom, hk', List.range_succ, Fin.ext_iff, Fin.val_add]
    have hnames : s.bufferName (s.tile.rc d) ≠ s.bufferName (s.tile.rc (d + 1)) := fun h => hne (by
      obtain ⟨hh, hb⟩ := Prod.ext_iff.mp h
      exact Prod.ext hh (BitVec.eq_of_toNat_eq hb))
    have h := execMsgSendc_sends hm rfl hint (.inr hk') ⟨fun h => by simp [h] at hd, fun h => by simp [h.1] at hd⟩ (by omega) hb hrs
      (by simpa using ⟨hsend, hsend'⟩) (by simpa using hnames)
    rw [hpayload] at h
    exact hmsg [(d, s.tile.rc d), (d + 1, s.tile.rc (d + 1))] payload hint ▸ h

end Sys2Proof.Machine
end

section
/-! SUPPORT. The host port's registers and the root of trust: SPDM and the tenant's requests (R452, R453, R460, R468, R471, R491-R496). -/

namespace Sys2Proof.Machine

open Sys2Proof

/-! ### Registers and tables -/

theorem bar0RegisterWrite_hctl (s : State) (v : Word) : exec (.bar0RegisterWrite 0x040 v) s = .next { s with host := { s.host with hctl := v } } := rfl

theorem bar0RegisterWrite_enabled {s : State} (h : s.host.enable = true) {a : Nat} (ha : a ≠ 0x040) (v : Word) : exec (.bar0RegisterWrite a v) s = .next s := by
  show execBar0RegisterWrite a v s = _
  unfold execBar0RegisterWrite
  simp [ha, h]

theorem bar0RegisterWrite_disabled {s : State} (h : s.host.enable = false) (v : Word) :
    exec (.bar0RegisterWrite 0x000 v) s = .next { s with host := { s.host with sqbase := v } } ∧
    exec (.bar0RegisterWrite 0x008 v) s = .next { s with host := { s.host with sqsize := v } } ∧
    exec (.bar0RegisterWrite 0x010 v) s = .next { s with host := { s.host with sqtail := v } } ∧
    exec (.bar0RegisterWrite 0x020 v) s = .next { s with host := { s.host with rqbase := v } } ∧
    exec (.bar0RegisterWrite 0x028 v) s = .next { s with host := { s.host with rqsize := v } } ∧
    exec (.bar0RegisterWrite 0x030 v) s = .next { s with host := { s.host with rqhead := v } } := by
  have hf : ¬(s.host.enable = true) := by simp [h]
  exact ⟨if_neg hf, if_neg hf, if_neg hf, if_neg hf, if_neg hf, if_neg hf⟩

theorem hostWindowTableLoad_loads (s : State) {entries : List (BitVec 16 × Nat × Nat)} (hl : entries.length ≤ 64)
    (he : ∀ e ∈ entries, e.2.1 % 4096 = 0 ∧ e.2.2 % 4096 = 0 ∧ e.2.1 + e.2.2 ≤ 2 ^ 48) :
    exec (.hostWindowTableLoad entries) s = .next { s with host := { s.host with windows := entries } } := by
  refine if_pos ?_
  simpa [hl, and_assoc] using he

theorem hdmDecoderProgram_programs (s : State) (base : Nat) {size window : Nat} (hs : size % 2 ^ 28 = 0) (hl : size ≤ 2 ^ 39) (hw : window % 2 ^ 28 = 0) :
    exec (.hdmDecoderProgram base size window) s = .next { s with host := { s.host with decoder := some (base, size, window) } } :=
  if_pos (by simp only [hs, hl, hw, decide_true, Bool.and_true])

theorem ideKmRequest_programs {s : State} {d : BitVec 16} (h : s.trust.spdm = .secure d) (key : Nat) :
    exec (.ideKmRequest key) s = .next { s with host := { s.host with ide := some key } } := by
  show execIdeKmRequest key s = _
  rw [execIdeKmRequest, h]

/-! ### The SPDM responder (R471) -/

section
variable {s : State} (hup : 5 ≤ s.power.bootStep)
include hup

theorem spdm_answers {ok : Bool} (h : ok = true) (f : State → State) : s.spdm ok f = .next (f s) := by simp [State.spdm, State.spdmUp, hup, h]

theorem spdm_refuses {ok : Bool} (h : ok = false) (f : State → State) : s.spdm ok f = .next s.spdmError := by simp [State.spdm, State.spdmUp, hup, h]

/-- A request whose phase admits it is answered. -/
theorem spdmSays_of {i : Instr} (o : Host.Outcome State Fault Refusal) {ok : Bool} {f : State → State} (hi : exec i s = o) (ho : o = s.spdm ok f) (h : ok = true) {p : SpdmPhase} {code : Nat}
    {words : List Nat → Prop} {ws : List Nat} (hp : (f s).trust.spdm = p) (ha : (f s).trust.answers = (code, ws) :: s.trust.answers) (hw : words ws)
    (ht : (f s).tile = s.tile) (hm : (f s).mem = s.mem) : s.SpdmSays i p code words :=
  ⟨f s, ws, (hi.trans ho).trans (spdm_answers hup h f), hp, ha, hw, ht, hm⟩

/-- A request that is out of order in its phase is answered ERROR. -/
theorem spdmErrs_of {i : Instr} (o : Host.Outcome State Fault Refusal) {ok : Bool} {f : State → State} (hi : exec i s = o) (ho : o = s.spdm ok f) (h : ok = false) :
    s.SpdmErrs i := (hi.trans ho).trans (spdm_refuses hup h f)

theorem spdmGetVersion_says : s.SpdmSays .spdmGetVersion .version 0x04 fun l => l = [0x13] := spdmSays_of hup (execSpdmGetVersion s) rfl rfl rfl rfl rfl rfl rfl rfl

theorem spdmGetCapabilities_says (h : s.trust.spdm = .version) : s.SpdmSays .spdmGetCapabilities .capabilities 0x61 fun l => l = [] :=
  spdmSays_of hup (execSpdmGetCapabilities s) rfl rfl (decide_eq_true h) rfl rfl rfl rfl rfl

theorem spdmGetCapabilities_errs (h : s.trust.spdm ≠ .version) : s.SpdmErrs .spdmGetCapabilities := spdmErrs_of hup (execSpdmGetCapabilities s) rfl rfl (decide_eq_false h)

theorem spdmNegotiateAlgorithms_says (h : s.trust.spdm = .capabilities) : s.SpdmSays (.spdmNegotiateAlgorithms true) .algorithms 0x63 fun l => l = [] :=
  spdmSays_of hup (execSpdmNegotiateAlgorithms true s) rfl rfl (by simp [h]) rfl rfl rfl rfl rfl

theorem spdmNegotiateAlgorithms_errs (h : s.trust.spdm ≠ .capabilities) : s.SpdmErrs (.spdmNegotiateAlgorithms true) := spdmErrs_of hup (execSpdmNegotiateAlgorithms true s) rfl rfl (by simp [h])

section
variable (h : s.trust.spdm.agreed = true)
include h

theorem spdmGetDigests_says : s.SpdmSays .spdmGetDigests s.trust.spdm 0x01 fun l => l = [digest384 [s.trust.attestation]] :=
  spdmSays_of hup (execSpdmGetDigests s) rfl rfl h rfl rfl rfl rfl rfl

theorem spdmGetCertificate_says (off len : Nat) : s.SpdmSays (.spdmGetCertificate 0 off len) s.trust.spdm 0x02 fun l => l.length = len :=
  spdmSays_of hup (execSpdmGetCertificate 0 off len s) rfl rfl (by simp [h]) rfl rfl (by simp) rfl rfl

theorem spdmChallenge_says (n : Nat) : s.SpdmSays (.spdmChallenge n) s.trust.spdm 0x03
    fun l => l = [digest384 [s.trust.attestation], s.trust.sign (s.trust.transcript ++ [0x83, n])] :=
  spdmSays_of hup (execSpdmChallenge n s) rfl rfl h rfl rfl rfl rfl rfl

theorem spdmGetMeasurements_says {k : Nat} (h1 : 1 ≤ k) (h7 : k ≤ 7) :
    s.SpdmSays (.spdmGetMeasurements k) s.trust.spdm 0x60 fun l => l.head? = some (s.trust.measurements.getD k 0) :=
  spdmSays_of hup (execSpdmGetMeasurements k s) rfl rfl (by simp [h, h7]) rfl rfl (by simp [show k ≠ 0 by omega, show k ≠ 0xFF by omega]) rfl rfl

end

section
variable (h : s.trust.spdm.agreed = false)
include h

theorem spdmGetDigests_errs : s.SpdmErrs .spdmGetDigests := spdmErrs_of hup (execSpdmGetDigests s) rfl rfl h

theorem spdmChallenge_errs (n : Nat) : s.SpdmErrs (.spdmChallenge n) := spdmErrs_of hup (execSpdmChallenge n s) rfl rfl h

theorem spdmGetMeasurements_errs (n : Nat) : s.SpdmErrs (.spdmGetMeasurements n) := spdmErrs_of hup (execSpdmGetMeasurements n s) rfl rfl (by simp [h])

end

theorem spdmKeyExchange_says (h : s.trust.spdm = .algorithms) (n : Nat) : ∃ x, s.SpdmSays (.spdmKeyExchange n) .exchanged 0x64
    fun l => l = [x, s.trust.sign (s.trust.transcript ++ [0xE4, n, x])] :=
  ⟨(Config.freeWord s.draws).toNat, spdmSays_of hup (execSpdmKeyExchange n s) rfl rfl (decide_eq_true h) rfl rfl rfl rfl rfl⟩

theorem spdmFinish_says (h : s.trust.spdm = .exchanged) (d : BitVec 16) :
    s.SpdmSays (.spdmFinish d (Config.digest s.trust.transcript)) (.secure d) 0x65 fun l => l = [] :=
  spdmSays_of hup (execSpdmFinish d (Config.digest s.trust.transcript) s) rfl rfl (by simp [h]) rfl rfl rfl rfl rfl

theorem spdmFinish_errs (d : BitVec 16) {w : Nat} (h : w ≠ Config.digest s.trust.transcript) : s.SpdmErrs (.spdmFinish d w) :=
  spdmErrs_of hup (execSpdmFinish d w s) rfl rfl (by simp [h])

theorem spdmHeartbeat_says {d : BitVec 16} (h : s.trust.spdm = .secure d) : s.SpdmSays .spdmHeartbeat s.trust.spdm 0x68 fun l => l = [] :=
  spdmSays_of hup (execSpdmHeartbeat s) rfl rfl (by rw [h]; rfl) rfl rfl rfl rfl rfl

theorem spdmEndSession_says {d : BitVec 16} (h : s.trust.spdm = .secure d) : s.SpdmSays .spdmEndSession .algorithms 0x6C fun l => l = [] :=
  spdmSays_of hup (execSpdmEndSession s) rfl rfl (by rw [h]; rfl) rfl rfl rfl rfl rfl

theorem spdmHeartbeat_errs (h : s.trust.spdm.session = false) : s.SpdmErrs .spdmHeartbeat := spdmErrs_of hup (execSpdmHeartbeat s) rfl rfl h

theorem spdmEndSession_errs (h : s.trust.spdm.session = false) : s.SpdmErrs .spdmEndSession := spdmErrs_of hup (execSpdmEndSession s) rfl rfl h

/-! ### The tenant's requests (R468, R471) -/

/-- A request of the tenant of the session's domain, where it is admitted, changes the state and is answered. -/
theorem tenant_answers {d : BitVec 16} (hp : s.trust.spdm = .secure d) {ok : Bool} (h : ok = true) (f : State → State × List Nat) :
    s.tenant d ok f = .next { (f s).1 with trust := { (f s).1.trust with answers := (0x7E, (f s).2) :: (f s).1.trust.answers } } :=
  spdm_answers hup (by simp [hp, h]) _

theorem tenant_errs {i : Instr} {d : BitVec 16} {ok : Bool} {f : State → State × List Nat} (o : Host.Outcome State Fault Refusal) (hi : exec i s = o) (ho : o = s.tenant d ok f) (h : s.trust.spdm ≠ .secure d ∨ ok = false) :
    s.SpdmErrs i :=
  spdmErrs_of hup o hi ho (by rcases h with h | h <;> simp [h])

end

/-- What a change of the records of one key leaves of the first of them. -/
theorem find_map_key {α β : Type} [DecidableEq β] (key : α → β) {d : β} {f : α → α} (hf : ∀ a, key (f a) = key a) {l : List α} {a : α}
    (h : l.find? (fun a => decide (key a = d)) = some a) :
    (l.map fun a => if key a = d then f a else a).find? (fun a => decide (key a = d)) = some (f a) := by
  have hp : (fun a => decide (key a = d)) ∘ (fun a => if key a = d then f a else a) = fun a => decide (key a = d) := by
    funext a
    by_cases ha : key a = d <;> simp [ha, hf]
  have ha : key a = d := by simpa using List.find?_some h
  rw [List.find?_map, hp, h, Option.map_some, if_pos ha]

/-- The descriptor of a domain after a change of it (R471). -/
theorem descriptor_changeDescriptor {s : State} {d : BitVec 16} {e : Descriptor} (h : s.descriptor d = some e) {f : Descriptor → Descriptor}
    (hf : ∀ o, (f o).domain = o.domain) : (s.changeDescriptor d f).descriptor d = some (f e) := by
  rw [State.changeDescriptor, h]
  exact find_map_key Descriptor.domain hf h

theorem changeDescriptor_mem (s : State) (d : BitVec 16) (f : Descriptor → Descriptor) : (s.changeDescriptor d f).mem = s.mem := by
  unfold State.changeDescriptor
  split <;> rfl

end Sys2Proof.Machine
end

section
/-! SUPPORT. The requests of a domain's tenant, domain descriptors and session logs (R452, R453, R463-R468, R471). -/

namespace Sys2Proof.Machine

open Sys2Proof

section
variable {s : State} (hup : 5 ≤ s.power.bootStep) {d : BitVec 16}
include hup

section
variable (hp : s.trust.spdm = .secure d)
include hp

theorem installDomainSecret_installs {e : Descriptor} (he : s.descriptor d = some e) (hb : s.domainBusy d = false) (secret : BitVec 256) :
    ∃ t : State, exec (.installDomainSecret d secret) s = .next t ∧ t.trust.answers.head? = some (0x7E, []) ∧
      t.descriptor d = some { e with keyed := true, secret := secret.toNat } ∧ (∀ k ∈ t.fabric.keys, k.domain ≠ d) ∧ t.mem = s.mem := by
  have hd := descriptor_changeDescriptor he (f := fun e => { e with keyed := true, secret := secret.toNat }) fun _ => rfl
  refine ⟨_, (tenant_answers hup hp (by simp [he, hb]) _ : execInstallDomainSecret d secret s = _), rfl, hd, fun k hk => ?_, changeDescriptor_mem _ _ _⟩
  simpa using (List.mem_filter.mp hk).2

omit hp in
theorem installDomainSecret_errs (hb : s.domainBusy d = true) (secret : BitVec 256) : s.SpdmErrs (.installDomainSecret d secret) :=
  tenant_errs hup (execInstallDomainSecret d secret s) rfl rfl (.inr (by simp [hb]))

theorem readSessionLog_says {l : SessionLog} (hl : s.trust.logs.find? (fun l => decide (l.domain = d)) = some l) :
    s.SpdmSays (.readSessionLog d) s.trust.spdm 0x7E fun ws => ws = l.unread.flatMap LogItem.words :=
  ⟨_, _, (tenant_answers hup hp rfl _ : execReadSessionLog d s = _), rfl, rfl, by simp [hl], rfl, rfl⟩

theorem advanceLogReadPointer_advances {l : SessionLog} (hl : s.trust.logs.find? (fun l => decide (l.domain = d)) = some l) (n : Nat) :
    ∃ t : State, exec (.advanceLogReadPointer d n) s = .next t ∧ t.trust.answers.head? = some (0x7E, []) ∧
      t.trust.logs.find? (fun l => decide (l.domain = d)) = some { l with used := l.used - n } ∧ t.mem = s.mem :=
  ⟨_, (tenant_answers hup hp rfl _ : execAdvanceLogReadPointer d n s = _), rfl,
    find_map_key SessionLog.domain (f := fun l => { l with used := l.used - n }) (fun _ => rfl) hl, rfl⟩

end

theorem readErrorSummary_says {n : Nat} {l : Launch} (hl : s.launchAt n = some l) (hp : s.trust.spdm = .secure l.record.domain) :
    s.SpdmSays (.readErrorSummary n) s.trust.spdm 0x7E fun ws => ws = l.summary.flatMap Summary.words ++ [l.overflow % 2 ^ 32] := by
  have hrun : execReadErrorSummary n s = s.tenant l.record.domain true fun s => (s, l.summary.flatMap Summary.words ++ [l.overflow % 2 ^ 32]) := by
    rw [execReadErrorSummary, hl]
  exact ⟨_, _, hrun.trans (tenant_answers hup hp rfl _), rfl, rfl, rfl, rfl, rfl⟩

theorem readErrorSummary_errs {n : Nat} {l : Launch} (hl : s.launchAt n = some l) (hp : s.trust.spdm ≠ .secure l.record.domain) :
    s.SpdmErrs (.readErrorSummary n) :=
  tenant_errs hup (execReadErrorSummary n s) rfl (f := fun s => (s, l.summary.flatMap Summary.words ++ [l.overflow % 2 ^ 32])) (by rw [execReadErrorSummary, hl]) (.inl hp)

end

/-! ### Rosters -/

/-- The roster that a request asks for, with this device (R460). -/
def fullRoster (device : Nat) (roster : List Nat) : List Nat := if roster.contains device then roster.eraseDups else device :: roster.eraseDups

theorem eraseDups_nodup {l : List Nat} (h : l.Nodup) : l.eraseDups = l := by
  induction l with
  | nil => rfl
  | cons a l ih =>
    obtain ⟨ha, hl⟩ := List.nodup_cons.mp h
    have hf : l.filter (fun b => !(b == a)) = l := List.filter_eq_self.mpr fun b hb => by
      simpa using fun hba : b = a => ha (hba ▸ hb)
    rw [List.eraseDups_cons, hf, ih hl]

theorem setRosterAndPermissions_sets {s : State} (hup : 5 ≤ s.power.bootStep) {d : BitVec 16} (hp : s.trust.spdm = .secure d) {e : Descriptor}
    (he : s.descriptor d = some e) {roster : List Nat} (hn : roster.Nodup) (hlen : roster.length < 4095) (a b c : Bool) :
    ∃ (t : State) (r : List Nat), exec (.setRosterAndPermissions d roster a b c) s = .next t ∧ t.trust.answers.head? = some (0x7E, []) ∧
      t.descriptor d = some { e with roster := r, debug := a, inject := b, hostclear := c } ∧
      (e.isSealed = true → s.device ∈ r ∧ ∀ x ∈ roster, x ∈ r) ∧ (e.isSealed = false → r = []) := by
  have hd := descriptor_changeDescriptor he (f := fun e => { e with roster := if e.isSealed then fullRoster s.device roster else [], debug := a, inject := b, hostclear := c })
    fun _ => rfl
  have hlen' : (fullRoster s.device roster).length ≤ 4095 := by
    unfold fullRoster
    rw [eraseDups_nodup hn]
    split
    · omega
    · simpa using hlen
  have hmem : s.device ∈ fullRoster s.device roster ∧ ∀ x ∈ roster, x ∈ fullRoster s.device roster := by
    unfold fullRoster
    rw [eraseDups_nodup hn]
    split
    · exact ⟨by simpa using ‹roster.contains s.device = true›, fun x hx => hx⟩
    · simp +contextual
  refine ⟨_, _, (tenant_answers hup hp (by rw [he]; exact decide_eq_true hlen') _ : execSetRosterAndPermissions d roster a b c s = _), rfl, hd, fun h => ?_, fun h => ?_⟩
  · simpa [h] using hmem
  · simp [h]

/-! ### Logs -/

theorem writeUnits_eq (s : State) (d : BitVec 16) (size place : Nat) (words : List Nat) :
    s.writeUnits d size place words = { s with mem := (s.writeUnits d size place words).mem } := by
  unfold State.writeUnits
  split
  · rfl
  · rename_i e h
    clear h
    generalize List.range (words.length / 16) = js
    induction js generalizing s with
    | nil => rfl
    | cons j js ih =>
      rw [List.foldl_cons, ih]
      rfl

/-- The log of a domain, as an event finds it. -/
def State.logOf (s : State) (d : BitVec 16) : Option SessionLog := s.trust.logs.find? fun l => decide (l.domain = d)

/-- `t` is `s` but for bytes of memory and the session logs, of which that of the domain `d` is now `l`. -/
def State.Logged (s t : State) (d : BitVec 16) (l : SessionLog) : Prop :=
  ∃ mem logs, t = { s with mem := mem, trust := { s.trust with logs := logs } } ∧ t.logOf d = some l

theorem logOf_mapLog {s : State} {d : BitVec 16} {l : SessionLog} (h : s.logOf d = some l) {f : SessionLog → SessionLog} (hf : ∀ o, (f o).domain = o.domain) :
    (s.mapLog d f).logOf d = some (f l) :=
  find_map_key SessionLog.domain hf h

theorem logOf_domain {s : State} {d : BitVec 16} {l : SessionLog} (h : s.logOf d = some l) : l.domain = d := by simpa using List.find?_some h

/-- The item that an append makes, with its time and chain value (R463). -/
def State.newItem (s : State) (l : SessionLog) (type units : Nat) (injected : Bool) (launch : Nat) (payload : List Nat) : LogItem :=
  let i : LogItem := { type := type, units := units, injected := injected, domain := l.domain, sequence := l.sequence, time := max (nsOf s.clock) l.lastTime,
                       launch := launch, payload := payload, chain := 0 }
  { i with chain := digest384 (natWords 6 l.chain ++ i.open') }

theorem newItem_chain (s : State) (l : SessionLog) (type units : Nat) (injected : Bool) (launch : Nat) (payload : List Nat) :
    (s.newItem l type units injected launch payload).chain = digest384 (natWords 6 l.chain ++ (s.newItem l type units injected launch payload).open') := rfl

/-- A log with one more item (R463). -/
def SessionLog.appended (l : SessionLog) (i : LogItem) : SessionLog :=
  { l with items := l.items ++ [i], sequence := l.sequence + 1, used := l.used + i.units, chain := i.chain, lastTime := i.time }

theorem appendItem_logged {s : State} {l : SessionLog} (h : s.logOf l.domain = some l) (type units : Nat) (injected : Bool) (launch : Nat) (payload : List Nat) :
    s.Logged (s.appendItem l type units injected launch payload) l.domain (l.appended (s.newItem l type units injected launch payload)) := by
  have hl := logOf_mapLog h (f := fun o => o.appended (s.newItem l type units injected launch payload)) fun _ => rfl
  refine ⟨(s.appendItem l type units injected launch payload).mem, _, writeUnits_eq _ _ _ _ _, ?_⟩
  rw [State.appendItem, writeUnits_eq]
  exact hl

theorem State.Logged.mapLog {s t : State} {d : BitVec 16} {l : SessionLog} (h : s.Logged t d l) {f : SessionLog → SessionLog} (hf : ∀ o, (f o).domain = o.domain) :
    s.Logged (t.mapLog d f) d (f l) := by
  obtain ⟨_, _, rfl, hl⟩ := h
  exact ⟨_, _, rfl, logOf_mapLog hl hf⟩

/-- A heartbeat enters a log with room for it, which counts it and starts its counts anew (R465). -/
theorem beat_logged {s : State} {l : SessionLog} (h : s.logOf l.domain = some l) (hf : 2 ≤ l.free) :
    ∃ i : LogItem, i.type = 6 ∧ i.payload.take 4 = [l.heartbeats % 2 ^ 64, l.dropped % 2 ^ 64, l.violationsDropped % 2 ^ 64, 0] ∧
      s.Logged (s.beat l) l.domain { l.appended i with heartbeats := l.heartbeats + 1, dropped := 0, violationsDropped := 0 } := by
  rw [State.beat, if_neg (by omega)]
  exact ⟨_, rfl, rfl, (appendItem_logged h 6 2 false 0 _).mapLog (f := fun l => { l with heartbeats := l.heartbeats + 1, dropped := 0, violationsDropped := 0 }) fun _ => rfl⟩

/-- The last heartbeat of a log is as old as all are. -/
theorem lastBeat_before {l : List LogItem} {n c : Nat} (h : ∀ i ∈ l, i.type = 6 → i.time + n ≤ c) :
    (((l.filter fun i => i.type = 6).getLast?).map (·.time)).all (fun t => t + n ≤ c) = true := by
  cases hx : (l.filter fun i => i.type = 6).getLast? with
  | none => rfl
  | some x =>
    obtain ⟨hm, h6⟩ := List.mem_filter.mp (List.mem_of_getLast? hx)
    exact decide_eq_true (h x hm (by simpa using h6))

theorem heartbeat_beats {s : State} {d : BitVec 16} {l : SessionLog} (h : s.logOf d = some l)
    (ht : ∀ i ∈ l.items, i.type = 6 → i.time + 9950000 ≤ s.clock * 2 / 5) (hf : 2 ≤ l.free) :
    ∃ (t : State) (l' : SessionLog) (i : LogItem), exec (.heartbeat d) s = .next t ∧ t.logOf d = some l' ∧ l'.items = l.items ++ [i] ∧ i.type = 6 ∧
      i.payload.take 4 = [l.heartbeats % 2 ^ 64, l.dropped % 2 ^ 64, l.violationsDropped % 2 ^ 64, 0] ∧ l'.heartbeats = l.heartbeats + 1 ∧ l'.dropped = 0 ∧
      t.tile = s.tile := by
  have hd := logOf_domain h
  subst hd
  obtain ⟨i, hi, hpay, hlog⟩ := beat_logged h hf
  have hlast := lastBeat_before (c := nsOf s.clock) fun i hi h6 => (show nsOf s.clock = s.clock * 2 / 5 from rfl) ▸ ht i hi h6
  have hrun : execHeartbeat l.domain s = .next (s.beat l) := by
    rw [State.logOf] at h
    rw [execHeartbeat, h]
    exact if_pos hlast
  obtain ⟨_, _, ht, hl'⟩ := hlog
  exact ⟨_, _, i, hrun, hl', rfl, hi, hpay, rfl, rfl, by rw [ht]⟩

/-! ### Items (R463, R466) -/

theorem countViolation_eq (s : State) (type launch : Nat) : s.countViolation type launch = { s with launches := (s.countViolation type launch).launches } := by
  unfold State.countViolation
  split <;> rfl

/-- The writer's item enters a log with room for it. -/
theorem writeItem_logged {s : State} {p : PendingItem} {l : SessionLog} (h : s.logOf p.domain = some l) (hf : p.units + 2 ≤ l.free) :
    ∃ launches, { s with launches := launches }.Logged (s.writeItem p) p.domain
      (l.appended (s.newItem l p.type p.units p.injected p.launch p.payload)) := by
  refine ⟨(s.countViolation p.type p.launch).launches, ?_⟩
  have hd := logOf_domain h
  have hl : (s.countViolation p.type p.launch).logOf l.domain = some l := by rw [countViolation_eq, hd]; exact h
  have hrun : s.writeItem p = (s.countViolation p.type p.launch).appendItem l p.type p.units p.injected p.launch p.payload := by
    rw [State.logOf] at h
    rw [State.writeItem, h]
    exact if_neg (by omega)
  have happ := appendItem_logged hl p.type p.units p.injected p.launch p.payload
  rw [hrun]
  rw [countViolation_eq] at happ ⊢
  rw [hd] at happ
  exact happ

/-- The writer drops and counts an item for which a log has no room (R466). -/
theorem writeItem_drops {s : State} {p : PendingItem} {l : SessionLog} (h : s.logOf p.domain = some l) (hf : l.free < p.units + 2) :
    ∃ launches logs, s.writeItem p = { s with launches := launches, trust := { s.trust with logs := logs } } ∧
      (s.writeItem p).logOf p.domain = some { l with dropped := l.dropped + 1 } := by
  have hrun : s.writeItem p = (s.countViolation p.type p.launch).mapLog p.domain fun l => { l with dropped := l.dropped + 1 } := by
    rw [State.logOf] at h
    rw [State.writeItem, h]
    exact if_pos hf
  have hl : (s.countViolation p.type p.launch).logOf p.domain = some l := by rw [countViolation_eq]; exact h
  have hlog := logOf_mapLog hl (f := fun l => { l with dropped := l.dropped + 1 }) fun _ => rfl
  rw [countViolation_eq] at hlog hrun
  rw [hrun]
  exact ⟨_, _, rfl, hlog⟩

theorem logItemWrite_pending {s : State} (hv : s.violations = []) {p : PendingItem} {ps : List PendingItem} (hp : s.trust.pending = p :: ps) :
    exec .logItemWrite s = .next ({ s with trust := { s.trust with pending := ps } }.writeItem p) := by
  show execLogItemWrite s = _
  rw [execLogItemWrite, hv, hp]

theorem logItemWrite_appends {s : State} (hv : s.violations = []) {p : PendingItem} {ps : List PendingItem} (hp : s.trust.pending = p :: ps)
    {l : SessionLog} (h : s.logOf p.domain = some l) (hf : p.units + 2 ≤ l.free) :
    ∃ (t : State) (l' : SessionLog) (i : LogItem), exec .logItemWrite s = .next t ∧ t.trust.pending = ps ∧ t.logOf p.domain = some l' ∧
      l'.items = l.items ++ [i] ∧ i.type = p.type ∧ i.sequence = l.sequence ∧ i.payload = p.payload ∧ l.lastTime ≤ i.time ∧
      i.chain = digest384 (natWords 6 l.chain ++ i.open') ∧ l'.chain = i.chain ∧ l'.used = l.used + p.units ∧ l'.sequence = l.sequence + 1 ∧ t.tile = s.tile := by
  have h' : ({ s with trust := { s.trust with pending := ps } } : State).logOf p.domain = some l := h
  obtain ⟨launches, _, _, ht, hl⟩ := writeItem_logged h' hf
  exact ⟨_, _, _, logItemWrite_pending hv hp, by rw [ht], hl, rfl, rfl, rfl, rfl, Nat.le_max_right _ _, newItem_chain .., rfl, rfl, rfl, by rw [ht]⟩

theorem logItemWrite_drops {s : State} (hv : s.violations = []) {p : PendingItem} {ps : List PendingItem} (hp : s.trust.pending = p :: ps)
    {l : SessionLog} (h : s.logOf p.domain = some l) (hf : l.free < p.units + 2) :
    ∃ (t : State) (l' : SessionLog), exec .logItemWrite s = .next t ∧ t.trust.pending = ps ∧ t.logOf p.domain = some l' ∧
      l'.items = l.items ∧ l'.dropped = l.dropped + 1 ∧ t.mem = s.mem := by
  have h' : ({ s with trust := { s.trust with pending := ps } } : State).logOf p.domain = some l := h
  obtain ⟨_, _, ht, hl⟩ := writeItem_drops h' hf
  exact ⟨_, _, logItemWrite_pending hv hp, by rw [ht], hl, rfl, rfl, by rw [ht]⟩

/-! ### Receipts, summaries and spores (R403, R467, R468) -/

/-- An item changes neither the receipts nor a tile. -/
theorem writeItem_frame (s : State) (p : PendingItem) : ∃ mem launches logs, s.writeItem p =
    { s with mem := mem, launches := launches, trust := { s.trust with logs := logs } } := by
  unfold State.writeItem
  rw [countViolation_eq]
  split
  · exact ⟨_, _, _, rfl⟩
  · dsimp only
    split
    · exact ⟨_, _, _, rfl⟩
    · rw [State.appendItem, writeUnits_eq]
      exact ⟨_, _, _, rfl⟩

theorem receiptWrite_writes {s : State} {n : Nat} {l : Launch} (hl : s.launchAt n = some l) (he : l.state = .ended) (hd : l.device = s.device)
    (hr : ∀ p ∈ s.trust.receipts, p.1 ≠ n) : ∃ (t : State) (words : List Nat), exec (.receiptWrite n) s = .next t ∧
      t.trust.receipts = s.trust.receipts ++ [(n, words)] ∧ words.head? = some l.issued ∧ t.tile = s.tile := by
  have hguard : (l.state ≠ .ended || l.device ≠ s.device || s.trust.receipts.any fun p => p.1 = n : Bool) = false := by
    simpa [he, hd] using fun a b hab => hr (a, b) hab
  show ∃ (t : State) (words : List Nat), execReceiptWrite n s = .next t ∧ _
  unfold execReceiptWrite
  simp only [hl, hguard, Bool.false_eq_true, if_false]
  obtain ⟨_, _, _, hw⟩ := writeItem_frame s ⟨l.record.domain, 7, 5, false, n, s.receiptWords l (((s.logOf l.record.domain).map (·.chain)).getD 0) ++
    natWords 12 (s.trust.sign (s.receiptWords l (((s.logOf l.record.domain).map (·.chain)).getD 0)))⟩
  exact ⟨_, _, rfl, by rw [State.logOf] at hw; rw [hw], rfl, by rw [State.logOf] at hw; rw [hw]⟩

theorem launchAt_mapLaunch {s : State} {n : Nat} {l : Launch} (hl : s.launchAt n = some l) {f : Launch → Launch} (hf : ∀ o, (f o).number = o.number) :
    (s.mapLaunch n f).launchAt n = some (f l) :=
  find_map_key Launch.number hf hl

theorem errorSummaryRelease_releases {s : State} {n : Nat} {l : Launch} (hl : s.launchAt n = some l) (he : l.state = .ended) :
    ∃ (t : State) (l' : Launch), exec (.errorSummaryRelease n) s = .next t ∧ t.launchAt n = some l' ∧ l'.released = true ∧
      (1024 ≤ s.endedAfter l → l'.summary = []) ∧ (s.endedAfter l < 1024 → l'.summary = l.summary) ∧ t.mem = s.mem := by
  show ∃ (t : State) (l' : Launch), execErrorSummaryRelease n s = .next t ∧ _
  unfold execErrorSummaryRelease
  simp only [hl, he, ne_eq, not_true_eq_false, if_false]
  split
  case isTrue h => exact ⟨_, _, rfl, launchAt_mapLaunch hl fun _ => rfl, rfl, fun _ => rfl, fun h' => absurd h (by omega), rfl⟩
  case isFalse h => exact ⟨_, _, rfl, launchAt_mapLaunch hl fun _ => rfl, rfl, fun h' => absurd h' h, fun _ => rfl, rfl⟩

theorem doubleFatalSporeRelease_releases (s : State) (n : Nat) : ∃ t : State, exec (.doubleFatalSporeRelease n) s = .next t ∧ (∀ r ∈ t.reserve, r.tile ≠ n) ∧
    (∀ p ∈ t.spores, p.dfatal = true → ∀ u ∈ p.tiles, u.index ≠ n) ∧ t.tile = s.tile ∧ t.mem = s.mem := by
  refine ⟨_, rfl, fun r hr => ?_, fun p hp hf u hu => ?_, rfl, rfl⟩
  · simpa using (List.mem_filter.mp hr).2
  · have := (List.mem_filter.mp hp).2
    simp only [hf, Bool.true_and, Bool.not_eq_true', List.any_eq_false, decide_eq_true_eq] at this
    exact this u hu

end Sys2Proof.Machine
end

section
/-! SUPPORT. Domain descriptors, and the message rings in host memory (R99, R452, R453, R465, R494, R495). -/

namespace Sys2Proof.Machine

open Sys2Proof

/-! ### Domain descriptors -/

theorem descriptorOk_bounds {s : State} {v : BitVec 256} (h : s.descriptorOk v = true) :
    s.descriptor (Descriptor.ofBits s.device v).domain = none ∧ 10 ≤ (Descriptor.ofBits s.device v).logsize := by
  simp only [State.descriptorOk, Bool.and_eq_true, decide_eq_true_eq, Bool.not_eq_true', List.any_eq_false] at h
  obtain ⟨⟨⟨⟨⟨⟨⟨⟨⟨⟨⟨⟨-, hnew⟩, -⟩, -⟩, -⟩, -⟩, -⟩, -⟩, -⟩, -⟩, hsize⟩, -⟩, -⟩ := h
  exact ⟨List.find?_eq_none.mpr fun e he => by simpa using hnew e he, hsize⟩

theorem openLog_logged (s : State) (d : BitVec 16) {logsize : Nat} (h : 10 ≤ logsize) : ∃ mem logs l, s.openLog d logsize =
    { s with mem := mem, trust := { s.trust with logs := logs } } ∧ logs.find? (fun l => decide (l.domain = d)) = some l ∧ l.size = 2 ^ logsize ∧ l.heartbeats = 1 := by
  have hnone : (s.trust.logs.filter fun (o : SessionLog) => decide (o.domain ≠ d)).find? (fun l => decide (l.domain = d)) = none :=
    List.find?_eq_none.mpr fun l hl => by simpa using (List.mem_filter.mp hl).2
  have hlog : ({ s with trust := { s.trust with logs := s.trust.logs.filter (fun (o : SessionLog) => o.domain ≠ d) ++ [{ domain := d, size := 2 ^ logsize }] } } : State).logOf d =
      some { domain := d, size := 2 ^ logsize } := by
    rw [State.logOf, List.find?_append, hnone]
    simp
  have hfree : 2 ≤ ({ domain := d, size := 2 ^ logsize } : SessionLog).free := le_trans (by norm_num) (Nat.pow_le_pow_right (n := 2) (by norm_num) h)
  obtain ⟨i, -, -, mem, logs, ht, hl⟩ := beat_logged hlog hfree
  rw [ht] at hl
  exact ⟨mem, logs, _, ht, hl, rfl, rfl⟩

/-- The state with one more domain descriptor. -/
def State.withDescriptor (s : State) (x : Descriptor) : State := { s with trust := { s.trust with descriptors := s.trust.descriptors ++ [x] } }

theorem descriptor_withDescriptor {s : State} {x : Descriptor} (h : s.descriptor x.domain = none) : (s.withDescriptor x).descriptor x.domain = some x := by
  rw [State.descriptor] at h
  show (s.trust.descriptors ++ [x]).find? _ = _
  rw [List.find?_append, h]
  simp

theorem descriptorCreate_creates {s : State} {bits : BitVec 256} (h : s.descriptorOk bits = true) :
    ∃ (t : State) (l : SessionLog), exec (.descriptorCreate bits) s = .next t ∧ t.descriptor (Descriptor.ofBits s.device bits).domain = some (Descriptor.ofBits s.device bits) ∧
      t.logOf (Descriptor.ofBits s.device bits).domain = some l ∧ l.size = 2 ^ (Descriptor.ofBits s.device bits).logsize ∧ l.heartbeats = 1 ∧ t.tile = s.tile := by
  obtain ⟨hnew, hsize⟩ := descriptorOk_bounds h
  have hrun : execDescriptorCreate bits s = .next (((s.withDescriptor (Descriptor.ofBits s.device bits)).openLog (Descriptor.ofBits s.device bits).domain
    (Descriptor.ofBits s.device bits).logsize).noteDescriptor (Descriptor.ofBits s.device bits)) := if_neg (by simp [h])
  generalize Descriptor.ofBits s.device bits = x at *
  obtain ⟨mem, logs, l, ht, hl, hs, hb⟩ := openLog_logged (s.withDescriptor x) x.domain hsize
  rw [ht] at hrun
  exact ⟨_, l, hrun, descriptor_withDescriptor hnew, hl, hs, hb, rfl⟩

theorem find_erase_key {α β : Type} [DecidableEq α] [DecidableEq β] (key : α → β) {l : List α} {a : α} (hn : (l.map key).Nodup)
    (h : l.find? (fun o => decide (key o = key a)) = some a) : (l.erase a).find? (fun o => decide (key o = key a)) = none := by
  refine List.find?_eq_none.mpr fun b hb => ?_
  have hb' : b ∈ l ∧ b ≠ a := by
    have := (hn.of_map key).mem_erase_iff.mp hb
    exact ⟨this.2, this.1⟩
  have ha : a ∈ l := List.mem_of_find?_eq_some h
  simpa using fun hk : key b = key a => hb'.2 (List.inj_on_of_nodup_map hn hb'.1 ha hk)

theorem descriptorDelete_deletes {s : State} {d : BitVec 16} {e : Descriptor} (he : s.descriptor d = some e) (hb : s.domainBusy d = false)
    (hs : ∀ p ∈ s.spores, p.domain ≠ d) (hp : ∀ p ∈ s.dmemPools, p.1 ≠ d) (hn : (s.trust.descriptors.map (·.domain)).Nodup) :
    ∃ t : State, exec (.descriptorDelete d) s = .next t ∧ t.descriptor d = none ∧ (∀ l ∈ t.trust.logs, l.domain ≠ d) ∧
      (∀ k ∈ t.fabric.keys, k.domain ≠ d) ∧ t.tile = s.tile ∧ t.mem = s.mem := by
  have hd : e.domain = d := by simpa using List.find?_some he
  subst hd
  have hguard : ¬((s.domainBusy e.domain || s.spores.any (fun p => p.domain = e.domain) || s.dmemPools.any fun p => p.1 = e.domain : Bool) = true) := by
    simp only [hb, Bool.false_or, Bool.or_eq_true, List.any_eq_true, decide_eq_true_eq, not_or, not_exists, not_and]
    exact ⟨hs, hp⟩
  show ∃ t : State, execDescriptorDelete e.domain s = .next t ∧ _
  unfold execDescriptorDelete
  simp only [he]
  rw [if_neg hguard]
  refine ⟨_, rfl, find_erase_key Descriptor.domain hn he, fun l hl => ?_, fun k hk => ?_, rfl, rfl⟩
  · simpa using (List.mem_filter.mp hl).2
  · simpa using (List.mem_filter.mp hk).2

/-! ### The rings in host memory -/

theorem hostNow_eq_hostWord (s : State) (a : Nat) : s.hostNow a = s.hostWord a := rfl

theorem wordBytes_length (ws : List Word) : (ws.flatMap fun w => leBytes 8 w.toNat).length = 8 * ws.length := by
  simp [List.length_flatMap, mul_comm]

/-- The bytes of words, one word after the other. -/
theorem wordBytes_getElem {ws : List Word} {i j : Nat} {w : Word} (h : ws[i]? = some w) (hj : j < 8) :
    (ws.flatMap fun w => leBytes 8 w.toNat)[8 * i + j]? = (leBytes 8 w.toNat)[j]? := by
  induction ws generalizing i with
  | nil => simp at h
  | cons v ws ih =>
    rw [List.flatMap_cons]
    cases i with
    | zero =>
      obtain rfl : v = w := by simpa using h
      rw [List.getElem?_append_left (by simpa using hj)]
      simp
    | succ i =>
      rw [List.getElem?_append_right (by simp; omega), leBytes_length, show 8 * (i + 1) + j - 8 = 8 * i + j by omega]
      exact ih (by simpa using h)

/-- A word of an entry of the receive ring (R495). -/
theorem hostNow_postReceive (s : State) {ws : List Word} {i : Nat} {w : Word} (h : ws[i]? = some w) :
    (s.postReceive ws).hostNow (s.host.rqbase.toNat + 128 * (s.host.rqtail.toNat % s.host.rqsize.toNat) + 8 * i) = w := by
  have hi : i < ws.length := (List.getElem?_eq_some_iff.mp h).1
  have hbytes : (s.postReceive ws).mem.readN (Space.host.base + (s.host.rqbase.toNat + 128 * (s.host.rqtail.toNat % s.host.rqsize.toNat) + 8 * i)) 8 = leBytes 8 w.toNat := by
    refine List.ext_getElem (by simp) fun j hj hj' => ?_
    have hj8 : j < 8 := by simpa using hj
    have hlen : 8 * i + j < (ws.flatMap fun w => leBytes 8 w.toNat).length := by rw [wordBytes_length]; omega
    have hat := mem_read_writeN_inside s.mem (Space.host.base + s.host.rqbase.toNat + 128 * (s.host.rqtail.toNat % s.host.rqsize.toNat)) _ (8 * i + j) hlen
    have hw : (ws.flatMap fun w => leBytes 8 w.toNat)[8 * i + j] = (leBytes 8 w.toNat)[j]'hj' :=
      Option.some.inj (by rw [← List.getElem?_eq_getElem hlen, ← List.getElem?_eq_getElem hj', wordBytes_getElem h hj8])
    rw [mem_readN_getElem, ← hw, ← hat]
    congr 1
    omega
  rw [State.hostNow, hbytes, leNat_leBytes]
  simp [Nat.mod_eq_of_lt w.isLt]

/-- A payload word in an entry, behind its first four words. -/
theorem payload_getElem {l : List Word} {i : Nat} {x : Word} (h : l[i]? = some x) (a b c d : Word) (r₁ r₂ : List Word) :
    ([a, b, c, d] ++ l ++ r₁ ++ r₂)[4 + i]? = some x := by
  obtain ⟨hi, -⟩ := List.getElem?_eq_some_iff.mp h
  rw [List.append_assoc, List.append_assoc, List.getElem?_append_right (by simp), List.getElem?_append_left (by simpa using hi)]
  simpa using h

theorem postReceive_frame (s : State) (ws : List Word) : ∃ mem, s.postReceive ws =
    { s with mem := mem, host := { s.host with rqtail := BitVec.ofNat 64 ((s.host.rqtail.toNat + 1) % s.host.rqsize.toNat) } } := ⟨_, rfl⟩

theorem hostEndpointDelivery_enters {s : State} {n : Nat} {m : Msg} (hm : s.net[n]? = some m) (hd : m.dest = .endpoint (hostEndpoint s.device))
    (hw : s.mustWait m = false) (hr : s.host.room = true) (hc : m.caps = []) :
    ∃ t : State, exec (.hostEndpointDelivery n) s = .next t ∧ t.net = s.net.filter (fun o => decide (o ≠ m)) ∧
      t.hostNow (s.host.rqbase.toNat + 128 * (s.host.rqtail.toNat % s.host.rqsize.toNat)) = ({ msg := m } : QMsg).header ∧
      t.hostNow (s.host.rqbase.toNat + 128 * (s.host.rqtail.toNat % s.host.rqsize.toNat) + 8) = BitVec.ofNat 64 m.senderLaunch ∧
      (∀ i x, m.payload[i]? = some x → t.hostNow (s.host.rqbase.toNat + 128 * (s.host.rqtail.toNat % s.host.rqsize.toNat) + 32 + 8 * i) = x) ∧
      t.host.rqtail = BitVec.ofNat 64 ((s.host.rqtail.toNat + 1) % s.host.rqsize.toNat) ∧ t.tile = s.tile := by
  show ∃ t : State, execHostEndpointDelivery n s = .next t ∧ _
  unfold execHostEndpointDelivery
  simp only [hm, hc, List.length_nil, List.foldl_nil, List.map_nil, List.zip_nil_right, List.append_nil]
  rw [if_neg (by simp [hd, hw, hr])]
  refine ⟨_, rfl, rfl, hostNow_postReceive _ (i := 0) rfl, hostNow_postReceive _ (i := 1) rfl, fun i x hi => ?_, rfl, rfl⟩
  rw [show ∀ a, a + 32 + 8 * i = a + 8 * (4 + i) from fun a => by omega]
  exact hostNow_postReceive _ (i := 4 + i) (payload_getElem hi _ _ _ _ _ _)

/-! ### Submissions -/

/-- The words of the next submission entry (R495). -/
def State.entryWords (s : State) : List Word :=
  (List.range 16).map fun i => s.hostNow (s.host.sqbase.toNat + 128 * (s.host.sqhead.toNat % s.host.sqsize.toNat) + 8 * i)

/-- The state in which the endpoint has passed the submission entry at a head index. -/
def State.pastEntry (s : State) (head size : Nat) : State := { s with host := { s.host with sqhead := BitVec.ofNat 64 ((head + 1) % size) } }

theorem submissionEntry_empty {s : State} (h : s.host.sqhead.toNat % s.host.sqsize.toNat = s.host.sqtail.toNat % s.host.sqsize.toNat) :
    exec .submissionEntry s = .next s := if_pos (by simp [h])

/-- An entry that frees no handles is refused with reason 9 where it is not clean, or submitted. -/
theorem submissionEntry_reads {s : State} (hr : s.host.room = true) (hs : ringSize s.host.sqsize = true)
    (hne : s.host.sqhead.toNat % s.host.sqsize.toNat ≠ s.host.sqtail.toNat % s.host.sqsize.toNat) (h3 : s.entryWords.getD 3 0 = 0) :
    exec .submissionEntry s = match (if entryClean s.entryWords = false then Submitted.refused 9 s else s.submit s.entryWords) with
      | .waits => .next s
      | .done t => .next (t.pastEntry s.host.sqhead.toNat s.host.sqsize.toNat)
      | .refused r t => .next ((t.refuseEntry s.entryWords r).pastEntry s.host.sqhead.toNat s.host.sqsize.toNat) := by
  have hguard : ¬((!s.host.room || !ringSize s.host.sqsize || s.host.sqhead.toNat % s.host.sqsize.toNat = s.host.sqtail.toNat % s.host.sqsize.toNat : Bool) = true) := by
    simp [hr, hs, hne]
  have hfree : ¬((s.entryWords.getD 3 0).toNat % 2 = 1) := by rw [h3]; decide
  refine (if_neg hguard).trans ?_
  show (match (if !entryClean s.entryWords then Submitted.refused 9 s else if (s.entryWords.getD 3 0).toNat % 2 = 1 then _ else s.submit s.entryWords) with
    | .waits => _ | .done t => _ | .refused r t => _) = _
  rw [if_neg hfree]
  cases entryClean s.entryWords <;> rfl

/-- A message to a rank of this device enters the network (R332). -/
theorem sendMsg_here {s : State} {m : Msg} (hd : s.destDevice m.dest = some s.device) (d : BitVec 16) :
    s.sendMsg m d = { s with msgSeq := s.msgSeq + 1, net := s.net ++ [{ m with seq := s.msgSeq }] } := by
  have hd' : ({ s with msgSeq := s.msgSeq + 1 } : State).destDevice m.dest = some s.device := hd
  simp only [State.sendMsg, State.carry, hd, hd', ne_eq, not_true_eq_false, decide_false, Bool.false_and, Bool.false_eq_true, if_false, if_true]

/-- A submission without caps and without a window puts its message into the network (R495). -/
theorem submit_sends {s : State} {w : List Word} {i : Nat} (hk : (SendWord.ofWord (w.getD 0 0)).k = 0) (h3 : w.getD 3 0 = 0)
    (ht : (SendWord.ofWord (w.getD 0 0)).type.toNat < 0xF0)
    (hp : s.place (w.getD 1 0).toNat (SendWord.ofWord (w.getD 0 0)).rank = some (s.device, i)) :
    ∃ (t : State) (m : Msg), s.submit w = .done t ∧ t.net = s.net ++ [m] ∧ m.dest = .rank (w.getD 1 0).toNat (SendWord.ofWord (w.getD 0 0)).rank ∧
      m.type = (SendWord.ofWord (w.getD 0 0)).type ∧ m.payload = (w.drop 4).take (SendWord.ofWord (w.getD 0 0)).n ∧ m.caps = [] ∧
      m.senderEp = hostEndpoint s.device ∧ t.mem = s.mem := by
  have hwin : ¬((w.getD 3 0).toNat / 2 % 2 = 1) := by rw [h3]; decide
  unfold State.submit
  simp only [if_neg (Nat.not_le.mpr ht), hp, hk, hwin, List.take_zero, if_false, List.drop_nil, List.map_nil, List.findSome?_nil, List.length_nil,
    OfNat.zero_ne_ofNat, ne_eq, not_true_eq_false, decide_false, Bool.false_and, Bool.false_eq_true, List.any_nil, State.sendHandles, List.append_nil]
  rw [sendMsg_here (by exact (congrArg (Option.map (·.1)) hp))]
  exact ⟨_, _, rfl, rfl, rfl, rfl, rfl, rfl, rfl, rfl⟩

theorem submit_refuses {s : State} {w : List Word} (ht : 0xF0 ≤ (SendWord.ofWord (w.getD 0 0)).type.toNat) : s.submit w = .refused 4 s := if_pos ht

/-- A refused submission makes a receive entry that names its launch and the reason (R495). -/
theorem refuseEntry_posts (s : State) (w : List Word) (hs : ringSize s.host.sqsize = true) {reason : Nat} (hr : reason < 2 ^ 8) :
    (s.refuseEntry w reason).hostNow (s.host.rqbase.toNat + 128 * (s.host.rqtail.toNat % s.host.rqsize.toNat) + 8) = w.getD 1 0 ∧
    ((s.refuseEntry w reason).hostNow (s.host.rqbase.toNat + 128 * (s.host.rqtail.toNat % s.host.rqsize.toNat) + 16)).toNat / 2 ^ 40 % 256 = reason := by
  have hsize : 0 < s.host.sqsize.toNat ∧ s.host.sqsize.toNat ≤ 2 ^ 12 := by
    simp only [ringSize, List.any_eq_true, List.mem_range, decide_eq_true_eq] at hs
    obtain ⟨i, hi, hi'⟩ := hs
    rw [hi']
    interval_cases i <;> decide
  have hindex := Nat.mod_lt s.host.sqhead.toNat hsize.1
  have h2 : (s.refuseEntry w reason).hostNow (s.host.rqbase.toNat + 128 * (s.host.rqtail.toNat % s.host.rqsize.toNat) + 16) =
      word ((w.getD 2 0).toNat % 2 ^ 12 + (w.getD 2 0).toNat / 2 ^ 16 % 2 ^ 12 * 2 ^ 16 + 2 ^ 32 + reason % 256 * 2 ^ 40 +
        s.host.sqhead.toNat % s.host.sqsize.toNat * 2 ^ 48) := hostNow_postReceive _ (i := 2) rfl
  refine ⟨hostNow_postReceive _ (i := 1) rfl, ?_⟩
  rw [h2]
  simp only [word, BitVec.toNat_ofNat]
  omega

end Sys2Proof.Machine
end

section
/-! SUPPORT. Accesses at a home where no error waits: what the check of a slice leaves alone, where bytes lie, and a store of bytes (R66, R119, R120, R151, R172). -/

namespace Sys2Proof.Machine

open Sys2Proof

/-! ### What the slices change -/

/-- `t` is `s` but for what slices cache: their check caches, with the dies that entries note, and their lines. -/
structure State.SliceOnly (s t : State) : Prop where
  frame : ∃ dirs checks l2, t = { s with dirs := dirs, paging := { s.paging with checks := checks, l2 := l2 } }
  entries : ∀ h b e, s.entry h b = some e → ∃ d, t.entry h b = some { e with dies := d }
  absent : ∀ h b, s.entry h b = none → t.entry h b = none

namespace State.SliceOnly

theorem refl (s : State) : s.SliceOnly s := ⟨⟨_, _, _, rfl⟩, fun _ _ e he => ⟨e.dies, he⟩, fun _ _ h => h⟩

theorem trans {s t u : State} (h : s.SliceOnly t) (h' : t.SliceOnly u) : s.SliceOnly u := by
  refine ⟨?_, fun m b e he => ?_, fun m b he => h'.absent m b (h.absent m b he)⟩
  · obtain ⟨_, _, _, rfl⟩ := h.frame
    obtain ⟨_, _, _, rfl⟩ := h'.frame
    exact ⟨_, _, _, rfl⟩
  · obtain ⟨d, hd⟩ := h.entries m b e he
    obtain ⟨d', hd'⟩ := h'.entries m b _ hd
    exact ⟨d', hd'⟩

section
variable {s t : State} (h : s.SliceOnly t)
include h

theorem mem : t.mem = s.mem := by obtain ⟨_, _, _, rfl⟩ := h.frame; rfl
theorem armed : t.armed = s.armed := by obtain ⟨_, _, _, rfl⟩ := h.frame; rfl
theorem poison : t.poison = s.poison := by obtain ⟨_, _, _, rfl⟩ := h.frame; rfl
theorem host : t.host = s.host := by obtain ⟨_, _, _, rfl⟩ := h.frame; rfl

theorem waiting (slice va : Nat) : t.waiting slice va = s.waiting slice va := by obtain ⟨_, _, _, rfl⟩ := h.frame; rfl
theorem tlbHit (slice va : Nat) : t.tlbHit slice va = s.tlbHit slice va := by obtain ⟨_, _, _, rfl⟩ := h.frame; rfl
theorem portFull (slice : Nat) (who : Requester) : t.portFull slice who = s.portFull slice who := by obtain ⟨_, _, _, rfl⟩ := h.frame; rfl

/-- A slice's cache decides no check (R66). -/
theorem checkAccess (q : Claim) (base off n access : Nat) (op : BitVec 5) : t.checkAccess q base off n access op = s.checkAccess q base off n access op := by
  unfold State.checkAccess
  cases he : s.entry q.home q.buffer with
  | none => rw [h.absent _ _ he]
  | some e =>
    obtain ⟨d, hd⟩ := h.entries _ _ e he
    rw [hd]
    obtain ⟨_, _, _, ht⟩ := h.frame
    subst ht
    rfl

end

end State.SliceOnly

theorem sliceOnly_l2 (s : State) (l2 : List L2Line) : s.SliceOnly { s with paging := { s.paging with l2 := l2 } } :=
  ⟨⟨_, _, _, rfl⟩, fun _ _ e he => ⟨e.dies, he⟩, fun _ _ h => h⟩

theorem sliceOnly_checks (s : State) (checks : List (Nat × Nat × Nat)) : s.SliceOnly { s with paging := { s.paging with checks := checks } } :=
  ⟨⟨_, _, _, rfl⟩, fun _ _ e he => ⟨e.dies, he⟩, fun _ _ h => h⟩

theorem sliceOnly_dies (s : State) (h : HomeId) (b : Nat) (f : DirEntry → BitVec 4) : s.SliceOnly (s.mapEntry h b fun e => { e with dies := f e }) := by
  refine ⟨⟨_, _, _, rfl⟩, fun h' b' e he => ?_, fun h' b' he => ?_⟩ <;> rw [entry_mapEntry (f := fun e => { e with dies := f e }), he]
  · by_cases hh : h' = h ∧ b' = b
    · exact ⟨f e, by simp [hh]⟩
    · exact ⟨e.dies, by simp [hh]⟩
  · rfl

/-- Where no error waits, the check at a slice changes nothing but caches (R120). -/
theorem sliceCheck_only {s : State} (ha : s.armed = []) (q : Claim) (addr : Nat) : s.SliceOnly (s.sliceCheck q addr) := by
  unfold State.sliceCheck
  cases q.home with
  | die d =>
    dsimp only
    rw [State.fillCheck, parityAt_unarmed ha]
    dsimp only
    split
    · exact .refl s
    · exact (sliceOnly_checks s _).trans (sliceOnly_dies _ _ _ _)
  | _ => exact .refl s

/-! ### Where bytes lie -/

/-- An address of a home that is not DMEM lies at its place in the home's memory (R32). -/
theorem locate_direct (s : State) {q : Claim} (hq : q.home.isDmem = false) (access addr : Nat) : s.locate q access addr = (some (q.home.space.base + addr), s) := by
  unfold State.locate
  cases hh : q.home with
  | die d => simp [hh, HomeId.isDmem] at hq
  | _ => rfl

/-- The slice of an address of a claim translates it by the TLB entry `x`, and accepts the request (R173, R176). -/
structure State.Translates (s : State) (q : Claim) (va : Nat) (x : TlbEntry) : Prop where
  waiting : s.waiting (sliceOf q.die va) va = none
  port : s.portFull (sliceOf q.die va) q.who = false
  hit : s.tlbHit (sliceOf q.die va) va = some x

theorem State.Translates.mono {s t : State} (h : s.SliceOnly t) {q : Claim} {va : Nat} {x : TlbEntry} (hx : s.Translates q va x) : t.Translates q va x :=
  ⟨(h.waiting _ _).trans hx.waiting, (h.portFull _ _).trans hx.port, (h.tlbHit _ _).trans hx.hit⟩

section
variable {s : State} (ha : s.armed = []) {q : Claim} {die va : Nat} {x : TlbEntry} (hq : q.home = .die die) (hx : s.Translates q va x)
include ha hq hx

omit hq in
/-- A TLB hit gives the frame address (R173). -/
theorem translateAt_hit (access : Nat) : s.translateAt (q.asker access) va = (some (x.pa + (va - x.va)), s) := by
  have ht : s.translate (q.asker access) va = (some (x.pa + (va - x.va)), s) := by
    have hw : s.waiting (sliceOf (q.asker access).die va) va = none := hx.waiting
    have hl : s.tlbLook (sliceOf (q.asker access).die va) va = (some x, s) := by
      have hh : s.tlbHit (sliceOf (q.asker access).die va) va = some x := hx.hit
      simp [State.tlbLook, hh, parityAt_unarmed ha]
    simp only [State.translate, hw, hl]
  rw [translateAt_unarmed (by rw [ht]; exact ha), ht]

/-- A store's byte lies where the TLB entry puts it. -/
theorem locate_store : ∃ t, s.locate q 1 va = (some (hbmKey (x.pa + (va - x.va))), t) ∧ s.SliceOnly t := by
  have hc := sliceCheck_only ha q va
  have hx' := hx.mono hc
  have htr := translateAt_hit (hc.armed.trans ha) hx' 1
  have hport : (s.sliceCheck q va).portFull (sliceOf (q.asker 1).die va) q.who = false := hx'.port
  refine ⟨(s.sliceCheck q va).l2Write (q.asker 1) va, ?_, hc.trans (sliceOnly_l2 _ _)⟩
  unfold State.locate
  simp only [hq, hport, htr]
  rfl

/-- A read's byte that misses the L2 lies where the TLB entry puts it. -/
theorem locate_read (hl2 : s.l2Hit (q.asker 0) va = false) : ∃ t, s.locate q 0 va = (some (hbmKey (x.pa + (va - x.va))), t) ∧ s.SliceOnly t := by
  have hc := sliceCheck_only ha q va
  have hx' := hx.mono hc
  have htr := translateAt_hit (hc.armed.trans ha) hx' 0
  have hport : (s.sliceCheck q va).portFull (sliceOf (q.asker 0).die va) q.who = false := hx'.port
  have hline : (s.sliceCheck q va).l2Line (q.asker 0) va = none := by
    have : s.l2Line (q.asker 0) va = none := by simpa [State.l2Hit] using hl2
    obtain ⟨_, _, h⟩ := sliceCheck_eq ha q va
    rw [h]
    exact this
  refine ⟨(s.sliceCheck q va).l2Fill (q.asker 0) va (x.pa + (va - x.va)), ?_, hc.trans (sliceOnly_l2 _ _)⟩
  unfold State.locate
  simp only [hq, hport, htr, hline]
  rfl

/-- The bytes of a read within one sector lie one after the other. -/
theorem locateSectors_read (hl2 : s.l2Hit (q.asker 0) va = false) (hva : va % 64 = 0) : ∀ n, n ≤ 64 → ∃ t, s.locateSectors q 0 va n =
    (some ((List.range n).map fun i => hbmKey (x.pa + (va - x.va)) + i), t) ∧ s.SliceOnly t
  | 0, _ => ⟨s, rfl, .refl s⟩
  | n + 1, hn => by
    obtain ⟨t, ht, hs⟩ := locateSectors_read hl2 hva n (by omega)
    unfold State.locateSectors
    simp only [ht]
    cases n with
    | zero =>
      obtain rfl : s = t := congrArg Prod.snd ht
      obtain ⟨u, hu, hsu⟩ := locate_read ha hq hx hl2
      exact ⟨u, by simp [hu], hsu⟩
    | succ m =>
      refine ⟨t, ?_, hs⟩
      have hlast : ((List.range (m + 1)).map fun i => hbmKey (x.pa + (va - x.va)) + i).getLast? = some (hbmKey (x.pa + (va - x.va)) + m) := by
        simp [List.range_succ]
      rw [hlast, List.range_succ (n := m + 1), List.map_append]
      exact if_pos (by omega)

end

/-! ### A store of bytes -/

theorem firstWrite_deep {s : State} (ha : s.armed = []) {q : Claim} (hd : ∀ e, s.entry q.home q.buffer = some e → e.depth = 0) (line : Nat) :
    s.firstWrite q line = .yes s := by
  simp only [State.firstWrite, failLevels_unarmed ha]
  cases he : s.entry q.home q.buffer with
  | none => rfl
  | some e => simp [hd e he, State.copyLevel]

/-- No line of a buffer without levels needs a copy first (R151). -/
theorem firstWrites_deep {s : State} (ha : s.armed = []) {q : Claim} (hd : ∀ e, s.entry q.home q.buffer = some e → e.depth = 0) :
    ∀ ls, s.firstWrites q ls = .yes s
  | [] => rfl
  | l :: ls => by simp only [State.firstWrites, firstWrite_deep ha hd l, firstWrites_deep ha hd ls]

/-- Where each byte of a store lies, bytes of a list lie. -/
theorem locateBytes_each {s : State} {q : Claim} {base : Nat} {key : Nat → Nat} {bytes : List (Nat × Byte)}
    (hk : ∀ t, s.SliceOnly t → ∀ p ∈ bytes, ∃ u, t.locate q 1 (base + p.1) = (some (key p.1), u) ∧ t.SliceOnly u) :
    ∃ t, s.locateBytes q 1 base bytes = (some (bytes.map fun p => (key p.1, p.2)), t) ∧ s.SliceOnly t := by
  induction bytes generalizing s with
  | nil => exact ⟨s, rfl, .refl s⟩
  | cons p rest ih =>
    obtain ⟨off, b⟩ := p
    obtain ⟨u, hu, hsu⟩ := hk s (.refl s) (off, b) (by simp)
    obtain ⟨t, ht, hst⟩ := ih fun t ht p hp => hk t (hsu.trans ht) p (by simp [hp])
    exact ⟨t, by simp [State.locateBytes, hu, ht], hsu.trans hst⟩

/-- A store that passes the check of R66, of a buffer without levels, writes its bytes where they lie. -/
theorem applyStore_writes {s : State} (ha : s.armed = []) (hp : s.poison = []) {q : Claim} (hd : ∀ e, s.entry q.home q.buffer = some e → e.depth = 0)
    {base : Nat} {key : Nat → Nat} {bytes : List (Nat × Byte)} (log : Nat) (clean : List Nat) (injected : Bool)
    (hk : ∀ t, s.SliceOnly t → ∀ p ∈ bytes, ∃ u, t.locate q 1 (base + p.1) = (some (key p.1), u) ∧ t.SliceOnly u)
    (hc : s.checkAccess q base ((bytes.map (·.1)).foldl min (2 ^ 48))
      ((bytes.map (·.1)).foldl max 0 + 1 - (bytes.map (·.1)).foldl min (2 ^ 48)) 1 0 = none) :
    ∃ t, s.applyStore q base log bytes [] clean injected = .done { t with mem := s.mem.writeCells (bytes.map fun p => (key p.1, p.2)) } ∧ s.SliceOnly t := by
  unfold State.applyStore
  split
  · next h =>
    rw [List.isEmpty_iff] at h
    subst h
    exact ⟨s, rfl, .refl s⟩
  · have hs := sliceCheck_only ha q (base + (bytes.map (·.1)).foldl min (2 ^ 48))
    obtain ⟨u, hu⟩ : ∃ u, s.sliceCheck q (base + (bytes.map (·.1)).foldl min (2 ^ 48)) = u := ⟨_, rfl⟩
    rw [hu] at hs
    have hdu : ∀ e, u.entry q.home q.buffer = some e → e.depth = 0 := fun e he => by
      cases hx : s.entry q.home q.buffer with
      | none => rw [hs.absent _ _ hx] at he; simp at he
      | some x =>
        obtain ⟨d, hd'⟩ := hs.entries _ _ x hx
        rw [hd'] at he
        obtain rfl := Option.some.inj he
        exact hd x hx
    obtain ⟨t, ht, hut⟩ := locateBytes_each (s := u) fun t ht => hk t (hs.trans ht)
    have hst := hs.trans hut
    refine ⟨t, ?_, hst⟩
    simp only [hu, (hs.checkAccess _ _ _ _ _ _).trans hc, firstWrites_deep (hs.armed.trans ha) hdu, ht]
    rw [foldl_fix (s := t) (fun a => by split <;> [exact disarm_unarmed (hst.armed.trans ha) _; exact detect_unarmed (hst.armed.trans ha) _ _ _ _])]
    generalize hv : ({ t with mem := _ } : State) = v
    have hpv : v.poison = [] := by rw [← hv]; exact hst.poison.trans hp
    rw [foldl_fix (s := v) (fun a => by simp only [List.contains_nil, Bool.false_and, Bool.false_eq_true, if_false]),
      cleanBytes_unpoisoned (fun p _ => by simp [State.poisoned, hpv]), ← hv, hst.mem]

theorem foldl_min_range (init off : Nat) (h : off ≤ init) : ∀ n, ((List.range (n + 1)).map (off + ·)).foldl min init = off
  | 0 => by simp [h]
  | n + 1 => by
    rw [List.range_succ, List.map_append, List.foldl_append, foldl_min_range init off h n]
    simp

theorem foldl_max_range (off : Nat) : ∀ n, ((List.range (n + 1)).map (off + ·)).foldl max 0 = off + n
  | 0 => by simp
  | n + 1 => by
    rw [List.range_succ, List.map_append, List.foldl_append, foldl_max_range off n]
    simp

/-- A store of consecutive bytes that lie at consecutive keys. -/
theorem applyStore_range {s : State} (ha : s.armed = []) (hp : s.poison = []) {q : Claim} (hd : ∀ e, s.entry q.home q.buffer = some e → e.depth = 0)
    {base off n key : Nat} (byte : Nat → Byte) (log : Nat) (clean : List Nat) (injected : Bool) (hoff : off ≤ 2 ^ 48)
    (hk : ∀ t, s.SliceOnly t → ∀ i < n + 1, ∃ u, t.locate q 1 (base + (off + i)) = (some (key + i), u) ∧ t.SliceOnly u)
    (hc : s.checkAccess q base off (n + 1) 1 0 = none) :
    ∃ t, s.applyStore q base log ((List.range (n + 1)).map fun i => (off + i, byte i)) [] clean injected =
      .done { t with mem := s.mem.writeCells ((List.range (n + 1)).map fun i => (key + i, byte i)) } ∧ s.SliceOnly t := by
  have hfst : ((List.range (n + 1)).map fun i => (off + i, byte i)).map (·.1) = (List.range (n + 1)).map (off + ·) := by
    rw [List.map_map]
    rfl
  have hcells : ((List.range (n + 1)).map fun i => (off + i, byte i)).map (fun p => (key + (p.1 - off), p.2)) = (List.range (n + 1)).map fun i => (key + i, byte i) := by
    simp
  rw [← hcells]
  refine applyStore_writes ha hp hd log clean injected (key := fun o => key + (o - off)) (fun t ht p hp => ?_) ?_
  · obtain ⟨i, hi, rfl⟩ := List.mem_map.mp hp
    simpa using hk t ht i (List.mem_range.mp hi)
  · rw [hfst, foldl_min_range _ _ hoff n, foldl_max_range off n, show off + n + 1 - off = n + 1 by omega]
    exact hc

end Sys2Proof.Machine
end

section
/-! SUPPORT. CXL.mem requests of the host (R143, R493), and the events of the host port and of the root of trust. -/

namespace Sys2Proof.Machine

open Sys2Proof

/-! ### CXL.mem -/

/-- The request of the host that a CXL.mem access makes. -/
def State.cxlRequest (s : State) (store : Bool) (addr : Nat) (value : BitVec 512) : CxlRequest :=
  { write := store, addr := (s.host.decode (addr / 64 * 64)).getD (2 ^ 48), data := if store then leBytes 64 value.toNat else [] }

/-- A request behind none other is served at once. -/
theorem cxlMemRequest_applies {s t : State} (hw : s.host.waiting = []) {store : Bool} {addr : Nat} {value : BitVec 512}
    (h : s.hostApply (s.cxlRequest store addr value) = (true, t)) :
    exec (.cxlMemRequest store addr value) s = .next { t with host := { t.host with waiting := [] } } := by
  show Host.Outcome.next (s.drainHost (s.host.waiting ++ [s.cxlRequest store addr value])) = _
  rw [hw, List.nil_append, State.drainHost, h]
  rfl

theorem hostDone_mem (s : State) (r : CxlRequest) (data : List Byte) (bad : Bool) : (s.hostDone r data bad).mem = s.mem := rfl

/-- A write that its home has applied has completed. -/
theorem hostApply_write {s u : State} {va : Nat} {data : List Byte} {c : Cap} {h : HomeId} (hcap : s.hostCap { write := true, addr := va, data := data } = some c)
    (hh : s.homeOf c = some h) (hst : s.applyStore (s.hostClaim c h) c.base.toNat Config.tiles (data.zipIdx.map fun b => (va - c.base.toNat + b.2, b.1)) []
      ((List.range 64).map (va - c.base.toNat + ·)) false = .done u) :
    s.hostApply { write := true, addr := va, data := data } = (true, u.hostDone { write := true, addr := va, data := data } [] false) := by
  simp only [State.hostApply, hcap, hh, if_true, hst]

theorem failHost_read (s : State) {r : CxlRequest} (hr : r.write = false) : s.failHost r =
    { s with host := { s.host with waiting := s.host.waiting.erase r, completions := (List.replicate 64 0, true) :: s.host.completions } } := by
  simp [State.failHost, State.hostDone, hr]

/-- A read that reaches no buffer completes with zero data and poison. -/
theorem cxlMemRequest_unreached {s : State} (hw : s.host.waiting = []) (hh : s.host.handles = []) (addr : Nat) (value : BitVec 512) :
    exec (.cxlMemRequest false addr value) s = .next { s with host := { s.host with completions := (List.replicate 64 0, true) :: s.host.completions } } := by
  have hcap : s.hostCap (s.cxlRequest false addr value) = none := by simp [State.hostCap, hh]
  rw [cxlMemRequest_applies hw (t := s.failHost (s.cxlRequest false addr value)) (by rw [State.hostApply, hcap]), failHost_read s rfl, ← hw]

theorem since_any {o : Option Nat} {c : Nat} (ho : o = some c) (n k : Nat) : (o.any fun c => decide (c + n ≤ k)) = decide (c + n ≤ k) := by rw [ho, Option.any_some]

theorem cxlMemWaitExpired_fails {s : State} {r : CxlRequest} {c : Nat} (hw : s.host.waiting = [r]) (hr : r.write = false) (hc : r.since = some c)
    (h : c + 2500000 ≤ s.clock) : exec (.cxlMemWaitExpired 0) s =
      .next { s with host := { s.host with waiting := [], completions := (List.replicate 64 0, true) :: s.host.completions } } := by
  have hidle : (s.failHost r).host.waiting = [] := by simp [failHost_read s hr, hw]
  have hlate := (since_any hc 2500000 s.clock).trans (decide_eq_true h)
  show execCxlMemWaitExpired 0 s = _
  unfold execCxlMemWaitExpired
  rw [hw]
  refine (if_pos hlate).trans ?_
  rw [wakeHost_idle hidle, failHost_read s hr, hw, List.erase_cons_head]

theorem cxlMemWaitExpired_waits {s : State} {r : CxlRequest} {c : Nat} (hw : s.host.waiting = [r]) (hc : r.since = some c) (h : s.clock < c + 2500000) :
    exec (.cxlMemWaitExpired 0) s = .next s := by
  have hearly := (since_any hc 2500000 s.clock).trans (decide_eq_false (Nat.not_le_of_lt h))
  show execCxlMemWaitExpired 0 s = _
  unfold execCxlMemWaitExpired
  rw [hw]
  exact if_neg (ne_true_of_eq_false hearly)

/-- The bytes of a number with their places. -/
theorem leBytes_zipIdx {α : Type} (f : Byte × Nat → α) (n v : Nat) :
    (leBytes n v).zipIdx.map f = (List.range n).map fun i => f (BitVec.ofNat 8 (v / 2 ^ (8 * i)), i) :=
  List.ext_getElem (by simp) fun i h _ => by simp [leBytes_getElem]

/-- Memory after a store of bytes at consecutive keys. -/
theorem mem_read_writeRange (m : Memory) (K n : Nat) (byte : Nat → Byte) :
    (∀ i < n, (m.writeCells ((List.range n).map fun i => (K + i, byte i))).read (K + i) = byte i) ∧
    ∀ k, k < K ∨ K + n ≤ k → (m.writeCells ((List.range n).map fun i => (K + i, byte i))).read k = m.read k := by
  refine ⟨fun i hi => mem_read_writeCells_inside _ _ ?_ (List.mem_map.mpr ⟨i, List.mem_range.mpr hi, rfl⟩), fun k hk => mem_read_writeCells_outside _ _ fun p hp => ?_⟩
  · rw [List.map_map]
    exact List.nodup_range.map fun a b h => by simpa using h
  · obtain ⟨i, hi, rfl⟩ := List.mem_map.mp hp
    have := List.mem_range.mp hi
    simp only
    omega

theorem tlbHit_below {s : State} {slice va : Nat} {x : TlbEntry} (h : s.tlbHit slice va = some x) : x.va ≤ va := by
  have := List.find?_some h
  simp only [Bool.and_eq_true, decide_eq_true_eq] at this
  exact this.1.2

/-- The byte `i` of an aligned sector lies `i` beyond the sector's first. -/
theorem locate_sector {s : State} (ha : s.armed = []) {q : Claim} {die va base i : Nat} {x : TlbEntry} (hq : q.home = .die die) (hxva : x.va ≤ va) (hb : base ≤ va)
    (hx : s.Translates q (va + i) x) : ∃ t, s.locate q 1 (base + (va - base + i)) = (some (hbmKey (x.pa + (va - x.va)) + i), t) ∧ s.SliceOnly t := by
  have hkey : hbmKey (x.pa + (va + i - x.va)) = hbmKey (x.pa + (va - x.va)) + i := by
    rw [hbmKey, hbmKey]
    omega
  rw [show base + (va - base + i) = va + i by omega, ← hkey]
  exact locate_store ha hq hx

section
variable {s : State} {addr va die : Nat} {c : Cap} {e : DirEntry} {x : TlbEntry} (hw : s.host.waiting = [])
  (hdec : s.host.decode (addr / 64 * 64) = some va) (hva : va % 64 = 0) (ha : s.armed = []) (hp : s.poison = []) (hh : s.homeOf c = some (.die die))
  (he : s.entry (.die die) c.buffer.toNat = some e) (hd : e.depth = 0) (hb : c.base.toNat ≤ va)
include hw hdec hva ha hp hh he hd hb

omit he hd hb in
/-- A CXL.mem read of a sector that its slice translates completes with the sector's bytes. -/
theorem cxlMemRequest_reads (value : BitVec 512) (hcap : s.hostCap { write := false, addr := va, data := [] } = some c)
    (hx : s.Translates (s.hostClaim c (.die die)) va x)
    (hcheck : s.checkAccess (s.hostClaim c (.die die)) c.base.toNat (va - c.base.toNat) 64 0 0 = none) (hl2 : s.l2Hit ((s.hostClaim c (.die die)).asker 0) va = false) :
    ∃ t : State, exec (.cxlMemRequest false addr value) s = .next t ∧
      t.host.completions = ((List.range 64).map fun i => s.mem.read (hbmKey (x.pa + (va - x.va)) + i), false) :: s.host.completions ∧ t.mem = s.mem := by
  have hreq : s.cxlRequest false addr value = { write := false, addr := va, data := [] } := by simp [State.cxlRequest, hdec]
  have hs := sliceCheck_only ha (s.hostClaim c (.die die)) va
  have hl2' : (s.sliceCheck (s.hostClaim c (.die die)) va).l2Hit ((s.hostClaim c (.die die)).asker 0) va = false := by
    obtain ⟨_, _, h⟩ := sliceCheck_eq ha (s.hostClaim c (.die die)) va
    rw [h]
    exact hl2
  obtain ⟨t, ht, hst⟩ := locateSectors_read (hs.armed.trans ha) rfl (hx.mono hs) hl2' hva 64 (le_refl _)
  have hst' := hs.trans hst
  have hbad : ∀ k, t.poisoned k = false := fun k => by simp [State.poisoned, hst'.poison, hp]
  have hcheck' := (hs.checkAccess _ _ _ _ _ _).trans hcheck
  have ht' : (s.sliceCheck (s.hostClaim c (.die die)) va).locateN (s.hostClaim c (.die die)) 0 va 64 = _ := ht
  have happ : s.hostApply { write := false, addr := va, data := [] } =
      (true, t.hostDone { write := false, addr := va, data := [] } (((List.range 64).map fun i => hbmKey (x.pa + (va - x.va)) + i).map t.mem.read) false) := by
    simp only [State.hostApply, hcap, hh, Bool.false_eq_true, if_false, hcheck', ht', detect_unarmed (hst'.armed.trans ha), hbad]
  rw [← hreq] at happ
  refine ⟨_, cxlMemRequest_applies hw happ, ?_, hst'.mem⟩
  simp [State.hostDone, hst'.host, hst'.mem, hreq]

omit hw hdec hva hh in
/-- The store of bytes of a sector that its slice translates. -/
theorem applyStore_sector {n v : Nat} (hoff : va - c.base.toNat ≤ 2 ^ 48) (hx : ∀ a < n + 1, s.Translates (s.hostClaim c (.die die)) (va + a) x)
    (hcheck : s.checkAccess (s.hostClaim c (.die die)) c.base.toNat (va - c.base.toNat) (n + 1) 1 0 = none) (clean : List Nat) :
    ∃ t, s.applyStore (s.hostClaim c (.die die)) c.base.toNat Config.tiles ((leBytes (n + 1) v).zipIdx.map fun b => (va - c.base.toNat + b.2, b.1)) [] clean false = .done t ∧
      t.mem = s.mem.writeCells ((List.range (n + 1)).map fun i => (hbmKey (x.pa + (va - x.va)) + i, BitVec.ofNat 8 (v / 2 ^ (8 * i)))) := by
  have hxva : x.va ≤ va := tlbHit_below (hx 0 n.succ_pos).hit
  have hdeep : ∀ o, s.entry (s.hostClaim c (.die die)).home (s.hostClaim c (.die die)).buffer = some o → o.depth = 0 := by
    intro o ho
    have ho' : s.entry (.die die) c.buffer.toNat = some o := ho
    rw [he] at ho'
    exact Option.some.inj ho' ▸ hd
  obtain ⟨t, ht, -⟩ := applyStore_range (key := hbmKey (x.pa + (va - x.va))) ha hp hdeep
    (fun i => BitVec.ofNat 8 (v / 2 ^ (8 * i))) Config.tiles clean false hoff
    (fun t ht i hi => locate_sector (ht.armed.trans ha) rfl hxva hb ((hx i hi).mono ht)) hcheck
  rw [leBytes_zipIdx]
  exact ⟨_, ht, rfl⟩

omit hw hva in
/-- A CXL.mem write of a sector that its slice translates is applied to the sector's bytes. -/
theorem hostApply_writes {value : BitVec 512} (hcap : s.hostCap { write := true, addr := va, data := leBytes 64 value.toNat } = some c)
    (hx : ∀ a < 64, s.Translates (s.hostClaim c (.die die)) (va + a) x)
    (hcheck : s.checkAccess (s.hostClaim c (.die die)) c.base.toNat (va - c.base.toNat) 64 1 0 = none) :
    ∃ t : State, s.hostApply (s.cxlRequest true addr value) = (true, t) ∧
      t.mem = s.mem.writeCells ((List.range 64).map fun i => (hbmKey (x.pa + (va - x.va)) + i, BitVec.ofNat 8 (value.toNat / 2 ^ (8 * i)))) := by
  have hreq : s.cxlRequest true addr value = { write := true, addr := va, data := leBytes 64 value.toNat } := by simp [State.cxlRequest, hdec]
  have hoff : va - c.base.toNat ≤ 2 ^ 48 := by
    have hc := List.find?_some hcap
    simp only [Bool.and_eq_true, decide_eq_true_eq] at hc
    have := c.length.isLt
    omega
  obtain ⟨t, ht, hmem⟩ := applyStore_sector ha hp he hd hb hoff hx hcheck ((List.range 64).map (va - c.base.toNat + ·))
  rw [hreq]
  exact ⟨_, hostApply_write hcap hh ht, (hostDone_mem _ _ _ _).trans hmem⟩

omit hva in
theorem cxlMemRequest_writes {value : BitVec 512} (hcap : s.hostCap { write := true, addr := va, data := leBytes 64 value.toNat } = some c)
    (hx : ∀ a < 64, s.Translates (s.hostClaim c (.die die)) (va + a) x)
    (hcheck : s.checkAccess (s.hostClaim c (.die die)) c.base.toNat (va - c.base.toNat) 64 1 0 = none) :
    ∃ t : State, exec (.cxlMemRequest true addr value) s = .next t ∧ (∀ i < 64, t.mem.read (hbmKey (x.pa + (va - x.va)) + i) = value.extractLsb' (8 * i) 8) ∧
      ∀ k, k < hbmKey (x.pa + (va - x.va)) ∨ hbmKey (x.pa + (va - x.va)) + 64 ≤ k → t.mem.read k = s.mem.read k := by
  obtain ⟨t, happ, hmem⟩ := hostApply_writes hdec ha hp hh he hd hb hcap hx hcheck
  obtain ⟨hin, hout⟩ := mem_read_writeRange s.mem (hbmKey (x.pa + (va - x.va))) 64 fun i => BitVec.ofNat 8 (value.toNat / 2 ^ (8 * i))
  rw [← hmem] at hin hout
  refine ⟨_, cxlMemRequest_applies hw happ, fun i hi => (hin i hi).trans ?_, hout⟩
  rw [← Nat.shiftRight_eq_div_pow]
  rfl

end

/-! ### Submissions (R495) -/

theorem hostNow_pastEntry (s : State) (head size a : Nat) : (s.pastEntry head size).hostNow a = s.hostNow a := rfl

section
variable {s : State} (hr : s.host.room = true) (hs : ringSize s.host.sqsize = true)
  (hne : s.host.sqhead.toNat % s.host.sqsize.toNat ≠ s.host.sqtail.toNat % s.host.sqsize.toNat) (h3 : s.entryWords.getD 3 0 = 0)
include hr hs hne h3

theorem submissionEntry_sends (hclean : entryClean s.entryWords = true) {i : Nat} (hk : (SendWord.ofWord (s.entryWords.getD 0 0)).k = 0)
    (ht : (SendWord.ofWord (s.entryWords.getD 0 0)).type.toNat < 0xF0)
    (hp : s.place (s.entryWords.getD 1 0).toNat (SendWord.ofWord (s.entryWords.getD 0 0)).rank = some (s.device, i)) :
    ∃ (t : State) (m : Msg), exec .submissionEntry s = .next t ∧ t.net = s.net ++ [m] ∧
      m.dest = .rank (s.entryWords.getD 1 0).toNat (SendWord.ofWord (s.entryWords.getD 0 0)).rank ∧
      m.type = (SendWord.ofWord (s.entryWords.getD 0 0)).type ∧ m.payload = (s.entryWords.drop 4).take (SendWord.ofWord (s.entryWords.getD 0 0)).n ∧ m.caps = [] ∧
      m.senderEp = hostEndpoint s.device ∧ t.host.sqhead = BitVec.ofNat 64 ((s.host.sqhead.toNat + 1) % s.host.sqsize.toNat) ∧ t.mem = s.mem := by
  obtain ⟨t, m, hsub, hnet, hdest, htype, hpay, hcaps, hep, hmem⟩ := submit_sends hk h3 ht hp
  have hrun := submissionEntry_reads hr hs hne h3
  rw [if_neg (by rw [hclean]; decide), hsub] at hrun
  exact ⟨_, m, hrun, hnet, hdest, htype, hpay, hcaps, hep, rfl, hmem⟩

/-- An entry that is not clean is refused with reason 9, and one of a type of the machine's own with reason 4. -/
theorem submissionEntry_refuses (hor : entryClean s.entryWords = false ∨ (entryClean s.entryWords = true ∧ 0xF0 ≤ (SendWord.ofWord (s.entryWords.getD 0 0)).type.toNat)) :
    ∃ t : State, exec .submissionEntry s = .next t ∧ t.net = s.net ∧
      t.hostNow (s.host.rqbase.toNat + 128 * (s.host.rqtail.toNat % s.host.rqsize.toNat) + 8) = s.entryWords.getD 1 0 ∧
      (t.hostNow (s.host.rqbase.toNat + 128 * (s.host.rqtail.toNat % s.host.rqsize.toNat) + 16)).toNat / 2 ^ 40 % 256 = (if entryClean s.entryWords = true then 4 else 9) ∧
      t.host.sqhead = BitVec.ofNat 64 ((s.host.sqhead.toNat + 1) % s.host.sqsize.toNat) ∧
      t.host.rqtail = BitVec.ofNat 64 ((s.host.rqtail.toNat + 1) % s.host.rqsize.toNat) := by
  obtain ⟨reason, hreason⟩ : ∃ r : Nat, r = if entryClean s.entryWords = true then 4 else 9 := ⟨_, rfl⟩
  have hrun : exec .submissionEntry s = .next ((s.refuseEntry s.entryWords reason).pastEntry s.host.sqhead.toNat s.host.sqsize.toNat) := by
    rw [submissionEntry_reads hr hs hne h3]
    rcases hor with hdirty | ⟨hclean, ht⟩
    · rw [if_pos hdirty, hreason, if_neg (by rw [hdirty]; decide)]
    · rw [if_neg (by rw [hclean]; decide), submit_refuses ht, hreason, if_pos hclean]
  obtain ⟨hlaunch, hword⟩ := refuseEntry_posts s s.entryWords hs (reason := reason) (by rw [hreason]; split <;> decide)
  exact ⟨_, hrun, rfl, (hostNow_pastEntry _ _ _ _).trans hlaunch, by rw [hostNow_pastEntry, hword, hreason], rfl, rfl⟩

end

/-! ### The requests of SPDM and of the tenant -/

section
variable {s : State} (hup : 5 ≤ s.power.bootStep)
include hup

theorem spdm_authenticates (h : s.trust.spdm.agreed = true) (n : Nat) : s.SpdmSays .spdmGetDigests s.trust.spdm 0x01 (fun l => l = [digest384 [s.trust.attestation]]) ∧
    (∀ off len, s.SpdmSays (.spdmGetCertificate 0 off len) s.trust.spdm 0x02 (fun l => l.length = len)) ∧
    s.SpdmSays (.spdmChallenge n) s.trust.spdm 0x03 (fun l => l = [digest384 [s.trust.attestation], s.trust.sign (s.trust.transcript ++ [0x83, n])]) ∧
    ∀ k, 1 ≤ k → k ≤ 7 → s.SpdmSays (.spdmGetMeasurements k) s.trust.spdm 0x60 (fun l => l.head? = some (s.trust.measurements.getD k 0)) :=
  ⟨spdmGetDigests_says hup h, spdmGetCertificate_says hup h, spdmChallenge_says hup h n, fun _ => spdmGetMeasurements_says hup h⟩

end

/-- Settles O56, clause by clause. -/
theorem hostAndTrustEvents : Obligations.HostAndTrustEvents := by
  unfold Obligations.HostAndTrustEvents
  intro s addr n v d
  refine ⟨fun hw => ⟨fun value hh => cxlMemRequest_unreached hw hh addr value, ?cxl⟩, fun r c hw hr hc => ⟨fun h => cxlMemWaitExpired_fails hw hr hc h, fun h => cxlMemWaitExpired_waits hw hc h⟩,
    ⟨fun h => submissionEntry_empty h, ?submit⟩, fun m hm hd hw hr hc _ => hostEndpointDelivery_enters hm hd hw hr hc,
    ⟨bar0RegisterWrite_hctl s v, fun h => bar0RegisterWrite_disabled h v, fun h a ha => bar0RegisterWrite_enabled h ha v⟩,
    fun entries hl he => hostWindowTableLoad_loads s hl he, fun base size window hs hl hw => hdmDecoderProgram_programs s base hs hl hw, fun h => ideKmRequest_programs h n,
    ?spdm, fun bits h => descriptorCreate_creates h, fun e he hb hs hp hn => descriptorDelete_deletes he hb hs hp hn,
    fun p ps l hv hp hl => ⟨fun hf => logItemWrite_appends hv hp hl hf, fun hf => logItemWrite_drops hv hp hl hf⟩,
    fun l hl ht hf => heartbeat_beats hl ht hf, fun l hl he => ⟨fun hd hr => receiptWrite_writes hl he hd hr, errorSummaryRelease_releases hl he⟩,
    doubleFatalSporeRelease_releases s n, rfl⟩
  case cxl =>
    intro value va c die e x hdec hva ha hp hh he hd hb slice key hwait hroom hhit hall
    have hport : s.portFull slice (s.hostClaim c (.die die)).who = false := by simp [State.portFull, hroom]
    have hx : ∀ a < 64, s.Translates (s.hostClaim c (.die die)) (va + a) x := fun a h => by
      obtain ⟨hw, hh, hs⟩ := hall a h
      rw [← hs] at hw hh hport
      exact ⟨hw, hport, hh⟩
    exact ⟨fun hcap hcheck hl2 => cxlMemRequest_reads hw hdec hva ha hp hh value hcap ⟨hwait, hport, hhit⟩ hcheck hl2,
      fun hcap hcheck => cxlMemRequest_writes hw hdec ha hp hh he hd hb hcap hx hcheck⟩
  case submit =>
    intro hr hs hne h3
    refine ⟨fun i hclean hk ht hp => ?_, submissionEntry_refuses hr hs hne h3⟩
    obtain ⟨t, m, hrun, hnet, hdest, htype, hpay, hcaps, hep, hhead, hmem⟩ := submissionEntry_sends hr hs hne h3 hclean hk ht hp
    exact ⟨t, m, hrun, hnet, hdest, htype, hpay, hcaps, hep, hhead, hmem⟩
  case spdm =>
    intro hup p one
    exact ⟨spdmGetVersion_says hup, spdmGetCapabilities_says hup, spdmGetCapabilities_errs hup, spdmNegotiateAlgorithms_says hup, spdmNegotiateAlgorithms_errs hup,
      fun h => spdm_authenticates hup h n, fun h => ⟨spdmGetDigests_errs hup h, spdmChallenge_errs hup h n, spdmGetMeasurements_errs hup h n⟩,
      fun h => spdmKeyExchange_says hup h n, fun h => ⟨spdmFinish_says hup h d, fun _ hw => spdmFinish_errs hup d hw⟩,
      fun h => ⟨spdmHeartbeat_says hup h, spdmEndSession_says hup h⟩, fun h => ⟨spdmHeartbeat_errs hup h, spdmEndSession_errs hup h⟩,
      fun e hp he _ => ⟨fun secret hb => installDomainSecret_installs hup hp he hb secret, fun secret hb => installDomainSecret_errs hup hb secret,
        fun roster a b c hn hl => setRosterAndPermissions_sets hup hp he hn hl a b c⟩,
      fun l hp hl => ⟨readSessionLog_says hup hp hl, advanceLogReadPointer_advances hup hp hl n⟩,
      fun l hl => ⟨readErrorSummary_says hup hl, readErrorSummary_errs hup hl⟩⟩

end Sys2Proof.Machine
end

section
/-! SUPPORT. Homes at work: a store, a merge of a fold line, a control request and their answers (R66, R71, R72, R82, R119). -/

namespace Sys2Proof.Machine

open Sys2Proof

/-! ### Answers of a home -/

/-- The next request of its home goes on to the home's answer. -/
theorem serveRequest_next {s : State} {r : Request} (hl : s.laterOf r = false) (hm : s.mergeHeld r = none) :
    s.serveRequest r = match s.serve r with
      | .waits s => s
      | .done s => s.answered r none
      | .refused c s => s.answered r (some c)
      | .exhausted s => s.answered r (some 12) := by
  simp only [State.serveRequest, hl, hm, Bool.false_eq_true, if_false] <;> rfl

/-- A request that its home carries out is answered; memory is what the home made of it. -/
theorem serveRequest_answers {s : State} {n : Nat} {r : Request} {e : DirEntry} (v : s.Serves n r e) (hm : s.mergeHeld r = none) {u : State}
    (hs : s.serveAt r r.claim e.base = .done u) (hq : u.requests = s.requests) (hp : u.replies = s.replies) :
    s.Answers (s.serveRequest r) r .done ∧ (s.serveRequest r).mem = u.mem := by
  rw [serveRequest_next v.first hm, serve_plain v, hs]
  obtain ⟨ha, hmem, -⟩ := answered_done v.local' hq hp
  exact ⟨ha, hmem⟩

theorem homeAccessRequest_serves {s : State} {n : Nat} {r : Request} (h : s.requests[n]? = some r) : exec (.homeAccessRequest n) s = .next (s.serveRequest r) := by
  show execHomeAccessRequest n s = _
  rw [execHomeAccessRequest, h]

theorem State.SliceOnly.queues {s t : State} (h : s.SliceOnly t) : t.requests = s.requests ∧ t.replies = s.replies := by
  obtain ⟨_, _, _, rfl⟩ := h.frame
  exact ⟨rfl, rfl⟩

/-! ### Stores (R66, R119) -/

theorem foldl_min_le {l : List Nat} {a : Nat} (h : a ∈ l) (init : Nat) : l.foldl min init ≤ a := by
  induction l generalizing init with
  | nil => simp at h
  | cons b l ih =>
    have hle : ∀ (l : List Nat) (i : Nat), l.foldl min i ≤ i := fun l => by
      induction l with
      | nil => simp
      | cons c l ih => exact fun i => (ih _).trans (min_le_left _ _)
    rcases List.mem_cons.mp h with rfl | h
    · exact (hle l _).trans (min_le_right _ _)
    · exact ih h _

theorem foldl_max_lt {l : List Nat} {b init : Nat} (hi : init < b) (h : ∀ a ∈ l, a < b) : l.foldl max init < b := by
  induction l generalizing init with
  | nil => exact hi
  | cons a l ih => exact ih (max_lt hi (h a (by simp))) fun c hc => h c (by simp [hc])

theorem le_foldl_max {l : List Nat} {a : Nat} (h : a ∈ l) (init : Nat) : a ≤ l.foldl max init := by
  by_contra hlt
  induction l generalizing init with
  | nil => simp at h
  | cons b l ih =>
    have hge : ∀ (l : List Nat) (i : Nat), i ≤ l.foldl max i := fun l => by
      induction l with
      | nil => simp
      | cons c l ih => exact fun i => (le_max_left _ _).trans (ih _)
    rcases List.mem_cons.mp h with rfl | h
    · exact hlt ((le_max_right _ _).trans (hge l _))
    · exact ih h _ hlt

/-- The range from the first to the last of offsets below a bound lies below it. -/
theorem offsets_span {l : List Nat} {b : Nat} (hne : l ≠ []) (h : ∀ a ∈ l, a < b) : l.foldl min (2 ^ 48) + (l.foldl max 0 + 1 - l.foldl min (2 ^ 48)) ≤ b := by
  obtain ⟨a, l', rfl⟩ := List.exists_cons_of_ne_nil hne
  have hmem : a ∈ a :: l' := by simp
  have h1 := foldl_min_le hmem (2 ^ 48)
  have h2 := le_foldl_max hmem 0
  have h3 := foldl_max_lt (l := a :: l') (init := 0) (b := b) (by have := h a hmem; omega) h
  omega

/-- A store of the owner within its exclusive buffer passes the check (R66). -/
theorem checkAccess_owner {s : State} {q : Claim} {e : DirEntry} (he : s.entry q.home q.buffer = some e) (hk : s.gone e = false) (hx : e.state = .exclusive)
    (hg : e.generation = q.generation) (hd : e.domain = q.domain) (hf : s.rangeLeaves q e = false) (hw : q.inWindow e = false) (ho : e.owner = q.principal) {base off n : Nat}
    (hlow : e.base ≤ base + off) (hhigh : base + off + n ≤ e.base + e.length) (op : BitVec 5) : s.checkAccess q base off n 1 op = none := by
  have h1 : ¬(base + off < e.base) := by omega
  have h2 : ¬(e.base + e.length < base + off + n) := by omega
  simp [State.checkAccess, he, hk, hx, hg, hd, hf, hw, ho, h1, h2]

theorem checkAccess_store {s : State} {n : Nat} {r : Request} {e : DirEntry} (v : s.Serves n r e) (hx : e.state = .exclusive) (ho : e.owner = r.principal) {off len : Nat}
    (hl : off + len ≤ e.length) : s.checkAccess r.claim e.base off len 1 0 = none :=
  checkAccess_owner v.entry v.kept hx v.generation v.domain v.fits v.window ho (by omega) (by omega) 0

/-- A store of the owner that its home applies: each byte where the home keeps it, and nothing else. -/
theorem store_served {s : State} {n : Nat} {r : Request} {e : DirEntry} (v : s.Serves n r e) {bytes : List (Nat × Byte)} {clean : List Nat} (hk : r.kind = .store bytes [] clean)
    (hx : e.state = .exclusive) (ho : e.owner = r.principal) (hne : bytes ≠ []) (hlt : ∀ p ∈ bytes, p.1 < e.length) (key : Nat → Nat)
    (hkey : ∀ t, s.SliceOnly t → ∀ p ∈ bytes, ∃ u, t.locate r.claim 1 (e.base + p.1) = (some (key p.1), u) ∧ t.SliceOnly u) :
    s.Answers (s.serveRequest r) r .done ∧ (s.serveRequest r).mem = s.mem.writeCells (bytes.map fun p => (key p.1, p.2)) := by
  have hdeep : ∀ o, s.entry r.claim.home r.claim.buffer = some o → o.depth = 0 := fun o h => Option.some.inj (v.entry.symm.trans h) ▸ v.depth
  have hspan := offsets_span (l := bytes.map (·.1)) (by simpa using hne) (by simpa using fun a b h => hlt (a, b) h)
  obtain ⟨t, ht, hs⟩ := applyStore_writes v.armed v.clean hdeep r.tile clean false hkey (checkAccess_store v hx ho hspan)
  obtain ⟨hq, hp⟩ := hs.queues
  exact serveRequest_answers (u := { t with mem := s.mem.writeCells (bytes.map fun p => (key p.1, p.2)) }) v (mergeHeld_none (by simp [hk]))
    (by rw [State.serveAt, hk]; exact ht) hq hp

theorem homeAccessRequest_stores {s : State} {n : Nat} {r : Request} {e : DirEntry} (v : s.Serves n r e) (hh : r.home.isDmem = false) {bytes : List (Nat × Byte)} {clean : List Nat}
    (hk : r.kind = .store bytes [] clean) (hx : e.state = .exclusive) (ho : e.owner = r.principal) (hne : bytes ≠ []) (hlt : ∀ p ∈ bytes, p.1 < e.length) (hn : (bytes.map (·.1)).Nodup) :
    ∃ t : State, exec (.homeAccessRequest n) s = .next t ∧ s.Answers t r .done ∧ (∀ p ∈ bytes, t.mem.read (r.home.space.base + e.base + p.1) = p.2) ∧
      ∀ k, (∀ p ∈ bytes, r.home.space.base + e.base + p.1 ≠ k) → t.mem.read k = s.mem.read k := by
  obtain ⟨ha, hm⟩ := store_served v hk hx ho hne hlt (r.home.space.base + e.base + ·) fun t ht p _ => ⟨t, by rw [locate_direct t hh, ← Nat.add_assoc]; rfl, .refl t⟩
  refine ⟨_, homeAccessRequest_serves v.here, ha, fun p hp => ?_, fun k hout => ?_⟩ <;> rw [hm]
  · refine mem_read_writeCells_inside _ _ ?_ (List.mem_map.mpr ⟨p, hp, rfl⟩)
    rw [List.map_map]
    have := hn.map (f := (r.home.space.base + e.base + ·)) fun a b h => by simpa using h
    rwa [List.map_map] at this
  · exact mem_read_writeCells_outside _ _ fun c hc => by
      obtain ⟨p, hp, rfl⟩ := List.mem_map.mp hc
      exact hout p hp

/-- A store of one byte of DMEM reaches the frame that its slice's TLB gives. -/
theorem l2Request_stores {s : State} {n : Nat} {r : Request} {e : DirEntry} (v : s.Serves n r e) {die : Nat} (hh : r.home = .die die) {off : Nat} {b : Byte} {clean : List Nat}
    (hk : r.kind = .store [(off, b)] [] clean) (hx : e.state = .exclusive) (ho : e.owner = r.principal) (hlt : off < e.length) {x : TlbEntry}
    (ht : s.Translates r.claim (e.base + off) x) :
    ∃ t : State, exec (.l2Request n) s = .next t ∧ s.Answers t r .done ∧ t.mem.read (hbmKey (x.pa + (e.base + off - x.va))) = b ∧
      ∀ k, k ≠ hbmKey (x.pa + (e.base + off - x.va)) → t.mem.read k = s.mem.read k := by
  obtain ⟨ha, hm⟩ := store_served v hk hx ho (by simp) (by simpa using hlt) (fun o => hbmKey (x.pa + (e.base + o - x.va))) fun t hs p hp => by
    obtain rfl := List.mem_singleton.mp hp
    exact locate_store (hs.armed.trans v.armed) hh (ht.mono hs)
  refine ⟨s.serveRequest r, ?_, ha, ?_, fun k hout => ?_⟩
  · show execL2Request n s = _
    rw [execL2Request, v.here]
    simp only [hh]
  · rw [hm]
    exact mem_read_writeCells_inside _ _ (by simp) (by simp)
  · rw [hm]
    exact mem_read_writeCells_outside _ _ (by simpa using fun h => hout h.symm)

/-! ### A refusal (R67) -/

/-- `t` differs from `s` in neither memory nor the queues of requests and replies, and has no buffer that `s` has not. -/
structure State.Unmoved (s t : State) : Prop where
  mem : t.mem = s.mem
  requests : t.requests = s.requests
  replies : t.replies = s.replies
  absent : ∀ h b, s.entry h b = none → t.entry h b = none

theorem State.Unmoved.trans {s t u : State} (h : s.Unmoved t) (h' : t.Unmoved u) : s.Unmoved u :=
  ⟨h'.mem.trans h.mem, h'.requests.trans h.requests, h'.replies.trans h.replies, fun m b he => h'.absent m b (h.absent m b he)⟩

theorem sliceOnly_unmoved {s t : State} (h : s.SliceOnly t) : s.Unmoved t := ⟨h.mem, h.queues.1, h.queues.2, h.absent⟩

theorem parityAt_unmoved {s t : State} {slice : Nat} {p : ErrorItem → Bool} (h : s.parityAt slice p = some t) : s.Unmoved t := by
  unfold State.parityAt at h
  split at h
  · rw [← Option.some.inj h]
    exact ⟨rfl, rfl, rfl, fun _ _ h => h⟩
  · simp at h

/-- What a slice's check leaves of a state, whatever error it meets (R120). -/
theorem fillCheck_unmoved (s : State) (slice die b : Nat) : s.Unmoved (s.fillCheck slice die b) := by
  have hfill (t : State) : t.Unmoved (if t.paging.checks.contains (slice, die, b) then t
      else ({ t with paging := { t.paging with checks := putBounded 512 (fun o => o.1 = slice) (slice, die, b) t.paging.checks } }).mapEntry
        (.die die) b fun e => { e with dies := e.dies ||| BitVec.ofNat 4 (2 ^ (slice / 256)) }) := by
    split
    · exact sliceOnly_unmoved (.refl t)
    · exact sliceOnly_unmoved ((sliceOnly_checks t _).trans (sliceOnly_dies _ _ _ _))
  unfold State.fillCheck
  cases hp : s.parityAt slice (fun i => decide (i = .check slice die b)) with
  | none => simpa only [hp] using hfill s
  | some u =>
    have hu : s.Unmoved { u with paging := { u.paging with checks := u.paging.checks.erase (slice, die, b) } } :=
      (parityAt_unmoved hp).trans (sliceOnly_unmoved (sliceOnly_checks u _))
    simpa only [hp] using hu.trans (hfill _)

theorem sliceCheck_unmoved (s : State) (q : Claim) (a : Nat) : s.Unmoved (s.sliceCheck q a) := by
  unfold State.sliceCheck
  split
  · exact fillCheck_unmoved s _ _ _
  · exact sliceOnly_unmoved (.refl s)

theorem violate_unmoved (s : State) (v : Violation) : s.Unmoved (s.violate v) := by
  unfold State.violate
  split
  · exact ⟨rfl, rfl, rfl, fun _ _ h => h⟩
  · cases v.recorded <;> exact ⟨rfl, rfl, rfl, fun _ _ h => h⟩

theorem refuse_unmoved {s : State} {q : Claim} (h : s.entry q.home q.buffer = none) (access off reason : Nat) : s.Unmoved (s.refuse q access off reason) := by
  simp only [State.refuse, State.loseStruck, h]
  exact violate_unmoved s _

/-- A home's refusal of a request that is no notice is its answer (R67). -/
theorem answered_refused {s u : State} {r : Request} (hr : r.remote = none) (hn : ∀ m op, r.kind ≠ .notice m op) (h : s.Unmoved u) (c : Nat) :
    s.Answers (u.answered r (some c)) r (.refused c r.kind.place.2) ∧ (u.answered r (some c)).mem = s.mem := by
  have hack (v : State) : (v.acked r).requests = v.requests ∧ (v.acked r).replies = v.replies ∧ (v.acked r).mem = v.mem := by
    unfold State.acked
    split <;> simp
  unfold State.answered State.Answers
  cases r.home <;> simp [hr, hack, h.requests, h.replies, h.mem]

theorem checkAccess_absent {s : State} {q : Claim} (h : s.entry q.home q.buffer = none) (base off n access : Nat) (op : BitVec 5) :
    s.checkAccess q base off n access op = some 1 := by rw [State.checkAccess, h]

theorem applyStore_absent {s : State} {q : Claim} (h : s.entry q.home q.buffer = none) (base log : Nat) {bytes : List (Nat × Byte)} (hne : bytes ≠ []) (bad clean : List Nat)
    (injected : Bool) : ∃ u, s.Unmoved u ∧ s.applyStore q base log bytes bad clean injected = .refused 1 u := by
  have hs := sliceCheck_unmoved s q (base + (bytes.map (·.1)).foldl min (2 ^ 48))
  refine ⟨_, hs.trans (refuse_unmoved (hs.absent _ _ h) 1 ((bytes.map (·.1)).foldl min (2 ^ 48)) 1), ?_⟩
  unfold State.applyStore
  refine (if_neg (by simpa using hne)).trans ?_
  simp only [checkAccess_absent (hs.absent _ _ h)]

/-- A store to a buffer that its home does not keep is refused with reason 1. -/
theorem homeAccessRequest_refuses {s : State} {n : Nat} {r : Request} (hr : s.requests[n]? = some r) (hl : s.laterOf r = false) (hring : r.ring = none) (hrem : r.remote = none)
    (hw : s.asleep r.home = false) {off : Nat} {b : Byte} {clean : List Nat} (hk : r.kind = .store [(off, b)] [] clean) (he : s.entry r.home r.buffer = none) :
    ∃ t : State, exec (.homeAccessRequest n) s = .next t ∧ s.Answers t r (.refused 1 off) ∧ t.mem = s.mem := by
  obtain ⟨u, hu, hserve⟩ : ∃ u, s.Unmoved u ∧ s.serve r = .refused 1 u := by
    obtain ⟨u, hu, happ⟩ := applyStore_absent (q := r.claim) he 0 r.tile (bytes := [(off, b)]) (by simp) [] clean false
    refine ⟨u, hu, ?_⟩
    simp only [State.serve, hw, hring, he, Bool.false_eq_true, if_false, Option.map_none, Option.getD_none, State.serveAt, hk]
    exact happ
  obtain ⟨ha, hm⟩ := answered_refused hrem (by simp [hk]) hu 1
  refine ⟨_, homeAccessRequest_serves hr, ?_⟩
  rw [serveRequest_next hl (mergeHeld_none (by simp [hk])), hserve]
  rw [hk] at ha
  exact ⟨ha, hm⟩

end Sys2Proof.Machine
end

section
/-! SUPPORT. The merge of a fold line at its home (R82). -/

namespace Sys2Proof.Machine

open Sys2Proof

/-! ### Words combined in memory -/

/-- Memory after a partial value has been combined with the stored word of `n` bytes at an offset from `K` (R82). -/
def Memory.combined (m : Memory) (op : BitVec 5) (K n : Nat) (p : Nat × Word) : Memory :=
  m.writeN (K + p.1) (leBytes n (foldWord op (word (leNat (m.readN (K + p.1) n))) p.2).toNat)

theorem readN_combined_same (m : Memory) (op : BitVec 5) (K n : Nat) (p : Nat × Word) :
    leNat ((Memory.combined m op K n p).readN (K + p.1) n) = (foldWord op (word (leNat (m.readN (K + p.1) n))) p.2).toNat % 2 ^ (8 * n) := by
  have h := mem_readN_writeN m (K + p.1) (leBytes n (foldWord op (word (leNat (m.readN (K + p.1) n))) p.2).toNat)
  rw [leBytes_length] at h
  rw [Memory.combined, h, leNat_leBytes]

theorem read_combined_outside (m : Memory) (op : BitVec 5) {K n a : Nat} {p : Nat × Word} (h : a < K + p.1 ∨ K + p.1 + n ≤ a) :
    (Memory.combined m op K n p).read a = m.read a := mem_read_writeN_outside _ _ _ (by rwa [leBytes_length])

/-- Two words of `n` bytes that do not overlap. -/
def WordsApart (n : Nat) (p q : Nat × Word) : Prop := p.1 + n ≤ q.1

theorem read_combinedAll_outside (op : BitVec 5) {K n a : Nat} : ∀ (l : List (Nat × Word)) (m : Memory), (∀ p ∈ l, a < K + p.1 ∨ K + p.1 + n ≤ a) →
    (l.foldl (Memory.combined · op K n) m).read a = m.read a
  | [], _, _ => rfl
  | p :: l, m, h => (read_combinedAll_outside op l _ fun q hq => h q (by simp [hq])).trans (read_combined_outside m op (h p (by simp)))

/-- Each word of a run of words in ascending order is combined once, with what memory held before. -/
theorem readN_combinedAll (op : BitVec 5) {K n : Nat} : ∀ (l : List (Nat × Word)) (m : Memory), l.Pairwise (WordsApart n) → ∀ p ∈ l,
    leNat ((l.foldl (Memory.combined · op K n) m).readN (K + p.1) n) = (foldWord op (word (leNat (m.readN (K + p.1) n))) p.2).toNat % 2 ^ (8 * n)
  | [], _, _, p, hp => by simp at hp
  | q :: l, m, hl, p, hp => by
    obtain ⟨hq, hl⟩ := List.pairwise_cons.mp hl
    rw [List.foldl_cons]
    rcases List.mem_cons.mp hp with rfl | hp
    · have hsame : (l.foldl (Memory.combined · op K n) (Memory.combined m op K n p)).readN (K + p.1) n = (Memory.combined m op K n p).readN (K + p.1) n :=
        mem_readN_congr fun i hi => read_combinedAll_outside op l _ fun q' h' => by
          have := hq q' h'
          unfold WordsApart at this
          omega
      rw [hsame, readN_combined_same]
    · have hsame : (Memory.combined m op K n q).readN (K + p.1) n = m.readN (K + p.1) n :=
        mem_readN_congr fun i hi => read_combined_outside m op <| by
          have := hq p hp
          unfold WordsApart at this
          omega
      rw [readN_combinedAll op l _ hl p hp, hsame]

theorem writeCells_range (bs : List Byte) (m : Memory) (K : Nat) : m.writeCells (((List.range bs.length).map (K + ·)).zip bs) = m.writeN K bs := by
  induction bs generalizing m K with
  | nil => rfl
  | cons b bs ih =>
    have hrange : ((List.range (bs.length + 1)).map (K + ·)) = K :: (List.range bs.length).map (K + 1 + ·) := by
      rw [List.range_succ_eq_map, List.map_cons, List.map_map]
      congr 1
      exact List.map_congr_left fun i _ => by simp; omega
    rw [List.length_cons, hrange, List.zip_cons_cons, Memory.writeCells, ih, Memory.writeN]

/-! ### The merge -/

/-- The valid words of an update line with their offsets. -/
def UpdateLine.valid (u : UpdateLine) : List (Nat × Word) := (u.words.zipIdx).filterMap fun p => p.1.map fun w => (256 * u.line + foldBytes u.op * p.2, w)

theorem mem_valid {u : UpdateLine} {p : Nat × Word} : p ∈ u.valid ↔ ∃ k, u.words[k]? = some (some p.2) ∧ p.1 = 256 * u.line + foldBytes u.op * k := by
  simp only [UpdateLine.valid, List.mem_filterMap, Prod.exists, List.mem_zipIdx_iff_getElem?, Option.map_eq_some_iff]
  constructor
  · rintro ⟨o, k, h, w, rfl, rfl⟩
    exact ⟨k, h, rfl⟩
  · rintro ⟨k, h, hp⟩
    exact ⟨_, k, h, p.2, rfl, by rw [← hp]⟩

theorem valid_apart (u : UpdateLine) : u.valid.Pairwise (WordsApart (foldBytes u.op)) := by
  have hidx : u.words.zipIdx.Pairwise fun a b => a.2 < b.2 := by
    have := List.pairwise_lt_range' (s := 0) (n := u.words.length)
    rw [← List.zipIdx_map_snd] at this
    exact List.pairwise_map.mp this
  refine List.Pairwise.filterMap _ (fun a b hab p hp q hq => ?_) hidx
  obtain ⟨_, -, rfl⟩ := Option.map_eq_some_iff.mp hp
  obtain ⟨_, -, rfl⟩ := Option.map_eq_some_iff.mp hq
  have := Nat.mul_le_mul_left (foldBytes u.op) hab
  simp only [WordsApart]
  rw [Nat.succ_eq_add_one, Nat.mul_add] at this
  omega

/-- `s` with other memory. -/
def State.withMem (s : State) (m : Memory) : State := { s with mem := m }

theorem foldl_withMem {α : Type} {s : State} {step : Option State → α → Option State} {g : Memory → α → Memory}
    (h : ∀ m a, step (some (s.withMem m)) a = some (s.withMem (g m a))) : ∀ (l : List α) (m : Memory), l.foldl step (some (s.withMem m)) = some (s.withMem (l.foldl g m))
  | [], _ => rfl
  | a :: l, m => by rw [List.foldl_cons, h, foldl_withMem h l]; rfl

theorem locateN_direct (s : State) {q : Claim} (hq : q.home.isDmem = false) (access addr n : Nat) :
    s.locateN q access addr n = (some ((List.range n).map (q.home.space.base + addr + ·)), s) := by
  unfold State.locateN
  cases hh : q.home with
  | die d => simp [hh, HomeId.isDmem] at hq
  | _ => rfl

theorem sliceCheck_direct (s : State) {q : Claim} (hq : q.home.isDmem = false) (addr : Nat) : s.sliceCheck q addr = s := by
  unfold State.sliceCheck
  cases hh : q.home with
  | die d => simp [hh, HomeId.isDmem] at hq
  | _ => rfl

theorem valid_below {u : UpdateLine} (hw : u.words.length * foldBytes u.op ≤ 256) {p : Nat × Word} (h : p ∈ u.valid) : p.1 + foldBytes u.op ≤ 256 * u.line + 256 := by
  obtain ⟨k, hk, hp⟩ := mem_valid.mp h
  have hlt : k + 1 ≤ u.words.length := (List.getElem?_eq_some_iff.mp hk).1
  have := (Nat.mul_le_mul_right (foldBytes u.op) hlt).trans hw
  rw [Nat.add_mul, Nat.mul_comm] at this
  omega

/-- A merge that passes the check combines every valid word with the stored one. -/
theorem applyMerge_combines {s : State} (ha : s.armed = []) {q : Claim} (hq : q.home.isDmem = false) {base : Nat} {u : UpdateLine}
    (hc : ∀ off len, off + len ≤ 256 * u.line + 256 → s.checkAccess q base off len 2 u.op = none) (hw : u.words.length * foldBytes u.op ≤ 256) :
    s.applyMerge q base u = .done (s.withMem (u.valid.foldl (Memory.combined · u.op (q.home.space.base + base) (foldBytes u.op)) s.mem)) := by
  have hbelow := fun p => valid_below (p := p) hw
  obtain ⟨l, hl⟩ : ∃ l, u.valid = l := ⟨_, rfl⟩
  rw [hl] at hbelow ⊢
  unfold UpdateLine.valid at hl
  unfold State.applyMerge
  extract_lets n words
  obtain rfl : words = l := hl
  clear_value words
  cases words with
  | nil => rfl
  | cons p l =>
    obtain ⟨off, w⟩ := p
    have hoff := hbelow (off, w) (by simp)
    have hlast := foldl_max_lt (l := ((off, w) :: l).map (·.1)) (init := 0) (b := 256 * u.line + 256 - foldBytes u.op + 1) (by omega) fun a ha => by
      obtain ⟨p, hp, rfl⟩ := List.mem_map.mp ha
      have := hbelow p hp
      omega
    have hfirst := le_foldl_max (l := ((off, w) :: l).map (·.1)) (a := off) (by simp) 0
    have hcheck := hc off ((((off, w) :: l).map (·.1)).foldl max 0 + foldBytes u.op - off) (by omega)
    simp only [sliceCheck_direct s hq, locateN_direct _ hq]
    rw [show (some s : Option State) = some (s.withMem s.mem) from rfl,
      foldl_withMem (g := (Memory.combined · u.op (q.home.space.base + base) (foldBytes u.op)))]
    · rw [show s.checkAccess q base off _ 2 u.op = none from hcheck]
    · intro m p
      have hdet : ∀ off key, (s.withMem m).detect q.home q.buffer off key = s.withMem m := fun _ _ => detect_unarmed (show (s.withMem m).armed = [] from ha) _ _ _ _
      have hread : ((List.range (foldBytes u.op)).map (q.home.space.base + base + p.1 + ·)).map m.read = m.readN (q.home.space.base + base + p.1) (foldBytes u.op) := by
        rw [List.map_map]
        rfl
      have hwrite (v : Nat) := writeCells_range (leBytes (foldBytes u.op) v) m (q.home.space.base + base + p.1)
      simp only [leBytes_length] at hwrite
      rename_i step last
      simp only [step, locateN_direct _ hq, hdet, ← Nat.add_assoc]
      rw [show (s.withMem m).mem = m from rfl, show n = foldBytes u.op from rfl, hread, hwrite]
      rfl

/-- A merge within its buffer, of the fold op that the buffer has, passes the check (R66, R82). -/
theorem checkAccess_fold {s : State} {n : Nat} {r : Request} {e : DirEntry} (v : s.Serves n r e) (hx : e.state = .foldShared) {off len : Nat} (hl : off + len ≤ e.length) :
    s.checkAccess r.claim e.base off len 2 e.foldOp = none := by
  have hlen : ¬(e.base + e.length < e.base + off + len) := by omega
  have he : s.entry r.claim.home r.claim.buffer = some e := v.entry
  have hg : e.generation = r.claim.generation := v.generation
  have hd : e.domain = r.claim.domain := v.domain
  simp [State.checkAccess, he, v.kept, hx, hg, hd, v.fits, v.window, hlen]

theorem mergeHeld_unpaged {s : State} {r : Request} {u : UpdateLine} (hk : r.kind = .merge u) (h : s.lineAddress u = none) : s.mergeHeld r = none := by
  simp [State.mergeHeld, hk, h]

/-- Each valid word of a merged line is combined with the stored word; the words between them, and memory beyond the line, are as before (R82). -/
theorem foldLineMerge_merges {s : State} {n : Nat} {r : Request} {e : DirEntry} {v : UpdateLine} (hs : s.Serves n r e) (hh : r.home.isDmem = false) (hk : r.kind = .merge v)
    (hx : e.state = .foldShared) (hop : e.foldOp = v.op) (hw : v.words.length * foldBytes v.op ≤ 256) (hl : 256 * v.line + 256 ≤ e.length) (hp : s.lineAddress v = none) :
    let key (k : Nat) : Nat := r.home.space.base + e.base + 256 * v.line + foldBytes v.op * k
    ∃ t : State, exec (.foldLineMerge n) s = .next t ∧ s.Answers t r .done ∧
      (∀ k w, v.words[k]? = some (some w) → leNat (t.mem.readN (key k) (foldBytes v.op)) =
        (foldWord v.op (BitVec.ofNat 64 (leNat (s.mem.readN (key k) (foldBytes v.op)))) w).toNat % 2 ^ (8 * foldBytes v.op)) ∧
      (∀ k, v.words[k]? = some none → t.mem.readN (key k) (foldBytes v.op) = s.mem.readN (key k) (foldBytes v.op)) ∧
      ∀ a, a < key 0 ∨ key 0 + 256 ≤ a → t.mem.read a = s.mem.read a := by
  intro key
  have happ := applyMerge_combines (u := v) (base := e.base) hs.armed (q := r.claim) hh (fun off len h => hop ▸ checkAccess_fold hs hx (h.trans hl)) hw
  obtain ⟨ha, hm⟩ := serveRequest_answers hs (mergeHeld_unpaged hk hp) (u := s.withMem (v.valid.foldl (Memory.combined · v.op (r.home.space.base + e.base) (foldBytes v.op)) s.mem))
    (by rw [State.serveAt, hk]; exact happ) rfl rfl
  replace hm : (s.serveRequest r).mem = v.valid.foldl (Memory.combined · v.op (r.home.space.base + e.base) (foldBytes v.op)) s.mem := hm
  have hkey : ∀ k, key k = r.home.space.base + e.base + (256 * v.line + foldBytes v.op * k) := fun k => Nat.add_assoc _ _ _
  refine ⟨s.serveRequest r, ?_, ha, fun k w hkw => ?_, fun k hnone => mem_readN_congr fun i hi => ?_, fun a hout => ?_⟩
  · show execFoldLineMerge n s = _
    rw [execFoldLineMerge, hs.here]
    simp only [hk]
  · rw [hm, hkey]
    exact readN_combinedAll v.op v.valid s.mem (valid_apart v) (_, w) (mem_valid.mpr ⟨k, hkw, rfl⟩)
  · rw [hm, hkey]
    refine read_combinedAll_outside v.op v.valid s.mem fun p hp => ?_
    obtain ⟨j, hj, hpj⟩ := mem_valid.mp hp
    have hne : j ≠ k := fun h => by simp [← h, hj] at hnone
    rcases Nat.lt_or_gt_of_ne hne with h | h
    · have := Nat.mul_le_mul_left (foldBytes v.op) (Nat.succ_le_of_lt h)
      rw [Nat.succ_eq_add_one, Nat.mul_add] at this
      show _ ∨ r.home.space.base + e.base + p.1 + _ ≤ _
      omega
    · have := Nat.mul_le_mul_left (foldBytes v.op) (Nat.succ_le_of_lt h)
      rw [Nat.succ_eq_add_one, Nat.mul_add] at this
      show _ < r.home.space.base + e.base + p.1 ∨ _
      omega
  · rw [hm]
    refine read_combinedAll_outside v.op v.valid s.mem fun p hp => ?_
    have hbelow := valid_below hw hp
    obtain ⟨j, -, hpj⟩ := mem_valid.mp hp
    have h0 := hkey 0
    show a < r.home.space.base + e.base + p.1 ∨ r.home.space.base + e.base + p.1 + _ ≤ a
    omega

end Sys2Proof.Machine
end

section
/-! SUPPORT. Tiles by their indexes, control requests at their homes, and replies at their tiles (R67, R71, R110, R422). -/

namespace Sys2Proof.Machine

open Sys2Proof

/-! ### Tiles -/

theorem tileAt_index {s : State} {i : Nat} {u : Tile} (h : s.tileAt i = some u) : u.index = i := by
  unfold State.tileAt at h
  split at h
  · next hi => rwa [← Option.some.inj h]
  · simpa using List.find?_some h

/-- A tile that is put back at its index stands there. -/
theorem tileAt_putTile {s : State} {i : Nat} {u v : Tile} (h : s.tileAt i = some u) (hv : v.index = i) : (s.putTile v).tileAt i = some v := by
  unfold State.putTile
  by_cases hi : s.tile.index = i
  · rw [if_pos (hi.trans hv.symm)]
    simp [State.tileAt, hv]
  · rw [if_neg (hv ▸ hi)]
    simp only [State.tileAt, hi, if_false] at h ⊢
    have hp : (fun o : Tile => decide (o.index = i)) ∘ (fun o => if o.index = v.index then v else o) = fun o => decide (o.index = i) := by
      funext o
      by_cases ho : o.index = i <;> simp [ho, hv]
    have hu : u.index = v.index := hv ▸ (by simpa using List.find?_some h)
    rw [List.find?_map, hp, h, Option.map_some, if_pos hu]

theorem putTile_frame (s : State) (v : Tile) : ∃ tile others, s.putTile v = { s with tile := tile, others := others } := by
  unfold State.putTile
  split <;> exact ⟨_, _, rfl⟩

theorem switchTo_frame (s : State) (i : Nat) : ∃ tile others, s.switchTo i = { s with tile := tile, others := others } := by
  unfold State.switchTo
  split
  · exact ⟨_, _, rfl⟩
  · split <;> exact ⟨_, _, rfl⟩

theorem switchTo_tile {s : State} {i : Nat} {u : Tile} (h : s.tileAt i = some u) : (s.switchTo i).tile = u := by
  unfold State.tileAt at h
  unfold State.switchTo
  split at h
  · next hi => rw [if_pos hi]; exact Option.some.inj h
  · next hi => rw [if_neg hi, h]

/-- After a tile has acted and the first one is current again, the tile stands at its index as it has become. -/
theorem tileAt_switchBack {s t : State} {i : Nat} {u : Tile} (h : s.tileAt i = some u) (ho : t.others = (s.switchTo i).others) (ht : t.tile.index = i) :
    (t.switchTo s.tile.index).tileAt i = some t.tile := by
  unfold State.tileAt at h
  split at h
  · next hi =>
    rw [State.switchTo, if_pos (ht.trans hi.symm), State.tileAt, if_pos ht]
  · next hi =>
    have hothers : t.others = s.tile :: s.others.filter fun u => u.index ≠ i := by
      rw [ho, State.switchTo, if_neg hi, h]
    have hback : t.others.find? (fun o => decide (o.index = s.tile.index)) = some s.tile := by simp [hothers]
    rw [State.switchTo, if_neg (by rw [ht]; exact fun h => hi h.symm), hback, State.tileAt, if_neg hi]
    simp [ht]

/-! ### Control requests (R71) -/

theorem sendPacket_fabric (s : State) (peer : Nat) (p : Packet) : ∃ fabric, s.sendPacket peer p = { s with fabric := fabric } := by
  unfold State.sendPacket
  split
  · exact ⟨_, rfl⟩
  · dsimp only
    split
    · exact ⟨_, rfl⟩
    · split <;> exact ⟨_, rfl⟩

/-- The home of an exclusive buffer of another device seals it at its owner's request. -/
theorem homeControlRequest_seals {s : State} {n : Nat} {r : Control} {e : DirEntry} (hr : s.controls[n]? = some r) (hop : r.operation = 6) (hw : s.asleep r.home = false)
    (hf : s.peerEarlier r.device r.serial r.principal r.home = false) (ha : s.armed = []) (he : s.entry r.home r.buffer = some e)
    (hc : s.checkControl r.claim [.exclusive] true 3 = none) :
    ∃ t : State, exec (.homeControlRequest n) s = .next t ∧ r ∉ t.controls ∧ t.nowHas r.home r.buffer (fun o => o.state = .execShared ∧ o.count = 1 ∧ o.owner = r.principal) ∧
      t.mem = s.mem := by
  have hchange := change_onlyHomes s r.home r.buffer fun e => { e with state := .execShared, count := 1, owner := r.principal }
  have hnow := nowHas_change (f := fun e => { e with state := .execShared, count := 1, owner := r.principal }) he
    (p := fun o => o.state = .execShared ∧ o.count = 1 ∧ o.owner = r.principal) fun _ => ⟨rfl, rfl, rfl⟩
  obtain ⟨u, hu⟩ : ∃ u, s.change r.home r.buffer (fun e => { e with state := .execShared, count := 1, owner := r.principal }) = u := ⟨_, rfl⟩
  rw [hu] at hchange hnow
  have hgrant : s.control r = u.allow r r.buffer := by
    have hon : s.controlOn r e = u.allow r r.buffer := by
      have hneeds : r.needs = ([.exclusive], true, 3) := by rw [Control.needs, hop]; rfl
      unfold State.controlOn
      rw [hneeds]
      simp [hop, hc, State.eventOn, hu]
    simp only [State.control, hop, hw, hf, he, failLevels_unarmed ha, Option.getD_some, hon]
    rfl
  have hrun : exec (.homeControlRequest n) s = .next ({ u with controls := u.controls.filter fun o => o ≠ r }.answerPeer r.device r.serial r.home r.principal r.buffer r.generation
      r.domain none none (((u.entry r.home r.buffer).map DirEntry.fields).getD [])) := by
    show execHomeControlRequest n s = _
    simp only [execHomeControlRequest, hr, hgrant, State.allow]
  obtain ⟨fabric, hsend⟩ : ∃ fabric, ({ u with controls := u.controls.filter fun o => o ≠ r }.answerPeer r.device r.serial r.home r.principal r.buffer r.generation
      r.domain none none (((u.entry r.home r.buffer).map DirEntry.fields).getD [])) = { u with controls := u.controls.filter fun o => o ≠ r, fabric := fabric } :=
    sendPacket_fabric _ _ _
  rw [hsend] at hrun
  exact ⟨_, hrun, by simp, hnow, hchange.mem⟩

/-! ### Replies (R67, R110, R412, R422) -/

/-- The state without a reply that has arrived. -/
def State.withoutReply (s : State) (p : Reply) : State := { s with replies := s.replies.erase p }

/-- The tile with the record of a refused write-back or merge in the entry `j` of its fault log (R67). -/
def Tile.refusal (u : Tile) (j : Fin 16) (now : Word) (p : Reply) (off : Nat) : Tile :=
  u.logEntry j { code := 65, cls := 1, level := u.level.val, place := word off, what := word (p.buffer + p.generation.toNat * 2 ^ 24), time := now }

theorem refusal_entry (u : Tile) (j : Fin 16) (now : Word) (p : Reply) (off : Nat) : (u.refusal j now p off).faultLog.get j =
    { code := 65, cls := 1, level := u.level.val, place := word off, what := word (p.buffer + p.generation.toNat * 2 ^ 24), time := now, sequence := u.faultSeq % 65536 } :=
  (vector_get_set _ j j _).trans (if_pos rfl)

section
variable {s : State} {n : Nat} {p : Reply} {u : Tile} (hn : s.replies[n]? = some p) (hpeer : p.peer = false) (hu : s.tileAt p.tile = some u)
include hn hu

theorem homeReplyArrival_takes (hp : u.parked = false) {t : State} (ht : s.takeReply p = (true, t)) : exec (.homeReplyArrival n) s = .next t := by
  show execHomeReplyArrival n s = _
  have harr : s.replyArrives p = (true, t) := by
    rw [State.replyArrives, hu]
    simp [hp, ht]
  simp [execHomeReplyArrival, hn, harr]

include hpeer

/-- The state after a reply has reached its tile. -/
theorem homeReplyArrival_done (hk : p.kind = .done) (hp : u.parked = false) : ∃ t : State, exec (.homeReplyArrival n) s = .next t ∧ t.replies = s.replies.erase p ∧
    t.tileAt p.tile = some (u.countPacket 6 false) ∧ t.mem = s.mem := by
  have ht : s.takeReply p = (true, (s.withoutReply p).putTile (u.countPacket 6 false)) := by
    simp [State.takeReply, State.withoutReply, hu, hpeer, hk]
  have hindex : u.index = p.tile := tileAt_index hu
  have hat : (s.withoutReply p).tileAt p.tile = some u := hu
  have hnow := tileAt_putTile hat (v := u.countPacket 6 false) hindex
  obtain ⟨tile, others, hput⟩ := putTile_frame (s.withoutReply p) (u.countPacket 6 false)
  rw [hput] at ht hnow
  exact ⟨_, homeReplyArrival_takes hn hu hp ht, rfl, hnow, rfl⟩

theorem homeReplyArrival_absorbed (hp : u.parked = true) (hs : s.sporeIsOut u = false) : ∃ t : State, exec (.homeReplyArrival n) s = .next t ∧ t.replies = s.replies.erase p ∧
    t.tileAt p.tile = some { u with parkReplies := u.parkReplies ++ [p] } ∧ t.mem = s.mem := by
  have harr : s.replyArrives p = (true, (s.withoutReply p).putTile { u with parkReplies := u.parkReplies ++ [p] }) := by
    rw [State.replyArrives, hu]
    exact (if_neg (by simp [hp, hpeer])).trans (if_neg (by simp [hs]))
  have hindex : u.index = p.tile := tileAt_index hu
  have hat : (s.withoutReply p).tileAt p.tile = some u := hu
  have hnow := tileAt_putTile hat (v := { u with parkReplies := u.parkReplies ++ [p] }) hindex
  obtain ⟨tile, others, hput⟩ := putTile_frame (s.withoutReply p) { u with parkReplies := u.parkReplies ++ [p] }
  rw [hput] at harr hnow
  refine ⟨_, ?_, rfl, hnow, rfl⟩
  show execHomeReplyArrival n s = _
  simp [execHomeReplyArrival, hn, harr]

/-- A refused write-back or merge is recorded with code 65 (R67). -/
theorem homeReplyArrival_refused {c off : Nat} {j : Fin 16} (hk : p.kind = .refused c off) (hp : u.parked = false) (hj : u.freeEntry = some j) :
    ∃ (t : State) (u' : Tile), exec (.homeReplyArrival n) s = .next t ∧ t.replies = s.replies.erase p ∧ t.tileAt p.tile = some u' ∧ (u'.faultLog.get j).code = 65 ∧
      (u'.faultLog.get j).cls = 1 ∧ (u'.faultLog.get j).place = BitVec.ofNat 64 off ∧ u'.x = u.x ∧ t.mem = s.mem := by
  have hindex : u.index = p.tile := tileAt_index hu
  have hcount := tileAt_putTile (s := s.withoutReply p) hu (v := u.countPacket 6 false) hindex
  have ht : s.takeReply p = (true, ((s.withoutReply p).putTile (u.countPacket 6 false)).putTile ((u.countPacket 6 false).refusal j (s.mcycle u) p off)) := by
    obtain ⟨tile, others, hput⟩ := putTile_frame (s.withoutReply p) (u.countPacket 6 false)
    have hput' : ({ s with replies := s.replies.erase p } : State).putTile (u.countPacket 6 false) = _ := hput
    have hj' : (u.countPacket 6 false).freeEntry = some j := hj
    rw [hput] at hcount ⊢
    simp only [State.takeReply, hu, Option.map_some, hpeer, Bool.false_eq_true, if_false, hk, hput', State.logRecord, hcount, hj']
    rfl
  have hnow := tileAt_putTile hcount (v := (u.countPacket 6 false).refusal j (s.mcycle u) p off) hindex
  obtain ⟨tile, others, hput⟩ := putTile_frame (s.withoutReply p) (u.countPacket 6 false)
  obtain ⟨tile', others', hput'⟩ := putTile_frame ((s.withoutReply p).putTile (u.countPacket 6 false)) ((u.countPacket 6 false).refusal j (s.mcycle u) p off)
  rw [hput', hput] at ht hnow
  refine ⟨_, _, homeReplyArrival_takes hn hu hp ht, rfl, hnow, ?_, ?_, ?_, rfl, rfl⟩ <;> rw [refusal_entry]
  rfl

end

end Sys2Proof.Machine
end

section
/-! SUPPORT. Messages at their tiles and in the queue of a Shunter, and the placements that a Shunter decides (R60, R71, R88-R93, R194). -/

namespace Sys2Proof.Machine

open Sys2Proof

/-! ### A message enters a queue -/

/-- `t` is `s` but for the directories, what slices cache, and what has left for other devices. -/
def State.OnlyDelivers (s t : State) : Prop := ∃ dirs levels copies paging fabric, t = { s with dirs := dirs, levels := levels, copies := copies, paging := paging, fabric := fabric }

theorem State.OnlyDelivers.refl (s : State) : s.OnlyDelivers s := ⟨_, _, _, _, _, rfl⟩

theorem State.OnlyDelivers.trans {s t u : State} (h : s.OnlyDelivers t) (h' : t.OnlyDelivers u) : s.OnlyDelivers u := by
  obtain ⟨_, _, _, _, _, rfl⟩ := h
  obtain ⟨_, _, _, _, _, rfl⟩ := h'
  exact ⟨_, _, _, _, _, rfl⟩

theorem State.OnlyHomes.onlyDelivers {s t : State} (h : s.OnlyHomes t) : s.OnlyDelivers t := by
  obtain ⟨_, _, _, _, rfl⟩ := h
  exact ⟨_, _, _, _, _, rfl⟩

theorem tellPeer_fabric (s : State) (c : Cap) (op : Nat) (args : List Nat) : ∃ fabric, s.tellPeer c op args = { s with fabric := fabric } := by
  unfold State.tellPeer
  split
  · exact ⟨_, rfl⟩
  · exact sendPacket_fabric _ _ _

theorem deliverCap_onlyDelivers (s : State) (c : Cap) (owner : Nat) : s.OnlyDelivers (s.deliverCap c owner) := by
  unfold State.deliverCap
  split
  · exact .refl s
  · split
    · exact .refl s
    · split
      · exact .refl s
      · split
        · obtain ⟨fabric, hf⟩ := tellPeer_fabric s c 2 [owner]
          rw [hf]
          exact .trans ⟨_, _, _, _, _, rfl⟩ (change_onlyHomes _ _ _ _).onlyDelivers
        · exact .refl s

/-- Delivery makes the receiver the owner of an exclusive buffer in transit (R71). -/
theorem deliverCap_owns {s : State} {c : Cap} {h : HomeId} {e : DirEntry} (hm : c.mode = .exclusive) (hh : s.homeOf c = some h) (he : s.entry h c.buffer.toNat = some e)
    (hs : e.state = .inTransit) (hg : e.generation = c.generation) (owner : Nat) :
    (s.deliverCap c owner).nowHas h c.buffer.toNat fun o => o.state = .exclusive ∧ o.owner = owner := by
  obtain ⟨fabric, hf⟩ := tellPeer_fabric s c 2 [owner]
  have hrun : s.deliverCap c owner = ({ s with fabric := fabric } : State).change h e.number fun e => { e with state := .exclusive, owner := owner } := by
    unfold State.deliverCap
    rw [if_neg (by simp [hm]), hh]
    simp only [he, hs, hg, decide_true, Bool.and_self, if_true, hf]
  rw [hrun, (entry_home he).2]
  exact nowHas_change (s := { s with fabric := fabric }) he fun _ => ⟨rfl, rfl⟩

theorem acceptCaps_onlyDelivers (t : Tile) : ∀ (cs : List Cap) (s : State) (slot : Nat), s.OnlyDelivers (s.acceptCaps t slot cs).2.2
  | [], s, _ => .refl s
  | c :: cs, s, slot => by
    have h := (deliverCap_onlyDelivers s c (t.principal s.device)).trans (acceptCaps_onlyDelivers t cs _ (slot + 1))
    unfold State.acceptCaps
    dsimp only
    split <;> exact h

theorem wake_keeps (t : Tile) (m : Msg) : (t.wake m).index = t.index ∧ (t.wake m).queues = t.queues ∧ (t.wake m).xqueue = t.xqueue ∧ (t.wake m).x = t.x ∧ (t.wake m).c = t.c ∧
    (t.wake m).pc = t.pc := by
  unfold Tile.wake
  split <;> exact ⟨rfl, rfl, rfl, rfl, rfl, rfl⟩

/-- A tile as a message has entered the queue of its level. -/
theorem enqueue_wake_keeps (t : Tile) (vn : Nat) (q : QMsg) (m : Msg) : (((t.countPacket vn false).enqueue q).wake m).index = t.index ∧
    (((t.countPacket vn false).enqueue q).wake m).queues = t.queues.set (t.dispatchOf q.msg.type).level.val (t.queues.get (t.dispatchOf q.msg.type).level ++ [q]) ∧
    (((t.countPacket vn false).enqueue q).wake m).x = t.x ∧ (((t.countPacket vn false).enqueue q).wake m).c = t.c ∧ (((t.countPacket vn false).enqueue q).wake m).pc = t.pc := by
  obtain ⟨hi, hq, -, hx, hc, hpc⟩ := wake_keeps ((t.countPacket vn false).enqueue q) m
  exact ⟨hi, hq, hx, hc, hpc⟩

/-- The end of the queue of its level is the place of a message that a tile receives; nothing else of the tile's registers and no byte of memory changes (R71, R194). -/
theorem receive_enters {s : State} {i : Nat} {u : Tile} (hu : s.tileAt i = some u) (m : Msg) :
    ∃ u' caps failed, (s.receive u m).tileAt i = some u' ∧
      u'.queues = u.queues.set (u.dispatchOf m.type).level.val (u.queues.get (u.dispatchOf m.type).level ++ [{ msg := { m with caps := caps }, failed := failed }]) ∧
      u'.x = u.x ∧ u'.c = u.c ∧ u'.pc = u.pc ∧ (m.caps = [] → caps = [] ∧ failed = []) ∧ (s.receive u m).net = s.net ∧ (s.receive u m).mem = s.mem ∧
      (s.receive u m).clusters = s.clusters ∧
      ∀ c h e, m.caps = [c] → c.mode = .exclusive → s.homeOf c = some h → s.entry h c.buffer.toNat = some e → e.state = .inTransit → e.generation = c.generation →
        (s.receive u m).nowHas h c.buffer.toNat fun o => o.state = .exclusive ∧ o.owner = u.principal s.device := by
  obtain ⟨r, hr⟩ : ∃ r, s.acceptCaps u 0 m.caps = r := ⟨_, rfl⟩
  obtain ⟨dirs, levels, copies, paging, fabric, hframe⟩ : s.OnlyDelivers r.2.2 := hr ▸ acceptCaps_onlyDelivers u m.caps s 0
  obtain ⟨hi, hq, hx, hc, hpc⟩ := enqueue_wake_keeps u (u.networkOf m) { msg := { m with caps := r.1 }, failed := r.2.1 } m
  have hrun : s.receive u m = r.2.2.putTile (((u.countPacket (u.networkOf m) false).enqueue { msg := { m with caps := r.1 }, failed := r.2.1 }).wake m) := by
    rw [State.receive, hr]
  have hat : r.2.2.tileAt i = some u := by rw [hframe]; exact hu
  have hnow := tileAt_putTile hat (hi.trans (tileAt_index hu))
  obtain ⟨tile, others, hput⟩ := putTile_frame r.2.2 (((u.countPacket (u.networkOf m) false).enqueue { msg := { m with caps := r.1 }, failed := r.2.1 }).wake m)
  rw [← hrun] at hput hnow
  refine ⟨_, r.1, r.2.1, hnow, hq, hx, hc, hpc, fun h => ?_, by rw [hput, hframe], by rw [hput, hframe], by rw [hput, hframe], fun c h e hcaps hm hh he hs hg => ?_⟩
  · rw [← hr, h]
    exact ⟨rfl, rfl⟩
  · have hdirs : (s.receive u m).dirs = (s.deliverCap c (u.principal s.device)).dirs := by
      rw [hput, ← hr, hcaps]
      unfold State.acceptCaps
      dsimp only
      split <;> rfl
    obtain ⟨o, ho, hp⟩ := deliverCap_owns hm hh he hs hg (u.principal s.device)
    exact ⟨o, by rw [State.entry, hdirs]; exact ho, hp⟩

/-! ### Arrivals (R88, R194) -/

theorem toParked_awake {s : State} {m : Msg} {l r : Nat} {u : Tile} (hd : m.dest = .rank l r) (hg : s.groupOut l r = false) (hu : (s.destTile m.dest).bind s.tileAt = some u)
    (hp : u.parked = false) : s.toParked m = false := by
  unfold State.toParked
  rw [hu]
  simp [hd, hg, hp]

/-- A message that need not wait reaches the tile of its rank. -/
theorem messageArrival_reaches {s : State} {n : Nat} {m : Msg} {l r : Nat} {u : Tile} (hn : s.net[n]? = some m) (hland : m.landing = none)
    (hw : (if m.placed then s.mustWait m else s.behind m) = false) (hd : m.dest = .rank l r) (ht : s.takesMsgs l = true) (hg : s.groupOut l r = false)
    (hu : (s.destTile m.dest).bind s.tileAt = some u) (hp : u.parked = false) (hh : s.homesAwake m = true) : exec (.messageArrival n) s = .next (s.arriveAt u m) := by
  have hpark := toParked_awake hd hg hu hp
  show execMessageArrival n s = _
  simp only [execMessageArrival, hn]
  congr 1
  unfold State.arrive
  rw [if_neg (by simp [hland, hw]), if_neg (by simp [hh])]
  rw [hd] at hu ⊢
  simp [ht, hg, hu]

theorem queueFull_iff {t : Tile} {m : Msg} (h : m.landing = none) : t.queueFull m = decide (32 ≤ (t.queues.get (t.dispatchOf m.type).level).length) := by
  simp [Tile.queueFull, h]

section
variable {s : State} {n : Nat} {m : Msg} {l r : Nat} {u : Tile} (hland : m.landing = none) (hd : m.dest = .rank l r) (ht : s.takesMsgs l = true)
  (hg : s.groupOut l r = false) (hh : s.homesAwake m = true)
include hland hd ht hg hh

theorem messageArrival_placed {i : Nat} (h : s.Enters n m i u) : exec (.messageArrival n) s = .next (if u.queueFull m then s else (s.dropNet m).receive u m) := by
  have hu : (s.destTile m.dest).bind s.tileAt = some u := by rw [h.goes]; exact h.tile
  rw [messageArrival_reaches h.here hland (by simp [h.placed, h.first]) hd ht hg hu h.parked hh]
  simp [State.arriveAt, h.parked, h.gated, h.placed]

/-- A placed message enters the queue of its level while that has room. -/
theorem messageArrival_enters {i : Nat} (h : s.Enters n m i u) (hroom : (u.queues.get (u.dispatchOf m.type).level).length < 32) :
    ∃ t u' caps failed, exec (.messageArrival n) s = .next t ∧ t.net = s.net.filter (fun o => decide (o ≠ m)) ∧ t.tileAt i = some u' ∧
      u'.queues = u.queues.set (u.dispatchOf m.type).level.val (u.queues.get (u.dispatchOf m.type).level ++ [{ msg := { m with caps := caps }, failed := failed }]) ∧
      u'.x = u.x ∧ u'.c = u.c ∧ u'.pc = u.pc ∧ t.mem = s.mem ∧ (m.caps = [] → caps = [] ∧ failed = []) ∧
      ∀ c h e, m.caps = [c] → c.mode = .exclusive → s.homeOf c = some h → s.entry h c.buffer.toNat = some e → e.state = .inTransit → e.generation = c.generation →
        t.nowHas h c.buffer.toNat fun o => o.state = .exclusive ∧ o.owner = u.principal s.device := by
  have hrun := messageArrival_placed hland hd ht hg hh h
  rw [if_neg (by simp [queueFull_iff hland, hroom])] at hrun
  obtain ⟨u', caps, failed, hat, hq, hx, hc, hpc, hnil, hnet, hmem, -, hown⟩ := receive_enters (s := s.dropNet m) h.tile m
  exact ⟨_, u', caps, failed, hrun, hnet, hat, hq, hx, hc, hpc, hmem, hnil, hown⟩

theorem messageArrival_waits {i : Nat} (h : s.Enters n m i u) (hfull : 32 ≤ (u.queues.get (u.dispatchOf m.type).level).length) :
    exec (.messageArrival n) s = .next s := by
  rw [messageArrival_placed hland hd ht hg hh h, if_pos (by simp [queueFull_iff hland, hfull])]

/-- A message that no Shunter has placed yet enters the transfer queue of the tile's cluster while that has room (R88, R103). -/
theorem messageArrival_transfers {c : Cluster} (hn : s.net[n]? = some m) (hplaced : m.placed = false) (hb : s.behind m = false)
    (hu : (s.destTile m.dest).bind s.tileAt = some u) (hp : u.parked = false) (hgate : u.gated = false) (hc : s.clusterAt (clusterOf u.index) = some c) (hs : c.stopped = false) :
    (c.transfers.length < 64 → ∃ t : State, exec (.messageArrival n) s = .next t ∧ t.net = s.net.filter (fun o => decide (o ≠ m)) ∧ t.tile = s.tile ∧ t.mem = s.mem ∧
      t.ClusterIs (clusterOf u.index) fun d => d.transfers = c.transfers ++ [{ msg := m }]) ∧
    (64 ≤ c.transfers.length → exec (.messageArrival n) s = .next s) := by
  have hrun : exec (.messageArrival n) s = .next (s.enterShunter (clusterOf u.index) m) := by
    rw [messageArrival_reaches hn hland (by simp [hplaced, hb]) hd ht hg hu hp hh]
    simp [State.arriveAt, hp, hgate, hplaced]
  refine ⟨fun hroom => ?_, fun hfull => ?_⟩
  · have henter : s.enterShunter (clusterOf u.index) m = (s.dropNet m).mapCluster (clusterOf u.index) fun c => { c with transfers := c.transfers ++ [{ msg := m }] } :=
      if_pos (by simp [hc, hs, hroom])
    rw [henter] at hrun
    exact ⟨_, hrun, rfl, rfl, rfl, _, find_map_key Cluster.index (f := fun c => { c with transfers := c.transfers ++ [{ msg := m }] }) (fun _ => rfl) hc, rfl⟩
  · rw [hrun, State.enterShunter, if_neg (by simp [hc, hs, hfull])]

end

/-! ### Placements (R91-R94) -/

theorem clusterAt_mapCluster {s : State} {k : Nat} {c : Cluster} (h : s.clusterAt k = some c) {f : Cluster → Cluster} (hf : ∀ c, (f c).index = c.index) :
    (s.mapCluster k f).clusterAt k = some (f c) := find_map_key Cluster.index hf h

theorem choose_rights (s : State) (u : Tile) (c : Cap) (reason : Nat) (tried : Bool) (rest : List Choice) :
    s.choose u c reason tried (.rights :: rest) = (.keep (if tried then 3 else 0), s) := rfl

theorem choose_tmem (s : State) (u : Tile) (c : Cap) (reason : Nat) (tried : Bool) (rest : List Choice) :
    s.choose u c reason tried (.tmem :: rest) = match s.allocCopy u c true with
      | some (c', s) => (.copy 1 c', s)
      | none => s.choose u c reason true rest := rfl

theorem decideAll_rights {s : State} {m : Msg} {u : Tile} (cs : List Cap) (h : ∀ c ∈ cs, (s.choicesFor m c u).1.head? = some .rights) :
    s.decideAll m u cs = (cs.map fun _ => .keep 0, s) := by
  induction cs with
  | nil => rfl
  | cons c cs ih =>
    obtain ⟨rest, hrest⟩ : ∃ rest, (s.choicesFor m c u).1 = .rights :: rest := List.head?_eq_some_iff.mp (h c List.mem_cons_self)
    have hrec := ih fun c hc => h c (List.mem_cons_of_mem _ hc)
    rw [State.decideAll, hrest]
    simp only [choose_rights, hrec]
    rfl

theorem alloc_clusters {s t : State} {h : HomeId} {len owner quota : Nat} {domain : BitVec 16} {e : DirEntry} (ha : s.alloc h len owner domain quota = some (e, t)) :
    t.clusters = s.clusters := by
  unfold State.alloc at ha
  dsimp only at ha
  split at ha
  · next b g u hf hi =>
    cases ha
    obtain ⟨_, _, _, _, rfl⟩ := issueNumber_onlyHomes hi
    rfl
  · cases ha

theorem allocCopy_some {s t : State} {u : Tile} {c c' : Cap} (h : s.allocCopy u c true = some (c', t)) : c'.kind = .tmem ∧ t.clusters = s.clusters := by
  unfold State.allocCopy at h
  dsimp only at h
  split at h
  · cases h
  · split at h
    · cases h
    · next ha =>
      cases h
      exact ⟨rfl, alloc_clusters ha⟩

section
variable {s : State} {k : Nat} {c : Cluster} {x : Transfer} {u : Tile} {l r : Nat} (hc : s.clusterAt k = some c) (hs : c.stopped = false)
  (hx : c.transfers.find? (fun x => !x.decided) = some x) (hd : x.msg.dest = .rank l r) (ht : s.takesMsgs l = true) (hg : s.groupOut l r = false)
  (hu : (s.destTile x.msg.dest).bind s.tileAt = some u) (hp : u.parked = false) (hgate : u.gated = false) (hh : s.homesAwake x.msg = true)
include hc hs hx hd ht hg hu hp hh

theorem shunterPlacement_places : exec (.shunterPlacement k) s = .next (s.place' k u x.msg) := by
  have hpark := toParked_awake hd hg hu hp
  show execShunterPlacement k s = _
  rw [hd] at hu
  simp [execShunterPlacement, hc, hs, hx, hpark, hh, hd, ht, hu]

include hgate

/-- A message whose caps all go on by rights alone is back in the network, placed. -/
theorem shunterPlacement_rights (hr : ∀ c ∈ x.msg.caps, (s.choicesFor x.msg c u).1.head? = some .rights) (hreplay : x.msg.replay = false) :
    ∃ t : State, exec (.shunterPlacement k) s = .next t ∧ t.net = s.net ++ [{ x.msg with placed := true, places := x.msg.caps.map fun _ => 0 }] ∧ t.tile = s.tile ∧ t.mem = s.mem ∧
      t.ClusterIs k fun d => d.transfers = c.transfers.filter fun y => decide (y.msg ≠ x.msg) := by
  have hplace : s.place' k u x.msg = { s.dropTransfer k x.msg with net := s.net ++ [{ x.msg with placed := true, places := x.msg.caps.map fun _ => 0 }] } := by
    have hback : (x.msg.caps.map fun _ => Placed.keep 0).findSome? Placed.reason = none := by simp [List.findSome?_eq_none_iff, Placed.reason]
    have hkept : ((x.msg.caps.map fun _ => Placed.keep 0).all fun p => decide (p.newCap.kind = .null)) = true := by simp [Placed.newCap, Cap.null]
    have hplaces : (x.msg.caps.map fun _ => Placed.keep 0).map Placed.outcome = x.msg.caps.map fun _ => 0 := by simp [Placed.outcome]
    simp only [State.place', hgate, decideAll_rights _ hr, hback, hkept, hplaces, hreplay]
    rfl
  have hrun := shunterPlacement_places hc hs hx hd ht hg hu hp hh
  rw [hplace] at hrun
  exact ⟨_, hrun, rfl, rfl, rfl, _,
    clusterAt_mapCluster hc (f := fun c => { c with transfers := c.transfers.filter fun y => y.msg ≠ x.msg }) fun _ => rfl, rfl⟩

/-- The cluster once its Shunter has decided on the copies of a message. -/
def Cluster.decide (c : Cluster) (m : Msg) (places : List (BitVec 2)) (copies : List Cap) : Cluster :=
  { c with transfers := c.transfers.map fun x => if x.msg = m then { x with decided := true, places := places, copies := copies, turn := c.turn } else x }

/-- A cap whose first choice is TMEM is copied there: the Shunter owns its buffer, and the copy's buffer is allocated. -/
theorem shunterPlacement_copies {src c' : Cap} {s' : State} (hcaps : x.msg.caps = [src]) (hown : x.msg.senderEp / 2 ^ 13 = s.device)
    (hchoice : (s.choicesFor x.msg src u).1.head? = some .tmem) (hroom : (s.allocCopy u src true).isSome = true)
    (halloc : (s.deliverCap src (clusterEndpoint s.device k 8)).allocCopy u src true = some (c', s')) :
    ∃ t : State, exec (.shunterPlacement k) s = .next t ∧ t.net = s'.net ∧ t.mem = s'.mem ∧
      t.ClusterIs k fun d => { x with decided := true, places := [1], copies := [c'], turn := c.turn } ∈ d.transfers := by
  obtain ⟨rest, hrest⟩ : ∃ rest, (s.choicesFor x.msg src u).1 = .tmem :: rest := List.head?_eq_some_iff.mp hchoice
  obtain ⟨⟨c₀, s₀⟩, hfirst⟩ := Option.isSome_iff_exists.mp hroom
  obtain ⟨hkind, -⟩ := allocCopy_some hfirst
  obtain ⟨-, hclusters⟩ := allocCopy_some halloc
  have hdecide : (s.decideAll x.msg u x.msg.caps).1 = [.copy 1 c₀] := by
    rw [hcaps, State.decideAll, hrest]
    simp only [choose_tmem, hfirst, State.decideAll]
  have hall : (s.deliverCap src (clusterEndpoint s.device k 8)).allocAll u (x.msg.caps.zip [1]) = some ([c'], s') := by
    simp [hcaps, State.allocAll, halloc]
  have hplace : s.place' k u x.msg = s'.mapCluster k fun c => c.decide x.msg [1] [c'] := by
    have hkept : ([Placed.copy 1 c₀].all fun p => decide (p.newCap.kind = .null)) = false := by simp [Placed.newCap, hkind]
    have hfold : (x.msg.caps.zip ([1] : List (BitVec 2))).foldl (fun t p => if p.2 = 1 || p.2 = 2 then t.deliverCap p.1 (clusterEndpoint s.device k 8) else t) s = s.deliverCap src (clusterEndpoint s.device k 8) := by
      simp [hcaps]
    unfold State.place'
    rw [if_neg (by simp [hgate]), hdecide]
    refine (if_neg (by rw [hkept]; decide)).trans ((if_neg (not_not_intro hown)).trans ?_)
    simp only [List.map_cons, List.map_nil, Placed.outcome, hfold, hall]
    rfl
  have hrun := shunterPlacement_places hc hs hx hd ht hg hu hp hh
  rw [hplace] at hrun
  have hc' : s'.clusterAt k = some c := by
    obtain ⟨_, _, _, _, _, hdel⟩ := deliverCap_onlyDelivers s src (clusterEndpoint s.device k 8)
    rw [State.clusterAt, hclusters, hdel]
    exact hc
  have hmem := List.mem_of_find?_eq_some hx
  refine ⟨_, hrun, rfl, rfl, _, clusterAt_mapCluster hc' (f := fun c => c.decide x.msg [1] [c']) fun _ => rfl, List.mem_map.mpr ⟨x, hmem, if_pos rfl⟩⟩

end

end Sys2Proof.Machine
end

section
/-! SUPPORT. The copies that a Shunter makes, unit by unit, and the message that it hands over (R94, R101, R103). -/

namespace Sys2Proof.Machine

open Sys2Proof

/-! ### The bytes of a unit -/

/-- Memory after a sector of a copy of `len` bytes from `a` to `b`. -/
def Memory.copiedSector (m : Memory) (a b len i : Nat) : Memory := m.writeN (b + 64 * i) (m.readN (a + 64 * i) (min 64 (len - 64 * i)))

theorem copiedSector_outside (m : Memory) (a : Nat) {b len i key : Nat} (h : key < b + 64 * i ∨ b + 64 * i + min 64 (len - 64 * i) ≤ key) :
    (Memory.copiedSector m a b len i).read key = m.read key :=
  mem_read_writeN_outside _ _ _ (by simpa using h)

theorem copiedSector_inside (m : Memory) (a b : Nat) {len j : Nat} (h : j < len) : (Memory.copiedSector m a b len (j / 64)).read (b + j) = m.read (a + j) := by
  have := mem_read_copied m m (a + 64 * (j / 64)) (b + 64 * (j / 64)) (min 64 (len - 64 * (j / 64))) (i := j % 64) (by omega)
  rwa [show b + 64 * (j / 64) + j % 64 = b + j by omega, show a + 64 * (j / 64) + j % 64 = a + j by omega] at this

/-- Memory after the sectors of a list: each byte of them, and nothing outside them. -/
theorem copiedSectors {a b len : Nat} (hapart : a + len ≤ b ∨ b + len ≤ a) : ∀ (l : List Nat) (m : Memory), (∀ i ∈ l, 64 * i < len) →
    (∀ j, j < len → j / 64 ∈ l → (l.foldl (Memory.copiedSector · a b len) m).read (b + j) = m.read (a + j)) ∧
    ∀ key, (∀ i ∈ l, key < b + 64 * i ∨ b + 64 * i + min 64 (len - 64 * i) ≤ key) → (l.foldl (Memory.copiedSector · a b len) m).read key = m.read key
  | [], m, _ => ⟨fun _ _ h => by simp at h, fun _ _ => rfl⟩
  | i :: l, m, hl => by
    have hi := hl i (by simp)
    obtain ⟨hin, hout⟩ := copiedSectors hapart l (Memory.copiedSector m a b len i) fun i h => hl i (by simp [h])
    refine ⟨fun j hj hmem => ?_, fun key hkey => ?_⟩
    · have hsrc : (Memory.copiedSector m a b len i).read (a + j) = m.read (a + j) := copiedSector_outside m a (by omega)
      by_cases hj' : j / 64 ∈ l
      · exact (hin j hj hj').trans hsrc
      · obtain rfl : j / 64 = i := (List.mem_cons.mp hmem).resolve_right hj'
        refine (hout (b + j) fun i' hi' => ?_).trans (copiedSector_inside m a b hj)
        have hne : i' ≠ j / 64 := fun h => hj' (h ▸ hi')
        omega
    · exact (hout key fun i' h => hkey i' (by simp [h])).trans (copiedSector_outside m a (hkey i (by simp)))

theorem mem_unitSectors {len u i : Nat} : i ∈ unitSectors len u ↔ 4 * u ≤ i ∧ i < 4 * u + 4 ∧ 64 * i < len := by
  simp only [unitSectors, List.mem_filter, List.mem_map, List.mem_range, decide_eq_true_eq]
  constructor
  · rintro ⟨⟨j, hj, rfl⟩, h⟩
    omega
  · exact fun h => ⟨⟨i - 4 * u, by omega, by omega⟩, h.2.2⟩

theorem copySector_unarmed {s : State} (ha : s.armed = []) (hp : s.poison = []) (hs hd : HomeId) (source a b nd len i : Nat) (m : Memory) :
    (s.withMem m).copySector hs source a hd b nd len i = s.withMem (Memory.copiedSector m a b len i) := by
  have hdet : (s.withMem m).detect hs source (64 * i) (a + 64 * i) = s.withMem m := detect_unarmed (show (s.withMem m).armed = [] from ha) _ _ _ _
  unfold State.copySector
  simp only [hdet]
  exact if_neg (by simp [State.poisoned, State.withMem, hp])

/-- Where no error waits, a unit's copy is its bytes. -/
theorem copyLocal_copies {s : State} (ha : s.armed = []) (hp : s.poison = []) {src dst : Cap} {hs hd : HomeId} (hsrc : s.homeOf src = some hs) (hdst : s.homeOf dst = some hd) (u : Nat) :
    s.copyLocal src dst u =
      s.withMem ((unitSectors src.length.toNat u).foldl (Memory.copiedSector · (hs.space.base + src.base.toNat) (hd.space.base + dst.base.toNat) src.length.toNat) s.mem) := by
  have hfold : ∀ (l : List Nat) (m : Memory), l.foldl (fun s i => State.copySector s hs src.buffer.toNat (hs.space.base + src.base.toNat) hd (hd.space.base + dst.base.toNat)
      dst.buffer.toNat src.length.toNat i) (s.withMem m) =
      s.withMem (l.foldl (Memory.copiedSector · (hs.space.base + src.base.toNat) (hd.space.base + dst.base.toNat) src.length.toNat) m) := fun l => by
    induction l with
    | nil => exact fun m => rfl
    | cons i l ih => exact fun m => by rw [List.foldl_cons, copySector_unarmed ha hp, ih]; rfl
  simp only [State.copyLocal, hsrc, hdst]
  exact hfold _ s.mem

/-! ### A transfer in flight goes on (R94, R103) -/

/-- The transfer `x`, the `n`-th in flight at the Shunter of the cluster `k`, whose message goes to the tile `u`, which runs. -/
structure State.Flies (s : State) (k n : Nat) (c : Cluster) (x : Transfer) (u : Tile) : Prop where
  cluster : s.clusterAt k = some c
  runs : c.stopped = false
  here : c.inFlight[n]? = some x
  tile : (s.destTile x.msg.dest).bind s.tileAt = some u
  gated : u.gated = false
  awake : s.toParked x.msg = false
  copies : x.copies ≠ []

theorem transferCopy_goes {s : State} {k n : Nat} {c : Cluster} {x : Transfer} {u : Tile} (h : s.Flies k n c x u) : exec (.transferCopy k n) s =
    if x.current.isNone then .next (s.handOver k u x)
    else if !s.unitHere x then .next (if x.msg.senderEp / 2 ^ 13 = s.device then s else s.fetchUnit k x)
    else if s.unitTurn c = some x.msg.seq && (c.burst < 4 || (s.copyJobs k).isEmpty) then .next (s.copyTransfer k x)
    else .next s := by
  show execTransferCopy k n s = _
  simp only [execTransferCopy, h.cluster, h.here, h.runs, h.awake, h.tile, h.gated, List.isEmpty_eq_false_iff.mpr h.copies, Bool.false_eq_true, if_false]

theorem mem_inFlight {c : Cluster} {n : Nat} {x : Transfer} (h : c.inFlight[n]? = some x) : x ∈ c.transfers :=
  (List.mem_filter.mp (List.mem_of_mem_take (List.mem_of_getElem? h))).1

/-- A transfer after a unit of its slot, of `len` bytes, has been copied. -/
def Transfer.advanced (y : Transfer) (slot units len turn : Nat) : Transfer :=
  { (if len ≤ 256 * (units + 1) then { y with slot := slot + 1, units := 0 } else { y with slot := slot, units := y.units + 1 } : Transfer) with turn := turn }

/-- The cluster after its Shunter has copied a unit of the transfer `x`. -/
def Cluster.unitCopied (c : Cluster) (x : Transfer) (slot len : Nat) : Cluster :=
  { c with turn := c.turn + 1, burst := min 4 (c.burst + 1), transfers := c.transfers.map fun y => if y.msg = x.msg then y.advanced slot x.units len (c.turn + 1) else y }

/-- Its Shunter copies the next unit of a transfer whose turn it is: its bytes, and no others (R94). -/
theorem transferCopy_copies {s : State} {k n : Nat} {c : Cluster} {x : Transfer} {u : Tile} (h : s.Flies k n c x u) {slot : Nat} {src dst : Cap} {hs hd : HomeId}
    (hcur : x.current = some (slot, src, dst)) (hown : x.msg.senderEp / 2 ^ 13 = s.device) (hunit : s.unitHere x = true) (hsrc : s.homeOf src = some hs) (hdst : s.homeOf dst = some hd)
    (ha : s.armed = []) (hp : s.poison = []) (hturn : s.unitTurn c = some x.msg.seq) (hburst : c.burst < 4 ∨ s.copyJobs k = []) :
    let a := hs.space.base + src.base.toNat
    let b := hd.space.base + dst.base.toNat
    let len := src.length.toNat
    let lo := 256 * x.units
    (a + len ≤ b ∨ b + len ≤ a) →
    ∃ t : State, exec (.transferCopy k n) s = .next t ∧ t.net = s.net ∧ (∀ j, lo ≤ j → j < min (lo + 256) len → t.mem.read (b + j) = s.mem.read (a + j)) ∧
      (∀ key, key < b + lo ∨ b + min (lo + 256) len ≤ key → t.mem.read key = s.mem.read key) ∧
      t.ClusterIs k fun d => ∃ y ∈ d.transfers, y.msg = x.msg ∧ (if len ≤ lo + 256 then y.slot = slot + 1 ∧ y.units = 0 else y.slot = slot ∧ y.units = x.units + 1) := by
  intro a b len lo hapart
  have hrun : exec (.transferCopy k n) s = .next (s.copyTransfer k x) := by
    rw [transferCopy_goes h, if_neg (by simp [hcur]), if_neg (by simp [hunit]), if_pos]
    simpa [hturn] using hburst
  have hcopy := copyLocal_copies ha hp hsrc hdst x.units
  obtain ⟨hin, hout⟩ := copiedSectors hapart (unitSectors len x.units) s.mem fun i hi => (mem_unitSectors.mp hi).2.2
  have hstate : s.copyTransfer k x = (s.withMem ((unitSectors len x.units).foldl (Memory.copiedSector · a b len) s.mem)).mapCluster k fun c => c.unitCopied x slot len := by
    simp only [State.copyTransfer, hcur, hown, if_true, hcopy]
    rfl
  rw [hstate] at hrun
  refine ⟨_, hrun, rfl, fun j hlo hhi => hin j (by omega) (mem_unitSectors.mpr (by omega)), fun key hkey => hout key fun i hi => ?_,
    _, clusterAt_mapCluster (s := s.withMem _) h.cluster (f := fun c => c.unitCopied x slot len) fun _ => rfl,
    x.advanced slot x.units len (c.turn + 1), List.mem_map.mpr ⟨x, mem_inFlight h.here, if_pos rfl⟩, ?_, ?_⟩
  · have := mem_unitSectors.mp hi
    omega
  · unfold Transfer.advanced
    split <;> rfl
  · by_cases hend : len ≤ lo + 256
    · rw [if_pos hend, Transfer.advanced, if_pos (show len ≤ 256 * (x.units + 1) by omega)]
      exact ⟨rfl, rfl⟩
    · rw [if_neg hend, Transfer.advanced, if_neg (show ¬ len ≤ 256 * (x.units + 1) by omega)]
      exact ⟨rfl, rfl⟩

/-! ### The message is handed over (R94) -/

/-- `t` has the tiles, the clusters, the network and the memory of `s`. -/
structure State.SameFlow (s t : State) : Prop where
  tile : t.tile = s.tile
  others : t.others = s.others
  clusters : t.clusters = s.clusters
  net : t.net = s.net
  mem : t.mem = s.mem

theorem State.SameFlow.refl (s : State) : s.SameFlow s := ⟨rfl, rfl, rfl, rfl, rfl⟩

theorem State.SameFlow.trans {s t u : State} (h : s.SameFlow t) (h' : t.SameFlow u) : s.SameFlow u :=
  ⟨h'.tile.trans h.tile, h'.others.trans h.others, h'.clusters.trans h.clusters, h'.net.trans h.net, h'.mem.trans h.mem⟩

theorem State.OnlyHomes.sameFlow {s t : State} (h : s.OnlyHomes t) : s.SameFlow t := by
  obtain ⟨_, _, _, _, rfl⟩ := h
  exact ⟨rfl, rfl, rfl, rfl, rfl⟩

theorem sameFlow_foldl {α : Type} {f : State → α → State} (h : ∀ (s : State) (a : α), s.SameFlow (f s a)) : ∀ (l : List α) (s : State), s.SameFlow (l.foldl f s)
  | [], s => .refl s
  | a :: l, s => (h s a).trans (sameFlow_foldl h l _)

theorem clearPoison_sameFlow (s : State) (h : HomeId) (b off key : Nat) : s.SameFlow (s.clearPoison h b off key) := by
  unfold State.clearPoison
  dsimp only
  split
  · split
    · next e _ =>
      obtain ⟨_, _, hrec⟩ := recordEvent_eq s h e (off / 64 * 64) 66 1 66 (s.injected.contains (key / 64))
      rw [State.recordPoison, hrec]
      exact ⟨rfl, rfl, rfl, rfl, rfl⟩
    · exact ⟨rfl, rfl, rfl, rfl, rfl⟩
  · exact .refl s

theorem freeEntry_sameFlow (s : State) (h : HomeId) (b : Nat) : s.SameFlow (s.freeEntry h b) := by
  unfold State.freeEntry
  split
  · exact .refl s
  · have hclear := sameFlow_foldl (f := fun s (p : Nat × Nat) => State.clearPoison s h b p.1 (64 * p.2)) fun s p => clearPoison_sameFlow s h b p.1 (64 * p.2)
    refine .trans ?_ (endEntry_onlyHomes _ h b).sameFlow
    exact (hclear _ s).trans ⟨rfl, rfl, rfl, rfl, rfl⟩

theorem freeBuffer_sameFlow (h : HomeId) : ∀ (n : Nat) (s : State) (b : Nat), s.SameFlow (s.freeBuffer h n b)
  | 0, s, b => freeEntry_sameFlow s h b
  | n + 1, s, b => by
    have hfree := freeEntry_sameFlow s h b
    unfold State.freeBuffer
    dsimp only
    split
    · exact hfree
    · split
      · exact hfree
      · split
        · exact hfree
        · split
          · exact hfree.trans (freeBuffer_sameFlow h n _ _)
          · exact hfree.trans (change_onlyHomes _ h _ _).sameFlow

theorem freeSource_sameFlow (s : State) (m : Msg) (c : Cap) : s.SameFlow (s.freeSource m c) := by
  unfold State.freeSource
  split
  · exact .refl s
  · split
    · exact freeBuffer_sameFlow _ _ s _
    · exact .refl s

theorem sendCopy_sameFlow (s : State) (c : Cap) : s.SameFlow (s.sendCopy c).2 := by
  unfold State.sendCopy
  split
  · exact .refl s
  · next h _ => exact (bump_onlyHomes s h c.buffer.toNat fun e => { e with state := .inTransit }).sameFlow

theorem finishCopies_sameFlow (m : Msg) : ∀ (l : List (Cap × Cap)) (s : State), s.SameFlow (s.finishCopies m l).2
  | [], s => .refl s
  | (src, dst) :: rest, s => by
    unfold State.finishCopies
    split
    · exact finishCopies_sameFlow m rest s
    · exact ((freeSource_sameFlow s m src).trans (sendCopy_sameFlow _ dst)).trans (finishCopies_sameFlow m rest _)

theorem State.SameFlow.tileAt {s t : State} (h : s.SameFlow t) (i : Nat) : t.tileAt i = s.tileAt i := by rw [State.tileAt, h.tile, h.others, State.tileAt]

section
variable {s : State} {k n i : Nat} {c : Cluster} {x : Transfer} {u : Tile} (h : s.Flies k n c x u) (hcur : x.current = none) (hland : x.msg.landing = none)
include h hcur hland

/-- A copied message waits for a place in its queue. -/
theorem transferCopy_waits (hfull : 32 ≤ (u.queues.get (u.dispatchOf x.msg.type).level).length) : exec (.transferCopy k n) s = .next s := by
  rw [transferCopy_goes h, if_pos (by simp [hcur]), State.handOver, if_pos (by simp [queueFull_iff hland, hfull])]

/-- A copied message enters the queue of its level, and the transfer is over. -/
theorem transferCopy_hands (hu : s.tileAt i = some u) (hw : s.mustWait x.msg = false) (hh : s.homesAwake x.msg = true) (hown : x.msg.senderEp / 2 ^ 13 = s.device)
    (hroom : (u.queues.get (u.dispatchOf x.msg.type).level).length < 32) : ∃ t u' q, exec (.transferCopy k n) s = .next t ∧ t.net = s.net ∧ t.mem = s.mem ∧ t.tileAt i = some u' ∧
      u'.queues = u.queues.set (u.dispatchOf x.msg.type).level.val (u.queues.get (u.dispatchOf x.msg.type).level ++ [q]) ∧ q.msg.type = x.msg.type ∧
      q.msg.payload = x.msg.payload ∧ q.msg.places = x.places ∧ u'.x = u.x ∧ u'.c = u.c ∧ u'.pc = u.pc ∧ t.ClusterIs k fun d => ∀ y ∈ d.transfers, y.msg ≠ x.msg := by
  obtain ⟨p, hp⟩ : ∃ p, s.finishCopies x.msg (x.msg.caps.zip x.copies) = p := ⟨_, rfl⟩
  have hflow : s.SameFlow p.2 := hp ▸ finishCopies_sameFlow x.msg (x.msg.caps.zip x.copies) s
  have hat : p.2.tileAt i = some u := (hflow.tileAt i).trans hu
  have hhand : s.handOver k u x = (p.2.dropTransfer k x.msg).receive u { x.msg with caps := p.1, places := x.places, placed := true } := by
    have hanswered : s.sourcesAnswered x 0 = true := by rw [State.sourcesAnswered, decide_eq_true hown]; rfl
    unfold State.handOver
    rw [if_neg (by simp [hw, queueFull_iff hland, hroom, hh]), if_neg (by simp [hanswered]), hp]
    dsimp only
    rw [tileAt_index hu, hat]
    rfl
  have hc : p.2.clusterAt k = some c := by rw [State.clusterAt, hflow.clusters]; exact h.cluster
  obtain ⟨u', caps, failed, hat', hq, hx, hc', hpc, -, hnet, hmem, hcl, -⟩ := receive_enters (s := p.2.dropTransfer k x.msg) hat { x.msg with caps := p.1, places := x.places, placed := true }
  have hrun := transferCopy_goes h
  rw [if_pos (by simp [hcur]), hhand] at hrun
  refine ⟨_, u', _, hrun, hnet.trans hflow.net, hmem.trans hflow.mem, hat', hq, rfl, rfl, rfl, hx, hc', hpc,
    { c with transfers := c.transfers.filter fun y => y.msg ≠ x.msg }, ?_, fun y hy => by simpa using (List.mem_filter.mp hy).2⟩
  rw [State.clusterAt, hcl]
  exact clusterAt_mapCluster hc (f := fun c => { c with transfers := c.transfers.filter fun y => y.msg ≠ x.msg }) fun _ => rfl

end

end Sys2Proof.Machine
end

section
/-! SUPPORT. Events that act as a tile: the release path, grants, and barrier rounds (R142, R151, R152, R205, R377). -/

namespace Sys2Proof.Machine

open Sys2Proof

/-! ### Acting as a tile -/

/-- `s` with another current tile and other tiles. -/
def State.withTiles (s : State) (u : Tile) (others : List Tile) : State := { s with tile := u, others := others }

theorem switchTo_eq {s : State} {i : Nat} {u : Tile} (h : s.tileAt i = some u) : ∃ others, s.switchTo i = s.withTiles u others := by
  obtain ⟨tile, others, hs⟩ := switchTo_frame s i
  have htile := switchTo_tile h
  rw [hs] at htile
  exact ⟨others, hs.trans (by rw [← htile]; rfl)⟩

theorem tileAt_switchTo {s : State} {i : Nat} {u : Tile} (h : s.tileAt i = some u) (j : Nat) : (s.switchTo i).tileAt j = s.tileAt j := by
  unfold State.tileAt at h
  split at h
  · next hi => rw [State.switchTo, if_pos hi]
  · next hi =>
    have hui : u.index = i := by simpa using List.find?_some h
    rw [State.switchTo, if_neg hi, h]
    by_cases hj : i = j
    · rw [State.tileAt, if_pos (hui.trans hj), State.tileAt, if_neg (hj ▸ hi), ← hj, h]
    · have hp : ∀ a : Tile, (¬a.index = i ∧ a.index = j) ↔ a.index = j := fun a => ⟨And.right, fun ha => ⟨fun h => hj (h.symm.trans ha), ha⟩⟩
      rw [State.tileAt, if_neg (hui ▸ hj), State.tileAt]
      by_cases hs : s.tile.index = j <;> simp [hs, List.find?_filter, hp]

theorem poolFree_switchTo {s : State} {i : Nat} {u : Tile} (hu : s.tileAt i = some u) (h : HomeId) (d : BitVec 16) : (s.switchTo i).poolFree h d = s.poolFree h d := by
  have hat := tileAt_switchTo hu
  obtain ⟨tile, others, hs⟩ := switchTo_frame s i
  unfold State.poolFree
  congr 1
  · cases h with
    | tile j => rw [State.poolUnits, hat j]; rfl
    | _ => rw [hs]; rfl
  · rw [hs]
    rfl

/-- The first tile is current again after another has acted, and what that one has become stands at its index. -/
theorem switchBack {s t : State} {i : Nat} {u : Tile} {others : List Tile} (h : s.tileAt i = some u) (hs : s.switchTo i = s.withTiles u others) (ho : t.others = others)
    (ht : t.tile.index = i) : (t.switchTo s.tile.index).tileAt i = some t.tile ∧ ∃ v vs, t.switchTo s.tile.index = t.withTiles v vs :=
  ⟨tileAt_switchBack h (ho.trans (by rw [hs]; rfl)) ht, switchTo_frame t s.tile.index⟩

theorem eventAs_ok {s t : State} {i : Nat} {a : Act Unit} (h : a (s.switchTo i) = .ok () t) : eventAs i a s = .next (t.switchTo s.tile.index) := by
  simp only [eventAs, event, act_run, h]

/-! ### Barriers (R205) -/

theorem barrier_names {s : State} {l d : Nat} {b : BarDomain} (h : s.barrier l d = some b) : b.launch = l ∧ b.domain = d := by
  unfold State.barrier at h
  split at h
  · next o ho =>
    cases h
    simpa using List.find?_some ho
  · obtain ⟨_, -, h⟩ := Option.bind_eq_some_iff.mp h
    obtain ⟨_, -, rfl⟩ := Option.map_eq_some_iff.mp h
    exact ⟨rfl, rfl⟩

theorem barrier_putBarrier {s : State} {l d : Nat} {b : BarDomain} (hl : b.launch = l) (hd : b.domain = d) : (s.putBarrier b).barrier l d = some b := by
  simp [State.barrier, State.putBarrier, hl, hd]

theorem foldl_sendPacket {α : Type} (peer : α → Nat) (p : State → α → Packet) : ∀ (l : List α) (s : State), ∃ fabric,
    l.foldl (fun s a => s.sendPacket (peer a) (p s a)) s = { s with fabric := fabric }
  | [], s => ⟨_, rfl⟩
  | a :: l, s => by
    obtain ⟨_, h⟩ := sendPacket_fabric s (peer a) (p s a)
    obtain ⟨_, h'⟩ := foldl_sendPacket peer p l (s.sendPacket (peer a) (p s a))
    exact ⟨_, h'.trans (by rw [h])⟩

theorem barrierRelease_releases {s : State} {l d : Nat} {b : BarDomain} (hb : s.barrier l d = some b) (h : b.members ≤ b.arrivals) :
    ∃ t b', exec (.barrierRelease l d) s = .next t ∧ t.barrier l d = some b' ∧ b'.round = b.round + 1 ∧ b'.arrivals = 0 ∧
      b'.released = b.released ++ [(b.round, s.clock)] ∧ b'.bound = b.bound ∧ t.tile = s.tile ∧ t.mem = s.mem := by
  obtain ⟨hl, hd⟩ := barrier_names hb
  have hput := barrier_putBarrier (s := s) (b := { b with round := b.round + 1, arrivals := 0, released := b.released ++ [(b.round, s.clock)] }) hl hd
  obtain ⟨fabric, hrun⟩ : ∃ fabric, exec (.barrierRelease l d) s =
      .next { s.putBarrier { b with round := b.round + 1, arrivals := 0, released := b.released ++ [(b.round, s.clock)] } with fabric := fabric } := by
    show ∃ fabric, execBarrierRelease l d s = _
    unfold execBarrierRelease
    simp only [hb, if_neg (Nat.not_lt.mpr h)]
    split
    · next o _ =>
      obtain ⟨fabric, hf⟩ := foldl_sendPacket (α := Nat × Nat) (·.1) _ (o.record.devices.filter fun d => d.1 ≠ s.device)
        (s.putBarrier { b with round := b.round + 1, arrivals := 0, released := b.released ++ [(b.round, s.clock)] })
      exact ⟨fabric, congrArg _ hf⟩
    · exact ⟨_, rfl⟩
  exact ⟨_, _, hrun, hput, rfl, rfl, rfl, rfl, rfl, rfl⟩

theorem barrierRelease_waits {s : State} {l d : Nat} {b : BarDomain} (hb : s.barrier l d = some b) (h : b.arrivals < b.members) : exec (.barrierRelease l d) s = .next s := by
  show execBarrierRelease l d s = _
  unfold execBarrierRelease
  simp only [hb, h, if_true]

/-! ### The release path (R142, R207, R333, R377) -/

/-- The state after the first item of the current tile's release path has been carried out. -/
def State.firstReleased (t : State) : State := { t with tile := { t.tile with releasePath := t.tile.releasePath.drop 1 } }

theorem injectMsg_keeps {s : State} {m : Msg} (hd : s.destDevice m.dest = some s.device) : (s.injectMsg m).others = s.others ∧ (s.injectMsg m).tile.index = s.tile.index ∧
    (s.injectMsg m).tile.releasePath = s.tile.releasePath := by
  obtain ⟨rc, hr⟩ := resolveRank_cache s (s.tile.countPacket (s.tile.networkOf m) true) m.dest
  have hsend := fun (t : Tile) => sendMsg_here (s := { s with tile := t }) (m := m) hd
  simp only [State.injectMsg, hr, hsend]
  exact ⟨trivial, rfl, rfl⟩

section
variable {s : State} {i : Nat} {u : Tile} (hu : s.tileAt i = some u) (hp : u.parked = false)
include hu hp

theorem sidingRelease_idle (hr : u.releasePath = []) : ∃ t : State, exec (.sidingRelease i) s = .next t ∧ t.tileAt i = some u ∧ t.net = s.net ∧ t.mem = s.mem := by
  obtain ⟨others, hs⟩ := switchTo_eq hu
  obtain ⟨hat, v, vs, ht⟩ := switchBack (t := s.withTiles u others) hu hs rfl (tileAt_index hu)
  refine ⟨_, eventAs_ok (t := s.withTiles u others) ?_, hat, by rw [ht]; rfl, by rw [ht]; rfl⟩
  have hi : (decide ((s.withTiles u others).tile.index = i) && !(s.withTiles u others).tile.parked) = true := by
    simp [State.withTiles, tileAt_index hu, hp]
  have hpath : (s.withTiles u others).tile.releasePath = [] := hr
  rw [hs, act_bind_ok (curTile_run _)]
  simp only [hi, hpath]
  rfl

/-- The first held item is carried out, and leaves the release path. -/
theorem sidingRelease_runs {h : Held} {rest : List Held} (hr : u.releasePath = h :: rest) {others : List Tile} (hs : s.switchTo i = s.withTiles u others) {t : State}
    (ht : releaseItem h.kind (s.withTiles u others) = .ok () t) :
    exec (.sidingRelease i) s = .next (t.firstReleased.switchTo s.tile.index) := by
  refine eventAs_ok ?_
  rw [hs, act_bind_ok (curTile_run _)]
  have hi : (decide ((s.withTiles u others).tile.index = i) && !(s.withTiles u others).tile.parked) = true := by
    simp [State.withTiles, tileAt_index hu, hp]
  have hpath : (s.withTiles u others).tile.releasePath = h :: rest := hr
  simp only [hi, hpath]
  rw [act_bind_ok ht]
  rfl

/-- A held message without caps enters the network. -/
theorem sidingRelease_sends {h : Held} {rest : List Held} {m : Msg} {k : Nat} (hr : u.releasePath = h :: rest) (hk : h.kind = .msg m k) (hc : m.caps = [])
    (hd : s.destDevice m.dest = some s.device) (hb : (s.switchTo i).heldBack m = false) :
    ∃ (t : State) (u' : Tile), exec (.sidingRelease i) s = .next t ∧ t.tileAt i = some u' ∧ u'.releasePath = rest ∧
      u'.msgsent = u.msgsent + (if m.counted = true then 1 else 0) ∧ t.net = s.net ++ [{ m with seq := s.msgSeq }] ∧ u'.x = u.x ∧ t.mem = s.mem := by
  obtain ⟨others, hs⟩ := switchTo_eq hu
  rw [hs] at hb
  have hinj := injectMsg_here (s := s.withTiles u others) (m := m) hd
  have hrel : releaseItem h.kind (s.withTiles u others) = .ok () ((s.withTiles u others).injectMsg m) := by
    have hpath : (s.withTiles u others).tile.releasePath = ⟨.msg m k, h.level, h.depth⟩ :: rest := by
      rw [← hk]
      exact hr
    rw [hk, releaseItem, hc, List.drop_nil, releaseSlots]
    rw [act_bind_ok (act_pure () _), act_bind_ok (curTile_run _), hpath]
    simp only [act_bind, act_get, hb, Bool.and_false, Bool.false_eq_true, if_false, act_modify]
  obtain ⟨ho, hi, hpath⟩ := injectMsg_keeps (s := s.withTiles u others) (m := m) hd
  obtain ⟨hat, v, vs, ht⟩ := switchBack (t := ((s.withTiles u others).injectMsg m).firstReleased) hu hs ho (hi.trans (tileAt_index hu))
  refine ⟨_, _, sidingRelease_runs hu hp hr hs hrel, hat, ?_, hinj.count, ?_, hinj.x, ?_⟩
  · show ((s.withTiles u others).injectMsg m).tile.releasePath.drop 1 = rest
    rw [hpath, show (s.withTiles u others).tile.releasePath = h :: rest from hr]
    rfl
  · rw [ht]
    exact hinj.net
  · rw [ht]
    exact hinj.mem

/-- A held arrival is counted at the barrier of a launch of this device (R205). -/
theorem sidingRelease_arrives {h : Held} {rest : List Held} {d : Nat} {l : Level} {g : Binding} {b : BarDomain} (hr : u.releasePath = h :: rest) (hk : h.kind = .arrive d l)
    (hg : u.binding l = some g) (hb : s.barrier (u.launch.getD 0) g.domain = some b) (hl : ∀ l ∈ s.launches, l.device = s.device) :
    ∃ (t : State) (u' : Tile), exec (.sidingRelease i) s = .next t ∧ t.tileAt i = some u' ∧ u'.releasePath = rest ∧ u'.binding l = some { g with arrived := some b.round } ∧
      ∃ b', t.barrier (u.launch.getD 0) g.domain = some b' ∧ b'.arrivals = b.arrivals + 1 := by
  obtain ⟨others, hs⟩ := switchTo_eq hu
  obtain ⟨hbl, hbd⟩ := barrier_names hb
  have hindex : u.index = i := tileAt_index hu
  have harr : (s.withTiles u others).arriveBarrier l = ((s.withTiles u others).putBarrier { b with arrivals := b.arrivals + 1 }).withTiles
      (u.setBinding l (some { g with arrived := some b.round })) others := by
    have hg' : (s.withTiles u others).tile.binding l = some g := hg
    have hb' : (s.withTiles u others).barrier ((s.withTiles u others).tile.launch.getD 0) g.domain = some b := hb
    unfold State.arriveBarrier
    rw [hg']
    simp only [hb']
    cases hlaunch : (s.withTiles u others).launchAt b.launch with
    | none => rfl
    | some o =>
      have ho : o.device = (s.withTiles u others).device := hl o (List.mem_of_find?_eq_some hlaunch)
      simp only [ho, if_true]
      rfl
  have hrel : releaseItem h.kind (s.withTiles u others) = .ok () ((s.withTiles u others).arriveBarrier l) := by
    rw [hk]
    rfl
  rw [harr] at hrel
  obtain ⟨hat, v, vs, ht⟩ := switchBack (t := (((s.withTiles u others).putBarrier { b with arrivals := b.arrivals + 1 }).withTiles
    (u.setBinding l (some { g with arrived := some b.round })) others).firstReleased) hu hs rfl hindex
  refine ⟨_, _, sidingRelease_runs hu hp hr hs hrel, hat, ?_, (vector_get_set _ l l _).trans (if_pos rfl), { b with arrivals := b.arrivals + 1 }, ?_, rfl⟩
  · show u.releasePath.drop 1 = rest
    rw [hr]
    rfl
  · have hput := barrier_putBarrier (s := s) (b := { b with arrivals := b.arrivals + 1 }) hbl hbd
    rw [ht]
    exact hput

end

/-! ### Grants (R151, R152) -/

/-- The first-write check of a line of a home outside DMEM grants the write: it has a copy of the line, or makes one from its pool (R151). -/
theorem firstWrite_grants {s : State} (ha : s.armed = []) {q : Claim} (hq : q.home.isDmem = false) {e : DirEntry} (he : s.entry q.home q.buffer = some e)
    (hpool : s.poolFree q.home e.domain ≠ 0) (line : Nat) : ∃ copies, s.firstWrite q line = .yes { s with copies := copies } := by
  unfold State.firstWrite
  rw [failLevels_unarmed ha]
  simp only [he, hpool, if_false, locateN_direct s hq]
  split
  · exact ⟨_, rfl⟩
  · rw [foldl_fix (s := s) fun k => by split <;> [exact detect_unarmed ha _ _ _ _; rfl]]
    exact ⟨_, rfl⟩

theorem orderHome_drained {s : State} (hs : s.Drained) {h : HomeId} (hw : s.asleep h = false) (b : Nat) (off : Option Nat) (d : Bool) : orderHome h b off d s = .ok () s := by
  simp only [orderHome, act_bind, act_get, hw, hs.requests, List.filter_nil]
  cases d <;> simp [act_bind, takeDeny_none hs.denied, settle_nil hs.replies]

section
variable {s : State} {c : Cap} {h : HomeId} {e : DirEntry} (ho : s.Owns c h e) (hh : h.isDmem = false) (hlow : e.base ≤ c.base.toNat)
  (hhigh : c.base.toNat + c.length.toNat ≤ e.base + e.length)
include ho hh hlow hhigh

/-- The owner's store within its buffer passes the home's check (R66). -/
theorem homeCheck_owned (r : Reg) {off n : Nat} (hl : off + n ≤ c.length.toNat) : homeCheck r c h off n 1 s = .ok () s := by
  have hcheck : s.checkAccess (s.claim h c s.tile) c.base.toNat off n 1 c.foldOp = none :=
    checkAccess_owner ho.entry ho.kept ho.state ho.generation ho.domain ho.fits ho.window ho.owner (by omega) (by omega) _
  have hslice := sliceCheck_direct s (q := s.claim h c s.tile) hh (c.base.toNat + off)
  rcases ho.kind with hk | hk | hk <;> simp [homeCheck, act_bind, ho.awake, hk, hslice, hcheck]

/-- A grant that the tile does not hold yet is kept in its table of 16 (R152). -/
theorem grantLine_keeps (hs : s.Drained) (r : Reg) (off : Nat) {line : Nat} (hline : 256 * line < c.length.toNat) (hown : s.ownTmem c = false)
    (hg : s.tile.granted h c line = false) (hpool : s.poolFree h e.domain ≠ 0) :
    ∃ copies, grantLine r c h off line s =
      .ok () { s with copies := copies, tile := { s.tile with grants := ((⟨h, c.buffer.toNat, c.generation, line⟩ : Grant) :: s.tile.grants).take 16 } } := by
  have hremote : c.kind ≠ .remote := by rcases ho.kind with hk | hk | hk <;> simp [hk]
  obtain ⟨copies, hfirst⟩ := firstWrite_grants hs.armed (q := s.claim h c s.tile) hh ho.entry hpool line
  have hown' : ({ s with copies := copies } : State).ownTmem c = false := hown
  refine ⟨copies, ?_⟩
  unfold grantLine
  rw [act_bind_ok (act_get s)]
  simp only [hg, Bool.false_eq_true, if_false, hremote]
  rw [act_bind_ok (orderHome_drained hs ho.awake _ _ _), act_bind_ok (homeCheck_owned ho hh hlow hhigh r (by omega)), act_bind_ok (act_get s)]
  simp only [hfirst, hown', Bool.false_eq_true, if_false]
  rfl

end

/-- A home grants a line to the tile that a store stalls for it (R152). -/
theorem snapshotGrantRequest_grants {s : State} {i : Nat} {u : Tile} {r : Reg} {line off : Nat} {h : HomeId} {e : DirEntry} (hu : s.tileAt i = some u)
    (hw : u.wait.map Wait.kind = some (.drain off)) (hp : u.parked = false) (hs : (s.switchTo i).Drained) (hdepth : (u.rc r).depth ≠ 0) (hright : (u.rc r).rights.w = true)
    (hline : 256 * line < (u.rc r).length.toNat) (hh : h.isDmem = false) (ho : (s.switchTo i).Owns (u.rc r) h e) (hown : (s.switchTo i).ownTmem (u.rc r) = false)
    (hlow : e.base ≤ (u.rc r).base.toNat) (hhigh : (u.rc r).base.toNat + (u.rc r).length.toNat ≤ e.base + e.length) (hg : u.granted h (u.rc r) line = false)
    (hpool : s.poolFree h e.domain ≠ 0) :
    ∃ (t : State) (u' : Tile), exec (.snapshotGrantRequest i r line) s = .next t ∧ t.tileAt i = some u' ∧
      u'.grants = ((⟨h, (u.rc r).buffer.toNat, (u.rc r).generation, line⟩ : Grant) :: u.grants).take 16 ∧ u'.x = u.x ∧ u'.c = u.c ∧ t.mem = s.mem := by
  obtain ⟨others, hsw⟩ := switchTo_eq hu
  rw [← poolFree_switchTo hu, hsw] at hpool
  rw [hsw] at hs ho hown
  have hhome : s.homeOf (u.rc r) = some h := ho.home
  obtain ⟨copies, hrun⟩ := grantLine_keeps ho hh hlow hhigh hs r (256 * line) hline hown hg hpool
  obtain ⟨hat, v, vs, ht⟩ := switchBack (t := ({ s with copies := copies } : State).withTiles
    { u with grants := ((⟨h, (u.rc r).buffer.toNat, (u.rc r).generation, line⟩ : Grant) :: u.grants).take 16 } others) hu hsw rfl (tileAt_index hu :)
  obtain ⟨w, hw, hk⟩ := Option.map_eq_some_iff.mp hw
  have heff : (u.rc r).eff.w = true := by simp [Cap.eff, ho.mode, hright]
  refine ⟨_, _, ?_, hat, rfl, rfl, rfl, by rw [ht]; rfl⟩
  show execSnapshotGrantRequest i r line s = _
  unfold execSnapshotGrantRequest
  rw [hu]
  simp only [hhome]
  refine (if_pos ?_).trans (eventAs_ok ?_)
  · simpa [hw, hk, hp, heff, ho.lent, hline] using hdepth
  · rw [hsw]
    exact hrun

end Sys2Proof.Machine
end

section
/-! SUPPORT. Exchange messages land (R381, R382), and the events of the network and the homes. -/

namespace Sys2Proof.Machine

open Sys2Proof

/-! ### A payload lands -/

/-- `t` has the exchange queue of the current tile, the other tiles and the memory of `s`. -/
structure State.SameQueue (s t : State) : Prop where
  others : t.others = s.others
  index : t.tile.index = s.tile.index
  xqueue : t.tile.xqueue = s.tile.xqueue
  mem : t.mem = s.mem

theorem State.SameQueue.refl (s : State) : s.SameQueue s := ⟨rfl, rfl, rfl, rfl⟩

theorem State.SameQueue.trans {s t u : State} (h : s.SameQueue t) (h' : t.SameQueue u) : s.SameQueue u :=
  ⟨h'.others.trans h.others, h'.index.trans h.index, h'.xqueue.trans h.xqueue, h'.mem.trans h.mem⟩

theorem State.SameFlow.sameQueue {s t : State} (h : s.SameFlow t) : s.SameQueue t := ⟨h.others, by rw [h.tile], by rw [h.tile], h.mem⟩

theorem logRecord_sameQueue {s t : State} {code off buffer : Nat} {g : BitVec 16} (h : s.logRecord s.tile.index code off buffer g = some t) : s.SameQueue t := by
  unfold State.logRecord at h
  rw [State.tileAt, if_pos rfl] at h
  cases hf : s.tile.freeEntry with
  | none => simp [hf] at h
  | some j =>
    simp only [hf, Option.some.injEq] at h
    have hput (x : FaultEntry) : s.SameQueue (s.putTile (s.tile.logEntry j x)) := by
      rw [State.putTile, if_pos (show s.tile.index = (s.tile.logEntry j x).index from rfl)]
      exact ⟨rfl, rfl, rfl, rfl⟩
    exact h ▸ hput _

theorem cleanByte_sameQueue {s t : State} {h : HomeId} {b off key : Nat} {g : BitVec 16} (ht : s.cleanByte h b g s.tile.index off key = some t) : s.SameQueue t := by
  unfold State.cleanByte at ht
  cases hm : s.markOf (key / 64) with
  | none =>
    simp only [hm, Option.some.injEq] at ht
    exact ht ▸ .refl s
  | some m =>
    simp only [hm] at ht
    split at ht
    · obtain ⟨u, hu, rfl⟩ := Option.map_eq_some_iff.mp ht
      exact (logRecord_sameQueue hu).trans (clearPoison_sameFlow u h b off key).sameQueue
    · rw [← Option.some.inj ht]
      exact ⟨rfl, rfl, rfl, rfl⟩

theorem cleanBytes_sameQueue {h : HomeId} {b : Nat} {g : BitVec 16} : ∀ (l : List (Nat × Nat)) {s t : State}, s.cleanBytes h b g s.tile.index l = some t → s.SameQueue t
  | [], s, t, ht => Option.some.inj ht ▸ .refl s
  | p :: l, s, t, ht => by
    cases hb : s.cleanByte h b g s.tile.index p.1 p.2 with
    | none =>
      have hnone : ∀ l : List (Nat × Nat), l.foldl (fun o p => o.bind fun (s' : State) => s'.cleanByte h b g s.tile.index p.1 p.2) none = none := fun l => by
        induction l with
        | nil => rfl
        | cons p l ih => exact ih
      rw [State.cleanBytes, List.foldl_cons, Option.bind_some, hb, hnone] at ht
      cases ht
    | some u =>
      have hu := cleanByte_sameQueue hb
      rw [State.cleanBytes, List.foldl_cons, Option.bind_some, hb, ← hu.index] at ht
      exact hu.trans (cleanBytes_sameQueue l ht)

theorem locateBytes_direct (s : State) {q : Claim} (hq : q.home.isDmem = false) (access base : Nat) : ∀ bytes : List (Nat × Byte),
    s.locateBytes q access base bytes = (some (bytes.map fun p => (q.home.space.base + (base + p.1), p.2)), s)
  | [] => rfl
  | p :: rest => by simp [State.locateBytes, locate_direct s hq, locateBytes_direct s hq access base rest]

/-- A store of the current tile outside DMEM that passes its check puts its bytes in memory, whatever becomes of the marks that it clears. -/
theorem applyStore_lands {s : State} (ha : s.armed = []) {q : Claim} (hq : q.home.isDmem = false) (hd : ∀ e, s.entry q.home q.buffer = some e → e.depth = 0) {base : Nat}
    {bytes : List (Nat × Byte)} (hne : bytes ≠ []) (clean : List Nat)
    (hc : s.checkAccess q base ((bytes.map (·.1)).foldl min (2 ^ 48)) ((bytes.map (·.1)).foldl max 0 + 1 - (bytes.map (·.1)).foldl min (2 ^ 48)) 1 0 = none) :
    ∃ t, (s.applyStore q base s.tile.index bytes [] clean false = .done t ∨ s.applyStore q base s.tile.index bytes [] clean false = .waits t) ∧
      (s.withMem (s.mem.writeCells (bytes.map fun p => (q.home.space.base + (base + p.1), p.2)))).SameQueue t := by
  unfold State.applyStore
  rw [if_neg (by simpa using hne)]
  simp only [sliceCheck_direct s hq, hc, firstWrites_deep ha hd, locateBytes_direct s hq]
  rw [foldl_fix (s := s) (fun a => by split <;> [exact disarm_unarmed ha _; exact detect_unarmed ha _ _ _ _])]
  generalize hv : ({ s with mem := _ } : State) = v
  have hindex : v.tile.index = s.tile.index := by rw [← hv]
  rw [foldl_fix (s := v) (fun a => by simp only [List.contains_nil, Bool.false_and, Bool.false_eq_true, if_false]), ← hindex]
  have hv' : s.withMem (s.mem.writeCells (bytes.map fun p => (q.home.space.base + (base + p.1), p.2))) = v := hv
  rw [hv']
  cases hclean : v.cleanBytes q.home q.buffer q.generation v.tile.index _ with
  | none => exact ⟨v, .inr rfl, .refl v⟩
  | some t => exact ⟨t, .inl rfl, cleanBytes_sameQueue _ hclean⟩

/-- The cells of an exchange payload in its landing buffer. -/
def landingCells (j : Nat) (bytes : List Byte) : List (Nat × Byte) := bytes.zipIdx.map fun p => (256 * j + p.2, p.1)

theorem mem_landingCells {j : Nat} {bytes : List Byte} {p : Nat × Byte} : p ∈ landingCells j bytes ↔ ∃ k, bytes[k]? = some p.2 ∧ p.1 = 256 * j + k := by
  simp only [landingCells, List.mem_map, Prod.exists, List.mem_zipIdx_iff_getElem?]
  constructor
  · rintro ⟨b, k, h, rfl⟩
    exact ⟨k, h, rfl⟩
  · rintro ⟨k, h, hp⟩
    exact ⟨p.2, k, h, by rw [← hp]⟩

theorem landingCells_nodup (j : Nat) (bytes : List Byte) : ((landingCells j bytes).map (·.1)).Nodup := by
  have hmap : (landingCells j bytes).map (·.1) = (bytes.zipIdx.map Prod.snd).map (256 * j + ·) := by
    rw [landingCells, List.map_map, List.map_map]
    rfl
  rw [hmap, List.zipIdx_map_snd]
  exact (List.nodup_range' (step := 1)).map fun a b h => by simpa using h

/-- The landing cap of a tile: the tile owns its buffer, in its own TMEM, at no depth, and the cap's range lies in it (R381). -/
structure State.LandsIn (s : State) (c : Cap) (e : DirEntry) : Prop where
  home : s.homeOf c = some (.tile s.tile.index)
  entry : s.entry (.tile s.tile.index) c.buffer.toNat = some e
  kept : s.gone e = false
  state : e.state = .exclusive
  generation : e.generation = c.generation
  domain : e.domain = c.domain
  owner : e.owner = s.tile.principal s.device
  depth : e.depth = 0
  low : e.base ≤ c.base.toNat
  high : c.base.toNat + c.length.toNat ≤ e.base + e.length

theorem State.LandsIn.fits {s : State} {c : Cap} {e : DirEntry} (h : s.LandsIn c e) : s.rangeLeaves (s.claim (.tile s.tile.index) c s.tile) e = false := by
  have hrange : c.range = none ∨ c.range = some (c.base.toNat, c.length.toNat) := by
    unfold Cap.range
    split <;> simp
  have hlow := h.low
  have hhigh := h.high
  rcases hrange with hr | hr
  · simp [State.rangeLeaves, State.claim, hr]
  · simp only [State.rangeLeaves, State.claim, hr, Option.getD_some, Bool.or_false, Bool.or_eq_false_iff, decide_eq_false_iff_not]
    omega

/-- The payload of an exchange message lands in the landing buffer (R381, R382). -/
theorem land_lands {s : State} (ha : s.armed = []) {c : Cap} {e : DirEntry} (h : s.LandsIn c e) {m : Msg} {j : Nat} {bytes : List Byte} (hm : m.landing = some (j, bytes))
    (hbad : m.landBad = []) (hlen : 256 * j + bytes.length ≤ c.length.toNat) :
    (s.land c m).others = s.others ∧ (s.land c m).tile.index = s.tile.index ∧ (s.land c m).tile.xqueue = s.tile.xqueue ∧
      ∀ k b, bytes[k]? = some b → (s.land c m).mem.read (tmemKey s.tile.index (c.base.toNat + 256 * j + k)) = b := by
  have hland : s.land c m = match s.applyStore (s.claim (.tile s.tile.index) c s.tile) c.base.toNat s.tile.index (landingCells j bytes) []
      (((landingCells j bytes).map (·.1)).filter fun o => !([] : List Nat).contains (o / 64)) false with
      | .done t | .refused _ t | .exhausted t | .waits t => t := by
    simp only [State.land, hm, h.home, hbad, List.map_nil, List.isEmpty_nil, if_true]
    rfl
  cases bytes with
  | nil =>
    have happ : s.land c m = s := hland
    rw [happ]
    exact ⟨rfl, rfl, rfl, fun k b hk => by simp at hk⟩
  | cons b₀ bs =>
    have hne : landingCells j (b₀ :: bs) ≠ [] := by simp [landingCells]
    have hspan := offsets_span (l := (landingCells j (b₀ :: bs)).map (·.1)) (b := c.length.toNat) (by simpa using hne) fun a ha => by
      obtain ⟨p, hp, rfl⟩ := List.mem_map.mp ha
      obtain ⟨k, hk, hpk⟩ := mem_landingCells.mp hp
      have := (List.getElem?_eq_some_iff.mp hk).1
      omega
    obtain ⟨off, hoff⟩ : ∃ off, ((landingCells j (b₀ :: bs)).map (·.1)).foldl min (2 ^ 48) = off := ⟨_, rfl⟩
    obtain ⟨last, hlast⟩ : ∃ last, ((landingCells j (b₀ :: bs)).map (·.1)).foldl max 0 = last := ⟨_, rfl⟩
    rw [hoff, hlast] at hspan
    have hhigh := h.high
    have hlow := h.low
    have hcheck := checkAccess_owner (s := s) (q := s.claim (.tile s.tile.index) c s.tile) h.entry h.kept h.state h.generation h.domain h.fits rfl h.owner
      (base := c.base.toNat) (off := off) (n := last + 1 - off) (by omega) (by omega) 0
    have hdeep : ∀ o, s.entry (s.claim (.tile s.tile.index) c s.tile).home (s.claim (.tile s.tile.index) c s.tile).buffer = some o → o.depth = 0 := fun o ho => by
      have he : s.entry (s.claim (.tile s.tile.index) c s.tile).home (s.claim (.tile s.tile.index) c s.tile).buffer = some e := h.entry
      rw [he] at ho
      exact Option.some.inj ho ▸ h.depth
    obtain ⟨t, ht, hq⟩ := applyStore_lands ha (q := s.claim (.tile s.tile.index) c s.tile) rfl hdeep hne
      (((landingCells j (b₀ :: bs)).map (·.1)).filter fun o => !([] : List Nat).contains (o / 64)) (by rw [hoff, hlast]; exact hcheck)
    have hstate : s.land c m = t := by rw [hland]; rcases ht with ht | ht <;> rw [ht]
    rw [hstate]
    refine ⟨hq.others, hq.index, hq.xqueue, fun k b hk => ?_⟩
    have hnodup := (landingCells_nodup j (b₀ :: bs)).map (f := fun o => (HomeId.tile s.tile.index).space.base + (c.base.toNat + o)) fun a b h => by simpa using h
    rw [List.map_map] at hnodup
    rw [hq.mem, Nat.add_assoc]
    exact mem_read_writeCells_inside s.mem _ (by rw [List.map_map]; exact hnodup) (List.mem_map.mpr ⟨(256 * j + k, b), mem_landingCells.mpr ⟨k, hk, rfl⟩, rfl⟩)

/-! ### Exchange messages arrive (R382) -/

section
variable {s : State} {n i : Nat} {m : Msg} {u : Tile} {j : Nat} {bytes : List Byte} (h : s.Enters n m i u) (hland : m.landing = some (j, bytes)) (ht : s.takesMsgs m.senderLaunch = true)
include h hland ht

theorem exchangeArrival_takes : exec (.exchangeArrival n) s = .next (((s.switchTo i).takeExchange m).switchTo s.tile.index) := by
  have hu : (s.destTile m.dest).bind s.tileAt = some u := by rw [h.goes]; exact h.tile
  show execExchangeArrival n s = _
  simp [execExchangeArrival, h.here, hland, State.arriveExchange, hu, h.first, ht, h.parked, h.gated, tileAt_index h.tile]

theorem exchangeArrival_waits (hfull : 32 ≤ u.xqueue.length) : ∃ t : State, exec (.exchangeArrival n) s = .next t ∧ t.tileAt i = some u ∧ t.net = s.net ∧ t.mem = s.mem := by
  obtain ⟨others, hs⟩ := switchTo_eq h.tile
  obtain ⟨hat, v, vs, ht'⟩ := switchBack (t := s.withTiles u others) h.tile hs rfl (tileAt_index h.tile)
  have htake : (s.withTiles u others).takeExchange m = s.withTiles u others := if_pos hfull
  exact ⟨_, (exchangeArrival_takes h hland ht).trans (by rw [hs, htake]), hat, by rw [ht']; rfl, by rw [ht']; rfl⟩

omit h hland ht in
/-- The landing cap of the phase is the cap in the register that the phase names. -/
theorem landing_cap (u : Tile) : (u.phase.bind fun p => p.landing.map fun r => u.rcBank 0 r) = (u.phase.bind (·.landing)).map (u.rcBank 0 ·) := by
  cases u.phase <;> rfl

/-- The tile takes an exchange message at the end of its exchange queue. -/
theorem exchangeArrival_queues {others : List Tile} (hs : s.switchTo i = s.withTiles u others) (hroom : u.xqueue.length < 32) {landed : Bool} {t : State}
    (hcap : (u.phase.bind fun p => p.landing.map fun r => u.rcBank 0 r).isSome = landed)
    (hstate : (match u.phase.bind fun p => p.landing.map fun r => u.rcBank 0 r with
      | some c => ((s.withTiles u others).dropNet m).land c m
      | none => (s.withTiles u others).dropNet m) = t) (ho : t.others = others) (hi : t.tile.index = i) (hx : t.tile.xqueue = u.xqueue) :
    ∃ (t' : State) (u' : Tile), exec (.exchangeArrival n) s = .next t' ∧ t'.tileAt i = some u' ∧ u'.xqueue = u.xqueue ++ [{ msg := m, landed := landed }] ∧ t'.net = t.net ∧ t'.mem = t.mem := by
  obtain ⟨w, hw⟩ : ∃ w : Tile, w = ({ t.tile.countPacket 4 false with
        xqueue := (t.tile.countPacket 4 false).xqueue ++ [{ msg := m, landed := landed }]
        qTail := Vector.ofFn fun j => if j.val = 4 then (t.tile.countPacket 4 false).qTail.get j + 1 else (t.tile.countPacket 4 false).qTail.get j } : Tile) := ⟨_, rfl⟩
  have htake : (s.withTiles u others).takeExchange m = { t with tile := w.wake m } := by
    unfold State.takeExchange
    refine (if_neg (Nat.not_le.mpr hroom)).trans ?_
    rw [hw, ← hcap, ← hstate]
    rfl
  obtain ⟨hwi, -, hwx, -⟩ := wake_keeps w m
  have hindex : ({ t with tile := w.wake m } : State).tile.index = i := by
    rw [show ({ t with tile := w.wake m } : State).tile = w.wake m from rfl, hwi, hw]
    exact hi
  obtain ⟨hat, v, vs, ht'⟩ := switchBack (t := { t with tile := w.wake m }) h.tile hs ho hindex
  refine ⟨_, _, (exchangeArrival_takes h hland ht).trans (by rw [hs, htake]), hat, ?_, by rw [ht']; rfl, by rw [ht']; rfl⟩
  rw [show ({ t with tile := w.wake m } : State).tile = w.wake m from rfl, hwx, hw]
  exact congrArg (· ++ _) hx

/-- Without a landing cap the queue entry holds the payload. -/
theorem exchangeArrival_holds (hroom : u.xqueue.length < 32) (hphase : u.phase.bind (·.landing) = none) : ∃ (t : State) (u' : Tile), exec (.exchangeArrival n) s = .next t ∧
    t.tileAt i = some u' ∧ u'.xqueue = u.xqueue ++ [{ msg := m, landed := false }] ∧ t.net = s.net.filter (fun o => decide (o ≠ m)) ∧ t.mem = s.mem := by
  obtain ⟨others, hs⟩ := switchTo_eq h.tile
  have hcap : (u.phase.bind fun p => p.landing.map fun r => u.rcBank 0 r) = none := by
    rw [landing_cap, hphase]
    rfl
  exact exchangeArrival_queues h hland ht hs hroom (t := (s.withTiles u others).dropNet m) (by rw [hcap]; rfl) (by rw [hcap]) rfl (tileAt_index h.tile) rfl

/-- With a landing cap the payload lands in its buffer. -/
theorem exchangeArrival_lands {r : Reg} {e : DirEntry} (hroom : u.xqueue.length < 32) (hphase : u.phase.bind (·.landing) = some r) (hbad : m.landBad = []) (ha : s.armed = [])
    (hhome : s.homeOf (u.rcBank 0 r) = some (.tile i)) (he : s.entry (.tile i) (u.rcBank 0 r).buffer.toNat = some e) (hk : s.gone e = false) (hx : e.state = .exclusive)
    (hg : e.generation = (u.rcBank 0 r).generation) (hd : e.domain = (u.rcBank 0 r).domain) (ho : e.owner = u.principal s.device) (hdeep : e.depth = 0)
    (hlow : e.base ≤ (u.rcBank 0 r).base.toNat) (hhigh : (u.rcBank 0 r).base.toNat + (u.rcBank 0 r).length.toNat ≤ e.base + e.length)
    (hlen : 256 * j + bytes.length ≤ (u.rcBank 0 r).length.toNat) :
    ∃ (t : State) (u' : Tile), exec (.exchangeArrival n) s = .next t ∧ t.tileAt i = some u' ∧ u'.xqueue = u.xqueue ++ [{ msg := m }] ∧
      ∀ k b, bytes[k]? = some b → t.mem.read (tmemKey i ((u.rcBank 0 r).base.toNat + 256 * j + k)) = b := by
  have hindex : u.index = i := tileAt_index h.tile
  subst hindex
  obtain ⟨others, hs⟩ := switchTo_eq h.tile
  have hcap : (u.phase.bind fun p => p.landing.map fun r => u.rcBank 0 r) = some (u.rcBank 0 r) := by
    rw [landing_cap, hphase]
    rfl
  have hin : ((s.withTiles u others).dropNet m).LandsIn (u.rcBank 0 r) e :=
    { home := hhome, entry := he, kept := hk, state := hx, generation := hg, domain := hd, owner := ho, depth := hdeep, low := hlow, high := hhigh }
  obtain ⟨hothers, hindex, hxq, hmem⟩ := land_lands (s := (s.withTiles u others).dropNet m) ha hin hland hbad hlen
  obtain ⟨t, u', hrun, hat, hq, -, hm⟩ := exchangeArrival_queues h hland ht hs hroom (t := ((s.withTiles u others).dropNet m).land (u.rcBank 0 r) m)
    (by rw [hcap]) (by rw [hcap]) hothers hindex hxq
  exact ⟨t, u', hrun, hat, hq, fun k b hb => hm ▸ hmem k b hb⟩

end

/-! ### The obligation -/

/-- Settles O52, clause by clause. -/
theorem networkAndHomeEvents : Obligations.NetworkAndHomeEvents := by
  intro s n i u
  refine ⟨fun m l r h hland hd ht hg hh => ?enters, fun m l r c hn hland hplaced hb hd ht hg hu hp hgate hh hc hs => ?transfers,
    fun k c x l r hc hs hx hd ht hg hu hp hgate hh => ?placement, fun k c x slot src dst hs hd hc hrun hx hcur hown hu hgate hpark hunit hsrc hdst ha hpo hturn hburst => ?copies,
    fun k c x src dst hc hrun hx hcaps hcopies hslot hland hown hdest hu hp hgate hw hpark hh => ?hands, fun m j bytes h _ hland ht => ?exchange,
    fun _ hu hp => ?siding, fun l d b hb => ⟨barrierRelease_releases hb, barrierRelease_waits hb⟩,
    fun r e bytes clean v hh hk hx ho hne hlt hn => homeAccessRequest_stores v hh hk hx ho hne hlt hn,
    fun r off b clean hr hl hring hrem hw hk he => homeAccessRequest_refuses hr hl hring hrem hw hk he,
    fun r e die off b clean x v hh hk hx ho hlt hw hp ht => l2Request_stores v hh hk hx ho hlt ⟨hw, hp, ht⟩,
    fun r e v hs hh hk hx hop hw hl hp => foldLineMerge_merges hs hh hk hx hop hw hl hp,
    fun r e hr hop hw hf ha he hc _ _ => homeControlRequest_seals hr hop hw hf ha he hc, fun p hn hpeer hu => ?reply,
    fun r line h e off _ hu hw hp hs hdepth hright hline hh ho hown hlow hhigh hg hpool =>
      snapshotGrantRequest_grants hu hw hp hs hdepth hright hline hh ho hown hlow hhigh hg hpool⟩
  case enters => exact ⟨messageArrival_enters hland hd ht hg hh h, messageArrival_waits hland hd ht hg hh h⟩
  case transfers => exact messageArrival_transfers hland hd ht hg hh hn hplaced hb hu hp hgate hc hs
  case placement =>
    exact ⟨fun hr hreplay => shunterPlacement_rights hc hs hx hd ht hg hu hp hgate hh hr hreplay,
      fun src c' s' hcaps hown hchoice hroom halloc => shunterPlacement_copies hc hs hx hd ht hg hu hp hgate hh hcaps hown hchoice hroom halloc⟩
  case copies =>
    have hcopies : x.copies ≠ [] := fun h => by simp [Transfer.current, h] at hcur
    exact transferCopy_copies ⟨hc, hrun, hx, hu, hgate, hpark, hcopies⟩ hcur hown hunit hsrc hdst ha hpo hturn hburst
  case hands =>
    have hflies : s.Flies k n c x u := ⟨hc, hrun, hx, by rw [hdest]; exact hu, hgate, hpark, by simp [hcopies]⟩
    have hcur : x.current = none := by simp [Transfer.current, hcaps, hcopies, show ¬ x.slot ≤ 0 by omega]
    exact ⟨transferCopy_waits hflies hcur hland, transferCopy_hands hflies hcur hland hu hw hh hown⟩
  case exchange =>
    exact ⟨exchangeArrival_waits h hland ht, exchangeArrival_holds h hland ht, fun r e hroom hphase hbad ha _ hhome he hk hx hg hd ho hdeep hlow hhigh hlen =>
      exchangeArrival_lands h hland ht hroom hphase hbad ha hhome he hk hx hg hd ho hdeep hlow hhigh hlen⟩
  case siding =>
    exact ⟨sidingRelease_idle hu hp, fun h rest m k hr hk hc hd hb => sidingRelease_sends hu hp hr hk hc hd hb,
      fun h rest d l g b hr hk hg hb hl => sidingRelease_arrives hu hp hr hk hg hb hl⟩
  case reply =>
    exact ⟨fun hk hp => homeReplyArrival_done hn hpeer hu hk hp, fun hp hs => homeReplyArrival_absorbed hn hpeer hu hp hs,
      fun c off j hk hp hj => homeReplyArrival_refused hn hpeer hu hk hp hj⟩

end Sys2Proof.Machine
end

section
/-! SUPPORT. Loads and stores under an exclusive cap of the tile's own TMEM, and the scalar forms (R64, R66, R106, R327). -/

namespace Sys2Proof.Machine

open Sys2Proof

/-- A cap without snapshot levels needs no grants (R152). -/
theorem grantLines_flat {c : Cap} (h : c.depth = 0) (r : Reg) (off : Nat) (lines : List Nat) (s : State) : grantLines r c off lines s = .ok () s := by
  cases hh : s.homeOf c <;> simp [grantLines, act_bind, hh, h]

/-- The owner's load within its exclusive buffer passes the check of the home (R66). -/
theorem checkAccess_ownerLoad {s : State} {c : Cap} {h : HomeId} {e : DirEntry} (ho : s.Owns c h e) {off n : Nat} (hlow : e.base ≤ c.base.toNat)
    (hhigh : c.base.toNat + off + n ≤ e.base + e.length) (op : BitVec 5) : s.checkAccess (s.claim h c s.tile) c.base.toNat off n 0 op = none := by
  have h1 : ¬(c.base.toNat + off < e.base) := by omega
  have h2 : ¬(e.base + e.length < c.base.toNat + off + n) := by omega
  simp [State.checkAccess, ho.entry, ho.kept, ho.state, ho.generation, ho.domain, ho.fits, ho.window, ho.owner, h1, h2]

/-- A store of cells and the retirement of the instruction are all that `storedCells` asks. -/
theorem storedCells_writeCells (s : State) (cells : List (Nat × Byte)) : s.storedCells { s with mem := s.mem.writeCells cells, tile := s.tile.retire } cells :=
  ⟨rfl, fun _ hk => mem_read_writeCells_outside s.mem cells hk⟩

/-! ### The banks of the own TMEM (R106) -/

section
variable {s : State} {c : Cap} {e : DirEntry} (ho : s.HoldsOwn c e)
include ho

theorem ownTmem_holdsOwn : s.ownTmem c = true := by simp [State.ownTmem, ho.tmem, ho.own]

theorem reachable_holdsOwn : reachable c = true := by simp [reachable, ho.tmem]

theorem allowsLoad_holdsOwn (hr : c.rights.r = true) : accessAllowed c .load = true := by simp [accessAllowed, ho.tmem, Cap.eff, ho.mode, hr]

theorem allowsStore_holdsOwn (hw : c.rights.w = true) : accessAllowed c .store = true := by simp [accessAllowed, ho.tmem, Cap.eff, ho.mode, hw]

theorem homeCheck_load_holdsOwn (r : Reg) {off n : Nat} (hin : off + n ≤ c.length.toNat) :
    homeCheck r c (.tile s.tile.index) off n 0 s = .ok () s := by
  have hhigh := ho.high
  have hcheck := checkAccess_ownerLoad ho.toOwns (off := off) (n := n) ho.low (by omega) c.foldOp
  have hslice := sliceCheck_direct s (q := s.claim (.tile s.tile.index) c s.tile) rfl (c.base.toNat + off)
  simp [homeCheck, act_bind, ho.awake, ho.tmem, hslice, hcheck]

/-- A load from the banks reads the bytes at the offset, none of them poisoned, and changes nothing (R106). -/
theorem loadBytes_holdsOwn (hs : s.Settled) (r : Reg) {off n : Nat} (hin : off + n ≤ c.length.toNat) :
    loadBytes r c off n s = .ok ((s.mem.readN (s.ownKey c off) n).map (·, false)) s := by
  have hclean (k : Nat) : s.poisoned k = false := by simp [State.poisoned, hs.poison]
  have hdetect (ks : List Nat) : ks.foldl (fun u k => u.detect (.tile s.tile.index) c.buffer.toNat off (64 * k)) s = s :=
    foldl_fix (fun _ => detect_unarmed hs.armed _ _ _ _) ks
  have hkey : s.ownKey c off = (HomeId.tile s.tile.index).space.base + c.base.toNat + off := (Nat.add_assoc ..).symm
  simp only [loadBytes, act_bind, act_get, ho.home, ownTmem_holdsOwn ho, if_true, orderHome_settled hs ho.awake, homeCheck_load_holdsOwn ho r hin,
    hdetect, hclean]
  simp [hkey, Memory.readN]

/-- A store to the banks writes the bytes at their offsets, in order, and changes nothing else (R106). -/
theorem storeBytes_holdsOwn (hs : s.Settled) (r : Reg) {bytes : List (Nat × Byte)} (hin : ∀ p ∈ bytes, p.1 < c.length.toNat) :
    storeBytes r c bytes [] s = .ok () { s with mem := s.mem.writeCells (bytes.map fun p => (s.ownKey c p.1, p.2)) } := by
  cases bytes with
  | nil => rfl
  | cons p rest =>
    obtain ⟨bytes, hb⟩ : ∃ bytes, p :: rest = bytes := ⟨_, rfl⟩
    have hhigh := ho.high
    have hspan := offsets_span (l := bytes.map (·.1)) (b := c.length.toNat) (by simp [← hb]) (by simpa [hb] using fun a b h => hin (a, b) h)
    have hcheck := checkAccess_owner (s := s) (q := s.claim (.tile s.tile.index) c s.tile) ho.entry ho.kept ho.state ho.generation ho.domain ho.fits
      ho.window ho.owner (Nat.le_add_right_of_le ho.low) (by rw [Nat.add_assoc]; exact (Nat.add_le_add_left hspan _).trans hhigh) 0
    have hstore (clean : List Nat) := applyStore_tile hs (q := s.claim (.tile s.tile.index) c s.tile) rfl c.base.toNat s.tile.index bytes clean hcheck
    simp [storeBytes, act_bind, ho.home, ownTmem_holdsOwn ho, grantLines_flat ho.depth, orderHome_settled hs ho.awake, hb, hstore, State.ownKey, tmemKey]

end

/-! ### The scalar forms (R327) -/

/-- The low bytes of a word at the offsets from `off` on. -/
theorem leBytes_offsets (n off : Nat) (v : Word) :
    (leBytes n v.toNat).zipIdx.map (fun p => (off + p.2, p.1)) = (List.range n).map fun k => (off + k, v.extractLsb' (8 * k) 8) := by
  rw [leBytes_zipIdx]
  simp [BitVec.extractLsb', Nat.shiftRight_eq_div_pow]

section
variable {s : State} {d rs cs : Reg} {imm : BitVec 4} {n : Nat} {e : DirEntry} {i : Instr} (hs : s.Settled) (hk : s.tile.kpre = none)
  (ho : s.HoldsOwn (s.tile.rc cs) e) (hin : (pmOffset (s.tile.rx rs) imm n).toNat + n ≤ (s.tile.rc cs).length.toNat)
include hs hk ho hin

theorem capLoad_holdsOwn (hr : (s.tile.rc cs).rights.r = true) {f : Nat → Word} (hi : exec i s = capLoad i d rs cs imm n f s) :
    exec i s = .next (s.wroteX d (f (leNat (s.mem.readN (s.ownKey (s.tile.rc cs) (pmOffset (s.tile.rx rs) imm n).toNat) n)))) := by
  rw [hi]
  refine run_ok (t := { s with tile := s.tile.setX d _ }) hs.toQuiet (misplaced_plain hk) ?_
  rw [act_bind_ok (getX_quiet hs.armed rs),
    act_bind_ok (checkedCap_run hs.toQuiet (allowsLoad_holdsOwn ho hr) hin (reachable_holdsOwn ho) ho.lent), act_bind_ok (loadBytes_holdsOwn ho hs cs hin)]
  simp [setX_quiet hs.toQuiet, Function.comp_def]

theorem capStore_holdsOwn (hw : (s.tile.rc cs).rights.w = true) (hi : exec i s = capStore i d rs cs imm n s) : ∃ t : State, exec i s = .next t ∧
    s.storedCells t ((List.range n).map fun k =>
      (s.ownKey (s.tile.rc cs) ((pmOffset (s.tile.rx rs) imm n).toNat + k), (s.tile.rx d).extractLsb' (8 * k) 8)) := by
  have hbytes : ∀ p ∈ (List.range n).map fun k => ((pmOffset (s.tile.rx rs) imm n).toNat + k, (s.tile.rx d).extractLsb' (8 * k) 8),
      p.1 < (s.tile.rc cs).length.toNat := by
    intro p hp
    obtain ⟨k, hlt, rfl⟩ := List.mem_map.mp hp
    exact Nat.lt_of_lt_of_le (Nat.add_lt_add_left (List.mem_range.mp hlt) _) hin
  refine ⟨_, ?_, storedCells_writeCells s _⟩
  rw [hi]
  refine run_ok (t := { s with mem := s.mem.writeCells _ }) hs.toQuiet (misplaced_plain hk) ?_
  rw [act_bind_ok (getX_quiet hs.armed rs), act_bind_ok (getX_quiet hs.armed d),
    act_bind_ok (checkedCap_run hs.toQuiet (allowsStore_holdsOwn ho hw) hin (reachable_holdsOwn ho) ho.lent), leBytes_offsets,
    storeBytes_holdsOwn ho hs cs hbytes, List.map_map]
  rfl

end

/-- Settles O39: every form is `capLoad` or `capStore` of its size. -/
theorem capLoadStoreResults : Obligations.CapLoadStoreResults := by
  intro s d rs cs imm e hs hk c off value inside ho
  refine ⟨fun hr => ?_, fun hw => ?_⟩
  · have loads (n : Nat) (f : Nat → Word) {i : Instr} (hi : exec i s = capLoad i d rs cs imm n f s) (hin : inside n) :
        exec i s = .next (s.wroteX d (f (value n))) := capLoad_holdsOwn hs hk ho hin hr hi
    have cldB : exec (.cldB d rs cs imm) s = execCldB d rs cs imm s := rfl
    have cldH : exec (.cldH d rs cs imm) s = execCldH d rs cs imm s := rfl
    have cldW : exec (.cldW d rs cs imm) s = execCldW d rs cs imm s := rfl
    have cldD : exec (.cldD d rs cs imm) s = execCldD d rs cs imm s := rfl
    have cldBu : exec (.cldBu d rs cs imm) s = execCldBu d rs cs imm s := rfl
    have cldHu : exec (.cldHu d rs cs imm) s = execCldHu d rs cs imm s := rfl
    have cldWu : exec (.cldWu d rs cs imm) s = execCldWu d rs cs imm s := rfl
    exact ⟨loads 1 (fun v => sext (BitVec.ofNat 8 v)) cldB, loads 2 (fun v => sext (BitVec.ofNat 16 v)) cldH,
      loads 4 (fun v => sext (BitVec.ofNat 32 v)) cldW, loads 8 word cldD, loads 1 word cldBu, loads 2 word cldHu, loads 4 word cldWu⟩
  · have stores (n : Nat) {i : Instr} (hi : exec i s = capStore i d rs cs imm n s) (hin : inside n) : ∃ t : State, exec i s = .next t ∧
        s.storedCells t ((List.range n).map fun k => (s.ownKey c (off n + k), (s.tile.rx d).extractLsb' (8 * k) 8)) :=
      capStore_holdsOwn hs hk ho hin hw hi
    have cstB : exec (.cstB d rs cs imm) s = execCstB d rs cs imm s := rfl
    have cstH : exec (.cstH d rs cs imm) s = execCstH d rs cs imm s := rfl
    have cstW : exec (.cstW d rs cs imm) s = execCstW d rs cs imm s := rfl
    have cstD : exec (.cstD d rs cs imm) s = execCstD d rs cs imm s := rfl
    exact ⟨stores 1 cstB, stores 2 cstH, stores 4 cstW, stores 8 cstD⟩

end Sys2Proof.Machine
end

section
/-! SUPPORT. The vector forms under an exclusive cap of the tile's own TMEM (R220, R291, R329). -/

namespace Sys2Proof.Machine

open Sys2Proof

/-! ### Elements and offsets -/

/-- The element widths of a vector access (R329). -/
theorem pvWidth_cases (c : Cap) : pvWidth c = 8 ∨ pvWidth c = 16 ∨ pvWidth c = 32 ∨ pvWidth c = 64 := by
  simp only [pvWidth]
  split_ifs <;> simp

/-- Of elements of at least a byte all the active ones are among the first 128 (R288, R291). -/
theorem activeSet_range (t : Tile) {w : Nat} (hw : 8 ≤ w) : t.activeSet w = (List.range 128).filter (t.active w) := by
  have hcount : elemCount w ≤ 128 := Nat.div_le_of_le_mul (by omega)
  have hrest : ∀ k ∈ (List.range (128 - elemCount w)).map (elemCount w + ·), ¬ t.active w k = true := by
    intro k hk
    obtain ⟨j, -, rfl⟩ := List.mem_map.mp hk
    simp [Tile.active, Tile.vcount]
  rw [← Nat.add_sub_cancel' hcount, List.range_add, List.filter_append, List.filter_eq_nil_iff.mpr hrest, List.append_nil, Tile.activeSet]

/-- The offset of element `i` of a vector access, as the instruction computes it (R329). -/
def State.pvAt (s : State) (m : PvMode) (rs : Reg) (e : BitVec 5) (w i : Nat) : Word :=
  pvOffset m (s.tile.rx rs) e (if m = .stride then s.tile.rx (Fin.ofNat 32 e.toNat) else 0) (s.tile.v.get (Fin.ofNat 32 e.toNat)) w i

theorem pvAt_toNat (s : State) (m : PvMode) (rs : Reg) (e : BitVec 5) (w i : Nat) : (s.pvAt m rs e w i).toNat = s.pvOff rs e w m i := by
  cases m <;> rfl

/-! ### The checks (R64, R314) -/

theorem checkElements_go_run {c : Cap} {k : AccessKind} (hk : accessAllowed c k = true) (cs : Reg) {n : Nat} (s : State) :
    ∀ offs : List Word, (∀ o ∈ offs, o.toNat + n ≤ c.length.toNat) → checkElements.go cs c n k offs s = .ok () s
  | [], _ => rfl
  | o :: os, h => by
    have ho := Nat.not_lt.mpr (h o (by simp))
    simp [checkElements.go, hk, ho, checkElements_go_run hk cs s os fun p hp => h p (by simp [hp])]

theorem checkElements_run {c : Cap} {k : AccessKind} (hk : accessAllowed c k = true) (hr : reachable c = true) (hl : c.lent = false) (cs : Reg) {n : Nat}
    (base : Word) {offs : List Word} (h : ∀ o ∈ offs, o.toNat + n ≤ c.length.toNat) (s : State) : checkElements cs c n k base offs s = .ok () s := by
  simp [checkElements, act_bind, hk, hr, lentStall_run hl, checkElements_go_run hk cs s offs h]

theorem pvConsume_clean {s : State} (ha : s.armed = []) (hm : s.maskClean) {m : PvMode} {e : BitVec 5}
    (hi : m = .index → (s.tile.v.get (Fin.ofNat 32 e.toNat)).poison = 0) (w : Nat) (els : List (Nat × Word)) : pvConsume m e w els s = .ok () s := by
  by_cases h : m = .index
  · have hany : (els.any fun p => (s.tile.v.get (Fin.ofNat 32 e.toNat)).badEl w p.1) = false :=
      List.any_eq_false.mpr fun p _ => by simp only [badEl_clean (hi h), Bool.false_eq_true, not_false_eq_true]
    simp only [pvConsume, h, if_true, act_bind, getV_quiet ha, hany, Bool.false_eq_true, if_false, readActive_clean ha hm]
  · simp [pvConsume, h, readActive_clean ha hm]

/-! ### The accesses (R329) -/

/-- The active elements of a vector access under a cap, with their offsets. -/
def State.pvPairs (s : State) (m : PvMode) (rs : Reg) (e : BitVec 5) (c : Cap) : List (Nat × Word) :=
  (s.tile.activeSet (pvWidth c)).map fun i => (i, s.pvAt m rs e (pvWidth c) i)

/-- The field that a vector load makes of an element: the number in the bytes at its offset. -/
def State.loadedField (s : State) (c : Cap) (p : Nat × Word) : Field :=
  { pos := pvWidth c * p.1, width := pvWidth c, value := leNat (s.mem.readN (s.ownKey c p.2.toNat) (pvWidth c / 8)) }

/-- The bytes at offsets that a vector store makes of elements, lowest first. -/
def VReg.storedBytes (v : VReg) (w : Nat) (els : List (Nat × Word)) : List (Nat × Byte) :=
  els.flatMap fun p => (List.range (w / 8)).map fun j => (p.2.toNat + j, BitVec.ofNat 8 (v.el w p.1 / 2 ^ (8 * j)))

theorem storedBytes_inside {v : VReg} {w len : Nat} {els : List (Nat × Word)} (h : ∀ p ∈ els, p.2.toNat + w / 8 ≤ len) :
    ∀ b ∈ v.storedBytes w els, b.1 < len := by
  intro b hb
  obtain ⟨p, hp, hb⟩ := List.mem_flatMap.mp hb
  obtain ⟨j, hj, rfl⟩ := List.mem_map.mp hb
  exact Nat.lt_of_lt_of_le (Nat.add_lt_add_left (List.mem_range.mp hj) _) (h p hp)

section
variable {s : State} {d rs cs : Reg} {e : BitVec 5} {en : DirEntry} {i : Instr} {m : PvMode} {c : Cap} (hs : s.Settled) (hc : s.tile.rc cs = c)
  (hk : s.tile.kpre = none) (hm : s.maskClean) (ho : s.HoldsOwn c en) (hidx : m = .index → (s.tile.v.get (Fin.ofNat 32 e.toNat)).poison = 0)
  (hin : ∀ p ∈ s.pvPairs m rs e c, p.2.toNat + pvWidth c / 8 ≤ c.length.toNat)

include hs hc ho hin in
theorem pvElements_holdsOwn {k : AccessKind} (ha : accessAllowed c k = true) : pvElements m rs cs e k s = .ok (c, pvWidth c, s.pvPairs m rs e c) s := by
  have hstride : (if m = .stride then getX (Fin.ofNat 32 e.toNat) else pure 0 : Act Word) s =
      .ok (if m = .stride then s.tile.rx (Fin.ofNat 32 e.toNat) else 0) s := by
    split <;> simp [getX_quiet hs.armed]
  have hcheck := checkElements_run ha (reachable_holdsOwn ho) ho.lent cs (s.pvAt m rs e (pvWidth c) 0)
    (offs := (s.pvPairs m rs e c).map (·.2)) (by simpa using fun o i h => hin (i, o) h) s
  unfold pvElements
  rw [act_bind_ok (useCap_quiet hs.armed cs), hc, act_bind_ok (getX_quiet hs.armed rs), act_bind_ok hstride, act_bind_ok (curTile_run s)]
  exact (act_bind_ok hcheck).trans rfl

include hs ho in
theorem vecLoad_go_holdsOwn : ∀ els : List (Nat × Word), (∀ p ∈ els, p.2.toNat + pvWidth c / 8 ≤ c.length.toNat) →
    vecLoad.go cs c (pvWidth c) els s = .ok (els.map fun p => (p.2.toNat, s.loadedField c p)) s
  | [], _ => rfl
  | p :: rest, h => by
    rw [vecLoad.go, act_bind_ok (loadBytes_holdsOwn ho hs cs (h p (by simp))), act_bind_ok (vecLoad_go_holdsOwn rest fun q hq => h q (by simp [hq]))]
    simp [State.loadedField, Function.comp_def]

include hs hc hk hm ho hidx hin

theorem vecLoad_holdsOwn (hr : c.rights.r = true) (hi : exec i s = vecLoad i m d rs cs e s) :
    s.GivesElements i d (pvWidth c) fun k => leNat (s.mem.readN (s.ownKey c (s.pvOff rs e (pvWidth c) m k)) (pvWidth c / 8)) := by
  have hw : 0 < pvWidth c := by rcases pvWidth_cases c with h | h | h | h <;> simp [h]
  have hclean : ((s.pvPairs m rs e c).map fun p => (p.2.toNat, s.loadedField c p)).find? (fun p => p.2.pa) = none := by simp [State.loadedField]
  refine ⟨_, hi.trans (run_ok (t := { s with tile := s.tile.setV d _ }) hs.toQuiet (misplaced_plain hk) ?_),
    elementwise_write hw {} {} (fun k => s.loadedField c (k, s.pvAt m rs e (pvWidth c) k)) _ (fun _ => rfl) (fun _ => rfl)
      fun k => by rw [State.loadedField, pvAt_toNat]⟩
  rw [act_bind_ok (pvElements_holdsOwn hs hc ho hin (allowsLoad_holdsOwn ho hr))]
  refine (act_bind_ok (vecLoad_go_holdsOwn hs ho _ hin)).trans ?_
  rw [act_bind_ok (pvConsume_clean hs.armed hm hidx _ _), writeFields_quiet hs.toQuiet, hclean, State.pvPairs, List.map_map, List.map_map]
  rfl

theorem vecStore_holdsOwn (hw : c.rights.w = true) (hd : (s.tile.v.get d).poison = 0) (hi : exec i s = vecStore i m d rs cs e s) :
    ∃ t : State, exec i s = .next t ∧ s.storedCells t (((s.tile.v.get d).storedBytes (pvWidth c) (s.pvPairs m rs e c)).map fun p => (s.ownKey c p.1, p.2)) := by
  refine ⟨_, hi.trans (run_ok (t := { s with mem := s.mem.writeCells _ }) hs.toQuiet (misplaced_plain hk) ?_), storedCells_writeCells s _⟩
  rw [act_bind_ok (pvElements_holdsOwn hs hc ho hin (allowsStore_holdsOwn ho hw))]
  refine (act_bind_ok (grantLines_flat ho.depth cs _ _ s)).trans ?_
  rw [act_bind_ok (pvConsume_clean hs.armed hm hidx _ _), act_bind_ok (getV_quiet hs.armed d)]
  have hbad : ((s.pvPairs m rs e c).filter fun p => (s.tile.v.get d).badEl (pvWidth c) p.1) = [] := by simp [badEl_clean hd]
  simp only [leBytes_zipIdx, hbad, List.flatMap_nil]
  exact storeBytes_holdsOwn ho hs cs (storedBytes_inside hin)

end

/-- Settles O41: every form is `vecLoad` or `vecStore` in its mode. -/
theorem vectorMemoryResults : Obligations.VectorMemoryResults := by
  intro s d rs cs e en hs hk hm c w n off els inside ho
  have hwidth : 8 ≤ w := by rcases pvWidth_cases c with h | h | h | h <;> simp [w, h]
  have hels : els = s.tile.activeSet w := (activeSet_range s.tile hwidth).symm
  have hpairs {m : PvMode} (hin : inside m) : ∀ p ∈ s.pvPairs m rs e c, p.2.toNat + pvWidth c / 8 ≤ c.length.toNat := by
    intro p hp
    obtain ⟨k, hmem, rfl⟩ := List.mem_map.mp hp
    rw [pvAt_toNat]
    exact hin.2 k (hels ▸ hmem)
  refine ⟨fun hr => ?_, fun hw hd => ?_⟩
  · have loads (m : PvMode) {i : Instr} (hi : exec i s = vecLoad i m d rs cs e s) (hin : inside m) :
        s.GivesElements i d w fun k => leNat (s.mem.readN (s.ownKey c (off m k)) n) :=
      vecLoad_holdsOwn hs rfl hk hm ho hin.1 (hpairs hin) hr hi
    have vcld : exec (.vcld d rs cs e) s = execVcld d rs cs e s := rfl
    have vclds : exec (.vclds d rs cs e) s = execVclds d rs cs e s := rfl
    have vcldx : exec (.vcldx d rs cs e) s = execVcldx d rs cs e s := rfl
    exact ⟨loads .unit vcld, loads .stride vclds, loads .index vcldx⟩
  · have stores (m : PvMode) {i : Instr} (hi : exec i s = vecStore i m d rs cs e s) (hin : inside m) : ∃ t : State, exec i s = .next t ∧
        s.storedCells t (els.flatMap fun k => (List.range n).map fun j =>
          (s.ownKey c (off m k + j), BitVec.ofNat 8 ((s.tile.v.get d).el w k / 2 ^ (8 * j)))) := by
      have h := vecStore_holdsOwn hs rfl hk hm ho hin.1 (hpairs hin) hw hd hi
      simp only [VReg.storedBytes, State.pvPairs, List.flatMap_map, List.map_flatMap, List.map_map, Function.comp_def, pvAt_toNat] at h
      rw [hels]
      exact h
    have vcst : exec (.vcst d rs cs e) s = execVcst d rs cs e s := rfl
    have vcsts : exec (.vcsts d rs cs e) s = execVcsts d rs cs e s := rfl
    have vcstx : exec (.vcstx d rs cs e) s = execVcstx d rs cs e s := rfl
    exact ⟨stores .unit vcst, stores .stride vcsts, stores .index vcstx⟩

end Sys2Proof.Machine
end

section
/-! SUPPORT. Instruction fetch: the checks under the code cap, a hit of the instruction cache, and a fill from the memory of a cluster (R115, R139, R250). -/

namespace Sys2Proof.Machine

open Sys2Proof

/-- A run of bytes out of a longer one. -/
theorem mem_readN_drop_take (m : Memory) (a : Nat) {n i k : Nat} (h : i + k ≤ n) : ((m.readN a n).drop i).take k = m.readN (a + i) k :=
  List.ext_getElem (by simp; omega) fun j _ _ => by simp [mem_readN_getElem, Nat.add_assoc]

/-! ### Where a fetch traps (R64, R215, R250) -/

section
variable {s : State}

theorem fetch_outside (h : s.tile.codeCap.length.toNat < s.tile.pc.toNat + 4) : fetch s = .error (.trap 1 s.tile.pc) s := by
  simp [fetch, act_bind, h]

theorem fetch_misaligned (h : s.tile.pc.toNat + 4 ≤ s.tile.codeCap.length.toNat) (ha : s.tile.pc.toNat % 4 ≠ 0) : fetch s = .error (.trap 0 s.tile.pc) s := by
  simp [fetch, act_bind, Nat.not_lt.mpr h, ha]

/-- A fetch that its code cap allows: an aligned word within the buffer, under an exec share with R (R56, R250). -/
structure State.MayFetch (s : State) : Prop where
  inside : s.tile.pc.toNat + 4 ≤ s.tile.codeCap.length.toNat
  aligned : s.tile.pc.toNat % 4 = 0
  mode : s.tile.codeCap.mode = .exec
  right : s.tile.codeCap.eff.r = true

variable (hm : s.MayFetch)
include hm

theorem fetch_homeless (hh : s.homeOf s.tile.codeCap = none) :
    fetch s = .error (.trap 24 s.tile.pc) { s with tile := { s.tile with mcapinfo := capInfo 30 0 0 false } } := by
  simp [fetch, act_bind, Nat.not_lt.mpr hm.inside, hm.aligned, hm.mode, hm.right, hh, capTrap]

/-- The word of a fetch is in the line of its offset, in a sector that is not poisoned (R250). -/
theorem fetch_line {t : State} {h : HomeId} {l : ILine} (hh : s.homeOf s.tile.codeCap = some h)
    (hl : fetchLine s.tile.codeCap h s.tile.pc.toNat s = .ok l t) (hbad : ∀ p ∈ l.bad, p.1 ≠ s.tile.pc.toNat % 256 / 64) :
    fetch s = .ok (BitVec.ofNat 32 (leNat ((l.data.drop (s.tile.pc.toNat % 256)).take 4))) t := by
  have hfind : l.bad.find? (fun p => decide (p.1 = s.tile.pc.toNat % 256 / 64)) = none := List.find?_eq_none.mpr fun p hp => by simpa using hbad p hp
  simp [fetch, act_bind, Nat.not_lt.mpr hm.inside, hm.aligned, hm.mode, hm.right, hh, hl, hfind]

end

/-! ### Lines of the instruction cache (R115, R139) -/

theorem fetchLine_hit {s : State} {c : Cap} {off : Nat} {l : ILine} (hl : s.tile.iline c (off / 256) = some l) (h : HomeId) :
    fetchLine c h off s = .ok l s := by
  simp [fetchLine, act_bind, hl]

/-- The line of an offset that a fill without poison leaves in the instruction cache (R115). -/
def filledLine (c : Cap) (off : Nat) (data : List Byte) : ILine :=
  { kind := c.kind, location := c.location.toNat, buffer := c.buffer.toNat, generation := c.generation, line := off / 256, data := data, bad := [] }

theorem fetchLine_miss {s : State} {c : Cap} {h : HomeId} {off : Nat} {data : List Byte} (hl : s.tile.iline c (off / 256) = none)
    (hr : readLine c h off s = .ok (data, []) s) :
    fetchLine c h off s = .ok (filledLine c off data) { s with tile := { s.tile with icache := (filledLine c off data :: s.tile.icache).take 256 } } := by
  simp only [fetchLine, act_bind, curTile_run, hl, hr]
  rfl

/-- A line of a buffer of a cluster, where no error waits and no sector is poisoned: its bytes, and nothing changes (R115, R119). -/
theorem readLine_cluster {s : State} {c : Cap} {k off : Nat} (hk : c.kind = .cmem) (hw : s.asleep (.cluster k) = false)
    (hc : s.checkAccess (s.claim (.cluster k) c s.tile) c.base.toNat (256 * (off / 256)) (min 256 (c.length.toNat - 256 * (off / 256))) 0 0 = none)
    (ha : s.armed = []) (hp : s.poison = []) : readLine c (.cluster k) off s =
      .ok (s.mem.readN ((Space.cmem k).base + (c.base.toNat + 256 * (off / 256))) (min 256 (c.length.toNat - 256 * (off / 256))), []) s := by
  have hdirect : (s.claim (.cluster k) c s.tile).home.isDmem = false := rfl
  have hdetect (ks : List Nat) : ks.foldl (fun u x => u.detect (.cluster k) c.buffer.toNat (256 * (off / 256)) x) s = s :=
    foldl_fix (fun _ => detect_unarmed ha _ _ _ _) ks
  have hclean (x : Nat) : s.poisoned x = false := by simp [State.poisoned, hp]
  simp only [readLine, act_bind, act_get, act_set, act_ite, hk, reduceCtorEq, if_false, hw, Bool.false_eq_true, act_pure, sliceCheck_direct s hdirect, hc,
    locateN_direct s hdirect, hdetect, hclean]
  simp [Memory.readN, HomeId.space]

/-- Settles O2: the checks of the fetch, then its line from the cache or from the cluster. -/
theorem fetchResults : Obligations.FetchResults := by
  intro s c pc n may
  have mayFetch : may → s.MayFetch := fun ⟨hin, ha, hmode, hr⟩ => ⟨hin, ha, hmode, hr⟩
  refine ⟨fun l hm hh hl hbad => ?hit, fun k hm hk hh hl hw hc ha hp => ?miss, fun hm hh => fetch_homeless (mayFetch hm) hh, fetch_outside, fetch_misaligned⟩
  case hit =>
    obtain ⟨h, hh⟩ := Option.ne_none_iff_exists'.mp hh
    exact fetch_line (mayFetch hm) hh (fetchLine_hit hl h) hbad
  case miss =>
    have hfill := fetchLine_miss hl (readLine_cluster hk hw hc ha hp)
    refine ⟨filledLine c pc _, rfl, rfl, rfl, ?_⟩
    have hword := fetch_line (mayFetch hm) hh hfill (by simp [filledLine])
    have hin : pc % 256 + 4 ≤ n := by
      have := (mayFetch hm).aligned
      have := (mayFetch hm).inside
      omega
    have haddr : (Space.cmem k).base + (c.base.toNat + 256 * (pc / 256)) + pc % 256 = (Space.cmem k).base + (c.base.toNat + pc) := by omega
    rw [← haddr, ← mem_readN_drop_take s.mem _ hin]
    exact hword

end Sys2Proof.Machine
end

section
/-! SUPPORT. Snapshot and keep instructions up to their home, levels of a buffer, and the new depth in its cap (R148, R149, R154-R156, R378). -/

namespace Sys2Proof.Machine

open Sys2Proof

/-! ### What retirement leaves alone -/

@[simp] theorem Tile.retire_rx (t : Tile) (q : Reg) : t.retire.rx q = t.rx q := by simp [Tile.rx]

@[simp] theorem Tile.retire_rc (t : Tile) (q : Reg) : t.retire.rc q = t.rc q := by simp [Tile.rc, Tile.rcBank]

@[simp] theorem Tile.retire_openRegions (t : Tile) : t.retire.openRegions = t.openRegions := by simp [Tile.openRegions]

/-! ### A cap of a buffer that the tile owns, where nothing of the tile is on its way -/

section
variable {s : State} (hs : s.Drained) {c : Cap} {h : HomeId} {e : DirEntry} (o : s.Owns c h e)

include o in
/-- The kinds that the instructions of levels refuse are none of an owned buffer (R378). -/
theorem owned_kind : c.kind ≠ .null ∧ c.kind ≠ .host ∧ c.kind ≠ .handle ∧ c.kind ≠ .slot := by
  rcases o.kind with hk | hk | hk <;> simp [hk]

include o in
/-- The home of an owned buffer is on this device (R66). -/
theorem owned_local : c.kind ≠ .remote := by
  rcases o.kind with hk | hk | hk <;> simp [hk]

include o in
/-- `c0` holds the null cap, so an owned buffer is under another register. -/
theorem owned_reg_ne_zero {r : Reg} (hr : s.tile.rc r = c) : r ≠ 0 := by
  rintro rfl
  exact (owned_kind o).1 (hr ▸ rfl)

include hs in
theorem guardRegions_unkept (hl : s.NoRegionLevels) (r : Reg) (c : Cap) : guardRegions r c s = .ok () s := by
  have hkept (p : LevelRecord → Bool) : (s.levels.any fun l => l.region && p l) = false :=
    List.any_eq_false.mpr fun l hm => by simp [hl l hm]
  simp only [guardRegions, otherRegion, act_bind, act_get]
  cases s.homeOf c <;> simp [hs.cache, Bool.and_assoc, hkept]

include hs o

theorem drain_owned : drain c s = .ok () s := by
  simp only [drain, act_bind, act_modify, State.pushLines, pushWhere_nil hs.cache, act_get, o.home, hs.remotes, List.find?_nil]
  cases c.kind <;> simp [act_bind, orderHome_drained hs o.awake, hs.cache]

/-- The home passes the owner's control request in the Exclusive state (R66, R71). -/
theorem homeEntry_owned (r : Reg) {states : List DirState} (hst : .exclusive ∈ states) (owned : Bool) (bad : Nat) :
    homeEntry r c states owned bad s = .ok (h, e) s := by
  have hcheck : s.checkControl (s.claim h c s.tile) states owned bad = none := by
    simp [State.checkControl, o.entry, o.kept, o.state, o.generation, o.domain, o.fits, o.window, o.owner, hst]
  simp [homeEntry, act_bind, o.home, orderAll, orderHome_drained hs o.awake, failLevels_unarmed hs.armed, hcheck, o.entry]

theorem levelCap_owned {r : Reg} (hr : s.tile.rc r = c) {right : Rights → Bool} (hright : right c.rights = true) : levelCap r right s = .ok c s := by
  obtain ⟨hnull, hhost, hhandle, hslot⟩ := owned_kind o
  simp [levelCap, act_bind, act_map, useCap_quiet hs.armed, requireCap_run, hr, o.mode, Cap.eff, hright, hnull, hhost, hhandle, hslot]

theorem snapBegin_owned (hl : s.NoRegionLevels) {r : Reg} (hr : s.tile.rc r = c) {right : Rights → Bool} (hright : right c.rights = true) :
    snapBegin r right s = .ok c s := by
  rw [snapBegin, act_bind_ok (levelCap_owned hs o hr hright), act_bind_ok (guardRegions_unkept hs hl r c), act_bind_ok (lentStall_run o.lent r s),
    act_bind_ok (drain_owned hs o), act_pure]

end

/-! ### The new depth (R154) -/

/-- `s` without the grants of its tile (R152). -/
def State.ungranted (s : State) : State := { s with tile := { s.tile with grants := [] } }

/-- `s` once the grants of its tile are gone and a cap of it stands at a depth. -/
def State.atDepth (s : State) (r : Reg) (c : Cap) (n : Nat) : State :=
  { s with tile := s.ungranted.tile.setC r (s.sign { c with depth := BitVec.ofNat 3 n }) }

theorem atDepth_rc (s : State) {r : Reg} (hr : r ≠ 0) (c : Cap) (n : Nat) (q : Reg) :
    (s.atDepth r c n).tile.rc q = if q = r then s.sign { c with depth := BitVec.ofNat 3 n } else s.tile.rc q := by
  rw [State.atDepth, Tile.rc_setC]
  simp only [hr, ne_eq, not_false_eq_true, and_true]
  rfl

/-- A cap register that needs no save is written at once (R368). -/
theorem putCaps_saved {s : State} (ha : s.armed = []) {r : Reg} (hsave : saveItems [.c r] s = .ok () s) (c : Cap) :
    putCaps [(r, c)] s = .ok () { s with tile := s.tile.setC r c } := by
  have hput : putCaps [(r, c)] s = .ok () { s.rearm (fun i => i = .cap s.tile.index r) with tile := s.tile.setC r c } := act_bind_ok hsave
  rwa [rearm_nil ha] at hput

/-- The register of the cap needs no save when no region is open, or when one has it already (R368). -/
theorem snapEnd_run {s : State} (ha : s.armed = []) {r : Reg} (hsave : saveItems [.c r] s.ungranted = .ok () s.ungranted)
    {c : Cap} {h : HomeId} {e : DirEntry} (he : s.entry h c.buffer.toNat = some e) : snapEnd r c h s = .ok () (s.atDepth r c e.depth) := by
  have hput := putCaps_saved (s := s.ungranted) ha hsave (s.ungranted.sign { c with depth := BitVec.ofNat 3 e.depth })
  have hdepth : ((s.ungranted.entry h c.buffer.toNat).map (·.depth)).getD 0 = e.depth := congrArg (fun o => (o.map (·.depth)).getD 0) he
  rw [← hdepth] at hput ⊢
  exact hput

theorem snapEnd_quiet {s : State} (hq : s.Quiet) (r : Reg) {c : Cap} {h : HomeId} {e : DirEntry} (he : s.entry h c.buffer.toNat = some e) :
    snapEnd r c h s = .ok () (s.atDepth r c e.depth) :=
  snapEnd_run hq.armed (saveItems_quiet (s := s.ungranted) hq.regions _) he

/-! ### Levels of a buffer (R149, R155, R156) -/

/-- Whether a record is that of a level of a buffer. -/
def LevelRecord.isAt (l : LevelRecord) (h : HomeId) (b d : Nat) : Bool := l.home = h && l.buffer = b && l.level = d

theorem pushLevel_eq {s : State} {h : HomeId} {b : Nat} {e : DirEntry} (he : s.entry h b = some e) (region : Bool) (rdepth first last owner byTile : Nat)
    (byLevel : Level) : s.pushLevel h b region rdepth first last owner byTile byLevel =
      { s.mapEntry h b (fun e => { e with depth := e.depth + 1 }) with
        levels := s.levels ++ [{ home := h, buffer := b, level := e.depth + 1, region := region, regionDepth := rdepth, firstLine := first, lastLine := last,
                                 regionOwner := owner, byTile := byTile, byLevel := byLevel, seq := s.levelSeq }],
        levelSeq := s.levelSeq + 1 } := by
  have hpushed : (s.mapEntry h b fun e => { e with depth := e.depth + 1 }).entry h b = some { e with depth := e.depth + 1 } := entry_mapEntry_same he
  simp [State.pushLevel, State.addLevel, hpushed]

theorem entry_pushLevel {s : State} {h : HomeId} {b : Nat} {e : DirEntry} (he : s.entry h b = some e) (region : Bool) (rdepth first last owner byTile : Nat)
    (byLevel : Level) : (s.pushLevel h b region rdepth first last owner byTile byLevel).entry h b = some { e with depth := e.depth + 1 } := by
  rw [pushLevel_eq he]
  exact entry_mapEntry_same (f := fun e => { e with depth := e.depth + 1 }) he

theorem entry_popLevel {s : State} {h : HomeId} {b : Nat} {e : DirEntry} (he : s.entry h b = some e) (d : Nat) :
    (s.popLevel h b d).entry h b = some { e with depth := d - 1 } :=
  entry_mapEntry_same (f := fun e => { e with depth := d - 1 }) (s := { s with levels := s.levels.filter fun l => !l.isAt h b d }) he

theorem coverBelow_le (s : State) (h : HomeId) (b line : Nat) : ∀ d, s.coverBelow h b line d ≤ d
  | 0 => le_rfl
  | d + 1 => by
    have := coverBelow_le s h b line d
    rw [State.coverBelow]
    split <;> omega

/-- What an accept hands down: the copies that stay, those of the top level under a lower label (R156). -/
def State.handedDown (s : State) (h : HomeId) (b d : Nat) : List LineCopy :=
  s.copies.filterMap fun c =>
    if c.home = h && c.buffer = b && c.label = d then
      let k := s.coverBelow h b c.line (d - 1)
      if k > 0 && !(s.copies.any fun o => o.home = h && o.buffer = b && o.line = c.line && o.label = k) then some { c with label := k } else none
    else some c

theorem acceptTop_eq {s : State} {h : HomeId} {b : Nat} {e : DirEntry} (he : s.entry h b = some e) :
    s.acceptTop h b = ({ s with copies := s.handedDown h b e.depth } : State).popLevel h b e.depth := by
  simp only [State.acceptTop, he]
  rfl

/-- No copy keeps the label of the level that is accepted: a label above 0 falls (R156). -/
theorem handedDown_labels (s : State) (h : HomeId) (b d : Nat) : ∀ c ∈ s.handedDown h b d, ¬(c.home = h ∧ c.buffer = b ∧ c.label = d) := by
  rintro c hc ⟨hh, hb, hd⟩
  obtain ⟨o, -, ho⟩ := List.mem_filterMap.mp hc
  have hle := coverBelow_le s h b o.line (d - 1)
  split at ho
  · dsimp only at ho
    split at ho
    · next hk =>
      simp only [Bool.and_eq_true, decide_eq_true_eq] at hk
      cases ho
      dsimp only at hd
      omega
    · cases ho
  · next hno =>
    cases ho
    exact hno (by simp [hh, hb, hd])

theorem copiesAt_accepted (s : State) (h : HomeId) (b d : Nat) : ({ s with copies := s.handedDown h b d } : State).copiesAt h b d = [] :=
  List.filter_eq_nil_iff.mpr fun c hc => by simpa [and_assoc] using handedDown_labels s h b d c hc

end Sys2Proof.Machine
end

section
/-! SUPPORT. `snap.take`, `snap.accept` and `snap.info` of a buffer that the tile owns (R155, R156, R378). -/

namespace Sys2Proof.Machine

open Sys2Proof

/-- What the snapshot instructions ask: no region level stands in the way, and the tile owns the buffer of the cap in `a`. -/
structure State.Snaps (s : State) (a : Reg) (c : Cap) (h : HomeId) (e : DirEntry) : Prop extends s.Quiet, s.Drained, s.Owns c h e where
  unkept : s.NoRegionLevels
  kpre : s.tile.kpre = none
  reg : s.tile.rc a = c
  named : a ≠ 30

/-- `t` is after a snapshot instruction: the entry and the cap show the depth `n`, and no other register has changed. -/
def State.SnapsTo (s t : State) (a : Reg) (c : Cap) (h : HomeId) (e : DirEntry) (n : Nat) : Prop :=
  t.nowHas h c.buffer.toNat (fun o => o.depth = n ∧ o.state = .exclusive ∧ o.generation = e.generation) ∧
    t.tile.rc a = s.sign { c with depth := BitVec.ofNat 3 n } ∧ (∀ r, r ≠ a → t.tile.rc r = s.tile.rc r) ∧ t.tile.x = s.tile.x ∧ t.tile.v = s.tile.v

section
variable {s : State} {a : Reg} {c : Cap} {h : HomeId} {e : DirEntry} (v : s.Snaps a c h e)
include v

/-- A snapshot instruction comes to the register's new depth when its home has changed the level, and of the tile nothing. -/
theorem snapEnd_next {i : Instr} {act : Act Unit} {u : State} (hact : act s = snapEnd a c h u) (ht : u.tile = s.tile) (ha : u.armed = s.armed) {o : DirEntry}
    (he : u.entry h c.buffer.toNat = some o) : run {} i act s = .next ((u.atDepth a c o.depth).retired (u.atDepth a c o.depth).tile) :=
  run_ok v.toQuiet (misplaced_plain v.kpre) (hact.trans (snapEnd_quiet ⟨ha.trans v.toQuiet.armed, by rw [ht]; exact v.regions⟩ a he))

theorem atDepth_snapsTo {u : State} (ht : u.tile = s.tile) (hd : u.device = s.device) {p n : Nat}
    (he : u.entry h c.buffer.toNat = some { e with depth := n, poison := p }) :
    s.SnapsTo ((u.atDepth a c n).retired (u.atDepth a c n).tile) a c h e n := by
  have hrc (q : Reg) : ((u.atDepth a c n).retired (u.atDepth a c n).tile).tile.rc q = if q = a then s.sign { c with depth := BitVec.ofNat 3 n } else s.tile.rc q := by
    rw [← ht, ← sign_congr hd, ← atDepth_rc u (owned_reg_ne_zero v.toOwns v.reg) c n q]
    exact Tile.retire_rc _ q
  refine ⟨⟨_, he, rfl, v.state, rfl⟩, by rw [hrc, if_pos rfl], fun r hr => by rw [hrc, if_neg hr], ?_, ?_⟩ <;>
    simp [State.retired, State.atDepth, State.ungranted, ht]

theorem snapTake_pushes (hright : c.rights.n = true) (hdepth : e.depth < 7) (hpool : s.poolFree h e.domain ≠ 0) :
    ∃ t : State, exec (.snapTake a) s = .next t ∧ s.SnapsTo t a c h e (e.depth + 1) ∧ t.mem = s.mem ∧
      ∃ l, t.levels = s.levels ++ [l] ∧ l.home = h ∧ l.buffer = c.buffer.toNat ∧ l.level = e.depth + 1 ∧ l.region = false := by
  have hn := (entry_home v.entry).2
  have he : s.entry h e.number = some e := hn ▸ v.entry
  let u := s.pushLevel h e.number false 0 0 e.lastLine 0 s.tile.index s.tile.level
  have hu : u = _ := pushLevel_eq he false 0 0 e.lastLine 0 s.tile.index s.tile.level
  have hentry : u.entry h c.buffer.toNat = some { e with depth := e.depth + 1 } := hn ▸ entry_pushLevel he _ _ _ _ _ _ _
  refine ⟨_, snapEnd_next v (u := u) ?_ (by rw [hu]; rfl) (by rw [hu]; rfl) hentry, atDepth_snapsTo v (by rw [hu]; rfl) (by rw [hu]; rfl) hentry,
    by rw [hu]; rfl, _, by rw [hu]; rfl, rfl, hn, rfl, rfl⟩
  rw [act_bind_ok (guardC30_run _ (by simpa using v.named.symm) s), act_bind_ok (snapBegin_owned v.toDrained v.toOwns v.unkept v.reg hright)]
  simp [owned_local v.toOwns, act_bind, homeEntry_owned v.toDrained v.toOwns, Nat.not_le.mpr hdepth, hpool, saveItems_quiet v.regions, u]

/-- A snapshot level stands on top, and no region asks whose it is (R154, R369). -/
theorem topSnapshot_owned (hstack : s.stackOf h c.buffer.toNat ≠ []) : topSnapshot a c s = .ok (h, e) s := by
  have hn := (entry_home v.entry).2
  have hregions : regionsOwn a h c.buffer.toNat s = .ok () s := by simp [regionsOwn, act_bind, v.regions]
  obtain ⟨l, ls, hl⟩ := List.exists_cons_of_ne_nil hstack
  have hmem : l ∈ s.stackOf h c.buffer.toNat := hl ▸ List.mem_cons_self
  have hkind : l.region = false := by
    obtain ⟨n, -, hm⟩ := List.mem_flatMap.mp hmem
    exact v.unkept l (List.mem_of_mem_filter (List.mem_of_mem_filter hm))
  simp [topSnapshot, act_bind, act_map, homeEntry_owned v.toDrained v.toOwns, hn, hl, hkind, hregions, saveItems_quiet v.regions]

theorem snapAccept_drops (hstack : s.stackOf h c.buffer.toNat ≠ []) :
    ∃ t : State, exec (.snapAccept a) s = .next t ∧ s.SnapsTo t a c h e (e.depth - 1) ∧ t.mem = s.mem ∧
      t.levels = s.levels.filter (fun l => !l.isAt h c.buffer.toNat e.depth) ∧ t.copiesAt h c.buffer.toNat e.depth = [] := by
  have hn := (entry_home v.entry).2
  let u := s.acceptTop h e.number
  have hu : u = ({ s with copies := s.handedDown h c.buffer.toNat e.depth } : State).popLevel h c.buffer.toNat e.depth :=
    (congrArg (s.acceptTop h) hn).trans (acceptTop_eq v.entry)
  have hentry : u.entry h c.buffer.toNat = some { e with depth := e.depth - 1 } := by
    rw [hu]
    exact entry_popLevel (s := { s with copies := s.handedDown h c.buffer.toNat e.depth }) v.entry e.depth
  refine ⟨_, snapEnd_next v (u := u) ?run (by rw [hu]; rfl) (by rw [hu]; rfl) hentry, atDepth_snapsTo v (by rw [hu]; rfl) (by rw [hu]; rfl) hentry,
    by rw [hu]; rfl, by rw [hu]; rfl, ?freed⟩
  case run =>
    rw [act_bind_ok (guardC30_run _ (by simpa using v.named.symm) s), act_bind_ok (snapBegin_owned v.toDrained v.toOwns v.unkept v.reg rfl)]
    simp [owned_local v.toOwns, act_bind, topSnapshot_owned v hstack, u]
  case freed =>
    rw [hu]
    exact copiesAt_accepted s h c.buffer.toNat e.depth

/-- The word of `snap.info` holds each count in its field: none is wider than its place. -/
theorem infoWord_fields (hrdepth : ∀ l ∈ s.stackOf h c.buffer.toNat, l.regionDepth < 16) (hdepth : e.depth ≤ 7) :
    (s.infoWord h e).toNat % 8 = e.depth ∧ (s.infoWord h e).toNat / 2 ^ 8 % 2 ^ 32 = (s.copiesAt h c.buffer.toNat e.depth).length % 2 ^ 32 ∧
      (s.infoWord h e).toNat / 2 ^ 40 = min 0xFFFFFF (s.poolFree h e.domain) := by
  have htop : (((s.stackOf h c.buffer.toNat).head?.map (·.regionDepth)).getD 0) < 16 := by
    cases hl : s.stackOf h c.buffer.toNat with
    | nil => simp
    | cons l ls => exact hrdepth l (hl ▸ List.mem_cons_self)
  have hkind : (((s.stackOf h c.buffer.toNat).head?.map (·.region.toNat)).getD 0) < 2 := by
    cases s.stackOf h c.buffer.toNat with
    | nil => simp
    | cons l ls => exact Bool.toNat_lt l.region
  have hfree : min 0xFFFFFF (s.poolFree h e.domain) ≤ 0xFFFFFF := min_le_left _ _
  simp only [State.infoWord, (entry_home v.entry).2, word, BitVec.toNat_ofNat]
  generalize ((s.stackOf h c.buffer.toNat).head?.map (·.regionDepth)).getD 0 = rdepth at htop
  generalize ((s.stackOf h c.buffer.toNat).head?.map (·.region.toNat)).getD 0 = kind at hkind
  generalize min 0xFFFFFF (s.poolFree h e.domain) = free at hfree
  omega

theorem snapInfo_reads (d : Reg) : exec (.snapInfo d a) s = .next (s.wroteX d (s.infoWord h e)) := by
  obtain ⟨hnull, hhost, hhandle, hslot⟩ := owned_kind v.toOwns
  have hentry := homeEntry_owned v.toDrained v.toOwns a (states := [.exclusive, .readShared, .foldShared, .execShared]) (by simp) true 3
  refine run_ok (t := { s with tile := s.tile.setX d (s.infoWord h e) }) v.toQuiet (misplaced_plain v.kpre) ?_
  rw [act_bind_ok (useCap_quiet v.toQuiet.armed a), v.reg]
  simp [act_bind, requireCap_run, hnull, hhost, hhandle, hslot, owned_local v.toOwns, lentStall_run v.lent, v.mode, hentry, setX_quiet v.toQuiet]

end

end Sys2Proof.Machine
end

section
/-! SUPPORT. `snap.reject` of a buffer whose addresses are physical: each line of the top level goes back to its copy (R157), and the snapshot instructions. -/

namespace Sys2Proof.Machine

open Sys2Proof

/-! ### Poison marks of a restored line (R157) -/

/-- `t` is `s` but for the poison marks, the count of marks in entries, and their records: tiles, memory, levels and copies are those of `s`. -/
structure State.Remarks (s t : State) : Prop where
  tile : t.tile = s.tile
  device : t.device = s.device
  armed : t.armed = s.armed
  mem : t.mem = s.mem
  levels : t.levels = s.levels
  copies : t.copies = s.copies
  entry : ∀ h b e, s.entry h b = some e → ∃ p, t.entry h b = some { e with poison := p }

theorem State.Remarks.refl (s : State) : s.Remarks s := ⟨rfl, rfl, rfl, rfl, rfl, rfl, fun _ _ e he => ⟨e.poison, he⟩⟩

theorem State.Remarks.trans {s t u : State} (h : s.Remarks t) (h' : t.Remarks u) : s.Remarks u where
  tile := h'.tile.trans h.tile
  device := h'.device.trans h.device
  armed := h'.armed.trans h.armed
  mem := h'.mem.trans h.mem
  levels := h'.levels.trans h.levels
  copies := h'.copies.trans h.copies
  entry := fun m b e he => by
    obtain ⟨p, hp⟩ := h.entry m b e he
    exact h'.entry m b { e with poison := p } hp

theorem mapEntry_remarks (s : State) (h : HomeId) (b : Nat) (f : DirEntry → Nat) : s.Remarks (s.mapEntry h b fun e => { e with poison := f e }) := by
  refine ⟨rfl, rfl, rfl, rfl, rfl, rfl, fun h' b' e he => ?_⟩
  rw [entry_mapEntry (f := fun e => { e with poison := f e }), he]
  by_cases hb : h' = h ∧ b' = b
  · exact ⟨f e, by simp [hb]⟩
  · exact ⟨e.poison, by simp [hb]⟩

theorem restoreMark_remarks (s : State) (h : HomeId) (b off key : Nat) (bad : Bool) : s.Remarks (s.restoreMark h b off key bad) := by
  have hmarks (ls : List Launch) (tr : Trust) (ms : List PoisonMark) : s.Remarks { s with launches := ls, trust := tr, poison := ms } :=
    ⟨rfl, rfl, rfl, rfl, rfl, rfl, fun _ _ e he => ⟨e.poison, he⟩⟩
  unfold State.restoreMark
  cases bad
  · rw [if_neg Bool.false_ne_true, State.clearPoison]
    dsimp only
    split
    · refine .trans ?_ (mapEntry_remarks _ h b fun e => e.poison - 1)
      split
      · next e _ =>
        obtain ⟨ls, ps, hrec⟩ := recordEvent_eq s h e (off / 64 * 64) 66 1 66 (s.injected.contains (key / 64))
        rw [State.recordPoison, hrec]
        exact hmarks ls _ _
      · exact hmarks _ _ _
    · exact .refl s
  · rw [if_pos rfl]
    dsimp only
    split
    · exact hmarks _ _ _
    · exact (hmarks _ _ _).trans (mapEntry_remarks _ h b fun e => min 65535 (e.poison + 1))

theorem remarks_foldl {α : Type} {f : State → α → State} (h : ∀ (s : State) (a : α), s.Remarks (f s a)) : ∀ (l : List α) (s : State), s.Remarks (l.foldl f s)
  | [], s => .refl s
  | a :: l, s => (h s a).trans (remarks_foldl h l (f s a))

/-! ### Lines of copies in memory -/

/-- Memory with the lines of copies written back, one after the other; `base` is the key of the first byte of the buffer. -/
def Memory.restored (m : Memory) (base : Nat) (cs : List LineCopy) : Memory := cs.foldl (fun m c => m.writeN (base + 256 * c.line) c.data) m

theorem read_restored_outside {base k : Nat} : ∀ (cs : List LineCopy) (m : Memory),
    (∀ c ∈ cs, k < base + 256 * c.line ∨ base + 256 * c.line + c.data.length ≤ k) → (m.restored base cs).read k = m.read k
  | [], _, _ => rfl
  | c :: cs, m, h => (read_restored_outside cs _ fun o ho => h o (List.mem_cons_of_mem c ho)).trans
      (mem_read_writeN_outside m _ c.data (h c List.mem_cons_self))

/-- Copies of different lines lie apart, so each is read back. -/
theorem read_restored_inside {base : Nat} : ∀ (cs : List LineCopy) (m : Memory), cs.Pairwise (fun o p => o.line ≠ p.line) → (∀ c ∈ cs, c.data.length ≤ 256) →
    ∀ c ∈ cs, ∀ j, (hj : j < c.data.length) → (m.restored base cs).read (base + 256 * c.line + j) = c.data[j]
  | [], _, _, _, c, hc, _, _ => absurd hc List.not_mem_nil
  | o :: cs, m, hp, hlen, c, hc, j, hj => by
    obtain ⟨hfirst, hrest⟩ := List.pairwise_cons.mp hp
    rcases List.mem_cons.mp hc with rfl | hc
    · have hapart : ∀ p ∈ cs, base + 256 * c.line + j < base + 256 * p.line ∨ base + 256 * p.line + p.data.length ≤ base + 256 * c.line + j := fun p hm => by
        have hl := hfirst p hm
        have hp256 := hlen p (List.mem_cons_of_mem c hm)
        have hc256 := hlen c List.mem_cons_self
        omega
      exact (read_restored_outside cs _ hapart).trans (mem_read_writeN_inside m _ c.data j hj)
    · exact read_restored_inside cs _ hrest (fun p hm => hlen p (List.mem_cons_of_mem o hm)) c hc j hj

/-! ### A reject at a home outside DMEM (R157) -/

/-- The key of the first byte of a buffer whose addresses are physical. -/
def Claim.baseKey (q : Claim) (e : DirEntry) : Nat := q.home.space.base + e.base

theorem restoreLine_direct {s : State} {q : Claim} (hq : q.home.isDmem = false) {e : DirEntry} (he : s.entry q.home q.buffer = some e) (c : LineCopy) :
    ∃ t : State, s.restoreLine q c = (true, t) ∧ State.Remarks { s with mem := s.mem.writeN (q.baseKey e + 256 * c.line) c.data } t := by
  have hkeys : q.home.space.base + (e.base + 256 * c.line) = q.baseKey e + 256 * c.line := (Nat.add_assoc _ _ _).symm
  unfold State.restoreLine
  simp only [he, locateN_direct s hq, writeCells_range, hkeys]
  refine ⟨_, rfl, .trans (remarks_foldl (fun s i => ?_) _ _) ⟨rfl, rfl, rfl, rfl, rfl, rfl, fun _ _ e he => ⟨e.poison, he⟩⟩⟩
  split
  · exact .refl s
  · exact restoreMark_remarks s _ _ _ _ _

/-- The records of other levels than the one that is rejected. -/
def State.otherLevels (s : State) (q : Claim) (d : Nat) : List LevelRecord := s.levels.filter fun l => !l.isAt q.home q.buffer d

/-- A change of the operation and the cursor of a record changes no other (R149). -/
theorem otherLevels_mapLevel (s : State) (q : Claim) (d : Nat) (f : LevelRecord → LevelRecord) (hf : ∀ l, (f l).isAt q.home q.buffer d = l.isAt q.home q.buffer d) :
    (s.mapLevel q.home q.buffer d f).otherLevels q d = s.otherLevels q d := by
  let g (l : LevelRecord) : LevelRecord := if l.isAt q.home q.buffer d then f l else l
  have hg : ∀ l, (g l).isAt q.home q.buffer d = l.isAt q.home q.buffer d := fun l => by
    dsimp only [g]
    split <;> [exact hf l; rfl]
  calc ((s.levels.map g).filter fun l => !l.isAt q.home q.buffer d) = (s.levels.filter fun l => !(g l).isAt q.home q.buffer d).map g := List.filter_map
    _ = (s.otherLevels q d).map g := by simp only [hg, State.otherLevels]
    _ = (s.otherLevels q d).map id := List.map_congr_left fun l hl => if_neg (by simpa [State.otherLevels] using (List.mem_filter.mp hl).2)
    _ = s.otherLevels q d := List.map_id _

/-- `s` without a copy that a reject has restored, which the record's cursor counts (R157). -/
def State.copyFreed (s : State) (q : Claim) (d : Nat) (c : LineCopy) : State :=
  ({ s with copies := s.copies.filter fun o => o ≠ c } : State).mapLevel q.home q.buffer d fun l => { l with cursor := l.cursor + 1 }

theorem otherLevels_copyFreed (s : State) (q : Claim) (d : Nat) (c : LineCopy) : (s.copyFreed q d c).otherLevels q d = s.otherLevels q d :=
  otherLevels_mapLevel _ q d (fun l => { l with cursor := l.cursor + 1 }) fun _ => rfl

/-- `t` is `s` after the copies `cs` of the level `d` have been restored and freed. -/
structure State.Restores (s t : State) (q : Claim) (e : DirEntry) (d : Nat) (cs : List LineCopy) : Prop where
  tile : t.tile = s.tile
  device : t.device = s.device
  armed : t.armed = s.armed
  mem : t.mem = s.mem.restored (q.baseKey e) cs
  levels : t.otherLevels q d = s.otherLevels q d
  freed : ∀ c ∈ t.copies, c ∈ s.copies ∧ c ∉ cs
  entry : ∃ p, t.entry q.home q.buffer = some { e with poison := p }

theorem restoreCopies_direct {q : Claim} (hq : q.home.isDmem = false) (d : Nat) : ∀ (cs : List LineCopy) {s : State} {e : DirEntry},
    s.entry q.home q.buffer = some e → ∃ t : State, s.restoreCopies q d cs = (true, t) ∧ s.Restores t q e d cs
  | [], s, e, he => ⟨s, rfl, rfl, rfl, rfl, rfl, rfl, fun c hc => ⟨hc, List.not_mem_nil⟩, e.poison, he⟩
  | c :: cs, s, e, he => by
    obtain ⟨u, hline, hu⟩ := restoreLine_direct hq he c
    obtain ⟨p, hp⟩ := hu.entry q.home q.buffer e he
    obtain ⟨t, hrest, ht⟩ := restoreCopies_direct hq d cs (s := u.copyFreed q d c) hp
    have hbase : q.baseKey { e with poison := p } = q.baseKey e := rfl
    refine ⟨t, ?_, ht.tile.trans hu.tile, ht.device.trans hu.device, ht.armed.trans hu.armed, ?_, ?_, fun o ho => ?_, ht.entry⟩
    · rw [State.restoreCopies, hline]
      exact hrest
    · rw [ht.mem, hbase]
      exact congrArg (fun m : Memory => m.restored (q.baseKey e) cs) hu.mem
    · rw [ht.levels, otherLevels_copyFreed]
      exact congrArg (List.filter fun l => !l.isAt q.home q.buffer d) hu.levels
    · obtain ⟨hin, hnot⟩ := ht.freed o ho
      obtain ⟨hmem, hne⟩ := List.mem_filter.mp hin
      have hs : o ∈ s.copies := by rw [hu.copies] at hmem; exact hmem
      exact ⟨hs, fun hcons => (List.mem_cons.mp hcons).elim (by simpa using hne) hnot⟩

/-- A reject restores and frees every copy of the top level, and drops its record (R157). -/
theorem rejectTop_direct {s : State} {q : Claim} (hq : q.home.isDmem = false) {e : DirEntry} (he : s.entry q.home q.buffer = some e) :
    ∃ (cs : List LineCopy) (t : State), s.rejectTop q = (true, t) ∧ cs.Perm (s.copiesAt q.home q.buffer e.depth) ∧ t.tile = s.tile ∧ t.device = s.device ∧
      t.armed = s.armed ∧ t.mem = s.mem.restored (q.baseKey e) cs ∧ t.levels = s.otherLevels q e.depth ∧ t.copiesAt q.home q.buffer e.depth = [] ∧
      ∃ p, t.entry q.home q.buffer = some { e with poison := p, depth := e.depth - 1 } := by
  let u := s.mapLevel q.home q.buffer e.depth fun l => { l with operation := 2 }
  let cs := (s.copiesAt q.home q.buffer e.depth).insertionSort fun a b => a.line ≤ b.line
  have hperm : cs.Perm (s.copiesAt q.home q.buffer e.depth) := List.perm_insertionSort _ _
  obtain ⟨t, hrun, ht⟩ := restoreCopies_direct hq e.depth cs (s := u) he
  obtain ⟨p, hp⟩ := ht.entry
  refine ⟨cs, t.popLevel q.home q.buffer e.depth, ?_, hperm, ht.tile, ht.device, ht.armed, ht.mem, ?_, ?_, p, entry_popLevel hp e.depth⟩
  · have hcopies : s.rejectCopies q = (true, t) := by
      rw [State.rejectCopies, he]
      exact hrun
    have hdepth : ((t.entry q.home q.buffer).map (·.depth)).getD 0 = e.depth := by rw [hp]; rfl
    rw [← hdepth, State.rejectTop, hcopies]
  · exact ht.levels.trans (otherLevels_mapLevel s q e.depth (fun l => { l with operation := 2 }) fun _ => rfl)
  · refine List.filter_eq_nil_iff.mpr fun c hc htop => ?_
    obtain ⟨hin, hnot⟩ := ht.freed c hc
    exact hnot (hperm.mem_iff.mpr (List.mem_filter.mpr ⟨hin, htop⟩))

/-! ### The instruction -/

/-- A tile with an empty L1 has no sector of a restored line (R157). -/
theorem forgetRestored_nil {s : State} (hl : s.tile.l1 = []) (h : HomeId) (b : Nat) (lines : List Nat) : s.forgetRestored h b lines = s := by
  cases s with
  | mk tile =>
    cases tile
    simp_all [State.forgetRestored]

theorem snapReject_restores {s : State} {a : Reg} {c : Cap} {h : HomeId} {e : DirEntry} (v : s.Snaps a c h e) (hh : h.isDmem = false)
    (hstack : s.stackOf h c.buffer.toNat ≠ []) :
    ∃ (cs : List LineCopy) (t : State), exec (.snapReject a) s = .next t ∧ cs.Perm (s.copiesAt h c.buffer.toNat e.depth) ∧ s.SnapsTo t a c h e (e.depth - 1) ∧
      t.levels = s.levels.filter (fun l => !l.isAt h c.buffer.toNat e.depth) ∧ t.copiesAt h c.buffer.toNat e.depth = [] ∧
      t.mem = s.mem.restored (h.space.base + e.base) cs := by
  obtain ⟨cs, u, hreject, hperm, htile, hdevice, harmed, hmem, hlevels, hfreed, p, hentry⟩ := rejectTop_direct (q := s.claim h c s.tile) hh v.entry
  refine ⟨cs, _, snapEnd_next v (u := u) ?_ htile harmed hentry, hperm, atDepth_snapsTo v htile hdevice hentry, hlevels, hfreed, hmem⟩
  rw [act_bind_ok (guardC30_run _ (by simpa using v.named.symm) s), act_bind_ok (snapBegin_owned v.toDrained v.toOwns v.unkept v.reg rfl)]
  simp [owned_local v.toOwns, act_bind, topSnapshot_owned v hstack, forgetRestored_nil v.cache, hreject]

/-- Settles O48: each instruction from what its home does to the levels, the copies and the lines of the buffer. -/
theorem snapshotResults : Obligations.SnapshotResults := by
  intro s d a h e hq hs hl hk hne c buf top o
  have v : s.Snaps a c h e := { hq, hs, o with unkept := hl, kpre := hk, reg := rfl, named := hne }
  refine ⟨snapTake_pushes v, snapAccept_drops v, fun i hi hstack hlines hlen => ?reject,
    fun hrdepth hdepth => ⟨_, snapInfo_reads v d, infoWord_fields v hrdepth hdepth⟩⟩
  case reject =>
    subst hi
    obtain ⟨cs, t, hrun, hperm, hto, hlevels, hfreed, hmem⟩ := snapReject_restores v rfl hstack
    have hkey (n : Nat) : tmemKey i (e.base + n) = (HomeId.tile i).space.base + e.base + n := (Nat.add_assoc _ _ _).symm
    refine ⟨t, hrun, hto, hlevels, hfreed, fun o ho j hj => ?_, fun key hkeys => ?_⟩
    · rw [hmem, Nat.add_assoc, hkey, ← Nat.add_assoc]
      exact read_restored_inside cs s.mem ((hperm.pairwise_iff fun h => h.symm).mpr hlines) (fun p hp => hlen p (hperm.mem_iff.mp hp)) o (hperm.mem_iff.mpr ho) j hj
    · rw [hmem]
      exact read_restored_outside cs s.mem fun o ho => by simpa [hkey] using hkeys o (hperm.mem_iff.mp ho)

end Sys2Proof.Machine
end

section
/-! SUPPORT. Saves in an open region, and the instructions that open and close regions and push region levels (R165, R367, R368, R372, R377). -/

namespace Sys2Proof.Machine

open Sys2Proof

/-! ### Region stacks and saves (R368) -/

/-- `s` with a region stack of its tile's level. -/
def State.withRegions (s : State) (l : List Region) : State := { s with tile := s.tile.setRegions l }

@[simp] theorem Tile.setX_openRegions (t : Tile) (d : Reg) (w : Word) : (t.setX d w).openRegions = t.openRegions := by simp [Tile.openRegions]

@[simp] theorem Tile.setC_openRegions (t : Tile) (d : Reg) (c : Cap) : (t.setC d c).openRegions = t.openRegions := by simp [Tile.openRegions]

@[simp] theorem openRegions_setRegions (t : Tile) (l : List Region) : (t.setRegions l).openRegions = l := by
  rw [Tile.openRegions, Tile.setRegions, vector_get_set, if_pos rfl]

theorem withRegions_self (s : State) : s.withRegions s.tile.openRegions = s := by
  have hset : s.tile.regions.set s.tile.level.val s.tile.openRegions = s.tile.regions := Vector.set_getElem_self _
  rw [State.withRegions, Tile.setRegions, hset]

theorem savedOf_x {t : Tile} {d : Reg} (hd : d ≠ 0) : t.savedOf (.x d) = some (.x d (t.rx d)) := if_neg hd

theorem savedOf_c {t : Tile} {d : Reg} (hd : d ≠ 0) : t.savedOf (.c d) = some (.c d (t.rc d)) := if_neg hd

theorem savedOf_item {t : Tile} {i : Item} {v : Saved} (h : t.savedOf i = some v) : v.item = i := by
  cases i with
  | x r =>
    rw [Tile.savedOf] at h
    split at h <;> cases h
    rfl
  | c r =>
    rw [Tile.savedOf] at h
    split at h <;> cases h
    rfl
  | acc => cases h
  | updateLine => cases h
  | _ => cases h; rfl

/-- Whether a region has an item. -/
def Region.has (r : Region) (i : Item) : Bool := r.saved.any fun o => o.item = i

/-- A region after it has saved a value, once per item. -/
def Region.saving (r : Region) (v : Saved) : Region := if r.has v.item then r else { r with saved := v :: r.saved }

theorem has_saving (r : Region) (v : Saved) : (r.saving v).has v.item = true := by
  unfold Region.saving
  split
  · assumption
  · simp [Region.has]

section
variable {s : State} {r : Region} {rest : List Region} (hr : s.tile.openRegions = r :: rest)
include hr

/-- A save goes to the innermost region, once per item, as far as the undo pool has room. -/
theorem saveValue_open (v : Saved) : saveValue v s = if r.has v.item then .ok () s
    else if s.tile.undoUsed + v.size > s.tile.undoSize then .error (.trap 28 0) s
    else .ok () (s.withRegions ({ r with saved := v :: r.saved } :: rest)) := by
  simp only [saveValue, act_bind_ok (curTile_run s), hr, act_ite]
  rfl

omit hr in
theorem saveItems_one {t : State} {i : Item} {v : Saved} (hv : s.tile.savedOf i = some v) (h : saveValue v s = .ok () t) : saveItems [i] s = .ok () t := by
  simp [saveItems, whole, saveEach, act_bind, hv, h]

variable {i : Item} {v : Saved} (hv : s.tile.savedOf i = some v)
include hv

theorem saveItems_room (hroom : s.tile.undoUsed + v.size ≤ s.tile.undoSize) :
    saveItems [i] s = .ok () (s.withRegions (r.saving v :: rest)) := by
  refine saveItems_one hv ((saveValue_open hr v).trans ?_)
  unfold Region.saving
  split
  · rw [← hr, withRegions_self]
  · rw [if_neg (Nat.not_lt.mpr hroom)]

/-- What the region has is not saved again. -/
theorem saveItems_kept (hhas : r.has i = true) : saveItems [i] s = .ok () s :=
  saveItems_one hv ((saveValue_open hr v).trans (if_pos (by rwa [savedOf_item hv])))

end

/-- An instruction that is no jump and no end of a loop is its action and what follows, in a region too. -/
theorem run_inLine {s : State} (hk : s.tile.kpre = none) (hl : s.tile.atLoopEnd = false) (i : Instr) (a : Act Unit) : run {} i a s = finish s (a s) := by
  simp [run, misplaced_plain hk, hl]

/-- R225, R254, R368: the first write of a register in a region saves the old value. -/
theorem addi_saves {s : State} (ha : s.armed = []) (hk : s.tile.kpre = none) (hl : s.tile.atLoopEnd = false) {r : Region} {rest : List Region}
    (hr : s.tile.openRegions = r :: rest) {d a : Reg} {imm : BitVec 12} (hd : d ≠ 0) (hnew : r.has (.x d) = false) (hroom : s.tile.undoUsed + 8 ≤ s.tile.undoSize) :
    ∃ t : State, exec (.addi d a imm) s = .next t ∧ t.tile.openRegions = { r with saved := .x d (s.tile.rx d) :: r.saved } :: rest ∧
      t.tile.rx d = s.tile.rx a + imm.signExtend 64 := by
  let u : State := s.withRegions ({ r with saved := .x d (s.tile.rx d) :: r.saved } :: rest)
  let w : Word := s.tile.rx a + imm.signExtend 64
  have hsaving : r.saving (.x d (s.tile.rx d)) = { r with saved := .x d (s.tile.rx d) :: r.saved } := if_neg (by rw [Saved.item, hnew]; exact Bool.false_ne_true)
  have hsave := saveItems_room hr (savedOf_x hd) hroom
  rw [hsaving] at hsave
  have hset : setX d w s = .ok () { u with tile := u.tile.setX d w } := by
    rw [setX, act_bind_ok hsave, act_bind_ok (act_modify _ _), rearm_nil (s := u) ha]
    rfl
  have hact : (getX a >>= fun x => setX d (x + sext imm)) s = .ok () { u with tile := u.tile.setX d w } := (act_bind_ok (getX_quiet ha a)).trans hset
  refine ⟨_, (run_inLine hk hl _ _).trans (congrArg (finish s) hact), ?_, ?_⟩
  · simp [u, State.withRegions]
  · simp [Tile.rx_setX, hd, w]

/-! ### Opening a region (R367) -/

/-- The region that `rgn.open` makes. -/
def State.newRegion (s : State) (d : Reg) : Region :=
  { dest := d, pc := s.tile.pc, jobSerial := s.tile.jobSerial, msgrecv := s.tile.msgrecv, sidingFill := s.tile.siding.length, levelSeq := s.levelSeq }

theorem rgnOpen_opens {s : State} (ha : s.armed = []) (hk : s.tile.kpre = none) (hl : s.tile.atLoopEnd = false) (hopen : s.tile.openRegions = [])
    (hcount : (s.tile.regions.toList.map List.length).sum < 8) (hroom : s.tile.undoUsed + 64 ≤ s.tile.undoSize) (d : Reg) :
    ∃ t r, exec (.rgnOpen d) s = .next t ∧ t.tile.openRegions = [r] ∧ r.dest = d ∧ r.pc = s.tile.pc ∧ r.saved = [] ∧ r.levelSeq = s.levelSeq ∧
      (∀ q, t.tile.rx q = if q = d then 0 else s.tile.rx q) ∧ t.tile.c = s.tile.c ∧ t.mem = s.mem := by
  let u : Tile := (s.tile.setX d 0).setRegions [s.newRegion d]
  have hrx (q : Reg) : u.rx q = if q = d then 0 else s.tile.rx q := by
    refine (Tile.rx_setX s.tile d q 0).trans ?_
    by_cases hq : q = d
    · subst hq
      by_cases h0 : q = 0 <;> simp [h0]
    · simp [hq]
  refine ⟨({ s with tile := u } : State).retired u, s.newRegion d, (run_inLine hk hl _ _).trans ?_, ?_, rfl, rfl, rfl, rfl, fun q => ?_, ?_, rfl⟩
  · simp [whole, act_bind, Nat.not_le.mpr hcount, saveItems_quiet hopen, Nat.not_lt.mpr hroom, rearm_nil ha, State.retired, u, hopen, State.newRegion]
  · exact (Tile.retire_openRegions u).trans (openRegions_setRegions _ _)
  · exact (Tile.retire_rx u q).trans (hrx q)
  · simp [State.retired, u, Tile.setRegions]

theorem rgnOpen_full {s : State} (hk : s.tile.kpre = none) (hl : s.tile.atLoopEnd = false) (hcount : (s.tile.regions.toList.map List.length).sum ≥ 8) (d : Reg) :
    exec (.rgnOpen d) s = .next (s.takeTrap 28 2) := by
  refine (run_inLine hk hl _ _).trans ?_
  simp [whole, act_bind, hcount]

/-! ### Keeping a range (R165, R372) -/

theorem rgnKeep_pushes {s : State} (hs : s.Drained) (hk : s.tile.kpre = none) (hl : s.tile.atLoopEnd = false) {r : Region} {rest : List Region}
    (hr : s.tile.openRegions = r :: rest) {d a b : Reg} {h : HomeId} {e : DirEntry} (hd : d ≠ 30) (o : s.Owns (s.tile.rc d) h e) (hw : (s.tile.rc d).rights.w = true)
    (hlen : (s.tile.rx b).toNat ≠ 0) (hend : (s.tile.rx a).toNat + (s.tile.rx b).toNat ≤ (s.tile.rc d).length.toNat) (hdepth : e.depth < 7)
    (hpool : s.poolFree h e.domain ≠ 0) (hroom : s.tile.undoUsed + 32 ≤ s.tile.undoSize) :
    ∃ t : State, exec (.rgnKeep d a b) s = .next t ∧
      t.nowHas h (s.tile.rc d).buffer.toNat (fun o => o.depth = e.depth + 1 ∧ o.state = .exclusive ∧ o.generation = e.generation) ∧
      t.tile.rc d = s.sign { s.tile.rc d with depth := BitVec.ofNat 3 (e.depth + 1) } ∧ t.mem = s.mem ∧
      ∃ l, t.levels = s.levels ++ [l] ∧ l.home = h ∧ l.buffer = e.number ∧ l.level = e.depth + 1 ∧ l.region = true ∧
        l.firstLine = (s.tile.rx a).toNat / 256 ∧ l.lastLine = ((s.tile.rx a).toNat + (s.tile.rx b).toNat - 1) / 256 ∧ l.byTile = s.tile.index ∧
        l.byLevel = s.tile.level := by
  have hn := (entry_home o.entry).2
  have hd0 := owned_reg_ne_zero o rfl
  let saved : State := s.withRegions (r.saving (.c d (s.tile.rc d)) :: rest)
  have hsave : saveItems [.c d] s = .ok () saved := saveItems_room hr (savedOf_c hd0) hroom
  have he : saved.entry h e.number = some e := hn ▸ o.entry
  let u := saved.pushLevel h e.number true s.tile.depth ((s.tile.rx a).toNat / 256) (((s.tile.rx a).toNat + (s.tile.rx b).toNat - 1) / 256)
    (s.tile.principal s.device) s.tile.index s.tile.level
  have hu : u = _ := pushLevel_eq he _ _ _ _ _ _ _
  have hentry : u.entry h (s.tile.rc d).buffer.toNat = some { e with depth := e.depth + 1 } := hn ▸ entry_pushLevel he _ _ _ _ _ _ _
  have hopen : u.ungranted.tile.openRegions = r.saving (.c d (s.tile.rc d)) :: rest := by
    rw [hu]
    exact openRegions_setRegions _ _
  have hagain : saveItems [.c d] u.ungranted = .ok () u.ungranted := saveItems_kept hopen (savedOf_c hd0) (has_saving r (.c d (s.tile.rc d)))
  have hdone := snapEnd_run (s := u) (by rw [hu]; exact hs.armed) hagain hentry
  refine ⟨_, (run_inLine hk hl _ _).trans (congrArg (finish s) (Eq.trans ?act hdone)), ⟨_, hentry, rfl, o.state, rfl⟩, ?_, by rw [hu]; rfl, _, by rw [hu]; rfl,
    rfl, rfl, rfl, rfl, rfl, rfl, rfl, rfl⟩
  case act =>
    have hin : s.tile.inRegion = true := by simp [Tile.inRegion, hr]
    have hguard := guardC30_run (.rgnKeep d a b) (rs := [d]) (by simpa using hd.symm) s
    simp [act_bind, hguard, hin, getX_quiet hs.armed, levelCap_owned hs o (right := (·.w)) rfl hw, requireCap_run, hlen, hend, lentStall_run o.lent, drain_owned hs o,
      owned_local o, homeEntry_owned hs o, Nat.not_le.mpr hdepth, hpool, hsave, snapEnd, u]
  · refine (Tile.retire_rc _ d).trans ?_
    rw [atDepth_rc _ hd0, if_pos rfl]
    exact sign_congr (by rw [hu]; rfl) _

/-! ### Closing a region (R377) -/

/-- Ring records apart, `t` is `s`. -/
def State.OnlyRings (s t : State) : Prop := ∃ rings, t = { s with rings := rings }

theorem State.OnlyRings.tile {s t : State} (h : s.OnlyRings t) : t.tile = s.tile := by
  obtain ⟨_, rfl⟩ := h
  rfl

theorem onlyRings_foldl {α : Type} {f : State → α → State} (h : ∀ (s : State) (a : α), s.OnlyRings (f s a)) : ∀ (l : List α) (s : State), s.OnlyRings (l.foldl f s)
  | [], _ => ⟨_, rfl⟩
  | a :: l, s => by
    obtain ⟨_, hfirst⟩ := h s a
    obtain ⟨_, hrest⟩ := onlyRings_foldl h l (f s a)
    rw [List.foldl_cons, hrest, hfirst]
    exact ⟨_, rfl⟩

theorem settleSlots_onlyRings (s : State) (l : List (Nat × Nat × Nat)) : s.OnlyRings (s.settleSlots l) := onlyRings_foldl (fun _ _ => ⟨_, rfl⟩) l s

theorem rewindSlots_onlyRings (s : State) (l : List (Nat × Nat × Nat)) : s.OnlyRings (s.rewindSlots l) := onlyRings_foldl (fun _ _ => ⟨_, rfl⟩) (ringsOf l) s

/-- Where no level stands here or in a spore, a tile has made none. -/
theorem levelsSince_none {s : State} (hl : s.levels = []) (hs : s.spores = []) (tile : Nat) (lv : Level) (seq : Nat) : s.levelsSince tile lv seq = [] := by
  simp [State.levelsSince, State.levelsAway, hl, hs]

theorem rgnClose_outermost {s : State} (hk : s.tile.kpre = none) (hl : s.tile.atLoopEnd = false) {r : Region} (hr : s.tile.openRegions = [r]) (hj : s.tile.jobs = [])
    (hlevels : s.levels = []) (hspores : s.spores = []) (hundo : s.undoLost = false) :
    ∃ t : State, exec .rgnClose s = .next t ∧ t.tile.openRegions = [] ∧
      t.tile.releasePath = s.tile.releasePath ++ s.tile.siding.filter (fun h => decide (h.level = s.tile.level)) ∧
      t.tile.siding = s.tile.siding.filter (fun h => decide (h.level ≠ s.tile.level)) ∧ t.tile.x = s.tile.x ∧ t.tile.c = s.tile.c ∧ t.mem = s.mem := by
  obtain ⟨rings, hsettle⟩ := settleSlots_onlyRings s r.slots
  have hclose : closeRegion .rgnClose s = .ok () { s with rings := rings, tile := s.tile.closeOuter } := by
    simp [closeRegion, act_bind, hr, hj, levelsSince_none hlevels hspores, hundo, State.acceptLevels, hsettle]
  refine ⟨_, (run_inLine hk hl _ _).trans (congrArg (finish s) hclose), ?_, ?_, ?_, ?_, ?_, rfl⟩
  · exact (Tile.retire_openRegions _).trans (openRegions_setRegions s.tile [])
  · simp [Tile.closeOuter]
  · simp [Tile.closeOuter]
  · simp [Tile.closeOuter, Tile.setRegions]
  · simp [Tile.closeOuter, Tile.setRegions]

/-- Outside a region `rgn.close` and `rgn.abort` are illegal (R376, R377). -/
theorem closeAndAbort_outside {s : State} (hk : s.tile.kpre = none) (hl : s.tile.atLoopEnd = false) (hopen : s.tile.openRegions = []) (cause : BitVec 8) :
    exec .rgnClose s = .next (s.takeTrap 2 (instrWord .rgnClose)) ∧ exec (.rgnAbort cause) s = .next (s.takeTrap 2 (instrWord (.rgnAbort cause))) := by
  refine ⟨(run_inLine hk hl _ _).trans ?_, (run_inLine hk hl _ _).trans ?_⟩
  · simp [closeRegion, act_bind, hopen]
  · simp [act_bind, inRegion_quiet hopen]

end Sys2Proof.Machine
end

section
/-! SUPPORT. The rollback of the innermost region: what the restore of a saved item changes, and the tile after it (R368, R373, R374, R376). -/

namespace Sys2Proof.Machine

open Sys2Proof

/-! ### Restoring saved items (R368) -/

/-- `u` has the level, the gang and the failing register of `t`. -/
structure Tile.SameStand (t u : Tile) : Prop where
  level : u.level = t.level
  gang : u.gang = t.gang
  failing : u.failing = t.failing

theorem Tile.SameStand.trans {t u v : Tile} (h : t.SameStand u) (h' : u.SameStand v) : t.SameStand v :=
  ⟨h'.level.trans h.level, h'.gang.trans h.gang, h'.failing.trans h.failing⟩

/-- `u` has the x registers of `t` besides. -/
structure Tile.SameX (t u : Tile) : Prop extends t.SameStand u where
  x : u.x = t.x

theorem sameX_ite {p : Prop} [Decidable p] {t u v : Tile} (hu : t.SameX u) (hv : t.SameX v) : t.SameX (if p then u else v) := by
  split <;> assumption

/-- Each saved CSR stands in fields of its own (R368). -/
theorem setSavedCsr_sameX (t : Tile) (n : BitVec 12) (w : Word) : t.SameX (t.setSavedCsr n w) := by
  unfold Tile.setSavedCsr
  repeat' refine sameX_ite ?_ ?_
  all_goals exact ⟨⟨rfl, rfl, rfl⟩, rfl⟩

theorem Tile.SameX.rx {t u : Tile} (h : t.SameX u) (n : Reg) : u.rx n = t.rx n := by rw [Tile.rx, Tile.rx, h.x, h.level]

theorem restore_x_tile (s : State) (k : Nat) (r : Reg) (w : Word) : (s.restore k (.x r w)).tile = s.tile.setX r w := rfl

/-- No other item stands in the x registers. -/
theorem restore_sameX (s : State) (k : Nat) {v : Saved} (h : ∀ n, v.item ≠ .x n) : s.tile.SameX (s.restore k v).tile := by
  cases v with
  | x r w => exact absurd rfl (h r)
  | v r w => exact ⟨⟨rfl, rfl, rfl⟩, rfl⟩
  | c r c => exact ⟨⟨Tile.setC_level .., Tile.setC_gang .., Tile.setC_failing ..⟩, Tile.setC_x ..⟩
  | csr n w => exact setSavedCsr_sameX s.tile n w
  | loop l => exact ⟨⟨rfl, rfl, rfl⟩, rfl⟩
  | acc n content rows cols => cases content <;> exact ⟨⟨rfl, rfl, rfl⟩, rfl⟩
  | line l =>
    rw [State.restore]
    split
    · split <;> exact ⟨⟨rfl, rfl, rfl⟩, rfl⟩
    · exact ⟨⟨rfl, rfl, rfl⟩, rfl⟩

theorem restore_sameStand (s : State) (k : Nat) (v : Saved) : s.tile.SameStand (s.restore k v).tile := by
  by_cases h : ∃ n, v.item = .x n
  · obtain ⟨n, hn⟩ := h
    cases v <;> cases hn
    exact ⟨Tile.setX_level .., Tile.setX_gang .., Tile.setX_failing ..⟩
  · exact (restore_sameX s k fun n hn => h ⟨n, hn⟩).toSameStand

theorem restore_rx_same (s : State) (k : Nat) {n : Reg} (hn : n ≠ 0) (w : Word) : (s.restore k (.x n w)).tile.rx n = w := by
  rw [restore_x_tile, Tile.rx_setX, if_pos ⟨rfl, hn⟩]

theorem restore_rx_other (s : State) (k : Nat) {n : Reg} {v : Saved} (h : v.item ≠ .x n) : (s.restore k v).tile.rx n = s.tile.rx n := by
  cases v with
  | x r w => rw [restore_x_tile, Tile.rx_setX, if_neg fun hn => h (by rw [hn.1]; rfl)]
  | _ => exact (restore_sameX s k fun _ hn => by cases hn).rx n

theorem restores_sameStand (k : Nat) : ∀ (l : List Saved) (s : State), s.tile.SameStand (l.foldl (fun s v => s.restore k v) s).tile
  | [], _ => ⟨rfl, rfl, rfl⟩
  | v :: l, s => (restore_sameStand s k v).trans (restores_sameStand k l (s.restore k v))

theorem restores_rx_unsaved (k : Nat) {n : Reg} : ∀ (l : List Saved) (s : State), (∀ v ∈ l, v.item ≠ .x n) →
    (l.foldl (fun s v => s.restore k v) s).tile.rx n = s.tile.rx n
  | [], _, _ => rfl
  | v :: l, s, h => (restores_rx_unsaved k l _ fun o ho => h o (List.mem_cons_of_mem v ho)).trans (restore_rx_other s k (h v List.mem_cons_self))

/-- Of items saved once each, a register gets the value of its own. -/
theorem restores_rx_saved (k : Nat) {n : Reg} (hn : n ≠ 0) {w : Word} : ∀ (l : List Saved) (s : State), l.Pairwise (fun o p => o.item ≠ p.item) → .x n w ∈ l →
    (l.foldl (fun s v => s.restore k v) s).tile.rx n = w
  | [], _, _, h => absurd h List.not_mem_nil
  | v :: l, s, hp, h => by
    obtain ⟨hfirst, hrest⟩ := List.pairwise_cons.mp hp
    rcases List.mem_cons.mp h with rfl | h
    · exact (restores_rx_unsaved k l _ fun o ho => (hfirst o ho).symm).trans (restore_rx_same s k hn w)
    · exact restores_rx_saved k hn l _ hrest h

/-! ### The last part of a rollback (R374) -/

theorem leaveGang_alone {s : State} (hg : s.tile.gang.member = false) : s.leaveGang = s := by
  simp [State.leaveGang, Tile.leads, hg]

theorem stillFails_none {s : State} (hf : s.tile.failing = none) : s.stillFails = s := by
  simp [State.stillFails, hf]

/-- The last steps of a rollback of one region: lines and queues first, then the saved items, then the region as it was opened and the cause in its destination. -/
theorem finishRollback_reopens (s : State) (lv : Level) (k cause : Nat) (r : Region) (outer : List Region) : ∃ (m w : State) (v : Tile),
    s.finishRollback lv k cause [r] r outer = w.leaveGang.stillFails ∧ w.tile = v.setX r.dest (word cause) ∧ v.pc = r.pc + 4 ∧
      v.openRegions = { r with saved := [], pinned := 0, slots := [] } :: outer ∧ (r.saved.foldl (fun s v => s.restore k v) m).tile.SameX v ∧
      s.tile.SameStand m.tile ∧ ∀ n, m.tile.rx n = s.tile.rx n := by
  unfold State.finishRollback
  extract_lets t rewound keep saved lines restored restoredTile swept queue xqueue sweptTile requeued items itemsTile reopened rearmed destined
  have hsaved : saved = r.saved := List.flatMap_singleton _ _
  have hrewound : rewound.tile = s.tile := (rewindSlots_onlyRings s _).tile
  have hlines : ∀ v ∈ lines, ∀ n, v.item ≠ .x n := fun v hv n hn => by
    have hline := (List.mem_filter.mp hv).2
    cases v <;> cases hn
    cases hline
  have hstand : s.tile.SameStand restored.tile := hrewound ▸ restores_sameStand k lines rewound
  have hrx (n : Reg) : restored.tile.rx n = s.tile.rx n :=
    (restores_rx_unsaved k lines rewound fun v hv => hlines v hv n).trans (congrArg (Tile.rx · n) hrewound)
  refine ⟨requeued, destined, reopened.tile, rfl, rfl, rfl, openRegions_setRegions items.tile _, ?_, ⟨hstand.level, hstand.gang, hstand.failing⟩, hrx⟩
  rw [← hsaved]
  exact ⟨⟨rfl, rfl, rfl⟩, rfl⟩

/-- `t` is after the rollback of a region with a cause: at the instruction after its `rgn.open`, in the region as it was opened, the saved x registers at their
old values, and the cause in the destination. -/
structure State.RollsBack (s t : State) (cause : Nat) (r : Region) (outer : List Region) : Prop where
  pc : t.tile.pc = r.pc + 4
  regions : t.tile.openRegions = { r with saved := [], pinned := 0, slots := [] } :: outer
  dest : r.dest ≠ 0 → t.tile.rx r.dest = word cause
  saved : ∀ n w, n ≠ r.dest → n ≠ 0 → Saved.x n w ∈ r.saved → t.tile.rx n = w
  unsaved : ∀ n, n ≠ r.dest → (∀ w, Saved.x n w ∉ r.saved) → t.tile.rx n = s.tile.rx n

theorem finishRollback_rollsBack {s : State} (hg : s.tile.gang.member = false) (hf : s.tile.failing = none) {r : Region}
    (hp : r.saved.Pairwise (fun o p => o.item ≠ p.item)) (lv : Level) (k cause : Nat) (outer : List Region) :
    s.RollsBack (s.finishRollback lv k cause [r] r outer) cause r outer := by
  obtain ⟨m, w, v, hfinish, hw, hpc, hregions, hitems, hstand, hrx⟩ := finishRollback_reopens s lv k cause r outer
  have hv : s.tile.SameStand v := (hstand.trans (restores_sameStand k r.saved m)).trans hitems.toSameStand
  have hgang : w.tile.gang = s.tile.gang := by rw [hw, Tile.setX_gang, hv.gang]
  have hfailing : w.tile.failing = s.tile.failing := by rw [hw, Tile.setX_failing, hv.failing]
  have hend : s.finishRollback lv k cause [r] r outer = w := by
    rw [hfinish, leaveGang_alone (by rw [hgang]; exact hg), stillFails_none (hfailing.trans hf)]
  have hother {n : Reg} (hn : n ≠ r.dest) : w.tile.rx n = (r.saved.foldl (fun s v => s.restore k v) m).tile.rx n := by
    rw [hw, Tile.rx_setX, if_neg fun h => hn h.1, hitems.rx]
  rw [hend]
  refine ⟨by rw [hw, Tile.setX_pc, hpc], by rw [hw, Tile.setX_openRegions, hregions], fun hd => by rw [hw, Tile.rx_setX, if_pos ⟨rfl, hd⟩],
    fun n x hn h0 hx => (hother hn).trans (restores_rx_saved k h0 r.saved m hp hx), fun n hn hx => ?_⟩
  refine (hother hn).trans ((restores_rx_unsaved k r.saved m fun o ho hi => ?_).trans (hrx n))
  cases o <;> cases hi
  exact hx _ ho

/-! ### `rgn.abort` (R373, R376) -/

/-- With no job, no level and no remote operation to wait for, the rollback of the innermost region runs at once. -/
theorem rollbackRun_finishes {s : State} {r : Region} {rest : List Region} (hr : s.tile.openRegions = r :: rest) (hj : s.tile.jobs = []) (hl : s.levels = [])
    (hs : s.spores = []) (hu : s.undoLost = false) (hm : s.tile.remotes = []) {cause : Nat} (hb : s.tile.rollbacks = [(s.tile.level, s.tile.depth, cause)]) :
    s.rollbackRun = s.finishRollback s.tile.level s.tile.depth cause [r] r rest := by
  have hopen : s.tile.regions.get s.tile.level = r :: rest := hr
  have hfind : (s.tile.rollbacks.find? fun p => p.1 = s.tile.level) = some (s.tile.level, s.tile.depth, cause) := by simp [hb]
  have hself : ({ s with tile := { s.tile with jobs := [] } } : State) = s := by rw [← hj]
  have hlevels : s.levelsAbove (s.levelsSince s.tile.index s.tile.level r.levelSeq) = [] := by
    rw [levelsSince_none hl hs]
    simp [State.levelsAbove]
  have hreject : s.rejectLevels [] = (true, s) := by simp [State.rejectLevels, hm]
  unfold State.rollbackRun
  simp only [hfind, hopen, Nat.add_sub_cancel_left, List.take_succ_cons, List.take_zero, List.drop_succ_cons, List.drop_zero,
    List.getLast?_singleton, hj, List.filter_nil, List.foldl_nil, List.map_nil, List.any_nil, Bool.false_eq_true, if_false]
  rw [hself, hlevels, List.reverse_nil, hreject]
  simp only [hu, Bool.false_eq_true, if_false]

/-- A rollback that is asked for where no other waits is the one that runs (R373). -/
theorem startRollback_runs {s : State} {r : Region} {rest : List Region} (hr : s.tile.openRegions = r :: rest) (hj : s.tile.jobs = []) (hl : s.levels = [])
    (hs : s.spores = []) (hu : s.undoLost = false) (hm : s.tile.remotes = []) (hb : s.tile.rollbacks = []) (cause : Nat) :
    ∃ t : Tile, s.tile.SameX t ∧ s.startRollback cause = ({ s with tile := t } : State).finishRollback s.tile.level s.tile.depth cause [r] r rest := by
  let t : Tile := { s.tile with rollbacks := [(s.tile.level, s.tile.depth, cause)], tainted := false }
  have hask : ({ s.tile.askRollback s.tile.level s.tile.depth cause with tainted := false } : Tile) = t := by simp [Tile.askRollback, hb, t]
  refine ⟨t, ⟨⟨rfl, rfl, rfl⟩, rfl⟩, ?_⟩
  rw [State.startRollback, hask]
  exact rollbackRun_finishes (s := { s with tile := t }) hr hj hl hs hu hm rfl

theorem rgnAbort_rollsBack {s : State} (hk : s.tile.kpre = none) (hl : s.tile.atLoopEnd = false) {r : Region} {rest : List Region}
    (hr : s.tile.openRegions = r :: rest) (hj : s.tile.jobs = []) (hlevels : s.levels = []) (hspores : s.spores = []) (hundo : s.undoLost = false)
    (hremotes : s.tile.remotes = []) (hrollbacks : s.tile.rollbacks = []) (hf : s.tile.failing = none) (hg : s.tile.gang.member = false)
    (hp : r.saved.Pairwise (fun o p => o.item ≠ p.item)) (cause : BitVec 8) :
    ∃ t : State, exec (.rgnAbort cause) s = .next t ∧ s.RollsBack t (256 + cause.toNat) r rest := by
  obtain ⟨u, hu, hstart⟩ := startRollback_runs hr hj hlevels hspores hundo hremotes hrollbacks (256 + cause.toNat)
  have hin : s.tile.inRegion = true := by simp [Tile.inRegion, hr]
  have hback := finishRollback_rollsBack (s := { s with tile := u }) (by rw [hu.gang]; exact hg) (hu.failing.trans hf) hp s.tile.level s.tile.depth
    (256 + cause.toNat) rest
  refine ⟨_, (run_inLine hk hl _ _).trans ?_, hback.pc, hback.regions, hback.dest, hback.saved, fun n hn hx => ?_⟩
  · rw [← hstart]
    simp [act_bind, hin]
  · exact (hback.unsaved n hn hx).trans (hu.rx n)

/-- Settles O47, clause by clause. -/
theorem regionResults : Obligations.RegionResults := by
  intro s d a b cause imm ha hk hl
  refine ⟨fun hopen hcount hroom => rgnOpen_opens ha hk hl hopen hcount hroom d, fun hcount => rgnOpen_full hk hl hcount d,
    fun hopen => closeAndAbort_outside hk hl hopen cause, fun r rest hr => ⟨fun hd hnew hroom => addi_saves ha hk hl hr hd hnew hroom, ?abort, ?close,
      fun _ _ hs hd o hw hlen hend hdepth hpool hroom => rgnKeep_pushes hs hk hl hr hd o hw hlen hend hdepth hpool hroom⟩⟩
  case abort =>
    intro hj hlevels hspores hundo hremotes hrollbacks hf hg hp
    obtain ⟨t, hrun, hback⟩ := rgnAbort_rollsBack hk hl hr hj hlevels hspores hundo hremotes hrollbacks hf hg hp cause
    have hword : word (256 + cause.toNat) = 256 + cause.setWidth 64 := by simp [word, BitVec.ofNat_add]
    exact ⟨t, hrun, hback.pc, hback.regions, fun hd => (hback.dest hd).trans hword, hback.saved, hback.unsaved⟩
  case close =>
    rintro rfl hj hlevels hspores hundo
    exact rgnClose_outermost hk hl hr hj hlevels hspores hundo

end Sys2Proof.Machine
end

section
/-! SUPPORT. A message that a tile takes from a queue: its words and caps in the registers, and the queue without it (R334-R336, R370, R382). -/

namespace Sys2Proof.Machine

open Sys2Proof

/-! ### The registers of a delivery (R335) -/

/-- The payload words go to eight registers from `a1` on, in order. -/
def Tile.putPayload (t : Tile) (f : Nat → Word) (n : Nat) : Tile := (List.range n).foldl (fun t i => t.setX (Fin.ofNat 32 (11 + i)) (f i)) t

theorem Tile.putPayload_succ (t : Tile) (f : Nat → Word) (n : Nat) :
    t.putPayload f (n + 1) = (t.putPayload f n).setX (Fin.ofNat 32 (11 + n)) (f n) := by
  simp [Tile.putPayload, List.range_succ]

theorem Tile.putPayload_frame (t : Tile) (f : Nat → Word) (n : Nat) : ∃ x, t.putPayload f n = { t with x := x } := by
  induction n with
  | zero => exact ⟨_, rfl⟩
  | succ n ih =>
    obtain ⟨_, h⟩ := ih
    rw [Tile.putPayload_succ, h, Tile.setX_eq]
    exact ⟨_, rfl⟩

theorem Tile.rx_putPayload (t : Tile) (f : Nat → Word) (r : Reg) {n : Nat} (hn : n ≤ 21) :
    (t.putPayload f n).rx r = if 11 ≤ r.val ∧ r.val < 11 + n then f (r.val - 11) else t.rx r := by
  induction n with
  | zero => rw [if_neg (by omega)]; rfl
  | succ n ih =>
    have hval : (Fin.ofNat 32 (11 + n) : Reg).val = 11 + n := Nat.mod_eq_of_lt (by omega)
    have hreg : r = Fin.ofNat 32 (11 + n) ∧ (Fin.ofNat 32 (11 + n) : Reg) ≠ 0 ↔ r.val = 11 + n := by
      rw [Fin.ext_iff, hval, and_iff_left (by rw [ne_eq, Fin.ext_iff, hval]; simp)]
    rw [Tile.putPayload_succ, Tile.rx_setX, ih (by omega)]
    simp only [hreg]
    by_cases h : r.val = 11 + n
    · rw [if_pos h, if_pos (by omega), h, Nat.add_sub_cancel_left]
    · simp only [if_neg h, show r.val < 11 + (n + 1) ↔ r.val < 11 + n by omega]

/-- The caps of a message go to `c28` and `c29`. -/
def Tile.putCaps (t : Tile) : List Cap → Tile
  | [] => t
  | [c] => t.setC 28 c
  | c :: c' :: _ => (t.setC 28 c).setC 29 c'

theorem Tile.putMsg_parts (t : Tile) (q : QMsg) :
    t.putMsg q = ((t.setX 10 q.header).putPayload (fun i => q.msg.payload.getD i 0) 7).putCaps q.msg.caps := by
  unfold Tile.putMsg Tile.putCaps Tile.putPayload
  cases q.msg.caps with
  | nil => rfl
  | cons c cs => cases cs <;> rfl

theorem Tile.putCaps_frame (t : Tile) (cs : List Cap) : ∃ c cBank, t.putCaps cs = { t with c := c, cBank := cBank } := by
  unfold Tile.putCaps
  split
  · exact ⟨_, _, rfl⟩
  · rw [Tile.setC_eq]
    exact ⟨_, _, rfl⟩
  · rw [Tile.setC_eq, Tile.setC_eq _ 28]
    exact ⟨_, _, rfl⟩

theorem Tile.putMsg_frame (t : Tile) (q : QMsg) : ∃ x c cBank, t.putMsg q = { t with x := x, c := c, cBank := cBank } := by
  obtain ⟨x, hx⟩ := (t.setX 10 q.header).putPayload_frame (fun i => q.msg.payload.getD i 0) 7
  obtain ⟨c, cBank, hc⟩ := ((t.setX 10 q.header).putPayload (fun i => q.msg.payload.getD i 0) 7).putCaps_frame q.msg.caps
  rw [Tile.putMsg_parts, hc, hx, Tile.setX_eq]
  exact ⟨x, c, cBank, rfl⟩

theorem Tile.rx_putCaps (t : Tile) (cs : List Cap) (r : Reg) : (t.putCaps cs).rx r = t.rx r := by
  obtain ⟨c, cBank, h⟩ := t.putCaps_frame cs
  rw [h]
  rfl

theorem Tile.rc_setX (t : Tile) (d : Reg) (w : Word) (r : Reg) : (t.setX d w).rc r = t.rc r := by
  rw [Tile.setX_eq]
  rfl

theorem Tile.rc_putPayload (t : Tile) (f : Nat → Word) (n : Nat) (r : Reg) : (t.putPayload f n).rc r = t.rc r := by
  obtain ⟨x, h⟩ := t.putPayload_frame f n
  rw [h]
  rfl

theorem Tile.rx_putMsg (t : Tile) (q : QMsg) (r : Reg) : (t.putMsg q).rx r =
    if 11 ≤ r.val ∧ r.val < 11 + 7 then q.msg.payload.getD (r.val - 11) 0 else if r = 10 then q.header else t.rx r := by
  rw [Tile.putMsg_parts, Tile.rx_putCaps, Tile.rx_putPayload _ _ _ (by omega), Tile.rx_setX]
  simp

theorem Tile.rc_putMsg (t : Tile) (q : QMsg) (r : Reg) : (t.putMsg q).rc r =
    if r = 29 then q.msg.caps.getD 1 (t.rc 29) else if r = 28 then q.msg.caps.getD 0 (t.rc 28) else t.rc r := by
  rw [Tile.putMsg_parts]
  unfold Tile.putCaps
  split
  · next h =>
    rw [Tile.rc_putPayload, Tile.rc_setX, h]
    by_cases h29 : r = 29 <;> by_cases h28 : r = 28 <;> simp [h29, h28]
  · next h =>
    rw [Tile.rc_setC, Tile.rc_putPayload, Tile.rc_setX, h]
    by_cases h29 : r = 29 <;> by_cases h28 : r = 28 <;> simp [h29, h28]
  · next h =>
    rw [Tile.rc_setC, Tile.rc_setC, Tile.rc_putPayload, Tile.rc_setX, h]
    by_cases h29 : r = 29 <;> by_cases h28 : r = 28 <;> simp [h29, h28]

/-! ### The queue (R370) -/

theorem editHead_remove (q : List QMsg) : editHead (fun _ => none) q = q.eraseP fun m => m.kept.isNone := by
  induction q with
  | nil => rfl
  | cons m ms ih =>
    rw [editHead, List.eraseP_cons, ih]
    cases m.kept.isNone <;> rfl

/-- Outside a region the message at the head of a queue leaves it. -/
theorem Tile.consumeMsg_outside {t : Tile} (h : t.openRegions = []) (x : Bool) : ∃ pmc qHead, t.consumeMsg x = { t with
    pmc := pmc, qHead := qHead
    msgrecv := t.msgrecv + (if (freshHead (if x then t.xqueue else t.queues.get t.level)).any (fun m => m.msg.counted) then 1 else 0)
    queues := if x then t.queues else t.queues.set t.level.val ((t.queues.get t.level).eraseP fun m => m.kept.isNone)
    xqueue := if x then t.xqueue.eraseP (fun m => m.kept.isNone) else t.xqueue } := by
  obtain ⟨pmc, hcount⟩ : ∃ pmc, t.count 8 1 = { t with pmc := pmc } := ⟨_, Tile.count_eq t 8 1⟩
  unfold Tile.consumeMsg
  rw [hcount]
  extract_lets u head v
  obtain ⟨w, hw⟩ : ∃ w : Word, w = if head.any (fun m => m.msg.counted) then 1 else 0 := ⟨_, rfl⟩
  have hv : v = { t with pmc := pmc, msgrecv := t.msgrecv + w } := by
    simp only [v, u, hw]
    split
    · rfl
    · rw [show t.msgrecv + (0 : Word) = t.msgrecv by simp]
  have hregion : v.inRegion = false := inRegion_quiet (hv ▸ h)
  rw [hregion, hv]
  subst hw
  simp only [Bool.false_eq_true, if_false, Tile.countOut, Tile.editQueue, editHead_remove]
  cases x <;> exact ⟨_, _, rfl⟩

/-! ### A tile that has taken a message (R335) -/

/-- `u` has the level of `t`, its registers and its queues. -/
structure Tile.SameFiles (t u : Tile) : Prop where
  level : u.level = t.level
  x : u.x = t.x
  v : u.v = t.v
  c : u.c = t.c
  cBank : u.cBank = t.cBank
  queues : u.queues = t.queues
  xqueue : u.xqueue = t.xqueue

theorem Tile.SameFiles.rx {t u : Tile} (h : t.SameFiles u) (r : Reg) : u.rx r = t.rx r := by
  unfold Tile.rx
  rw [h.x, h.level]

theorem Tile.SameFiles.rc {t u : Tile} (h : t.SameFiles u) (r : Reg) : u.rc r = t.rc r := by
  unfold Tile.rc Tile.rcBank
  rw [h.c, h.cBank, h.level]

/-- A tile `u` takes a message outside a region; before it the files are those of `s`, and after it those of `t`. -/
theorem received_of_consumed {s t : State} {u : Tile} {x : Bool} {q : QMsg} (hs : s.tile.SameFiles u) (hu : u.openRegions = [])
    (ht : ((u.putMsg q).consumeMsg x).SameFiles t.tile) (hmem : t.mem = s.mem) : s.Received t x q := by
  obtain ⟨xs, c, cBank, hput⟩ := u.putMsg_frame q
  have hopen : (u.putMsg q).openRegions = [] := by rw [hput]; exact hu
  obtain ⟨pmc, qHead, htake⟩ := Tile.consumeMsg_outside hopen x
  have hrx (r : Reg) : t.tile.rx r = (u.putMsg q).rx r := by
    rw [ht.rx, htake]
    rfl
  have hrc (r : Reg) : t.tile.rc r = (u.putMsg q).rc r := by
    rw [ht.rc, htake]
    rfl
  have hqueues : (u.putMsg q).queues = s.tile.queues := by rw [hput]; exact hs.queues
  have hxqueue : (u.putMsg q).xqueue = s.tile.xqueue := by rw [hput]; exact hs.xqueue
  have hlevel : (u.putMsg q).level = s.tile.level := by rw [hput]; exact hs.level
  have hv : (u.putMsg q).v = s.tile.v := by rw [hput]; exact hs.v
  have htqueues := ht.queues
  have htxqueue := ht.xqueue
  rw [htake] at htqueues htxqueue
  refine ⟨?header, ?payload, ?otherX, ?first, ?second, ?otherC, ?queue, ?v, ?level, hmem⟩
  case header => rw [hrx, Tile.rx_putMsg]; rfl
  case payload =>
    intro i hi
    have hval : (Fin.ofNat 32 (11 + i) : Reg).val = 11 + i := Nat.mod_eq_of_lt (by omega)
    rw [hrx, Tile.rx_putMsg, if_pos (by omega), hval, Nat.add_sub_cancel_left]
  case otherX =>
    intro r hr
    rw [hrx, Tile.rx_putMsg, if_neg (by omega), if_neg (by rintro rfl; exact absurd hr (by decide)), hs.rx]
  case first => rw [hrc, Tile.rc_putMsg, if_neg (by decide), if_pos rfl, hs.rc]
  case second => rw [hrc, Tile.rc_putMsg, if_pos rfl, hs.rc]
  case otherC =>
    intro r h28 h29
    rw [hrc, Tile.rc_putMsg, if_neg h29, if_neg h28, hs.rc]
  case queue =>
    cases x
    · exact ⟨by simpa only [Bool.false_eq_true, if_false, hqueues, hlevel] using htqueues, htxqueue.trans hxqueue⟩
    · exact ⟨by simpa only [if_true, hxqueue] using htxqueue, htqueues.trans hqueues⟩
  case v => rw [ht.v, htake]; exact hv
  case level => rw [ht.level, htake]; exact hlevel

/-! ### Retirement towards a place of the instruction's own -/

theorem Tile.retireTo_parts (t : Tile) (n : Word) : ∃ loop minstret pmc asks halted, t.retireTo n =
    { t with pc := (t.loopBack n).pc, loop := loop, minstret := minstret, pmc := pmc, asks := asks, halted := halted, kpre := none, wait := none, answer := none,
             debugStep := none } := by
  obtain ⟨loop, pmc, hcount⟩ : ∃ loop pmc, (t.loopBack n).count 2 1 = { t with loop := loop, pc := (t.loopBack n).pc, pmc := pmc } := by
    have hback := Tile.loopBack_eq t n
    refine ⟨(t.loopBack n).loop, ((t.loopBack n).count 2 1).pmc, (Tile.count_eq _ 2 1).trans ?_⟩
    generalize ((t.loopBack n).count 2 1).pmc = pmc
    exact congrArg (fun u : Tile => { u with pmc := pmc }) hback
  unfold Tile.retireTo
  simp only [hcount]
  exact ⟨_, _, _, _, _, rfl⟩

theorem Tile.retireTo_sameFiles (t : Tile) (n : Word) : t.SameFiles (t.retireTo n) := by
  obtain ⟨_, _, _, _, _, h⟩ := t.retireTo_parts n
  rw [h]
  exact ⟨rfl, rfl, rfl, rfl, rfl, rfl, rfl⟩

/-- Where no loop ends the next instruction is the one that is named (R266). -/
theorem Tile.retireTo_pc {t : Tile} (h : t.atLoopEnd = false) (n : Word) : (t.retireTo n).pc = n := by
  obtain ⟨_, _, _, _, _, hr⟩ := t.retireTo_parts n
  rw [hr]
  unfold Tile.loopBack
  exact congrArg Tile.pc (if_neg (by rw [← Tile.atLoopEnd, h]; simp))

theorem takeSlotTrap_none {s : State} (h : s.tile.slotTraps = []) : s.takeSlotTrap = s := by
  unfold State.takeSlotTrap
  rw [h]

/-! ### `msg.recv`, `msg.peek` and `hret` (R196, R335, R336) -/

/-- The registers of the message's caps are free, and no cap of it failed its check. -/
def State.TakesMsg (s : State) (q : QMsg) : Prop :=
  q.failed = [] ∧ q.msg.caps.length ≤ 2 ∧ (q.msg.caps ≠ [] → (s.tile.rc 28).kind = .null) ∧ (q.msg.caps.length = 2 → (s.tile.rc 29).kind = .null)

theorem nextMsg_head {t : Tile} {x : Bool} {q : QMsg} (h : t.nextMsg = some (x, q)) : freshHead (if x then t.xqueue else t.queues.get t.level) = some q := by
  unfold Tile.nextMsg at h
  have hmine (hq : ((freshHead (t.queues.get t.level)).map fun m => (false, m)) = some (x, q)) :
      freshHead (if x then t.xqueue else t.queues.get t.level) = some q := by
    obtain ⟨m, hm, he⟩ := Option.map_eq_some_iff.mp hq
    cases he
    exact hm
  dsimp only at h
  split at h
  · split at h
    · next m hm =>
      split at h
      · cases h
        exact hm
      · exact hmine h
    · exact hmine h
  · exact hmine h

section
variable {s : State} (hs : s.Plain)
include hs

theorem deliver_plain {q : QMsg} (hf : s.TakesMsg q) (x : Bool) : deliver x q s = .ok () { s with tile := (s.tile.putMsg q).consumeMsg x } := by
  obtain ⟨hfailed, hlen, h28, h29⟩ := hf
  have hfirst : (decide (q.msg.caps.length = 0) || decide ((s.tile.rc 28).kind = .null)) = true := by
    rw [Bool.or_eq_true, decide_eq_true_eq, decide_eq_true_eq, List.length_eq_zero_iff]
    exact or_iff_not_imp_left.mpr h28
  have hsecond : (decide (q.msg.caps.length < 2) || decide ((s.tile.rc 29).kind = .null)) = true := by
    rw [Bool.or_eq_true, decide_eq_true_eq, decide_eq_true_eq]
    exact or_iff_not_imp_left.mpr fun h => h29 (by omega)
  unfold deliver
  rw [act_bind_ok (curTile_run s), act_bind_ok (requireCap_true hfirst _ _ s), act_bind_ok (requireCap_true hsecond _ _ s)]
  simp only [hfailed]
  rw [act_bind_ok (saveItems_quiet hs.regions _), act_bind_ok (act_modify _ s), rearm_nil hs.armed]
  rfl

theorem msgRecv_receives {x : Bool} {q : QMsg} (hq : s.tile.nextMsg = some (x, q)) (hf : s.TakesMsg q) :
    ∃ t : State, exec .msgRecv s = .next t ∧ s.Received t x q ∧ t.tile.msgrecv = s.tile.msgrecv + (if q.msg.counted then 1 else 0) := by
  have hrun : (do
      let t ← curTile
      match t.nextMsg with
      | none => stall (.queue t.level.val)
      | some (x, q) => deliver x q : Act Unit) s = .ok () { s with tile := (s.tile.putMsg q).consumeMsg x } := by
    rw [act_bind_ok (curTile_run s), hq]
    exact deliver_plain hs hf x
  refine ⟨_, run_ok hs.toQuiet (misplaced_plain hs.kpre) hrun, received_of_consumed ⟨rfl, rfl, rfl, rfl, rfl, rfl, rfl⟩ hs.regions (Tile.retireTo_sameFiles _ _) rfl, ?_⟩
  obtain ⟨xs, c, cBank, hput⟩ := s.tile.putMsg_frame q
  have hopen : (s.tile.putMsg q).openRegions = [] := by rw [hput]; exact hs.regions
  obtain ⟨pmc, qHead, htake⟩ := Tile.consumeMsg_outside hopen x
  have hhead : freshHead (if x then (s.tile.putMsg q).xqueue else (s.tile.putMsg q).queues.get (s.tile.putMsg q).level) = some q := by
    rw [hput]
    exact nextMsg_head hq
  refine (Tile.retire_msgrecv _).trans ?_
  rw [htake, hhead, hput]
  rfl

theorem msgRecv_waits (hq : s.tile.nextMsg = none) : exec .msgRecv s = .next (s.stallOn (.queue s.tile.level.val)) := by
  refine (run_quiet hs.toQuiet _ _ (misplaced_plain hs.kpre)).trans ?_
  rw [act_bind_ok (curTile_run s), hq]
  rfl

/-- The header that a peek reads: that of the next message, else 0 (R336). -/
def Tile.peeked (t : Tile) : Word :=
  match t.nextMsg with
  | some (_, q) => q.header
  | none => 0

theorem msgPeek_reads (d : Reg) : exec (.msgPeek d) s = .next (s.wroteX d s.tile.peeked) :=
  run_ok (t := { s with tile := s.tile.setX d s.tile.peeked }) hs.toQuiet (misplaced_plain hs.kpre) <| by
    rw [act_bind_ok (curTile_run s)]
    exact setX_quiet hs.toQuiet d s.tile.peeked

theorem hret_base (h : s.tile.level = 0) : exec .hret s = .next (s.takeTrap 2 (instrWord .hret)) := by
  refine (run_quiet hs.toQuiet _ _ (misplaced_plain hs.kpre)).trans ?_
  rw [act_bind_ok (curTile_run s)]
  simp [h, act_bind]

section
variable (hlevel : s.tile.level ≠ 0) (h28 : (s.tile.rc 28).kind = .null) (h29 : (s.tile.rc 29).kind = .null)
include hlevel h28 h29

/-- The rest of `hret` above level 0, where `c28` and `c29` are free. -/
theorem hret_run (k : Act Unit) : (do
      let t ← curTile
      if t.level = 0 || t.inRegion then illegal .hret
      requireCap ((t.rc 28).kind = .null) 28 4
      requireCap ((t.rc 29).kind = .null) 29 4
      k : Act Unit) s = k s := by
  rw [act_bind_ok (curTile_run s)]
  simp only [inRegion_quiet hs.regions, hlevel, decide_false, Bool.or_self, Bool.false_eq_true, if_false]
  rw [act_bind_ok (requireCap_true (by simpa using h28) _ _ s), act_bind_ok (requireCap_true (by simpa using h29) _ _ s)]

theorem hret_returns (hl : s.tile.atLoopEnd = false) (hq : freshHead (s.tile.queues.get s.tile.level) = none) :
    ∃ t : State, exec .hret s = .next t ∧ t.tile.level = s.tile.prev.get s.tile.level ∧ t.tile.pc = s.tile.retPc.get s.tile.level ∧ t.tile.x = s.tile.x ∧
      t.tile.v = s.tile.v ∧ t.tile.c = s.tile.c ∧ t.mem = s.mem := by
  have hfiles := s.tile.retireTo_sameFiles (s.tile.retPc.get s.tile.level)
  refine ⟨{ s with tile := { s.tile.retireTo (s.tile.retPc.get s.tile.level) with level := s.tile.prev.get s.tile.level } }, ?_, rfl,
    Tile.retireTo_pc hl _, hfiles.x, hfiles.v, hfiles.c, rfl⟩
  refine run_leave hs.toQuiet (misplaced_plain hs.kpre) ?_
  refine (hret_run hs hlevel h28 h29 _).trans ?_
  rw [hq]
  rfl

theorem hret_goesOn (hl : s.tile.atLoopEnd = false) {q : QMsg} (hq : freshHead (s.tile.queues.get s.tile.level) = some q) (hf : s.TakesMsg q) :
    ∃ t : State, exec .hret s = .next t ∧ s.Received t false q ∧ t.tile.pc = BitVec.ofNat 64 (s.tile.dispatchOf q.msg.type).entry := by
  obtain ⟨pmc, hcount⟩ : ∃ pmc, s.tile.count 9 1 = { s.tile with pmc := pmc } := ⟨_, Tile.count_eq _ 9 1⟩
  let u : Tile := { s.tile with pmc := pmc, kpre := none }
  obtain ⟨w, hw⟩ : ∃ w, (u.putMsg q).consumeMsg false = w := ⟨_, rfl⟩
  have hloop : w.atLoopEnd = false := by
    obtain ⟨x, c, cBank, hput⟩ := u.putMsg_frame q
    have hopen : (u.putMsg q).openRegions = [] := by rw [hput]; exact hs.regions
    obtain ⟨pmc', qHead, htake⟩ := Tile.consumeMsg_outside hopen false
    rw [← hw, htake, hput]
    exact hl
  have hfiles : w.SameFiles { w.retireTo (word (s.tile.dispatchOf q.msg.type).entry) with slotTraps := q.failed } := { w.retireTo_sameFiles _ with }
  refine ⟨{ s with tile := { w.retireTo (word (s.tile.dispatchOf q.msg.type).entry) with slotTraps := q.failed } }, ?_,
    received_of_consumed (u := u) ⟨rfl, rfl, rfl, rfl, rfl, rfl, rfl⟩ hs.regions (hw ▸ hfiles) rfl, Tile.retireTo_pc hloop _⟩
  refine run_leave hs.toQuiet (misplaced_plain hs.kpre) ?_
  refine (hret_run hs hlevel h28 h29 _).trans ?_
  rw [hq]
  simp only [act_bind, onTile_run, act_modify, act_throw]
  rw [hcount]
  rw [takeSlotTrap_none hf.1]
  subst hw
  rfl

end

end

/-- Settles O43: the receiving instructions one by one, on the message at the head of the level's queue or where there is none. -/
theorem messageReceiveResults : Obligations.MessageReceiveResults := by
  intro s d hs free
  refine ⟨fun x q hq => ⟨msgRecv_receives hs hq, ?peek⟩, fun hq => ⟨msgRecv_waits hs hq, ?none⟩,
    fun hlevel hl h28 h29 => ⟨hret_returns hs hlevel h28 h29 hl, fun q => hret_goesOn hs hlevel h28 h29 hl⟩, hret_base hs⟩
  case peek => rw [msgPeek_reads hs d, Tile.peeked, hq]
  case none => rw [msgPeek_reads hs d, Tile.peeked, hq]

end Sys2Proof.Machine
end

section
/-! SUPPORT. Barriers: a binding joins a domain, an arrival counts in its round, and a wait ends with the round's release (R205-R207, R379). -/

namespace Sys2Proof.Machine

open Sys2Proof

/-- An instruction has an outcome that its action answers and retirement keeps. -/
theorem run_ok_of {s : State} (h : s.Quiet) {f : Form} {i : Instr} {a : Act Unit} (hm : s.tile.misplaced f = false) {p : State → Prop}
    (ha : ∃ t, a s = .ok () t ∧ p (t.retired t.tile)) : ∃ t, run f i a s = .next t ∧ p t := by
  obtain ⟨t, ha, hp⟩ := ha
  exact ⟨_, run_ok h hm ha, hp⟩

/-! ### Bindings told to other devices (R206) -/

theorem tellBinding_fabric (s : State) (d : Nat) (l : Level) (on : Bool) : ∃ fabric, s.tellBinding d l on = { s with fabric := fabric } := by
  unfold State.tellBinding
  split
  · exact ⟨_, rfl⟩
  · exact foldl_sendPacket (α := Nat × Nat) (·.1) _ _ s

theorem tellBinding_tile (s : State) (d : Nat) (l : Level) (on : Bool) : (s.tellBinding d l on).tile = s.tile := by
  obtain ⟨_, h⟩ := tellBinding_fabric s d l on
  rw [h]

theorem tellBinding_mem (s : State) (d : Nat) (l : Level) (on : Bool) : (s.tellBinding d l on).mem = s.mem := by
  obtain ⟨_, h⟩ := tellBinding_fabric s d l on
  rw [h]

/-- The state in which a barrier domain is put back and told of, and the tile that bound itself has changed. -/
def State.toldOf (u : State) (b : BarDomain) (n : Nat) (l : Level) (f : Tile → Tile) : State :=
  { (u.putBarrier b).tellBinding n l true with tile := f ((u.putBarrier b).tellBinding n l true).tile }

theorem toldOf_binds {s u : State} (hmem : u.mem = s.mem) (htile : u.tile = s.tile) {launch n : Nat} {b : BarDomain} (hl : b.launch = launch) (hn : b.domain = n)
    (l : Level) (f : Tile → Tile) : (u.toldOf b n l f).tile = f s.tile ∧ (u.toldOf b n l f).mem = s.mem ∧
      ∀ t, ((u.toldOf b n l f).retired t).barrier launch n = some b := by
  obtain ⟨fabric, h⟩ := tellBinding_fabric (u.putBarrier b) n l true
  unfold State.toldOf
  rw [h]
  exact ⟨congrArg f htile, hmem, fun _ => barrier_putBarrier hl hn⟩

/-- An arrival at a domain of a launch that this device leads. -/
theorem arriveBarrier_counts {s : State} {launch : Nat} (hl : s.tile.launch = some launch) {l : Level} {g : Binding} (hg : s.tile.binding l = some g) {b : BarDomain}
    (hb : s.barrier launch g.domain = some b) (hlead : ∀ m, s.launchAt launch = some m → m.device = s.device) :
    s.arriveBarrier l = { s.putBarrier { b with arrivals := b.arrivals + 1 } with tile := s.tile.setBinding l (some { g with arrived := some b.round }) } := by
  unfold State.arriveBarrier
  simp only [hg, hl, Option.getD_some, hb, (barrier_names hb).1]
  cases hm : s.launchAt launch with
  | none => rfl
  | some m => simp only [hlead m hm, if_true]; rfl

section
variable {s : State} (hs : s.Settled) (hk : s.tile.kpre = none) {launch : Nat} (hl : s.tile.launch = some launch)
include hs hk hl

omit hs in
theorem form_launched : s.tile.misplaced { launch := true } = false := misplaced_launch hk (by rw [hl]; rfl)

theorem barJoin_binds {a : Reg} {l : BitVec 2} (hfree : (s.tile.binding l.toFin).all (fun g => g.arrived.isNone) = true) (hheld : s.tile.arrivalHeld l.toFin = false)
    (hn : (s.tile.rx a).toNat < 64) {b : BarDomain} (hb : s.barrier launch (s.tile.rx a).toNat = some b)
    (hroom : (b.bound.filter fun p => decide (p ≠ (s.tile.rank, l.toFin))).length < b.members) :
    ∃ t : State, exec (.barJoin a l) s = .next t ∧ t.tile = (s.tile.setBinding l.toFin (some { domain := (s.tile.rx a).toNat })).retire ∧ t.mem = s.mem ∧
      ∃ b', t.barrier launch (s.tile.rx a).toNat = some b' ∧ (s.tile.rank, l.toFin) ∈ b'.bound ∧ b'.members = b.members ∧ b'.arrivals = b.arrivals := by
  obtain ⟨hlaunch, hdomain⟩ := barrier_names hb
  have hbusy : ((s.tile.binding l.toFin).any (fun b => b.arrived.isSome) || s.tile.arrivalHeld l.toFin) = false := by
    rw [hheld, Bool.or_false]
    cases hg : s.tile.binding l.toFin with
    | none => rfl
    | some g => simpa [hg] using hfree
  refine run_ok_of hs.toQuiet (form_launched hk hl) ?_
  rw [act_bind_ok (curTile_run s)]
  simp only [hbusy, Bool.false_eq_true, if_false]
  rw [act_bind_ok (getX_quiet hs.armed a), act_bind_ok (requireCap_true (by simpa using hn) _ _ s), act_bind_ok (act_get s)]
  simp only [hl, Option.getD_some, hb]
  rw [act_bind_ok (requireCap_true (by simpa using hroom) _ _ s)]
  have hjoin (u : State) (hmem : u.mem = s.mem) (htile : u.tile = s.tile) := toldOf_binds hmem htile (b := { b with
    bound := (b.bound.filter fun p => decide (p ≠ (s.tile.rank, l.toFin))) ++ [(s.tile.rank, l.toFin)] }) hlaunch hdomain l.toFin
    fun t => t.setBinding l.toFin (some { domain := (s.tile.rx a).toNat })
  -- What stood bound before leaves its domain first, by which neither the tile nor memory changes.
  split
  · obtain ⟨ht, hm, hbar⟩ := hjoin _ (tellBinding_mem (s.putBarrier _) _ _ _) (tellBinding_tile (s.putBarrier _) _ _ _)
    exact ⟨_, rfl, congrArg Tile.retire ht, hm, _, hbar _, by simp, rfl, rfl⟩
  · obtain ⟨ht, hm, hbar⟩ := hjoin s rfl rfl
    exact ⟨_, rfl, congrArg Tile.retire ht, hm, _, hbar _, by simp, rfl, rfl⟩

theorem barArrive_counts {l : BitVec 2} {g : Binding} (hg : s.tile.binding l.toFin = some g) (hfree : g.arrived = none) (hheld : s.tile.arrivalHeld l.toFin = false)
    {b : BarDomain} (hb : s.barrier launch g.domain = some b) (hlead : ∀ m, s.launchAt launch = some m → m.device = s.device) :
    ∃ t : State, exec (.barArrive l) s = .next t ∧ t.tile = (s.tile.setBinding l.toFin (some { g with arrived := some b.round })).retire ∧ t.mem = s.mem ∧
      ∃ b', t.barrier launch g.domain = some b' ∧ b'.arrivals = b.arrivals + 1 ∧ b'.round = b.round ∧ b'.bound = b.bound := by
  obtain ⟨hlaunch, hdomain⟩ := barrier_names hb
  refine run_ok_of hs.toQuiet (form_launched hk hl) ?_
  rw [act_bind_ok (curTile_run s)]
  simp only [hg, hfree, hheld, hs.release, inRegion_quiet hs.regions, Option.isSome_none, Bool.or_self, List.isEmpty_nil, Bool.not_true, Bool.false_eq_true, if_false]
  refine ⟨_, (act_modify _ s).trans (congrArg (EStateM.Result.ok ()) (arriveBarrier_counts hl hg hb hlead)), rfl, rfl, _,
    barrier_putBarrier (b := { b with arrivals := b.arrivals + 1 }) hlaunch hdomain, rfl, rfl, rfl⟩

theorem barWait_released {l : BitVec 2} {g : Binding} (hg : s.tile.binding l.toFin = some g) {r : Nat} (hr : g.arrived = some r) {b : BarDomain}
    (hb : s.barrier launch g.domain = some b) {p : Nat × Nat} (hp : b.released.find? (fun p => decide (p.1 = r)) = some p) :
    exec (.barWait l) s = .next (s.retired (s.tile.setBinding l.toFin (some { g with arrived := none, released := some p.2 }))) := by
  refine run_ok hs.toQuiet (form_launched hk hl) (t := { s with tile := s.tile.setBinding l.toFin (some { g with arrived := none, released := some p.2 }) }) ?_
  rw [act_bind_ok (act_get s)]
  simp only [hg, hr, hl, Option.getD_some, hb, Option.bind_some, hp, onTile_run]

theorem barWait_waits {l : BitVec 2} {g : Binding} (hg : s.tile.binding l.toFin = some g) {r : Nat} (hr : g.arrived = some r) {b : BarDomain}
    (hb : s.barrier launch g.domain = some b) (hp : b.released.find? (fun p => decide (p.1 = r)) = none) :
    exec (.barWait l) s = .next (s.stallOn (.barrier l.toFin)) := by
  refine (run_quiet hs.toQuiet _ _ (form_launched hk hl)).trans ?_
  rw [act_bind_ok (act_get s)]
  simp only [hg, hr, hl, Option.getD_some, hb, Option.bind_some, hp, stall_run, finish_wait]

/-- A level that is bound to no domain neither arrives nor waits (R379). -/
theorem bar_unbound {l : BitVec 2} (hg : s.tile.binding l.toFin = none) :
    exec (.barArrive l) s = .next (s.takeTrap 2 (instrWord (.barArrive l))) ∧ exec (.barWait l) s = .next (s.takeTrap 2 (instrWord (.barWait l))) := by
  refine ⟨(run_quiet hs.toQuiet _ _ (form_launched hk hl)).trans ?_, (run_quiet hs.toQuiet _ _ (form_launched hk hl)).trans ?_⟩
  · rw [act_bind_ok (curTile_run s)]
    simp only [hg, illegal_run, finish_trap, trapFrom_self]
  · rw [act_bind_ok (act_get s)]
    simp only [hg, illegal_run, finish_trap, trapFrom_self]

end

end Sys2Proof.Machine
end

section
/-! SUPPORT. Exchange phases: the begin of a phase, the sends of its Timetable, and its end (R208-R210, R380-R383). -/

namespace Sys2Proof.Machine

open Sys2Proof

/-- A cap that a job borrows is drained: of the tile only lines and grants go (R114). -/
theorem lendDrain_settled {s : State} (hs : s.Settled) {r : Reg} {c : Cap} {h : HomeId} (hh : s.homeOf c = some h) (hw : s.asleep h = false) :
    ∃ u l1 icache grants, lendDrain [(r, c)] s = .ok () { s with tile := u } ∧ u = { s.tile with l1 := l1, icache := icache, grants := grants } := by
  have hrun : lendDrain [(r, c)] s = .ok () { s with tile := { s.tile.dropTag c with l1 := (s.tile.dropTag c).l1.filter fun l => !l.under c } } := by
    unfold lendDrain
    rw [act_bind_ok (act_modify _ s), pushWhere_nil hs.cache, act_bind_ok (drain_settled hs hh hw)]
    exact act_bind_ok (act_modify _ s)
  exact ⟨_, _, _, _, hrun, rfl⟩

theorem landHeld_nil {s : State} (h : s.tile.xqueue = []) (c : Cap) : s.landHeld c = s := by
  have hself : ({ s with tile := { s.tile with xqueue := [] } } : State) = s := by rw [← h]
  simp only [State.landHeld, h, List.foldl_nil, List.map_nil, hself]

/-- The message of an entry of a Timetable (R381). -/
def State.exchangeMsg (s : State) (launch : Nat) (x : Timetable) (e : TableEntry) (a : Reg) : Msg :=
  let n := min 256 (64 * e.flits - 32)
  { sender := s.tile.rank, senderEp := s.tile.principal s.device, senderLaunch := launch, dest := .rank launch e.dest, type := 0,
    payload := [word (x.landing s.tile.rank e), word n], caps := [], landing := some (x.landing s.tile.rank e, (s.tile.exchangeBytes a n).1),
    landBad := (s.tile.exchangeBytes a n).2, counted := s.tile.mode = .u }

/-- A message to a rank of this device enters the network; of the tile its counts and the cache of ranks change. -/
theorem injectMsg_frame {s : State} {m : Msg} (hd : s.destDevice m.dest = some s.device) : ∃ rankCache vnCounts msgsent, s.injectMsg m =
    { s with msgSeq := s.msgSeq + 1, net := s.net ++ [{ m with seq := s.msgSeq }],
             tile := { s.tile with rankCache := rankCache, vnCounts := vnCounts, msgsent := msgsent } } := by
  obtain ⟨rankCache, hr⟩ := resolveRank_cache s (s.tile.countPacket (s.tile.networkOf m) true) m.dest
  have hsend (t : Tile) := sendMsg_here (s := { s with tile := t }) (m := m) hd
  unfold State.injectMsg
  rw [hr]
  simp only [hsend]
  exact ⟨_, _, _, rfl⟩

theorem setCBank_frame (t : Tile) (l : Level) (r : Reg) (k : Cap) : ∃ c cBank, t.setCBank l r k = { t with c := c, cBank := cBank } := by
  unfold Tile.setCBank
  split
  · exact ⟨_, _, rfl⟩
  · split
    · exact ⟨_, _, rfl⟩
    · split <;> exact ⟨_, _, rfl⟩

/-- At the end of a phase its landing cap comes back (R383). -/
def Tile.endPhase (t : Tile) (device : Nat) (p : Phase) : Tile :=
  let u := match p.landing with
    | some r => t.setCBank 0 r (Cap.signOn { t.rcBank 0 r with lent := false } device)
    | none => t
  { u with phase := none }

theorem endPhase_frame (t : Tile) (device : Nat) (p : Phase) : ∃ c cBank, t.endPhase device p = { t with c := c, cBank := cBank, phase := none } := by
  unfold Tile.endPhase
  split
  · next r _ =>
    obtain ⟨c, cBank, h⟩ := setCBank_frame t 0 r (Cap.signOn { t.rcBank 0 r with lent := false } device)
    rw [h]
    exact ⟨_, _, rfl⟩
  · exact ⟨_, _, rfl⟩

section
variable {s : State} (hs : s.Settled) (hk : s.tile.kpre = none) {launch : Nat} (hl : s.tile.launch = some launch)
include hs hk hl

/-! ### `xch.begin` (R209, R380) -/

section
variable {a : Reg} {tt : BitVec 4} {l : BitVec 2} {x : Timetable} {g : Binding} {rel : Nat} (hx : s.timetable launch tt.toNat = some x)
  (hg : s.tile.binding l.toFin = some g) (hdie : (s.barrier launch g.domain).any s.oneDie = true) (hlevel : s.tile.level = 0) (hphase : s.tile.phase = none)
  (hfree : g.arrived = none) (hheld : s.tile.arrivalHeld l.toFin = false) (hrel : g.released = some rel) (hqueue : s.tile.xqueue = [])
  (hhold : (s.launchAt launch).any (·.holdExchange) = false)
include hx hg hdie hlevel hphase hfree hheld hrel hqueue hhold

/-- The phase that begins: of its Timetable, from the release of the round. -/
def State.phaseOf (s : State) (launch : Nat) (tt : BitVec 4) (x : Timetable) (rel : Nat) (landing : Option Reg) : Phase :=
  { table := tt.toNat, release := rel, landing := landing, closing := s.closingCycle launch x s.tile.rank }

theorem xchBegin_noneIncoming (hin : (x.incoming s.tile.rank).length = 0) :
    exec (.xchBegin a tt l) s = .next (s.retired { s.tile with phase := some (s.phaseOf launch tt x rel none) }) := by
  refine run_ok hs.toQuiet (form_launched hk hl) (t := { s with tile := { s.tile with phase := some (s.phaseOf launch tt x rel none) } }) ?_
  rw [act_bind_ok (outsideRegions_quiet hs.regions _), act_bind_ok (act_get s)]
  conv_lhs => simp only [hl, Option.getD_some, hx, hg, hdie, hlevel, hphase, hfree, hheld, hrel, hqueue, hhold, hin, ne_eq, not_true_eq_false, decide_false, Option.isSome_none,
    Bool.not_true, Bool.or_self, Bool.false_eq_true, if_false, gt_iff_lt, Nat.lt_irrefl, List.length_nil, List.filter_nil, Nat.sub_self, Nat.not_lt_zero, Nat.add_zero]
  rw [act_bind_ok (act_pure _ s)]
  rfl

/-- The landing cap of a phase is drained, lent and kept in its register (R380). -/
theorem xchBegin_lends {c : Cap} (hc : s.tile.rc a = c) (hsome : 0 < (x.incoming s.tile.rank).length) (hfew : (x.incoming s.tile.rank).length ≤ 32) (ha : a ≠ 30)
    (hkind : c.kind = .tmem) (hmode : c.mode = .exclusive) (hwrite : c.rights.w = true) (hdepth : c.depth = 0) (hown : s.ownTmem c = true)
    (hlen : 256 * (x.incoming s.tile.rank).length ≤ c.length.toNat) (hlend : s.Lendable c) :
    ∃ t : State, exec (.xchBegin a tt l) s = .next t ∧ t.tile.phase = some (s.phaseOf launch tt x rel (some a)) ∧ t.tile.rc a = s.sign { c with lent := true } ∧
      (∀ r, r ≠ a → t.tile.rc r = s.tile.rc r) ∧ t.tile.x = s.tile.x ∧ t.mem = s.mem := by
  have hhome : s.homeOf c = some (.tile (s.relocateTile c.domain c.location.toNat)) := by
    unfold State.homeOf
    rw [hkind]
  have ha0 : a ≠ 0 := by
    rintro rfl
    rw [← hc] at hkind
    cases hkind
  have heff : c.eff.w = true := by
    unfold Cap.eff
    rw [hmode]
    exact hwrite
  have hcap : landingCap a (x.incoming s.tile.rank).length s = .ok c s := by
    unfold landingCap
    rw [act_bind_ok (useCap_quiet hs.armed a), hc, act_bind_ok (act_get s),
      act_bind_ok (requireCap_true (by simp [hkind, hmode, heff, hdepth, hown]) _ _ s), act_bind_ok (requireCap_true (by simpa using hlen) _ _ s),
      act_bind_ok (lentStall_run hlend.1 a s)]
    rfl
  obtain ⟨u, l1, icache, grants, hdrain, hu⟩ := lendDrain_settled hs (r := a) hhome (hlend.2 _ hhome)
  refine run_ok_of hs.toQuiet (form_launched hk hl) ?_
  rw [act_bind_ok (outsideRegions_quiet hs.regions _), act_bind_ok (act_get s)]
  simp only [hl, Option.getD_some, hx, hg, hdie, hlevel, hphase, hfree, hheld, hrel, hqueue, hhold, hsome, ne_eq, not_true_eq_false, decide_false, Option.isSome_none,
    Bool.not_true, Bool.or_self, Bool.false_eq_true, if_false, gt_iff_lt, List.length_nil, List.filter_nil, Nat.sub_zero, Nat.zero_add, Nat.not_lt.mpr hfew, if_true]
  rw [act_bind_ok (guardC30_run _ (by simpa using ha.symm) s), act_bind_ok hcap, act_bind_ok hdrain, act_bind_ok (onTile_run _ _), act_bind_ok (act_modify _ _)]
  have hrc (r : Reg) : u.rc r = s.tile.rc r := by
    rw [hu]
    rfl
  have hlent : u.lend s.device [a] = u.setC a (s.sign { c with lent := true }) := by
    rw [← hc, ← hrc]
    rfl
  have hempty : ({ s with tile := u.setC a (s.sign { c with lent := true }) } : State).tile.xqueue = [] := by
    rw [hu]
    exact (Tile.setC_xqueue _ _ _).trans hqueue
  rw [hlent, landHeld_nil hempty]
  refine ⟨_, onTile_run _ _, Tile.retire_phase _, ?_, fun r hr => ?_, ?_, rfl⟩
  · exact (Tile.retire_rc _ a).trans ((Tile.rc_setC u a a _).trans (if_pos ⟨rfl, ha0⟩))
  · exact (Tile.retire_rc _ r).trans ((Tile.rc_setC u a r _).trans ((if_neg fun h => hr h.1).trans (hrc r)))
  · refine (Tile.retire_x _).trans ((Tile.setC_x u a _).trans ?_)
    rw [hu]

end

/-! ### `xch.send` (R210, R381) -/

section
variable {p : Phase} {x : Timetable} {es : List TableEntry} {e : TableEntry} {i : Nat} {a : Reg} (hphase : s.tile.phase = some p) (hx : s.timetable launch p.table = some x)
  (hes : x.senders.find? (fun q => decide (q.1 = s.tile.rank)) = some (s.tile.rank, es)) (he : es[p.next]? = some e)
  (hpair : min 256 (64 * e.flits - 32) ≤ 128 ∨ a ≠ 31)
include hphase hx hes he hpair

omit hs hk hl hphase hx hes he in
theorem exchange_fits : (decide (min 256 (64 * e.flits - 32) > 128) && decide (a = 31)) = false := by
  rcases hpair with h | h
  · rw [decide_eq_false (Nat.not_lt.mpr h), Bool.false_and]
  · rw [decide_eq_false h, Bool.and_false]

/-- An exchange message to a rank of this device, sent within its slack, enters the network. -/
theorem xchSend_sends (hplace : s.place launch e.dest = some (s.device, i)) (hlow : e.start ≤ s.xchCycle) (hhigh : s.xchCycle ≤ e.start + 3) :
    ∃ t : State, exec (.xchSend a) s = .next t ∧ t.net = s.net ++ [{ s.exchangeMsg launch x e a with seq := s.msgSeq }] ∧
      t.tile.phase = some { p with next := p.next + 1 } ∧ t.tile.x = s.tile.x ∧ t.tile.v = s.tile.v ∧ t.tile.c = s.tile.c ∧ t.mem = s.mem := by
  refine run_ok_of hs.toQuiet (form_launched hk hl) ?_
  rw [act_bind_ok (act_get s)]
  simp only [hl, Option.getD_some, hphase, hx, hes, he, Option.bind_some, Option.map_some, exchange_fits hpair, Nat.not_lt.mpr hlow, Nat.not_lt.mpr hhigh, gt_iff_lt,
    hs.release, inRegion_quiet hs.regions, List.isEmpty_nil, Bool.not_true, Bool.false_eq_true, if_false]
  have hnext : s.tile.nextEntry = { s.tile with phase := some { p with next := p.next + 1 } } := by
    unfold Tile.nextEntry
    rw [hphase]
    rfl
  have hdest : ({ s with tile := { s.tile with phase := some { p with next := p.next + 1 } } } : State).destDevice (s.exchangeMsg launch x e a).dest = some s.device := by
    show (s.place launch e.dest).map (·.1) = _
    rw [hplace]
    rfl
  obtain ⟨rankCache, vnCounts, msgsent, hinject⟩ := injectMsg_frame hdest
  rw [act_bind_ok (onTile_run _ s), hnext]
  exact ⟨_, (act_modify _ _).trans (congrArg (EStateM.Result.ok ()) hinject), rfl, Tile.retire_phase _, Tile.retire_x _, Tile.retire_v _, Tile.retire_c _, rfl⟩

theorem xchSend_early (hearly : s.xchCycle < e.start) : exec (.xchSend a) s = .next (s.stallOn .early) := by
  refine (run_quiet hs.toQuiet _ _ (form_launched hk hl)).trans ?_
  rw [act_bind_ok (act_get s)]
  simp only [hl, Option.getD_some, hphase, hx, hes, he, Option.bind_some, Option.map_some, exchange_fits hpair, hearly, Bool.false_eq_true, if_false, if_true]
  rw [act_bind_error (stall_run _ s)]
  rfl

/-- An entry that is late is consumed by the trap that says so (R210). -/
theorem xchSend_late (hlate : e.start + 3 < s.xchCycle) (htrap : s.tile.mode = .m ∨ s.tile.freeEntry.isSome = true) : exec (.xchSend a) s =
    .next (({ s with tile := { s.tile with phase := some { p with next := p.next + 1 } } } : State).takeTrap 27 (BitVec.ofNat 64 p.next)) := by
  refine (run_quiet hs.toQuiet _ _ (form_launched hk hl)).trans ?_
  rw [act_bind_ok (act_get s)]
  conv_lhs => simp only [hl, Option.getD_some, hphase, hx, hes, he, Option.bind_some, Option.map_some, exchange_fits hpair, show ¬ s.xchCycle < e.start by omega, gt_iff_lt, hlate, Bool.false_eq_true, if_false, if_true]
  have hcan : s.tile.canTrap = true := by
    unfold Tile.canTrap
    simpa using htrap
  have hmiss : missEntry p.next s = .error (.trap 27 (word p.next)) { s with tile := { s.tile with phase := some { p with next := p.next + 1 } } } := by
    unfold missEntry
    rw [act_bind_ok (onTile_run _ s), ← Tile.canTrap, hcan, if_pos rfl, Tile.nextEntry, hphase]
    rfl
  rw [act_bind_error hmiss, finish_trap]
  simp only [State.trapFrom, hcan, Bool.or_true, if_true]
  rfl

end

/-! ### `xch.end` (R383) -/

section
variable {d : Reg} {p : Phase} {x : Timetable} {es : List TableEntry} (hphase : s.tile.phase = some p) (hx : s.timetable launch p.table = some x)
  (hes : x.senders.find? (fun q => decide (q.1 = s.tile.rank)) = some (s.tile.rank, es))
include hphase

include hx hes in
theorem xchEnd_ends (hnet : s.net = []) (hclosed : p.closing ≤ s.xchCycle) : ∃ t : State, exec (.xchEnd d) s = .next t ∧ t.tile.phase = none ∧
    (d ≠ 0 → t.tile.rx d = BitVec.ofNat 64 (es.length - p.next)) ∧ (∀ r, r ≠ d → t.tile.rx r = s.tile.rx r) ∧ t.mem = s.mem := by
  refine run_ok_of hs.toQuiet (form_launched hk hl) ?_
  rw [act_bind_ok (act_get s)]
  simp only [hl, Option.getD_some, hphase, hx, hes, Option.bind_some, Option.map_some, Nat.not_lt.mpr hclosed, if_false]
  rw [act_bind_ok (saveItems_quiet hs.regions _), act_bind_ok (act_modify _ s), hnet, show s.landAll [] = s from rfl, act_bind_ok (setX_quiet hs.toQuiet d _)]
  obtain ⟨c, cBank, hend⟩ := endPhase_frame (s.tile.setX d (word (es.length - p.next))) s.device p
  have hrx (r : Reg) : ((s.tile.setX d (word (es.length - p.next))).endPhase s.device p).rx r = (s.tile.setX d (word (es.length - p.next))).rx r := by
    rw [hend]
    rfl
  refine ⟨{ s with tile := (s.tile.setX d (word (es.length - p.next))).endPhase s.device p }, rfl, Tile.retire_phase _, fun hd => ?_, fun r hr => ?_, rfl⟩
  · exact (Tile.retire_rx _ d).trans ((hrx d).trans ((Tile.rx_setX _ d d _).trans (if_pos ⟨rfl, hd⟩)))
  · exact (Tile.retire_rx _ r).trans ((hrx r).trans ((Tile.rx_setX _ d r _).trans (if_neg fun h => hr h.1)))

theorem xchEnd_waits (hopen : s.xchCycle < p.closing) : exec (.xchEnd d) s = .next (s.stallOn .xchEnd) := by
  refine (run_quiet hs.toQuiet _ _ (form_launched hk hl)).trans ?_
  rw [act_bind_ok (act_get s)]
  simp only [hphase, hopen, if_true]
  rw [act_bind_error (stall_run _ s)]
  rfl

end

end

/-- Settles O49, instruction by instruction. -/
theorem barrierAndExchangeResults : Obligations.BarrierAndExchangeResults := by
  intro s d a tt l launch hs hk hl lv n
  refine ⟨fun b hfree hheld hn hb => barJoin_binds hs hk hl hfree hheld hn hb, fun g b hg hfree hheld hb => barArrive_counts hs hk hl hg hfree hheld hb,
    fun g r b hg hr hb => ⟨fun p => barWait_released hs hk hl hg hr hb, barWait_waits hs hk hl hg hr hb⟩, bar_unbound hs hk hl, ?begins, ?sends, ?ends⟩
  case begins =>
    intro x g rel hx hg hdie hlevel hphase hfree hheld hrel hqueue hhold k phase
    exact ⟨xchBegin_noneIncoming hs hk hl hx hg hdie hlevel hphase hfree hheld hrel hqueue hhold,
      xchBegin_lends hs hk hl hx hg hdie hlevel hphase hfree hheld hrel hqueue hhold rfl⟩
  case sends =>
    intro p x es e i hphase hx hes he hplace size bytes hpair
    refine ⟨fun hlow hhigh => ?_, xchSend_early hs hk hl hphase hx hes he hpair, xchSend_late hs hk hl hphase hx hes he hpair⟩
    obtain ⟨t, hrun, hnet, hrest⟩ := xchSend_sends hs hk hl hphase hx hes he hpair hplace hlow hhigh
    exact ⟨t, _, hrun, hnet, rfl, rfl, rfl, rfl, hrest⟩
  case ends =>
    intro p x es hphase hx hes hnet
    exact ⟨xchEnd_ends hs hk hl hphase hx hes hnet, xchEnd_waits hs hk hl hphase⟩

end Sys2Proof.Machine
end

section
/-! SUPPORT. Gangs: the rendezvous of the tiles that a mask names, and the split (R199-R202, R384). -/

namespace Sys2Proof.Machine

open Sys2Proof

/-! ### A rendezvous (R199, log 30) -/

theorem mapTiles_mapTiles (s : State) {p : Tile → Bool} {f g : Tile → Tile} (hf : ∀ u, p (f u) = p u) :
    (s.mapTiles p f).mapTiles p g = s.mapTiles p fun u => g (f u) := by
  have hone (u : Tile) : (if p (if p u then f u else u) then g (if p u then f u else u) else (if p u then f u else u)) = if p u then g (f u) else u := by
    by_cases h : p u = true
    · simp only [h, if_true, hf]
    · simp only [h, if_false, Bool.false_eq_true]
  have hothers : (s.others.map fun u => if p u then f u else u).map (fun u => if p u then g u else u) = s.others.map fun u => if p u then g (f u) else u := by
    rw [List.map_map]
    exact List.map_congr_left fun u _ => hone u
  unfold State.mapTiles
  dsimp only
  rw [hothers]
  exact congrArg (fun t => ({ s with tile := t, others := s.others.map fun u => if p u then g (f u) else u } : State)) (hone s.tile)

/-- What a rendezvous makes of each of its tiles: its instruction has retired, and it has the gang that it is given. -/
structure Tile.Gathers (gang : Tile → Gang) (f : Tile → Tile) : Prop where
  index : ∀ u, (f u).index = u.index
  gang : ∀ u, (f u).gang = gang u
  x : ∀ u, (f u).x = u.x

theorem rendezvous_gathers (s : State) (members : List Nat) (gang : Tile → Gang) : ∃ f, Tile.Gathers gang f ∧
    s.rendezvous members gang = s.mapTiles (fun t => members.contains t.index) f := by
  have hretire : Tile.Gathers gang fun t => { t.retire with gang := gang t } := ⟨Tile.retire_index, fun _ => rfl, Tile.retire_x⟩
  unfold State.rendezvous
  dsimp only
  split
  · exact ⟨_, hretire, rfl⟩
  · next lead _ =>
    refine ⟨fun t => { ({ t.retire with gang := gang t } : Tile) with pc := lead.pc }, ⟨Tile.retire_index, fun _ => rfl, Tile.retire_x⟩, ?_⟩
    exact mapTiles_mapTiles s fun u => congrArg members.contains (hretire.index u)

/-- The tiles of a rendezvous other than the current one. -/
theorem mem_others_gathered {s : State} {members : List Nat} {gang : Tile → Gang} {f : Tile → Tile} (hf : Tile.Gathers gang f) {u : Tile}
    (hu : u ∈ (s.mapTiles (fun t => members.contains t.index) f).others) (hm : u.index ∈ members) : ∃ o ∈ s.others, o.index ∈ members ∧ u.gang = gang o := by
  obtain ⟨o, ho, rfl⟩ := List.mem_map.mp hu
  by_cases h : members.contains o.index = true
  · rw [if_pos h]
    exact ⟨o, ho, by simpa using h, hf.gang o⟩
  · rw [if_neg h] at hm
    exact absurd (by simpa using hm) h

theorem named_self {s : State} {m : BitVec 8} (h : m.getLsbD s.tile.gangIndex = true) : s.tile ∈ s.named m := by
  simp [State.named, State.tilesOf, State.allTiles, h]

theorem named_allTiles {s : State} {m : BitVec 8} {u : Tile} (h : u ∈ s.named m) : u ∈ s.allTiles :=
  List.mem_of_mem_filter (List.mem_of_mem_filter h)

/-- Every tile that a mask names is there, and each is ready (R199). -/
def State.AllCome (s : State) (m : BitVec 8) (ready : Tile → Prop) : Prop := (maskMembers m).length ≤ (s.named m).length ∧ ∀ u ∈ s.named m, ready u

/-- A tile is the one that executes `gang.form`, or waits in one of the same mask. -/
def Tile.Forms (t : Tile) (m : BitVec 8) (u : Tile) : Prop := u.index = t.index ∨ u.meets (fun w => decide (w.kind = .gangForm m)) = true

/-- A tile is the one that executes `gang.join`, or waits in one at the same address, or follows in lockstep (R202). -/
def Tile.Joins (t : Tile) (m : BitVec 8) (u : Tile) : Prop := u.index = t.index ∨ (u.gang.mask = m ∧ u.pc = t.pc ∧
  (u.meets (fun w => decide (w.kind = .gangJoin)) = true ∨ u.gang.member = true ∧ u.leads = false))

/-- The test of the rendezvous instructions for a tile that is missing. -/
theorem gathering_iff (m : BitVec 8) (all : List Tile) (p : Tile → Bool) :
    (decide (all.length < (maskMembers m).length) || !all.all p) = true ↔ ¬ ((maskMembers m).length ≤ all.length ∧ ∀ u ∈ all, p u = true) := by
  rw [Bool.or_eq_true, decide_eq_true_eq, Bool.not_eq_true', ← Bool.not_eq_true, List.all_eq_true, not_and_or, Nat.not_le]

section
variable {s : State} (hs : s.Plain) {launch : Nat} (hl : s.tile.launch = some launch)
include hs hl

/-! ### `gang.form` -/

section
variable {m : BitVec 8} (hmany : 2 ≤ (maskMembers m).length) (hbit : m.getLsbD s.tile.gangIndex = true) (hmember : s.tile.gang.member = false) (hlevel : s.tile.level = 0)
include hmany hbit hmember hlevel

omit hs hl in
theorem form_legal : (decide ((maskMembers m).length < 2) || !m.getLsbD s.tile.gangIndex || s.tile.gang.member || decide (s.tile.level ≠ 0)) = false := by
  rw [hbit, hmember, hlevel, decide_eq_false (Nat.not_lt.mpr hmany)]
  rfl

theorem gangForm_completes (hhere : s.AllCome m (s.tile.Forms m)) :
    ∃ t : State, exec (.gangForm m) s = .next t ∧
      t.tile.gang = { mask := m, left := 0, leader := (maskMembers m).headD 0, position := maskPosition m s.tile.gangIndex, member := true } ∧
      t.tile.x = s.tile.x ∧ t.mem = s.mem ∧ ∀ u ∈ t.others, u.index ∈ (s.named m).map (·.index) →
        u.gang.mask = m ∧ u.gang.member = true ∧ u.gang.leader = (maskMembers m).headD 0 ∧ u.gang.left = 0 := by
  have hcome : ¬((decide ((s.named m).length < (maskMembers m).length) || !(s.named m).all fun u => decide (u.index = s.tile.index) ||
      u.meets fun w => decide (w.kind = .gangForm m)) = true) := by
    rw [gathering_iff, not_not]
    simpa [State.AllCome, Tile.Forms] using hhere
  obtain ⟨f, hf, hrun⟩ := rendezvous_gathers s ((s.named m).map (·.index)) fun u =>
    { mask := m, left := 0, leader := (maskMembers m).headD 0, position := maskPosition m u.gangIndex, member := true }
  have hin : ((s.named m).map (·.index)).contains s.tile.index = true := by
    simpa using ⟨s.tile, named_self hbit, rfl⟩
  refine ⟨_, run_leave hs.toQuiet (misplaced_launch hs.kpre (by rw [hl]; rfl)) (t := s.mapTiles (fun t => ((s.named m).map (·.index)).contains t.index) f) ?_,
    ?_, ?_, rfl, fun u hu hm => ?_⟩
  · rw [act_bind_ok (act_get s)]
    simp only [form_legal hmany hbit hmember hlevel, hcome, if_false, Bool.false_eq_true]
    rw [← List.headD_eq_head?_getD, hrun]
    rfl
  · exact (congrArg Tile.gang (if_pos hin)).trans (hf.gang s.tile)
  · exact (congrArg Tile.x (if_pos hin)).trans (hf.x s.tile)
  · obtain ⟨o, -, -, hg⟩ := mem_others_gathered hf hu hm
    rw [hg]
    exact ⟨rfl, rfl, rfl, rfl⟩

theorem gangForm_waits (hmissing : ¬ s.AllCome m (s.tile.Forms m)) :
    exec (.gangForm m) s = .next (s.stallOn (.gangForm m)) := by
  have hgathering : (decide ((s.named m).length < (maskMembers m).length) || !(s.named m).all fun u => decide (u.index = s.tile.index) ||
      u.meets fun w => decide (w.kind = .gangForm m)) = true := by
    rw [gathering_iff]
    simpa [State.AllCome, Tile.Forms] using hmissing
  refine (run_quiet hs.toQuiet _ _ (misplaced_launch hs.kpre (by rw [hl]; rfl))).trans ?_
  rw [act_bind_ok (act_get s)]
  simp only [form_legal hmany hbit hmember hlevel, hgathering, if_true, if_false, Bool.false_eq_true]
  rw [act_bind_error (stall_run _ s)]
  rfl

end

/-! ### `gang.split` -/

/-- What the leader's split makes of a tile of its gang: the members that follow retire with it. -/
def Tile.splitFrom (t u : Tile) : Tile := { (if u.gang.member && u.index ≠ t.index then u.retire else u) with gang := {} }

theorem gangSplit_dissolves (hleads : s.tile.leads = true) (hbit : s.tile.gang.mask.getLsbD s.tile.gangIndex = true) :
    ∃ t : State, exec .gangSplit s = .next t ∧ t.tile = ({ s.tile with gang := {} } : Tile).retire ∧ t.mem = s.mem ∧
      t.others = s.others.map fun u => if (sameGang s.tile u : Bool) = true then
        ({ (if u.gang.member = true ∧ u.index ≠ s.tile.index then u.retire else u) with gang := {} } : Tile) else u := by
  have hmask : s.tile.gang.mask ≠ 0 := by
    unfold Tile.leads at hleads
    simp only [Bool.and_eq_true, decide_eq_true_eq] at hleads
    exact hleads.1.1
  have hsame : sameGang s.tile s.tile = true := by simpa [sameGang, hbit] using hmask
  refine run_ok_of hs.toQuiet (misplaced_launch hs.kpre (by rw [hl]; rfl)) ⟨s.mapTiles (sameGang s.tile) s.tile.splitFrom, ?_, ?_, rfl, ?_⟩
  · rw [act_bind_ok (act_get s)]
    simp only [hmask, hleads, if_true, if_false]
    rfl
  · refine congrArg Tile.retire ((if_pos hsame).trans ?_)
    simp [Tile.splitFrom]
  · refine List.map_congr_left fun u _ => ?_
    simp [Tile.splitFrom]

/-! ### `gang.join` -/

section
variable {m : BitVec 8} (hm : s.tile.gang.mask = m) (h0 : m ≠ 0)
include hm h0

theorem gangJoin_completes (hhere : s.AllCome m (s.tile.Joins m))
    (hself : s.tile.index ∈ (s.named m).map (·.index)) (hnodup : (s.allTiles.map (·.index)).Nodup) :
    ∃ t : State, exec .gangJoin s = .next t ∧ t.tile.gang = { s.tile.gang with left := 0, member := true } ∧ t.mem = s.mem ∧
      ∀ u ∈ t.others, u.index ∈ (s.named m).map (·.index) → u.gang.mask = m ∧ u.gang.member = true ∧ u.gang.left = 0 := by
  have hcome : ¬((decide ((s.named m).length < (maskMembers m).length) || !(s.named m).all fun u => decide (u.index = s.tile.index) ||
      (decide (u.gang.mask = m) && decide (u.pc = s.tile.pc) && ((u.meets fun w => decide (w.kind = .gangJoin)) || (u.gang.member && !u.leads)))) = true) := by
    rw [gathering_iff, not_not]
    simpa [State.AllCome, Tile.Joins, and_assoc] using hhere
  obtain ⟨f, hf, hrun⟩ := rendezvous_gathers s ((s.named m).map (·.index)) fun u => { u.gang with left := 0, member := true }
  refine ⟨_, run_leave hs.toQuiet (misplaced_launch hs.kpre (by rw [hl]; rfl)) (t := s.mapTiles (fun t => ((s.named m).map (·.index)).contains t.index) f) ?_,
    ?_, rfl, fun u hu hmem => ?_⟩
  · rw [act_bind_ok (act_get s)]
    simp only [hm, h0, hcome, if_false]
    rw [hrun]
    rfl
  · exact (congrArg Tile.gang (if_pos (by simpa using hself))).trans (hf.gang s.tile)
  · obtain ⟨o, ho, hin, hg⟩ := mem_others_gathered hf hu hmem
    obtain ⟨w, hw, hindex⟩ := List.mem_map.mp hin
    have hwo : w = o := List.inj_on_of_nodup_map hnodup (named_allTiles hw) (List.mem_cons_of_mem _ ho) hindex
    have hother : o.index ≠ s.tile.index := fun h => (List.nodup_cons.mp hnodup).1 (List.mem_map.mpr ⟨o, ho, h⟩)
    rcases hhere.2 o (hwo ▸ hw) with h | ⟨h, -⟩
    · exact absurd h hother
    · rw [hg]
      exact ⟨h, rfl, rfl⟩

theorem gangJoin_waits (hmissing : ¬ s.AllCome m (s.tile.Joins m)) :
    exec .gangJoin s = .next (s.stallOn .gangJoin) := by
  have hgathering : (decide ((s.named m).length < (maskMembers m).length) || !(s.named m).all fun u => decide (u.index = s.tile.index) ||
      (decide (u.gang.mask = m) && decide (u.pc = s.tile.pc) && ((u.meets fun w => decide (w.kind = .gangJoin)) || (u.gang.member && !u.leads)))) = true := by
    rw [gathering_iff]
    simpa [State.AllCome, Tile.Joins, and_assoc] using hmissing
  refine (run_quiet hs.toQuiet _ _ (misplaced_launch hs.kpre (by rw [hl]; rfl))).trans ?_
  rw [act_bind_ok (act_get s)]
  simp only [hm, h0, hgathering, if_true, if_false]
  rw [act_bind_error (stall_run _ s)]
  rfl

end
end

end Sys2Proof.Machine
end

section
/-! SUPPORT. The launch instructions of a tile, and the M-mode instructions that park, revive and halt (R387-R389, R417, R426, R433). -/

namespace Sys2Proof.Machine

open Sys2Proof

/-! ### Statuses of parks and revives (R389, R425) -/

/-- The state after an instruction that writes a status. -/
def State.wroteStatus (s : State) (d : Reg) (n : Nat) : State := s.retired { s.tile.setX d (BitVec.ofNat 64 n) with sporeStatus := BitVec.ofNat 8 n }

theorem sporeStatus_run {t : State} (ht : t.Quiet) (d : Reg) (n : Nat) :
    sporeStatus d n t = .ok () { t with tile := { t.tile.setX d (BitVec.ofNat 64 n) with sporeStatus := BitVec.ofNat 8 n } } := by
  unfold sporeStatus
  rw [act_bind_ok (setX_quiet ht d _)]
  rfl

/-! ### The tiles of a park (R203, R417) -/

theorem tileAt_mem {s : State} {i : Nat} {u : Tile} (h : s.tileAt i = some u) : u ∈ s.allTiles := by
  unfold State.tileAt at h
  split at h
  · cases h
    exact List.mem_cons_self
  · exact List.mem_cons_of_mem _ (List.mem_of_find?_eq_some h)

/-- Every tile of a set is parked. -/
def State.HasParked (s : State) (set : List Nat) : Prop := ∀ u ∈ s.allTiles, u.index ∈ set → u.parked = true

/-- What a park makes of a tile of its set (R417). -/
def State.stoppedTile (s : State) (u : Tile) : Tile :=
  { u.stopClock s.clock with parked := true, idleStop := u.idleSeen, lag := u.lag || s.turns.any fun o => o.followsFor fun j => j = u.index }

theorem stopSet_parks (s : State) (set : List Nat) : (s.stopSet set).HasParked set := by
  intro u hu hi
  obtain ⟨o, -, rfl⟩ : ∃ o ∈ s.allTiles, (if set.contains o.index then s.stoppedTile o else o) = u := List.mem_map.mp hu
  by_cases h : set.contains o.index = true
  · rw [if_pos h]
    rfl
  · rw [if_neg h] at hi
    exact absurd (by simpa using hi) h

theorem park_frame (s : State) (t : Tile) (set : List Nat) (k : Bool) (area : Nat) (r : Option Nat) :
    (s.park t set k area r).allTiles = (s.stopSet set).allTiles ∧ (s.park t set k area r).mem = s.mem := by
  unfold State.park
  cases k <;> exact ⟨rfl, rfl⟩

theorem park_parks (s : State) (t : Tile) (set : List Nat) (k : Bool) (area : Nat) (r : Option Nat) : (s.park t set k area r).HasParked set := by
  unfold State.HasParked
  rw [(park_frame s t set k area r).1]
  exact stopSet_parks s set

theorem stallOn_parked {s : State} {set : List Nat} (h : s.HasParked set) (k : WaitKind) : (s.stallOn k).HasParked set := by
  have htile : (s.stallOn k).tile.index = s.tile.index ∧ (s.stallOn k).tile.parked = s.tile.parked := by
    unfold State.stallOn
    split
    · exact ⟨rfl, rfl⟩
    · exact ⟨(congrArg Tile.index (Tile.count_eq _ _ _)).trans rfl, (congrArg Tile.parked (Tile.count_eq _ _ _)).trans rfl⟩
  intro u hu hi
  rcases List.mem_cons.mp hu with rfl | hu
  · rw [htile.2]
    exact h s.tile List.mem_cons_self (htile.1 ▸ hi)
  · exact h u (List.mem_cons_of_mem _ hu) hi

section
variable {s : State} (hs : s.Plain)
include hs

/-! ### `lnch.post` and `lnch.done` (R387, R388) -/

theorem lnchPost_answered (d : Reg) {a b : Reg} (ha : a ≠ 30) (hb : b ≠ 30) {v : Word} (hv : s.tile.answer = some v) :
    exec (.lnchPost d a b) s = .next (s.wroteX d v) := by
  refine run_ok hs.toQuiet (misplaced_plain hs.kpre) (t := { s with tile := s.tile.setX d v }) ?_
  rw [act_bind_ok (outsideRegions_quiet hs.regions _), act_bind_ok (guardC30_run _ (by simp [ha.symm, hb.symm]) s), act_bind_ok (act_get s)]
  simp only [hv]
  exact setX_quiet hs.toQuiet d v

theorem lnchDone_ends (a : Reg) {launch : Nat} {l : Launch} (hl : s.tile.launch = some launch) (hat : s.launchAt launch = some l) (hnumber : l.number = launch)
    (hdone : l.done = none) (hend : l.endable = true) (hown : l.device = s.device) (hparking : l.state ≠ .parking) (hparked : l.state ≠ .parked) :
    ∃ t : State, exec (.lnchDone a) s = .next t ∧ t.tile.started = false ∧ t.mem = s.mem ∧
      ∃ l', t.launchAt launch = some l' ∧ l'.state = .ending ∧ l'.done = some (s.tile.rank, s.tile.rx a) := by
  have hof : s.launchOf s.tile = some l := by
    unfold State.launchOf
    rw [hl]
    exact hat
  have hends : s.launchDone launch s.tile.rank (s.tile.rx a) =
      (s.mapLaunch launch fun l => { l with done := some (s.tile.rank, s.tile.rx a), state := .ending, ready := [] }).stopTiles launch := by
    unfold State.launchDone
    simp only [hat, hdone, hend, hown, Option.isSome_none, Bool.not_true, Bool.false_eq_true, if_false, if_true]
  have hnow := launchAt_mapLaunch hat (f := fun l => { l with done := some (s.tile.rank, s.tile.rx a), state := .ending, ready := [] }) fun _ => rfl
  obtain ⟨u, hu⟩ : ∃ u, s.launchDone launch s.tile.rank (s.tile.rx a) = u := ⟨_, rfl⟩
  have hmem : u.mem = s.mem := by rw [← hu, hends]; rfl
  have hat' : u.launchAt launch = some { l with done := some (s.tile.rank, s.tile.rx a), state := .ending, ready := [] } := by
    rw [← hu, hends]
    exact hnow
  refine ⟨_, run_leave hs.toQuiet (misplaced_launch hs.kpre (by rw [hl]; rfl)) (t := { u with tile := { u.tile with started := false } }) ?_, rfl, hmem, _, hat', rfl, rfl⟩
  rw [act_bind_ok (outsideRegions_quiet hs.regions _), act_bind_ok (getX_quiet hs.armed a), act_bind_ok (act_get s)]
  simp only [hof, hparking, hparked, decide_false, Bool.or_self, Bool.false_eq_true, if_false, hnumber, hu]
  rfl

section
variable (hmode : s.tile.mode = .m) (d a : Reg)
include hmode

section
variable (k : BitVec 1)

theorem sysPark_answered {v : Word} (hv : s.tile.answer = some v) :
    exec (.sysPark d a k) s = .next (s.retired { s.tile.setX d (BitVec.ofNat 64 v.toNat) with sporeStatus := v.setWidth 8 }) := by
  refine run_ok hs.toQuiet (misplaced_plain hs.kpre) (t := { s with tile := { s.tile.setX d (BitVec.ofNat 64 v.toNat) with sporeStatus := v.setWidth 8 } }) ?_
  rw [act_bind_ok (getX_quiet hs.armed a), act_bind_ok (act_get s)]
  simp only [hmode, hv, reduceCtorEq, if_false]
  exact sporeStatus_run hs.toQuiet d _

variable (hv : s.tile.answer = none) (hp : s.parkPending s.tile.index = false)
include hv hp

theorem sysPark_refused {n : Nat} (hc : s.parkCheck (s.tile.rx a).toNat (decide (k = 1)) s.tile.sporeArea.toNat = .error n) :
    exec (.sysPark d a k) s = .next (s.wroteStatus d n) := by
  refine run_ok hs.toQuiet (misplaced_plain hs.kpre) (t := { s with tile := { s.tile.setX d (BitVec.ofNat 64 n) with sporeStatus := BitVec.ofNat 8 n } }) ?_
  rw [act_bind_ok (getX_quiet hs.armed a), act_bind_ok (act_get s)]
  simp only [hmode, hv, hp, hc, reduceCtorEq, if_false, Bool.false_eq_true]
  exact sporeStatus_run hs.toQuiet d n

theorem sysPark_parks {u : Tile} {set : List Nat} (hc : s.parkCheck (s.tile.rx a).toNat (decide (k = 1)) s.tile.sporeArea.toNat = .ok (u, set)) :
    ∃ t : State, exec (.sysPark d a k) s = .next t ∧ t.mem = s.mem ∧ ∀ i ∈ set, ∀ v, t.tileAt i = some v → v.parked = true := by
  obtain ⟨t, hrun, hmem, hparked⟩ : ∃ t, exec (.sysPark d a k) s = .next t ∧ t.mem = s.mem ∧ t.HasParked set := by
    by_cases hin : set.contains s.tile.index = true
    · obtain ⟨w, hw⟩ : ∃ w : State, { s with tile := ({ s.tile.setX d 0 with sporeStatus := 0 } : Tile).retire } = w := ⟨_, rfl⟩
      refine ⟨w.park u set (decide (k = 1)) s.tile.sporeArea.toNat none, run_leave hs.toQuiet (misplaced_plain hs.kpre) ?_,
        (park_frame ..).2.trans (by rw [← hw]), park_parks _ _ _ _ _ _⟩
      rw [act_bind_ok (getX_quiet hs.armed a), act_bind_ok (act_get s)]
      simp only [hmode, hv, hp, hc, hin, reduceCtorEq, if_false, if_true, Bool.false_eq_true]
      rw [act_bind_ok (sporeStatus_run hs.toQuiet d 0), act_bind_ok (onTile_run _ _), act_bind_ok (act_modify _ _)]
      rw [← hw]
      rfl
    · refine ⟨(s.park u set (decide (k = 1)) s.tile.sporeArea.toNat (some s.tile.index)).stallOn .park,
        (run_quiet hs.toQuiet _ _ (misplaced_plain hs.kpre)).trans ?_,
        (park_frame s u set (decide (k = 1)) s.tile.sporeArea.toNat (some s.tile.index)).2, stallOn_parked (park_parks _ _ _ _ _ _) .park⟩
      rw [act_bind_ok (getX_quiet hs.armed a), act_bind_ok (act_get s)]
      simp only [hmode, hv, hp, hc, hin, reduceCtorEq, if_false, Bool.false_eq_true]
      rw [act_bind_ok (act_modify _ _)]
      rfl
  exact ⟨t, hrun, hmem, fun i hi v hat => hparked v (tileAt_mem hat) (tileAt_index hat ▸ hi)⟩

end

/-! ### `sys.revive` and `sys.halt` (R426, R433) -/

theorem sysRevive_refused (hr : s.reviveStatus (s.endpointHere (s.tile.rx a).toNat) s.tile.sporeArea.toNat ≠ 0) :
    exec (.sysRevive d a) s = .next (s.wroteStatus d (s.reviveStatus (s.endpointHere (s.tile.rx a).toNat) s.tile.sporeArea.toNat)) := by
  refine run_ok hs.toQuiet (misplaced_plain hs.kpre) (t := { s with tile := { s.tile.setX d _ with sporeStatus := _ } }) ?_
  rw [act_bind_ok (getX_quiet hs.armed a), act_bind_ok (act_get s)]
  simp only [hmode, hr, reduceCtorEq, if_false, decide_false]
  exact sporeStatus_run hs.toQuiet d _

theorem sysRevive_restores {p : Spore} {u : Tile} (hr : s.reviveStatus (s.endpointHere (s.tile.rx a).toNat) s.tile.sporeArea.toNat = 0)
    (hu : s.endpointHere (s.tile.rx a).toNat = some u) (hp : s.spores.find? (fun p => decide (p.area = s.tile.sporeArea.toNat) && p.out) = some p)
    (hq : (s.revive p u).Quiet) : exec (.sysRevive d a) s = .next ((s.revive p u).wroteStatus d 0) := by
  refine run_ok hs.toQuiet (misplaced_plain hs.kpre) (t := { s.revive p u with tile := { (s.revive p u).tile.setX d 0 with sporeStatus := 0 } }) ?_
  have hat : s.sporeAt s.tile.sporeArea.toNat = some p := hp
  rw [act_bind_ok (getX_quiet hs.armed a), act_bind_ok (act_get s)]
  simp only [hmode, hu, reduceCtorEq, if_false, hat]
  rw [hu] at hr
  simp only [hr, decide_true]
  rw [act_bind_ok (act_modify _ _)]
  exact sporeStatus_run hq d 0

theorem sysHalt_fires (hlow : (s.tile.rx a).toNat < 2 ^ 16) : ∃ t : State, exec (.sysHalt a) s = .next t ∧ t.tile = s.tile.retire ∧ t.mem = s.mem ∧
    ∀ g, g < 16 → (s.tile.rx a).getLsbD g = true → (s.tile.index / 512, g) ∈ t.firing := by
  refine ⟨_, run_ok hs.toQuiet (misplaced_plain hs.kpre) (t := s.fire (s.tile.index / 512) ((s.tile.rx a).setWidth 16)) ?_, rfl, rfl, fun g hg hbit => ?_⟩
  · rw [act_bind_ok (getX_quiet hs.armed a), act_bind_ok (curTile_run s)]
    simp only [hmode, Nat.div_eq_of_lt hlow, ne_eq, reduceCtorEq, not_true_eq_false, decide_false, Bool.or_self, Bool.false_eq_true, if_false]
    rfl
  · have hnamed : (s.tile.index / 512, g) ∈ (((List.range 16).filter fun g => ((s.tile.rx a).setWidth 16 : BitVec 16).getLsbD g).map fun g => (s.tile.index / 512, g)) := by
      simp [hg, hbit]
    show _ ∈ s.firing ++ _
    by_cases h : (s.tile.index / 512, g) ∈ s.firing
    · exact List.mem_append_left _ h
    · exact List.mem_append_right _ (List.mem_filter.mpr ⟨hnamed, by simpa using h⟩)

end

/-- In U-mode the three are illegal (R389, R433). -/
theorem sys_illegal (hmode : s.tile.mode = .u) (d a : Reg) (k : BitVec 1) : exec (.sysPark d a k) s = .next (s.takeTrap 2 (instrWord (.sysPark d a k))) ∧
    exec (.sysRevive d a) s = .next (s.takeTrap 2 (instrWord (.sysRevive d a))) ∧ exec (.sysHalt a) s = .next (s.takeTrap 2 (instrWord (.sysHalt a))) := by
  refine ⟨(run_quiet hs.toQuiet _ _ (misplaced_plain hs.kpre)).trans ?_, (run_quiet hs.toQuiet _ _ (misplaced_plain hs.kpre)).trans ?_,
    (run_quiet hs.toQuiet _ _ (misplaced_plain hs.kpre)).trans ?_⟩
  · rw [act_bind_ok (getX_quiet hs.armed a), act_bind_ok (act_get s)]
    simp only [hmode, if_true]
    rw [act_bind_error (illegal_run _ s), finish_trap, trapFrom_self]
  · rw [act_bind_ok (getX_quiet hs.armed a), act_bind_ok (act_get s)]
    simp only [hmode, if_true]
    rw [act_bind_error (illegal_run _ s), finish_trap, trapFrom_self]
  · rw [act_bind_ok (getX_quiet hs.armed a), act_bind_ok (curTile_run s)]
    simp only [hmode, decide_true, Bool.true_or, if_true]
    rw [act_bind_error (illegal_run _ s), finish_trap, trapFrom_self]

end

/-- Settles O50, instruction by instruction. -/
theorem gangLaunchSystemResults : Obligations.GangLaunchSystemResults := by
  intro s d a b m k launch hs all ids count formed
  refine ⟨fun hl hmany hbit hmember hlevel => ⟨gangForm_completes hs hl hmany hbit hmember hlevel, gangForm_waits hs hl hmany hbit hmember hlevel⟩,
    fun hl => gangSplit_dissolves hs hl, fun hl hm h0 => ⟨gangJoin_completes hs hl hm h0, gangJoin_waits hs hl hm h0⟩,
    fun v ha hb => lnchPost_answered hs d ha hb, fun l hl hat hnumber => lnchDone_ends hs a hl hat hnumber, fun hmode => ?machine, fun hmode => sys_illegal hs hmode d a k⟩
  case machine =>
    exact ⟨fun v => sysPark_answered hs hmode d a k, fun n hv hp => sysPark_refused hs hmode d a k hv hp, fun u set hv hp => sysPark_parks hs hmode d a k hv hp,
      sysRevive_refused hs hmode d a, fun p u hr hu hp => sysRevive_restores hs hmode d a hr hu hp, sysHalt_fires hs hmode a⟩

end Sys2Proof.Machine
end

section
/-! SUPPORT. The services of Lichen, and an injection's frame (R261, R262, R449-R451). -/

namespace Sys2Proof.Machine

open Sys2Proof

/-! ### The answer of a service (R261) -/

/-- The write of a register outside a region: an error that waits in the register goes. -/
theorem setX_outside {s : State} (h : s.tile.openRegions = []) (d : Reg) (v : Word) :
    setX d v s = .ok () { s.rearm (fun i => i = .x s.tile.index s.tile.level d) with tile := s.tile.setX d v } := by
  rw [setX, act_bind_ok (saveItems_quiet h _)]
  rfl

/-- What the answer of a service makes of its tile. -/
def Tile.answered (t : Tile) (status : Nat) (result : Option Word) : Tile :=
  ((t.setX 10 (word status)).setX 11 (result.getD (t.rx 11))).lichenReturn ((t.lichen.map (·.pc)).getD t.mepc + 4)

/-- The write of a register's own value changes nothing. -/
theorem setX_self (t : Tile) (r : Reg) : t.setX r (t.rx r) = t := by
  by_cases hr : r = 0
  · exact if_pos hr
  · have hbank : ((t.x.get t.level).set r.val ((t.x.get t.level).get r)) = t.x.get t.level := Vector.set_getElem_self _
    have hx : t.x.set t.level.val (t.x.get t.level) = t.x := Vector.set_getElem_self _
    rw [Tile.setX, if_neg hr, Tile.rx, if_neg hr, hbank, hx]

theorem rearm_other {s : State} (hl : ∀ a ∈ s.armed, ∀ n v r, a.item ≠ .x n v r) (n : Nat) (v : Level) (r : Reg) : s.rearm (fun i => i = .x n v r) = s := by
  have h : (s.armed.filter fun a => !decide (a.item = .x n v r)) = s.armed := List.filter_eq_self.mpr fun a ha => by simp [hl a ha n v r]
  rw [State.rearm, h]

/-- A service's answer writes `a0`, and `a1` where it has a result, and returns. -/
theorem serviceAnswer_run {s : State} (h : s.tile.openRegions = []) (status : Nat) (result : Option Word) :
    ∃ armed, serviceAnswer status result s = .ok () { s with armed := armed, tile := s.tile.answered status result } ∧
      ((∀ a ∈ s.armed, ∀ n l r, a.item ≠ .x n l r) → armed = s.armed) := by
  have h10 : ({ s.rearm (fun i => i = .x s.tile.index s.tile.level 10) with tile := s.tile.setX 10 (word status) } : State).tile.openRegions = [] := by simpa using h
  cases result with
  | none =>
    refine ⟨(s.rearm fun i => i = .x s.tile.index s.tile.level 10).armed, ?_, fun hl => by rw [rearm_other hl]⟩
    rw [serviceAnswer, act_bind_ok (setX_outside h 10 _)]
    have hsame : (s.tile.setX 10 (word status)).setX 11 (s.tile.rx 11) = s.tile.setX 10 (word status) := by
      simpa [Tile.rx_setX] using setX_self (s.tile.setX 10 (word status)) 11
    simp only [Tile.answered, Option.getD_none, hsame]
    rfl
  | some v =>
    refine ⟨((s.rearm fun i => i = .x s.tile.index s.tile.level 10).rearm fun i => i = .x s.tile.index s.tile.level 11).armed, ?_, fun hl => by
      rw [rearm_other hl, rearm_other hl]⟩
    rw [serviceAnswer, act_bind_ok (setX_outside h 10 _)]
    refine (act_bind_ok (setX_outside h10 11 _)).trans ?_
    simp only [Tile.setX_index, Tile.setX_level]
    rfl

theorem answered_parts (t : Tile) (status : Nat) (result : Option Word) :
    (t.answered status result).pc = (t.lichen.map (·.pc)).getD t.mepc + 4 ∧ (t.answered status result).mode = t.mpp ∧ (t.answered status result).lichen = none ∧
      (t.answered status result).v = t.v ∧ (t.answered status result).c = t.c := by
  simp [Tile.answered, Tile.lichenReturn, Tile.mret]

theorem answered_rx (t : Tile) (status : Nat) (result : Option Word) (r : Reg) :
    (t.answered status result).rx r = if r = 10 then BitVec.ofNat 64 status else if r = 11 then result.getD (t.rx 11) else t.rx r := by
  show ((t.setX 10 (word status)).setX 11 (result.getD (t.rx 11))).rx r = _
  by_cases h10 : r = 10 <;> by_cases h11 : r = 11 <;> simp_all [Tile.rx_setX, word]

/-- What an answer leaves of a state is what the caller sees (R261). -/
theorem answered_served {s t : State} {status : Nat} {result : Option Word} (ht : t.tile = s.tile.answered status result) (hm : t.mem = s.mem) : s.Served t status result := by
  obtain ⟨hpc, hmode, hlichen, hv, hc⟩ := answered_parts s.tile status result
  unfold State.Served
  rw [ht]
  exact ⟨hpc, hmode, hlichen, answered_rx s.tile status result, hv, hc, hm⟩

theorem serve_ok {n : Nat} {a : Act Unit} {s t : State} (hn : s.service = some n) (h : a s = .ok () t) : serve n a s = .next t := by
  rw [serve, if_pos hn, EStateM.run, h]
  rfl

/-- A service that only answers (R262). -/
theorem serve_answers {s : State} (h : s.Quiet) {n : Nat} (hn : s.service = some n) (status : Nat) (result : Option Word) :
    ∃ t, serve n (serviceAnswer status result) s = .next t ∧ s.Served t status result ∧ t.armed = [] := by
  obtain ⟨armed, hrun, harmed⟩ := serviceAnswer_run h.regions status result
  exact ⟨_, serve_ok hn hrun, answered_served rfl rfl, (harmed (by simp [h.armed])).trans h.armed⟩

/-- A service that changes the state and then answers (R262). -/
theorem serviceAnswer_after {s u : State} (hu : u.tile = s.tile) (hr : s.tile.openRegions = []) (hm : u.mem = s.mem) (status : Nat) (result : Option Word) :
    ∃ t, serviceAnswer status result u = .ok () t ∧ s.Served t status result ∧ t.trust = u.trust ∧
      ((∀ a ∈ u.armed, ∀ n l r, a.item ≠ .x n l r) → t.armed = u.armed) := by
  obtain ⟨armed, hrun, harmed⟩ := serviceAnswer_run (s := u) (hu ▸ hr) status result
  exact ⟨_, hrun, answered_served (congrArg (Tile.answered · status result) hu) hm, rfl, harmed⟩

theorem svcFreshRandom_serves {s : State} (h : s.Quiet) (hn : s.service = some 2) : ∃ t w, exec .svcFreshRandom s = .next t ∧ s.Served t 0 (some w) := by
  obtain ⟨t, hrun, hserved, -⟩ := serviceAnswer_after (s := s) (u := { s with draws := s.draws + 1 }) rfl h.regions rfl 0 (some (Config.freeWord s.draws))
  exact ⟨t, _, serve_ok hn hrun, hserved⟩

/-! ### A user record (R262) -/

/-- The item of a user record. -/
def State.userRecord (s : State) : PendingItem :=
  ⟨s.tile.mdomain, 4, 1, false, s.tile.launch.getD 0, [10, 11, 12, 13].map (fun r => (s.tile.rx r).toNat) ++ [s.tile.rank]⟩

/-- The state in which a record waits for the session log. -/
def State.recording (s : State) : State := { s with trust := { s.trust with pending := s.trust.pending ++ [s.userRecord] } }

theorem svcUserRecord_outside {s : State} (h : s.Quiet) (hn : s.service = some 3) :
    ∃ t, exec .svcUserRecord s = .next t ∧ s.Served t 0 none ∧ t.trust.pending = s.trust.pending ++ [s.userRecord] := by
  obtain ⟨t, hrun, hserved, htrust, -⟩ := serviceAnswer_after (s := s) (u := s.recording) rfl h.regions rfl 0 none
  have hin : s.tile.inRegion = false := by rw [Tile.inRegion, h.regions]; rfl
  refine ⟨t, serve_ok hn ?_, hserved, by rw [htrust]; rfl⟩
  rw [act_bind_ok (curTile_run s), hin]
  exact hrun

theorem withRegions_answered (s : State) (rs : List Region) (n : Nat) (result : Option Word) : s.Served { s.withRegions rs with tile := (s.withRegions rs).tile.answered n result } n result := by
  obtain ⟨hpc, hmode, hlichen, hv, hc⟩ := answered_parts (s.withRegions rs).tile n result
  exact ⟨hpc, hmode, hlichen, answered_rx (s.withRegions rs).tile n result, hv, hc, rfl⟩

/-- In a region the answer of a user record is status 4, and nothing is recorded. -/
theorem svcUserRecord_inRegion {s : State} (hn : s.service = some 3) (ha : s.armed = []) (hin : s.tile.inRegion = true) (hroom : s.tile.undoUsed + 8 ≤ s.tile.undoSize) :
    ∃ t, exec .svcUserRecord s = .next t ∧ s.Served t 4 none ∧ t.trust = s.trust := by
  obtain ⟨r, rest, hr⟩ : ∃ r rest, s.tile.openRegions = r :: rest := by
    cases h : s.tile.openRegions with
    | nil => simp [Tile.inRegion, h] at hin
    | cons r rest => exact ⟨r, rest, rfl⟩
  obtain ⟨rs, hsave⟩ : ∃ rs, saveItems [.x 10] s = .ok () (s.withRegions rs) := ⟨_, saveItems_room hr (savedOf_x (by decide)) hroom⟩
  have hset : setX 10 (word 4) s = .ok () { s.withRegions rs with tile := (s.withRegions rs).tile.setX 10 (word 4) } := by
    rw [setX, act_bind_ok hsave, act_bind_ok (act_modify _ _), rearm_nil (s := s.withRegions rs) ha]
    rfl
  have hsame : ((s.withRegions rs).tile.setX 10 (word 4)).setX 11 ((s.withRegions rs).tile.rx 11) = (s.withRegions rs).tile.setX 10 (word 4) := by
    simpa [Tile.rx_setX] using setX_self ((s.withRegions rs).tile.setX 10 (word 4)) 11
  have hrun : serviceAnswer 4 none s = .ok () { s.withRegions rs with tile := (s.withRegions rs).tile.answered 4 none } := by
    rw [serviceAnswer, act_bind_ok hset]
    simp only [Tile.answered, Option.getD_none, hsame]
    rfl
  refine ⟨{ s.withRegions rs with tile := (s.withRegions rs).tile.answered 4 none }, serve_ok hn ?_, withRegions_answered s rs 4 none, rfl⟩
  rw [act_bind_ok (curTile_run s), hin]
  exact hrun

/-! ### The frame of an injection (R449, R450) -/

/-- A step of a home or a slice that leaves the current tile, and arms no error where none waits. -/
def State.SparesTile (s t : State) : Prop := t.tile = s.tile ∧ (s.armed = [] → t.armed = [])

namespace State.SparesTile

theorem refl (s : State) : s.SparesTile s := ⟨rfl, id⟩

theorem trans {s t u : State} (h : s.SparesTile t) (h' : t.SparesTile u) : s.SparesTile u := ⟨h'.1.trans h.1, fun ha => h'.2 (h.2 ha)⟩

end State.SparesTile

theorem rearm_spares (s : State) (p : ErrorItem → Bool) : s.SparesTile (s.rearm p) := ⟨rfl, fun h => by simp [State.rearm, h]⟩

theorem paging_spares (s : State) (p : Paging) : s.SparesTile { s with paging := p } := ⟨rfl, id⟩

theorem parityAt_spares {s t : State} {slice : Nat} {p : ErrorItem → Bool} (h : s.parityAt slice p = some t) : s.SparesTile t := by
  unfold State.parityAt at h
  split at h
  · cases h
    exact rearm_spares s p
  · cases h

theorem joinWait_spares (s : State) (who : Requester) (w : PageWait) : s.SparesTile (s.joinWait who w) := by
  unfold State.joinWait
  extract_lets
  split
  · exact .refl s
  · split
    · exact paging_spares s _
    · split
      · exact paging_spares s _
      · exact .refl s

theorem tlbLook_spares (s : State) (slice va : Nat) : s.SparesTile (s.tlbLook slice va).2 := by
  unfold State.tlbLook
  split
  · exact .refl s
  · split
    · exact .refl s
    · next h => exact (parityAt_spares h).trans (paging_spares _ _)

theorem walkLook_spares (slice va : Nat) : ∀ (ls : List Nat) (s : State), s.SparesTile (s.walkLook slice va ls).2
  | [], s => .refl s
  | level :: ls, s => by
    unfold State.walkLook
    split
    · exact walkLook_spares slice va ls s
    · split
      · exact .refl s
      · next h => exact ((parityAt_spares h).trans (paging_spares _ _)).trans (walkLook_spares slice va ls _)

theorem walkStart_spares (s : State) (slice va : Nat) : s.SparesTile (s.walkStart slice va).2.2 := by
  have h := walkLook_spares slice va [1, 2, 3] s
  unfold State.walkStart
  split <;> simp_all

theorem readTwice_spares (s : State) (slice : Nat) (w : Walk) : s.SparesTile (s.readTwice slice w).2 := by
  unfold State.readTwice
  split
  · exact .refl s
  · extract_lets mine others
    split
    · exact paging_spares s _
    · split
      · exact paging_spares s _
      · split <;> exact paging_spares s _

theorem setRun_spares (s : State) (size at' v : Nat) : s.SparesTile (s.setRun size at' v) := by
  have h (l : List Nat) : ∀ s : State, s.SparesTile (l.foldl (fun s a => s.setPte a v) s) := by
    induction l with
    | nil => exact .refl
    | cons a l ih => exact fun s => .trans ⟨rfl, id⟩ (ih (s.setPte a v))
  exact h _ s

theorem firstTouch_spares {s t : State} {die size at' e : Nat} (h : s.firstTouch die size at' e = some t) : s.SparesTile t := by
  unfold State.firstTouch at h
  split at h
  · cases h
  · cases h
    exact (setRun_spares s _ _ _).trans (paging_spares _ _)

theorem fills_spare (s : State) (e : TlbEntry) (slice va table : Nat) (ls : List Nat) : s.SparesTile ((s.fillTlb e).fillWalks slice va table ls) := by
  obtain ⟨ws, h⟩ := fillWalks_eq slice va ls (s.fillTlb e) table
  rw [h]
  exact ((rearm_spares s e.struck).trans (paging_spares _ _)).trans (paging_spares _ _)

theorem translate_spares (s : State) (q : Asker) (va : Nat) : s.SparesTile (s.translate q va).2 := by
  unfold State.translate
  extract_lets slice
  split
  · exact joinWait_spares s _ _
  · have hlook := tlbLook_spares s slice va
    split
    · next h => rwa [h] at hlook
    · next u h =>
      rw [h] at hlook
      have hstart := walkStart_spares u slice va
      split
      next level table v hv =>
      rw [hv] at hstart
      extract_lets ended
      have hended (x : State) (w : Walk) : x.SparesTile (ended x w).2 := by
        cases w with
        | leaf => exact fills_spare _ _ _ _ _ _
        | hold => exact joinWait_spares _ _ _
        | bad => exact joinWait_spares _ _ _
        | touch => exact joinWait_spares _ _ _
      have htwice := readTwice_spares v slice (walkFrom v va level table)
      have hv := hlook.trans hstart
      split
      · next hr => rw [hr] at htwice; exact hv.trans htwice
      · next page size at' e w hr =>
        rw [hr] at htwice
        dsimp only at htwice
        split
        · exact (hv.trans htwice).trans (hended w (.touch page size at' e))
        · next hf => exact ((hv.trans htwice).trans (firstTouch_spares hf)).trans (hended _ _)
      · next hr => rw [hr] at htwice; exact (hv.trans htwice).trans (hended _ _)

theorem translateAt_spares {s : State} (ha : s.armed = []) (q : Asker) (va : Nat) : s.SparesTile (s.translateAt q va).2 := by
  rw [translateAt_unarmed ((translate_spares s q va).2 ha)]
  exact translate_spares s q va

theorem locate_spares {s : State} (ha : s.armed = []) (q : Claim) (access addr : Nat) : s.SparesTile (s.locate q access addr).2 := by
  have hcheck : s.SparesTile (s.sliceCheck q addr) := by
    obtain ⟨ds, cs, h⟩ := sliceCheck_eq ha q addr
    rw [h]
    exact ⟨rfl, id⟩
  unfold State.locate
  split
  · extract_lets a reads u
    have hat := translateAt_spares (hcheck.2 ha) a addr
    split
    · exact hcheck
    · split
      · exact hcheck
      · split
        · next h =>
          rw [h] at hat
          split
          · exact (hcheck.trans hat).trans (paging_spares _ _)
          · exact (hcheck.trans hat).trans (paging_spares _ _)
        · next h => rw [h] at hat; exact hcheck.trans hat
  · exact .refl s

theorem refuse_spares {s : State} (ha : s.armed = []) (q : Claim) (access off reason : Nat) : s.SparesTile (s.refuse q access off reason) := by
  obtain ⟨vs, o, tr, h⟩ := refuse_onlyLogs ha q access off reason
  rw [h]
  exact ⟨rfl, id⟩

theorem arm_mem (s : State) (item : ErrorItem) (unc : Bool) (v : Word) : (s.arm item unc v).mem = s.mem := rfl

theorem arm_armed (s : State) (item : ErrorItem) (unc : Bool) (v : Word) :
    (s.arm item unc v).armed = ⟨item, unc, true⟩ :: s.armed.filter fun a => decide (a.item ≠ item) := rfl

/-- An injection leaves the current tile (R450). -/
theorem inject_tile {s : State} (ha : s.armed = []) (v : Word) : (s.inject v).tile = s.tile := by
  unfold State.inject
  split
  · rfl
  · next j hj =>
    extract_lets t c
    iterate 8 (split; · rfl)
    split
    · split
      · split <;> rfl
      · rfl
    · split
      · rfl
      · extract_lets q
        split
        · exact (refuse_spares ha _ _ _ _).1
        · have hlocate := (locate_spares ha q 1 (c.base.toNat + j.offset)).1
          split
          · next h => rwa [h] at hlocate
          · next h => rwa [h] at hlocate

theorem inject_mem_of_direct {s : State} {v : Word} {j : Injection} (hj : Injection.ofWord v = some j)
    (ht : j.target = 0 ∨ j.target = 5 ∨ j.target = 6 ∨ j.target = 7 ∨ j.target = 9 ∨ j.target = 10) :
    (s.inject v).mem = s.mem ∧ (s.armed = [] → ∀ a ∈ (s.inject v).armed, ∀ n l r, a.item ≠ .x n l r) := by
  obtain h | h | h | h | h | h := ht <;> simp +contextual [State.inject, hj, h, arm_mem, arm_armed]

/-- An injection in a cap register arms it (R450). -/
theorem inject_cap {s : State} {v : Word} {j : Injection} (hj : Injection.ofWord v = some j) (ht : j.target = 6) :
    (s.inject v).armed = ⟨.cap s.tile.index j.reg, j.uncorrectable, true⟩ :: s.armed.filter fun a => decide (a.item ≠ .cap s.tile.index j.reg) := by
  have h : s.inject v = s.arm (.cap s.tile.index j.reg) j.uncorrectable v := by simp [State.inject, hj, ht]
  rw [h, arm_armed]

/-! ### The service of error injections (R262, R451) -/

section
variable {s : State} (h : s.Quiet) (hn : s.service = some 4)
include h hn

theorem svcErrorInjection_refuses (ha : ¬ (s.tile.mdomain = 0 ∨ (s.descriptor s.tile.mdomain).any (·.inject) = true)) :
    ∃ t, exec .svcErrorInjection s = .next t ∧ s.Served t 2 none ∧ t.armed = [] := by
  obtain ⟨t, hrun, hserved, -, harmed⟩ := serviceAnswer_after (s := s) (u := s) rfl h.regions rfl 2 none
  refine ⟨t, serve_ok hn ?_, hserved, (harmed (by simp [h.armed])).trans h.armed⟩
  rw [act_bind_ok (curTile_run s), act_bind_ok (act_get s), if_pos (by simpa using ha)]
  exact hrun

variable (ha : s.tile.mdomain = 0 ∨ (s.descriptor s.tile.mdomain).any (·.inject) = true)
include ha

theorem svcErrorInjection_rejects (hr : s.tile.rejectsInjection (s.tile.rx 10) = true) :
    ∃ t, exec .svcErrorInjection s = .next t ∧ s.Served t 3 none ∧ t.armed = [] := by
  obtain ⟨t, hrun, hserved, -, harmed⟩ := serviceAnswer_after (s := s) (u := s) rfl h.regions rfl 3 none
  refine ⟨t, serve_ok hn ?_, hserved, (harmed (by simp [h.armed])).trans h.armed⟩
  rw [act_bind_ok (curTile_run s), act_bind_ok (act_get s), if_neg (by simpa [or_iff_not_imp_left] using ha), if_pos hr]
  exact hrun

omit h in
theorem svcErrorInjection_runs (hr : s.tile.rejectsInjection (s.tile.rx 10) = false) {t : State} (ht : serviceAnswer 0 none (s.inject (s.tile.rx 10)) = .ok () t) :
    exec .svcErrorInjection s = .next t := by
  refine serve_ok hn ?_
  rw [act_bind_ok (curTile_run s), act_bind_ok (act_get s), if_neg (by simpa [or_iff_not_imp_left] using ha), if_neg (by simp [hr])]
  exact ht

/-- An accepted injection answers 0 and returns, wherever the error goes. -/
theorem svcErrorInjection_accepts (hr : s.tile.rejectsInjection (s.tile.rx 10) = false) :
    ∃ t, exec .svcErrorInjection s = .next t ∧ t.tile.rx 10 = 0 ∧ t.tile.mode = s.tile.mpp ∧ t.tile.pc = (s.tile.lichen.map (·.pc)).getD s.tile.mepc + 4 := by
  have htile := inject_tile h.armed (s.tile.rx 10)
  have hout : (s.inject (s.tile.rx 10)).tile.openRegions = [] := (congrArg Tile.openRegions htile).trans h.regions
  obtain ⟨armed, hrun, -⟩ := serviceAnswer_run hout 0 none
  obtain ⟨hpc, hmode, -⟩ := answered_parts s.tile 0 none
  have hsame : (s.inject (s.tile.rx 10)).tile.answered 0 none = s.tile.answered 0 none := congrArg (Tile.answered · 0 none) htile
  exact ⟨_, svcErrorInjection_runs hn ha hr hrun, (congrArg (Tile.rx · 10) hsame).trans (answered_rx s.tile 0 none 10), (congrArg Tile.mode hsame).trans hmode,
    (congrArg Tile.pc hsame).trans hpc⟩

/-- An injection outside the sectors is answered with 0 and changes nothing else that the caller sees. -/
theorem svcErrorInjection_direct {j : Injection} (hj : Injection.ofWord (s.tile.rx 10) = some j)
    (ht : j.target = 0 ∨ j.target = 5 ∨ j.target = 6 ∨ j.target = 7 ∨ j.target = 9 ∨ j.target = 10) :
    ∃ t, exec .svcErrorInjection s = .next t ∧ s.Served t 0 none ∧ (j.target = 6 → t.armed = [⟨.cap s.tile.index j.reg, j.uncorrectable, true⟩]) := by
  obtain ⟨hmem, hitems⟩ := inject_mem_of_direct (s := s) hj ht
  have hr : s.tile.rejectsInjection (s.tile.rx 10) = false := by
    obtain h | h | h | h | h | h := ht <;> simp [Tile.rejectsInjection, hj, h]
  obtain ⟨t, hrun, hserved, -, harmed⟩ := serviceAnswer_after (inject_tile h.armed (s.tile.rx 10)) h.regions hmem 0 none
  refine ⟨t, svcErrorInjection_runs hn ha hr hrun, hserved, fun h6 => ?_⟩
  rw [harmed (hitems h.armed), inject_cap hj h6, h.armed]
  rfl

end

end Sys2Proof.Machine
end

section
/-! SUPPORT. The writes of CSRs by event (R236, R414, R449, R454). -/

namespace Sys2Proof.Machine

open Sys2Proof

theorem event_ok {a : Act Unit} {s t : State} (h : a s = .ok () t) : event a s = .next t := by
  rw [event, EStateM.run, h]

/-- A write of a reserved value changes nothing (R234). -/
theorem csrStep_reserved {n : Nat} {v : Word} (h : csrReserved n v = true) (a : Act Unit) (s : State) : csrStep n v a s = .next s := by
  rw [csrStep, if_pos h]
  rfl

theorem csrStep_ok {n : Nat} {v : Word} (h : csrReserved n v = false) {a : Act Unit} {s t : State} (ha : a s = .ok () t) : csrStep n v a s = .next t := by
  rw [csrStep, if_neg (by simp [h])]
  exact event_ok ha

theorem loopCsrWrite_writes {s : State} (h : s.Quiet) (w : Fin 3) (v : Word) : exec (.loopCsrWrite w v) s = .next (s.csrWrite (0x806 + w.val) v) := by
  have hset : setCsr (0x806 + w.val) v s = .ok () (s.csrWrite (0x806 + w.val) v) := by
    rw [setCsr, act_bind_ok (saveItems_quiet h.regions _)]
    match w with
    | 0 => rfl
    | 1 => rfl
    | 2 => rfl
  have hfree : csrReserved (0x806 + w.val) v = false := by
    match w with
    | 0 => rfl
    | 1 => rfl
    | 2 => rfl
  exact csrStep_ok hfree hset

theorem csrRegisterWrite_writes {s : State} (h : s.Quiet) (csr : BitVec 12) (v : Word) :
    exec (.csrRegisterWrite csr v) s = .next (if csrReserved csr.toNat v = true then s else s.csrStore csr.toNat v) := by
  split
  next hr => exact csrStep_reserved hr _ s
  next hr => exact csrStep_ok (by simpa using hr) (act_bind_ok (saveItems_quiet h.regions _))

theorem mdomainWrite_writes (s : State) (v : Word) :
    exec (.mdomainWrite v) s = .next (if csrReserved 0x7C2 v = false ∧ s.domainFree = true then { s with tile := { s.tile with mdomain := v.setWidth 16 } } else s) := by
  cases hr : csrReserved 0x7C2 v with
  | true => exact (csrStep_reserved hr _ s).trans (by simp)
  | false =>
    have h : exec (.mdomainWrite v) s = .next (s.writeDomain v) := csrStep_ok hr rfl
    simpa [State.writeDomain] using h

theorem minjectWrite_malformed (s : State) {v : Word} (h : Injection.ofWord v = none) : exec (.minjectWrite v) s = .next s := by
  cases hr : csrReserved 0x7C4 v with
  | true => exact csrStep_reserved hr _ s
  | false =>
    have hs : s.inject v = s := by rw [State.inject, h]
    exact csrStep_ok hr (congrArg (EStateM.Result.ok ()) hs)

/-- A well-formed descriptor has no reserved bit (R449). -/
theorem reserved_of_injection {v : Word} {j : Injection} (h : Injection.ofWord v = some j) : csrReserved 0x7C4 v = false := by
  by_contra hr
  have hbits : v.toNat / 64 % 4 ≠ 0 ∨ v.toNat / 8192 % 8 ≠ 0 := by simpa [csrReserved, or_iff_not_imp_left] using hr
  have hnone : Injection.ofWord v = none := by
    unfold Injection.ofWord
    refine if_pos ?_
    obtain h | h := hbits <;> simp [h]
  rw [hnone] at h
  cases h

theorem minjectWrite_cap (s : State) {v : Word} {unc : Bool} {off : Nat} {r : Reg} (h : Injection.ofWord v = some ⟨6, unc, r, off⟩) :
    ∃ t, exec (.minjectWrite v) s = .next t ∧ t.tile = s.tile ∧
      t.armed = ⟨.cap s.tile.index r, unc, true⟩ :: s.armed.filter fun a => decide (a.item ≠ .cap s.tile.index r) := by
  have hs : s.inject v = s.arm (.cap s.tile.index r) unc v := by simp [State.inject, h]
  exact ⟨s.arm (.cap s.tile.index r) unc v, csrStep_ok (reserved_of_injection h) (congrArg (EStateM.Result.ok ()) hs), rfl, arm_armed _ _ _ _⟩

/-! ### The fault log (R412, R414) -/

theorem mfaultlogSelect_reads (s : State) {v : Word} (h : csrReserved 0x7C1 v = false) :
    ∃ t, exec (.mfaultlogSelect v) s = .next t ∧ t.csrRead 0x7C1 = (s.tile.faultLog.get (Fin.ofNat 16 v.toNat)).wordAt (v.toNat / 16 % 4) ∧
      t.tile.faultLog = s.tile.faultLog := by
  have hn : (v.setWidth 6).toNat = v.toNat % 64 := by simp
  have hi : Fin.ofNat 16 (v.setWidth 6).toNat = Fin.ofNat 16 v.toNat := by
    rw [hn]
    exact Fin.ext (Nat.mod_mod_of_dvd _ ⟨4, rfl⟩)
  have hw : (v.setWidth 6).toNat / 16 = v.toNat / 16 % 4 := by
    rw [hn]
    omega
  refine ⟨_, csrStep_ok h rfl, ?_, rfl⟩
  show (s.tile.faultLog.get (Fin.ofNat 16 (v.setWidth 6).toNat)).wordAt ((v.setWidth 6).toNat / 16) = _
  rw [hi, hw]

/-- What a release makes of entry `i`. -/
def FaultEntry.afterRelease (i : Fin 16) (e : FaultEntry) : FaultEntry :=
  if i = 15 ∨ (e.cls ≠ 0 ∧ e.acked = true) then {} else if e.cls = 0 then e else { e with released := true }

theorem releaseLog_eq (t : Tile) (i : Fin 16) : t.releaseLog i = { t with faultLog := t.faultLog.set i.val ((t.faultLog.get i).afterRelease i) } := by
  unfold Tile.releaseLog FaultEntry.afterRelease
  by_cases hi : i = 15
  · subst hi
    rfl
  · by_cases hc : (t.faultLog.get i).cls = 0
    · have hself : t.faultLog.set i.val (t.faultLog.get i) = t.faultLog := Vector.set_getElem_self _
      simp [hi, hc, hself]
    · by_cases ha : (t.faultLog.get i).acked = true <;> simp [hi, hc, ha]

theorem releaseLog_get (t : Tile) (i j : Fin 16) :
    (t.releaseLog i).faultLog.get j = if j = i then (t.faultLog.get i).afterRelease i else t.faultLog.get j := by
  rw [releaseLog_eq]
  exact vector_get_set _ _ _ _

theorem mfaultlogRelease_releases (s : State) {v : Word} (h : csrReserved 0x7C1 v = false) {i : Fin 16} (hi : i = Fin.ofNat 16 v.toNat) :
    ∃ t, exec (.mfaultlogRelease v) s = .next t ∧ (∀ j, j ≠ i → t.tile.faultLog.get j = s.tile.faultLog.get j) ∧
      t.tile.faultLog.get i = if i = 15 ∨ ((s.tile.faultLog.get i).cls ≠ 0 ∧ (s.tile.faultLog.get i).acked = true) then {} else
        if (s.tile.faultLog.get i).cls = 0 then s.tile.faultLog.get i else { s.tile.faultLog.get i with released := true } := by
  subst hi
  refine ⟨_, csrStep_ok h rfl, fun j hj => ?_, ?_⟩
  · exact (releaseLog_get (s.tile.selectLog v) _ j).trans (if_neg hj)
  · exact (releaseLog_get (s.tile.selectLog v) _ _).trans (if_pos rfl)

end Sys2Proof.Machine
end

section
/-! SUPPORT. The activation of a handler, and the waits that end by a limit (R152, R182, R195, R384, R413). -/

namespace Sys2Proof.Machine

open Sys2Proof

/-! ### The activation of a handler (R195) -/

/-- The tile as an activation leaves it before it takes the message. -/
def Tile.entering (t : Tile) (l : Level) (q : QMsg) : Tile :=
  { t.count 9 1 with retPc := t.retPc.set l.val t.unitPc, prev := t.prev.set l.val t.level, level := l, kpre := none, wait := none, answer := none, asks := t.asks.filter (·.held), slotTraps := q.failed }

theorem atBoundary_parts {t : Tile} (h : t.atBoundary = true) : t.mode = .u ∧ t.slotTraps = [] := by
  simp only [Tile.atBoundary, Bool.and_eq_true, decide_eq_true_eq, List.isEmpty_iff, and_assoc] at h
  obtain ⟨hmode, -, -, -, -, -, -, hslots, -⟩ := h
  exact ⟨hmode, hslots⟩

/-- A trap in U-mode with a free entry, outside a gang, leaves its cause and M-mode. -/
theorem takeTrap_enters {s : State} {cause : Nat} (hm : s.tile.mode = .u) (hc : cause ≠ 8) (hg : s.tile.gang.member = false) (hf : s.tile.freeEntry ≠ none) (value : Word) :
    (s.takeTrap cause value).tile.mcause = word cause ∧ (s.takeTrap cause value).tile.mode = .m := by
  obtain ⟨i, hi⟩ := Option.ne_none_iff_exists'.mp hf
  simp only [State.takeTrap, hm, hi, if_neg hc, leaveGang_alone hg]
  exact ⟨rfl, rfl⟩

/-- A cap that did not come is a trap with cause 25. -/
theorem takeSlotTrap_enters {s : State} (hslots : s.tile.slotTraps ≠ []) (hm : s.tile.mode = .u) (hg : s.tile.gang.member = false) (hf : s.tile.freeEntry ≠ none) :
    s.takeSlotTrap.tile.mcause = 25 ∧ s.takeSlotTrap.tile.mode = .m := by
  obtain ⟨slot, rest, hcons⟩ := List.exists_cons_of_ne_nil hslots
  obtain ⟨i, hi⟩ := Option.ne_none_iff_exists'.mp hf
  have htrap : s.takeSlotTrap = ({ s with tile := { s.tile with slotTraps := rest, mcapinfo := capInfo 0 slot 0 false } } : State).takeTrap 25 (word slot) := by
    simp only [State.takeSlotTrap, hcons, hi]
  rw [htrap]
  exact takeTrap_enters (s := { s with tile := { s.tile with slotTraps := rest, mcapinfo := capInfo 0 slot 0 false } }) (cause := 25) hm (by decide) hg hf (word slot)

section
variable {s : State} {l : Level} {q : QMsg} (hb : s.tile.atBoundary = true) (hd : s.tile.dueLevel = some l) (hq : freshHead (s.tile.queues.get l) = some q) (hg : s.tile.gang = {})
include hb hd hq hg

/-- An activation saves where the unit was, takes the message and goes to the entry of its type. -/
theorem handlerActivation_run : exec .handlerActivation s =
    .next ({ s with tile := { ((s.tile.entering l q).putMsg q).consumeMsg false with pc := BitVec.ofNat 64 (s.tile.dispatchOf q.msg.type).entry } } : State).takeSlotTrap := by
  have hact : s.activate l q = { s with tile := { ((s.tile.entering l q).putMsg q).consumeMsg false with pc := BitVec.ofNat 64 (s.tile.dispatchOf q.msg.type).entry } } := by
    obtain ⟨pmc, hcount⟩ : ∃ pmc, s.tile.count 9 1 = { s.tile with pmc := pmc } := ⟨_, Tile.count_eq _ _ _⟩
    rw [State.activate, leaveGang_alone (by rw [hg]), Tile.entering, hcount]
    rfl
  show execHandlerActivation s = _
  unfold execHandlerActivation
  rw [hb, hd]
  dsimp only
  rw [hq]
  dsimp only
  rw [hact]

omit hb hd hq hg in
/-- What the taken message has changed. -/
theorem entering_consumed (ho : s.tile.regions.get l = []) : ∃ x c cBank pmc qHead msgrecv queues xqueue, ((s.tile.entering l q).putMsg q).consumeMsg false =
    { s.tile.entering l q with x := x, c := c, cBank := cBank, pmc := pmc, qHead := qHead, msgrecv := msgrecv, queues := queues, xqueue := xqueue } := by
  obtain ⟨x, c, cBank, hput⟩ := (s.tile.entering l q).putMsg_frame q
  have hopen : ((s.tile.entering l q).putMsg q).openRegions = [] := by
    rw [hput, Tile.entering, Tile.count_eq]
    exact ho
  obtain ⟨pmc, qHead, h⟩ := Tile.consumeMsg_outside hopen false
  rw [hput] at h ⊢
  exact ⟨_, _, _, _, _, _, _, _, h⟩

omit hb hd hq hg in
theorem entering_parts : (s.tile.entering l q).level = l ∧ (s.tile.entering l q).retPc.get l = s.tile.unitPc ∧ (s.tile.entering l q).prev.get l = s.tile.level ∧
    (s.tile.entering l q).slotTraps = q.failed ∧ (s.tile.entering l q).faultLog = s.tile.faultLog ∧ (s.tile.entering l q).mode = s.tile.mode ∧
    (s.tile.entering l q).gang = s.tile.gang ∧ (s.tile.entering l q).regions = s.tile.regions := by
  obtain ⟨pmc, hcount⟩ : ∃ pmc, s.tile.count 9 1 = { s.tile with pmc := pmc } := ⟨_, Tile.count_eq _ _ _⟩
  rw [Tile.entering, hcount]
  exact ⟨rfl, (vector_get_set _ _ _ _).trans (if_pos rfl), (vector_get_set _ _ _ _).trans (if_pos rfl), rfl, rfl, rfl, rfl, rfl⟩

omit hb hd hq hg in
theorem entering_sameFiles : ({ s.tile with level := l } : Tile).SameFiles (s.tile.entering l q) := by
  rw [Tile.entering, Tile.count_eq]
  exact ⟨rfl, rfl, rfl, rfl, rfl, rfl, rfl⟩

theorem handlerActivation_activates (ho : s.tile.regions.get l = []) (hf : q.failed = []) :
    ∃ t, exec .handlerActivation s = .next t ∧ t.tile.level = l ∧ t.tile.retPc.get l = s.tile.unitPc ∧ t.tile.prev.get l = s.tile.level ∧
      t.tile.pc = BitVec.ofNat 64 (s.tile.dispatchOf q.msg.type).entry ∧ ({ s with tile := { s.tile with level := l } } : State).Received t false q := by
  obtain ⟨x, c, cBank, pmc, qHead, msgrecv, queues, xqueue, hw⟩ := entering_consumed (q := q) ho
  obtain ⟨hlevel, hret, hprev, hslots, -, -, -, hregions⟩ := entering_parts (s := s) (l := l) (q := q)
  have hopen : (s.tile.entering l q).openRegions = [] := by rw [Tile.openRegions, hlevel, hregions, ho]
  refine ⟨_, (handlerActivation_run hb hd hq hg).trans (congrArg _ (takeSlotTrap_none ?_)), ?_, ?_, ?_, rfl, ?_⟩
  · rw [hw]
    exact hslots.trans hf
  · rw [hw]
    exact hlevel
  · rw [hw]
    exact hret
  · rw [hw]
    exact hprev
  · exact received_of_consumed entering_sameFiles hopen ⟨rfl, rfl, rfl, rfl, rfl, rfl, rfl⟩ rfl

theorem handlerActivation_traps (ho : s.tile.regions.get l = []) (hf : q.failed ≠ []) :
    ∃ t, exec .handlerActivation s = .next t ∧ (s.tile.freeEntry ≠ none → t.tile.mcause = 25 ∧ t.tile.mode = .m) := by
  obtain ⟨x, c, cBank, pmc, qHead, msgrecv, queues, xqueue, hw⟩ := entering_consumed (q := q) ho
  obtain ⟨-, -, -, hslots, hlog, hmode, hgang, -⟩ := entering_parts (s := s) (l := l) (q := q)
  obtain ⟨hm, -⟩ := atBoundary_parts hb
  refine ⟨_, handlerActivation_run hb hd hq hg, fun hfree => ?_⟩
  rw [hw]
  refine takeSlotTrap_enters (fun h => hf (hslots.symm.trans h)) (hmode.trans hm) ?_ fun h => hfree ?_
  · exact (congrArg Gang.member hgang).trans (by rw [hg])
  · rw [← h]
    exact congrArg (fun log : Vector FaultEntry 16 => (List.finRange 16).find? fun i => decide (i.val < 15) && decide ((log.get i).cls = 0)) hlog.symm

end

/-! ### Waits that end by a limit (R152, R182, R384) -/

theorem waitLimitExpired_traps {s : State} {w : Wait} {value info : Word} (hw : s.tile.wait = some w) (hr : s.waitReport w.kind = some (value, info)) (hl : w.limit ≠ 0)
    (hready : ∀ r, w.kind = .reclaim r → s.reclaimReady r = false ∧ ((s.tile.rc r).kind = .remote → s.peerDown (s.tile.rc r).location.toNat = false))
    (hc : s.mustCancel = none) (ht : s.tile.canTrap = true) (hover : w.since + w.limit.toNat ≤ s.clock) :
    exec .waitLimitExpired s = .next (({ s with tile := { s.tile with waitinfo := info } } : State).takeTrap 26 value) := by
  have hwait : s.waitOver = true := by
    unfold State.waitOver
    rw [hw]
    dsimp only
    rw [hr]
    have hlimit : ¬ w.limit = 0#48 := hl
    cases hk : w.kind with
    | reclaim r =>
      obtain ⟨hnot, hpeer⟩ := hready r hk
      simpa [hlimit, hover, hnot, imp_iff_not_or] using hpeer
    | _ => simp [hlimit, hover]
  show execWaitLimitExpired s = _
  unfold execWaitLimitExpired
  rw [hwait, hw, Option.bind_some, hr]
  dsimp only
  rw [hc]
  exact if_pos ht

theorem waitLimitExpired_waits {s : State} {w : Wait} (hw : s.tile.wait = some w) (hnot : s.clock < w.since + w.limit.toNat) : exec .waitLimitExpired s = .next s := by
  have hwait : s.waitOver = false := by
    unfold State.waitOver
    rw [hw]
    simp [Nat.not_le.mpr hnot]
  show execWaitLimitExpired s = _
  unfold execWaitLimitExpired
  rw [hwait]

theorem unsend_none {s : State} (h : s.tile.sending = none) : s.unsend = s := by
  rw [State.unsend, h]

section
variable {s : State} {off since : Nat} (ho : s.tile.waitOffset = some (off, since)) (hover : since + s.faultWait s.tile ≤ s.clock)
include ho hover

theorem faultWaitExpired_run : exec .faultWaitExpired s = .next (if s.tile.canTrap then s.unsend.takeTrap s.tile.waitCause (word off) else s) := by
  have h : s.faultWaitOver = true := by simpa [State.faultWaitOver, ho] using hover
  show execFaultWaitExpired s = _
  unfold execFaultWaitExpired
  rw [h, ho]
  exact (apply_ite _ _ _ _).symm

theorem faultWaitExpired_traps (ht : s.tile.canTrap = true) (hs : s.tile.sending = none) :
    (s.tile.wait.map Wait.kind ≠ some (.copy off) → exec .faultWaitExpired s = .next (s.takeTrap 48 (BitVec.ofNat 64 off))) ∧
      (s.tile.wait.map Wait.kind = some (.copy off) → exec .faultWaitExpired s = .next (s.takeTrap 29 (BitVec.ofNat 64 off))) := by
  have h : exec .faultWaitExpired s = .next (s.takeTrap s.tile.waitCause (word off)) := by rw [faultWaitExpired_run ho hover, if_pos ht, unsend_none hs]
  refine ⟨fun hk => ?_, fun hk => ?_⟩
  · have hcause : s.tile.waitCause = 48 := by
      unfold Tile.waitCause
      split
      · next o hcopy =>
        have hsame : o = off := by
          obtain ⟨w, hw, hkind⟩ := Option.map_eq_some_iff.mp hcopy
          simpa [Tile.waitOffset, hw, hkind] using congrArg (Option.map Prod.fst) ho
        exact absurd (hsame ▸ hcopy) hk
      · rfl
    rw [h, hcause]
    rfl
  · have hcause : s.tile.waitCause = 29 := by rw [Tile.waitCause, hk]
    rw [h, hcause]
    rfl

end

end Sys2Proof.Machine
end

section
/-! SUPPORT. The rollback event: a rollback of several nested regions goes on after the open of the outermost (R373, R374). -/

namespace Sys2Proof.Machine

open Sys2Proof

/-- Where a rollback of the regions `rs` ends: at the open of the outermost, `r`, with everything they have saved restored. -/
theorem finishRollback_lands (s : State) (lv : Level) (k cause : Nat) (rs : List Region) (r : Region) (outer : List Region) : ∃ (m w : State) (v : Tile),
    s.finishRollback lv k cause rs r outer = w.leaveGang.stillFails ∧ w.tile = v.setX r.dest (word cause) ∧ v.pc = r.pc + 4 ∧ v.kpre = none ∧
      v.rgncause = word (cause % 512 + k % 8 * 512 + lv.val * 4096) ∧ v.openRegions = { r with saved := [], pinned := 0, slots := [] } :: outer ∧
      ((rs.flatMap (·.saved)).foldl (fun s v => s.restore k v) m).tile.SameX v ∧ s.tile.SameStand m.tile := by
  unfold State.finishRollback
  extract_lets t rewound keep saved lines restored restoredTile swept queue xqueue sweptTile requeued items itemsTile reopened rearmed destined
  have hrewound : rewound.tile = s.tile := (rewindSlots_onlyRings s _).tile
  have hstand : s.tile.SameStand restored.tile := hrewound ▸ restores_sameStand k lines rewound
  exact ⟨requeued, destined, reopened.tile, rfl, rfl, rfl, rfl, rfl, openRegions_setRegions items.tile _, ⟨⟨rfl, rfl, rfl⟩, rfl⟩, ⟨hstand.level, hstand.gang, hstand.failing⟩⟩

section
variable {s : State} {k cause : Nat} {r : Region} (hb : s.tile.rollbacks.find? (fun p => decide (p.1 = s.tile.level)) = some (s.tile.level, k, cause))
  (hr : ((s.tile.regions.get s.tile.level).take (s.tile.depth + 1 - k)).getLast? = some r)

include hb hr in
/-- With no job, no level and no remote operation to wait for, the rollback runs at once. -/
theorem rollback_finishes (hj : s.tile.jobs = []) (hl : s.levels = []) (hs : s.spores = []) (hu : s.undoLost = false) (hm : s.tile.remotes = []) :
    exec .rollback s = .next (s.finishRollback s.tile.level k cause ((s.tile.regions.get s.tile.level).take (s.tile.depth + 1 - k)) r
      ((s.tile.regions.get s.tile.level).drop (s.tile.depth + 1 - k))) := by
  have hdue : s.tile.rollbackDue = true := List.any_eq_true.mpr ⟨_, List.mem_of_find?_eq_some hb, by simp⟩
  have hself : ({ s with tile := { s.tile with jobs := [] } } : State) = s := by rw [← hj]
  have hlevels : s.levelsAbove (s.levelsSince s.tile.index s.tile.level r.levelSeq) = [] := by
    rw [levelsSince_none hl hs]
    simp [State.levelsAbove]
  have hreject : s.rejectLevels [] = (true, s) := by simp [State.rejectLevels, hm]
  refine (if_pos hdue).trans (congrArg _ ?_)
  unfold State.rollbackRun
  simp only [hb, hr, hj, List.filter_nil, List.foldl_nil, List.map_nil, List.any_nil, Bool.false_eq_true, if_false]
  rw [hself, hlevels, List.reverse_nil, hreject]
  simp only [hu, Bool.false_eq_true, if_false]

/-- The tile after a rollback outside a gang whose failed register is sound again. -/
theorem finishRollback_tile (hg : s.tile.gang = {}) (hf : s.tile.failing = none) (rs outer : List Region) : ∃ (m : State) (v : Tile),
    (s.finishRollback s.tile.level k cause rs r outer).tile = v.setX r.dest (word cause) ∧ v.pc = r.pc + 4 ∧ v.kpre = none ∧
      v.rgncause = word (cause % 512 + k % 8 * 512 + s.tile.level.val * 4096) ∧ v.openRegions = { r with saved := [], pinned := 0, slots := [] } :: outer ∧
      ((rs.flatMap (·.saved)).foldl (fun s v => s.restore k v) m).tile.SameX v ∧ v.level = s.tile.level := by
  obtain ⟨m, w, v, hfinish, hw, hpc, hkpre, hcause, hopen, hitems, hstand⟩ := finishRollback_lands s s.tile.level k cause rs r outer
  have hv : s.tile.SameStand v := (hstand.trans (restores_sameStand k _ m)).trans hitems.toSameStand
  have hgang : w.tile.gang.member = false := by rw [hw, Tile.setX_gang, hv.gang, hg]
  have hfailing : w.tile.failing = none := by rw [hw, Tile.setX_failing, hv.failing, hf]
  rw [hfinish, leaveGang_alone hgang, stillFails_none hfailing]
  exact ⟨m, v, hw, hpc, hkpre, hcause, hopen, hitems, hv.level⟩

include hr in
/-- A rollback of the innermost region alone restores what that region has saved. -/
theorem take_innermost (hk : s.tile.depth = k) : (s.tile.regions.get s.tile.level).take (s.tile.depth + 1 - k) = [r] := by
  rw [hk, Nat.add_sub_cancel_left] at hr ⊢
  cases hrs : s.tile.regions.get s.tile.level with
  | nil => rw [hrs] at hr; cases hr
  | cons o rest =>
    rw [hrs] at hr
    have ho : o = r := Option.some.inj hr
    rw [ho, List.take_succ_cons, List.take_zero]

include hb hr in
theorem rollback_reopens (hj : s.tile.jobs = []) (hl : s.levels = []) (hs : s.spores = []) (hu : s.undoLost = false) (hm : s.tile.remotes = []) (hg : s.tile.gang = {})
    (hf : s.tile.failing = none) :
    ∃ t, exec .rollback s = .next t ∧ t.tile.pc = r.pc + 4 ∧ t.tile.kpre = none ∧ t.tile.level = s.tile.level ∧
      t.tile.rgncause = BitVec.ofNat 64 (cause % 512 + k % 8 * 512 + s.tile.level.val * 4096) ∧ (r.dest ≠ 0 → t.tile.rx r.dest = BitVec.ofNat 64 cause) ∧
      t.tile.openRegions = { r with saved := [], pinned := 0, slots := [] } :: (s.tile.regions.get s.tile.level).drop (s.tile.depth + 1 - k) ∧
      (∀ q w, r.saved = [.x q w] → s.tile.depth = k → q ≠ r.dest → q ≠ 0 → t.tile.rx q = w) := by
  obtain ⟨m, v, htile, hpc, hkpre, hcause, hopen, hitems, hlevel⟩ := finishRollback_tile (k := k) (cause := cause) (r := r) hg hf
    ((s.tile.regions.get s.tile.level).take (s.tile.depth + 1 - k)) ((s.tile.regions.get s.tile.level).drop (s.tile.depth + 1 - k))
  refine ⟨_, rollback_finishes hb hr hj hl hs hu hm, ?_⟩
  rw [htile]
  refine ⟨(Tile.setX_pc ..).trans hpc, (Tile.setX_kpre ..).trans hkpre, (Tile.setX_level ..).trans hlevel, (Tile.setX_rgncause ..).trans hcause, fun hd => ?_,
    (Tile.setX_openRegions ..).trans hopen, fun q w hsaved hk hq h0 => ?_⟩
  · rw [Tile.rx_setX, if_pos ⟨rfl, hd⟩]
    rfl
  · rw [Tile.rx_setX, if_neg fun h => hq h.1, hitems.rx, take_innermost hr hk, List.flatMap_singleton, hsaved]
    exact restore_rx_same m k h0 w

end

end Sys2Proof.Machine
end

section
/-! SUPPORT. The events of the fault log, of halt groups and of the debug port (R412, R415, R431, R434, R443). -/

namespace Sys2Proof.Machine

open Sys2Proof

/-! ### Resends and acknowledgements (R412) -/

theorem tileAt_mapTile {s : State} {i : Nat} {u : Tile} (h : s.tileAt i = some u) {f : Tile → Tile} (hf : ∀ u, (f u).index = u.index) :
    (s.mapTile i f).tileAt i = some (f u) := by
  unfold State.tileAt at h
  split at h
  · next hi =>
    cases h
    rw [State.mapTile, if_pos hi, State.tileAt, if_pos ((hf s.tile).trans hi)]
  · next hi =>
    rw [State.mapTile, if_neg hi, State.tileAt, if_neg hi]
    exact find_map_key Tile.index hf h

theorem faultLogResend_makes {s : State} {n : Nat} {u : Tile} (hu : s.tileAt n = some u) : s.MakesTile (.faultLogResend n) n
    { u with logCopies := ((List.finRange 16).filter fun i => i.val < 15 && (u.faultLog.get i).cls = 1 && !(u.faultLog.get i).acked).map (·.val) } :=
  ⟨_, rfl, tileAt_mapTile hu fun _ => rfl, State.mapTile_mem _ _ _⟩

/-- A summary changes the launches alone. -/
theorem summariseFor_launches (s : State) (u : Tile) (e : Summary) : ∃ ls, s.summariseFor u e = { s with launches := ls } := by
  unfold State.summariseFor
  split <;> exact ⟨_, rfl⟩

theorem summarise_record (l : Launch) (e : Summary) : (l.summarise e).number = l.number ∧ (l.summarise e).record = l.record ∧ (l.summarise e).groups = l.groups := by
  unfold Launch.summarise
  extract_lets sources
  split <;> exact ⟨rfl, rfl, rfl⟩

/-- A summary with room takes the record at its end (R466). -/
theorem summarise_room {l : Launch} (h : l.summary.length < 4096) (e : Summary) : (l.summarise e).summary = l.summary ++ [e] := by
  unfold Launch.summarise
  extract_lets sources
  rw [if_pos h]

theorem launchAt_summariseFor {s : State} {u : Tile} {k : Nat} {l : Launch} (hk : u.launch = some k) (hl : s.launchAt k = some l) (e : Summary) :
    (s.summariseFor u e).launchAt k = some (l.summarise e) := by
  unfold State.summariseFor
  rw [hk]
  exact launchAt_mapLaunch hl fun o => (summarise_record o e).1

theorem putTile_launchAt (s : State) (u : Tile) (k : Nat) : (s.putTile u).launchAt k = s.launchAt k := by
  obtain ⟨tile, others, h⟩ := putTile_frame s u
  rw [h]
  rfl

theorem putTile_mem (s : State) (u : Tile) : (s.putTile u).mem = s.mem := by
  obtain ⟨tile, others, h⟩ := putTile_frame s u
  rw [h]

theorem tileAt_summariseFor {s : State} {n : Nat} {u : Tile} (hu : s.tileAt n = some u) (e : Summary) : (s.summariseFor u e).tileAt n = some u := by
  obtain ⟨ls, h⟩ := summariseFor_launches s u e
  rw [h]
  exact hu

/-- The tile when an entry of its log has been acknowledged. -/
def Tile.acknowledged (u : Tile) (i : Fin 16) : Tile :=
  { u with logCopies := u.logCopies.filter (· ≠ i.val), faultLog := u.faultLog.set i.val (if (u.faultLog.get i).trap && !(u.faultLog.get i).released then { u.faultLog.get i with acked := true } else {}) }

theorem faultLogAck_run {s : State} {n : Nat} {u : Tile} (hu : s.tileAt n = some u) {i : Fin 16} (hi : i ≠ 15) (hc : i.val ∈ u.logCopies) (hcls : (u.faultLog.get i).cls = 1)
    (ha : (u.faultLog.get i).acked = false) :
    exec (.faultLogAck n i.val) s = .next ((s.summariseFor u (s.recordSummary u (u.faultLog.get i) 0)).putTile (u.acknowledged i)) := by
  have hof : Fin.ofNat 16 i.val = i := Fin.ext (Nat.mod_eq_of_lt i.isLt)
  have hlt : ¬ 15 ≤ i.val := fun h => hi (Fin.ext (by omega))
  show execFaultLogAck n i.val s = _
  unfold execFaultLogAck
  rw [hu]
  dsimp only
  rw [if_neg (by simp [hc, hcls, ha, hlt])]
  simp only [hof, Tile.acknowledged]

theorem faultLogAck_acknowledges {s : State} {n : Nat} {u : Tile} (hu : s.tileAt n = some u) {i : Fin 16} (hi : i ≠ 15) (hc : i.val ∈ u.logCopies)
    (hcls : (u.faultLog.get i).cls = 1) (ha : (u.faultLog.get i).acked = false) :
    ∃ (t : State) (u' : Tile), exec (.faultLogAck n i.val) s = .next t ∧ t.tileAt n = some u' ∧ i.val ∉ u'.logCopies ∧
      u'.faultLog.get i = (if (u.faultLog.get i).trap = true ∧ (u.faultLog.get i).released = false then { u.faultLog.get i with acked := true } else {}) ∧
      ∀ k l, u.launch = some k → s.launchAt k = some l → l.summary.length < 4096 →
        ∃ l', t.launchAt k = some l' ∧ l'.summary = l.summary ++ [s.recordSummary u (u.faultLog.get i) 0] := by
  have hindex : (u.acknowledged i).index = n := by
    rw [← tileAt_index hu]
    rfl
  refine ⟨_, u.acknowledged i, faultLogAck_run hu hi hc hcls ha, tileAt_putTile (tileAt_summariseFor hu _) hindex, by simp [Tile.acknowledged], ?_,
    fun k l hk hl hroom => ⟨_, (putTile_launchAt _ _ k).trans (launchAt_summariseFor hk hl _), summarise_room hroom _⟩⟩
  refine (vector_get_set _ _ _ _).trans ((if_pos rfl).trans ?_)
  simp only [Bool.and_eq_true, Bool.not_eq_true']

/-! ### Fatal faults (R415, R443) -/

/-- `w` is the tile `u` stopped by a fatal fault, whose record stands in entry 15. -/
structure Tile.StoppedBy (u w : Tile) (code : Nat) : Prop where
  index : w.index = u.index
  hold : w.hold = .fatal
  cls : (w.faultLog.get 15).cls = 2
  code : (w.faultLog.get 15).code = code
  x : w.x = u.x
  v : w.v = u.v
  c : w.c = u.c
  pc : w.pc = u.pc

theorem fatal_stops {s : State} (hf : (s.tile.faultLog.get 15).cls = 0) (code : Nat) : ∃ v, s.fatal code = { s with tile := v } ∧ s.tile.StoppedBy v code := by
  unfold State.fatal
  extract_lets t e
  rw [if_pos hf]
  exact ⟨_, rfl, rfl, rfl, congrArg FaultEntry.cls ((vector_get_set _ _ _ _).trans (if_pos rfl)), congrArg FaultEntry.code ((vector_get_set _ _ _ _).trans (if_pos rfl)), rfl, rfl, rfl, rfl⟩

/-- What an event on tile `n` leaves of it, when the event keeps the other tiles. -/
theorem eventAs_leaves {s : State} {n : Nat} {u v : Tile} (hu : s.tileAt n = some u) {a : Act Unit} (ha : a (s.switchTo n) = .ok () { s.switchTo n with tile := v })
    (hv : v.index = n) : ∃ t, eventAs n a s = .next t ∧ t.tileAt n = some v ∧ t.mem = s.mem := by
  obtain ⟨others, hswitch⟩ := switchTo_eq hu
  obtain ⟨hback, w, ws, hframe⟩ := switchBack (t := { s.switchTo n with tile := v }) hu hswitch (by rw [hswitch]; rfl) hv
  refine ⟨_, eventAs_ok ha, hback, ?_⟩
  rw [hframe, hswitch]
  rfl

theorem fatalFault_stops {s : State} {n code : Nat} {u : Tile} (hu : s.tileAt n = some u) (hc : code ∈ [64, 67, 68]) (hhold : u.hold ≠ .fatal) (hp : u.parked = false)
    (hg : u.gated = false) (hf : (u.faultLog.get 15).cls = 0) (h64 : code = 64 → u.inRegion = false ∧ u.rollbacks = []) (h67 : code = 67 → u.rollbackDue = true)
    (h68 : code = 68 → u.mode = .m) :
    ∃ (t : State) (u' : Tile), exec (.fatalFault n code) s = .next t ∧ t.tileAt n = some u' ∧ u'.hold = .fatal ∧ (u'.faultLog.get 15).cls = 2 ∧ (u'.faultLog.get 15).code = code ∧
      u'.x = u.x ∧ u'.v = u.v ∧ u'.c = u.c ∧ u'.pc = u.pc ∧ t.mem = s.mem := by
  have hdue : ¬ (code = 64 && u.rollbackDue) = true := fun h => by
    obtain ⟨hcode, hdue⟩ : code = 64 ∧ u.rollbackDue = true := by simpa using h
    simp [Tile.rollbackDue, (h64 hcode).2] at hdue
  have hin : ¬ (code = 64 && u.mode = .u && u.inRegion) = true := fun h => by
    obtain ⟨⟨hcode, -⟩, hin⟩ : (code = 64 ∧ u.mode = .u) ∧ u.inRegion = true := by simpa using h
    simp [(h64 hcode).1] at hin
  have hother : ¬ ((code = 67 && !u.rollbackDue) || (code = 68 && u.mode ≠ .m)) = true := fun h => by
    obtain ⟨hcode, hnot⟩ | ⟨hcode, hnot⟩ : (code = 67 ∧ u.rollbackDue = false) ∨ (code = 68 ∧ u.mode ≠ .m) := by simpa using h
    · simp [h67 hcode] at hnot
    · exact hnot (h68 hcode)
  have hw := switchTo_tile hu
  obtain ⟨v, hfatal, hv⟩ := fatal_stops (s := s.switchTo n) (by rw [hw]; exact hf) code
  rw [hw] at hv
  have hkind : (code = 64 || code = 67 || code = 68) = true := by simpa [or_assoc] using hc
  refine (eventAs_leaves hu (v := v) ?_ (hv.index.trans (tileAt_index hu))).elim fun t ht =>
    ⟨t, v, (if_pos hkind).trans ht.1, ht.2.1, hv.hold, hv.cls, hv.code, hv.x, hv.v, hv.c, hv.pc, ht.2.2⟩
  rw [act_bind_ok (curTile_run (s.switchTo n)), hw, if_pos (by simp [tileAt_index hu, hp, hg]), if_neg hhold, if_neg hdue, if_neg hin, if_neg hother]
  exact congrArg (EStateM.Result.ok ()) hfatal

/-! ### The collection of a fatal record (R415) -/

theorem carry_frame (s : State) (m : Msg) (d : BitVec 16) : ∃ seq net fabric, s.carry m d = { s with msgSeq := seq, net := net, fabric := fabric } := by
  unfold State.carry
  extract_lets m' u
  split
  · exact ⟨_, _, _, rfl⟩
  · next dev _ =>
    split
    · exact ⟨_, _, _, rfl⟩
    · obtain ⟨f, h⟩ := sendPacket_fabric u dev (u.msgPacket m' dev d)
      rw [h]
      exact ⟨_, _, _, rfl⟩

/-- A message without caps changes the network and the fabric alone, where it goes and when it returns. -/
theorem sendMsg_frame (s : State) {m : Msg} (hm : m.caps = []) (d : BitVec 16) : ∃ seq net fabric, s.sendMsg m d = { s with msgSeq := seq, net := net, fabric := fabric } := by
  have hreturn : ∃ seq net fabric, s.returnMsg m 6 = { s with msgSeq := seq, net := net, fabric := fabric } := by
    rw [State.returnMsg, hm, State.undeliverMsg]
    exact carry_frame s _ _
  unfold State.sendMsg
  split
  · split
    · exact hreturn
    · exact carry_frame s m d
  · exact carry_frame s m d

section
variable {s : State} {n : Nat} {u : Tile} (hu : s.tileAt n = some u)

/-- The state in which the record has left entry 15, before the message goes. -/
def State.collected (s : State) (n : Nat) (u : Tile) : State :=
  ((s.summariseFor u (s.recordSummary u (u.faultLog.get 15) 6)).putTile { u with faultLog := u.faultLog.set 15 {} }).mapCluster (clusterOf n) fun c => { c with fatal := true }

theorem collected_frame (s : State) (n : Nat) (u : Tile) : ∃ tile others launches clusters,
    s.collected n u = { s with tile := tile, others := others, launches := launches, clusters := clusters } := by
  obtain ⟨ls, hls⟩ := summariseFor_launches s u (s.recordSummary u (u.faultLog.get 15) 6)
  unfold State.collected
  rw [hls]
  obtain ⟨tile, others, h⟩ := putTile_frame ({ s with launches := ls } : State) { u with faultLog := u.faultLog.set 15 {} }
  rw [h]
  exact ⟨_, _, _, _, rfl⟩

include hu in
theorem collected_tile (hn : u.index = n) : (s.collected n u).tileAt n = some { u with faultLog := u.faultLog.set 15 {} } :=
  tileAt_putTile (v := { u with faultLog := u.faultLog.set 15 {} }) (tileAt_summariseFor hu _) hn

theorem collected_clusters (s : State) (n : Nat) (u : Tile) : ∀ c ∈ (s.collected n u).clusters, c.index = n / 8 → c.fatal = true := by
  intro c hc hi
  obtain ⟨o, -, rfl⟩ := List.mem_map.mp hc
  dsimp only at hi ⊢
  split at hi
  · next ho => rw [if_pos ho]
  · next ho => exact absurd hi ho

/-- The message of a fatal record. -/
def State.fatalMsg (s : State) (u : Tile) (l : Launch) : Msg :=
  let e := u.faultLog.get 15
  { sender := u.rank, senderEp := u.principal s.device, senderLaunch := l.number, dest := .rank l.number l.record.faultrank,
    type := 0xFE, caps := [], counted := false,
    payload := [word (e.code + e.level * 2 ^ 8 + 3 * 2 ^ 10 + (if e.gang then 2 ^ 12 else 0) + e.sequence * 2 ^ 16), e.place, e.what, 0, e.time] }

include hu in
theorem fatalRecordCollect_silent (hf : (u.faultLog.get 15).cls = 2) (hl : (s.collected n u).launchOf u = none) :
    exec (.fatalRecordCollect n) s = .next (s.collected n u) := by
  show execFatalRecordCollect n s = _
  simp only [execFatalRecordCollect, hu]
  refine (if_neg (by simp [hf])).trans ?_
  unfold State.collected at hl
  simp only [hl]
  rfl

include hu in
theorem fatalRecordCollect_sends (hf : (u.faultLog.get 15).cls = 2) {l : Launch} (hl : (s.collected n u).launchOf u = some l) :
    exec (.fatalRecordCollect n) s = .next ((s.collected n u).sendMsg ((s.collected n u).fatalMsg u l) l.record.domain) := by
  show execFatalRecordCollect n s = _
  simp only [execFatalRecordCollect, hu]
  refine (if_neg (by simp [hf])).trans ?_
  unfold State.collected at hl
  simp only [hl]
  rfl

include hu in
theorem fatalRecordCollect_collects (hf : (u.faultLog.get 15).cls = 2) (hn : u.index = n) :
    ∃ (t : State) (u' : Tile), exec (.fatalRecordCollect n) s = .next t ∧ t.tileAt n = some u' ∧ u'.faultLog = u.faultLog.set 15 {} ∧
      (∀ c ∈ t.clusters, c.index = n / 8 → c.fatal = true) ∧
      ∀ l d, s.launchOf u = some l → s.place l.number l.record.faultrank = some (s.device, d) →
        ∃ m, t.net = s.net ++ [m] ∧ m.type = 0xFE ∧ m.dest = .rank l.number l.record.faultrank ∧ m.sender = u.rank := by
  obtain ⟨tile, others, launches, clusters, hframe⟩ := collected_frame s n u
  have htile := collected_tile hu hn
  have hclusters := collected_clusters s n u
  cases hl : (s.collected n u).launchOf u with
  | none =>
    refine ⟨_, { u with faultLog := u.faultLog.set 15 {} }, fatalRecordCollect_silent hu hf hl, htile, rfl, hclusters, fun l d hlaunch => ?_⟩
    obtain ⟨k, hk, hat⟩ := Option.bind_eq_some_iff.mp hlaunch
    have hafter : (s.collected n u).launchAt k = some (l.summarise (s.recordSummary u (u.faultLog.get 15) 6)) :=
      (putTile_launchAt _ _ k).trans (launchAt_summariseFor hk hat _)
    rw [State.launchOf, hk, Option.bind_some, hafter] at hl
    cases hl
  | some l' =>
    obtain ⟨seq, net, fabric, hsend⟩ := sendMsg_frame (s.collected n u) (m := (s.collected n u).fatalMsg u l') rfl l'.record.domain
    refine ⟨_, { u with faultLog := u.faultLog.set 15 {} }, fatalRecordCollect_sends hu hf hl, ?_, rfl, ?_, fun l d hlaunch hplace => ?_⟩
    · rw [hsend]
      exact htile
    · rw [hsend]
      exact hclusters
    · obtain ⟨k, hk, hat⟩ := Option.bind_eq_some_iff.mp hlaunch
      have hafter : (s.collected n u).launchAt k = some (l.summarise (s.recordSummary u (u.faultLog.get 15) 6)) :=
        (putTile_launchAt _ _ k).trans (launchAt_summariseFor hk hat _)
      obtain ⟨hnumber, hrecord, hgroups⟩ := summarise_record l (s.recordSummary u (u.faultLog.get 15) 6)
      have hl' : l' = l.summarise (s.recordSummary u (u.faultLog.get 15) 6) := by
        rw [State.launchOf, hk, Option.bind_some, hafter] at hl
        exact (Option.some.inj hl).symm
      have hkey : l.number = k := by simpa using List.find?_some hat
      have hsame : (s.collected n u).place l.number l.record.faultrank = s.place l.number l.record.faultrank := by
        rw [State.place, State.place, hkey, hafter, hat, Option.bind_some, Option.bind_some, hgroups]
      have hdevice : (s.collected n u).device = s.device := by rw [hframe]
      have hnet : (s.collected n u).net = s.net := by rw [hframe]
      have hdest : (s.collected n u).destDevice ((s.collected n u).fatalMsg u l').dest = some (s.collected n u).device := by
        show ((s.collected n u).place l'.number l'.record.faultrank).map (·.1) = _
        rw [hl', hnumber, hrecord, hsame, hplace, hdevice]
        rfl
      rw [sendMsg_here hdest]
      refine ⟨_, congrArg (· ++ _) hnet, rfl, ?_, rfl⟩
      show Dest.rank l'.number l'.record.faultrank = _
      rw [hl', hnumber, hrecord]

end

/-! ### Halt groups (R431) -/

theorem haltGroupFire_idle {s : State} {die group : Nat} (h : (die, group) ∉ s.firing) : exec (.haltGroupFire die group) s = .next s :=
  if_neg (by simpa using h)

/-- The dies of this device that a halt group of a die reaches over its links. -/
def State.linkedDies (s : State) (die group : Nat) : List Nat :=
  ((s.haltLinks.filter fun k => k.die = die && k.group = group).filter fun k => k.device = s.device).map (·.other)

theorem mem_linkedDies {s : State} (hk : ∀ k ∈ s.haltLinks, k.device = s.device) {die group d : Nat} :
    d ∈ s.linkedDies die group ↔ ∃ k ∈ s.haltLinks, k.die = die ∧ k.group = group ∧ k.other = d := by
  simp only [State.linkedDies, List.mem_map, List.mem_filter, Bool.and_eq_true, decide_eq_true_eq]
  exact ⟨fun ⟨k, ⟨⟨hm, hd, hgr⟩, _⟩, ho⟩ => ⟨k, hm, hd, hgr, ho⟩, fun ⟨k, hm, hd, hgr, ho⟩ => ⟨k, ⟨⟨hm, hd, hgr⟩, hk k hm⟩, ho⟩⟩

theorem haltMembers_tileAt {s : State} {n : Nat} {u : Tile} (hu : s.tileAt n = some u) (dies : List Nat) (group : Nat) : (s.haltMembers dies group).tileAt n =
    some (if dies.contains (u.index / 512) && group < 16 && u.mhaltgrp.getLsbD group && !u.parked then { u.stopClock s.clock with halted := true, debugStep := none } else u) := by
  have hstop (v : Tile) : ({ v.stopClock s.clock with halted := true, debugStep := none } : Tile).index = v.index := by
    unfold Tile.stopClock
    split <;> rfl
  exact tileAt_mapTiles hstop hu

theorem haltGroupFire_halts {s : State} {n die group : Nat} {u : Tile} (hu : s.tileAt n = some u) (hk : ∀ k ∈ s.haltLinks, k.device = s.device) (h : (die, group) ∈ s.firing) :
    s.MakesTile (.haltGroupFire die group) n
      (if (u.index / 512 = die ∨ ∃ k ∈ s.haltLinks, k.die = die ∧ k.group = group ∧ k.other = u.index / 512) ∧ group < 16 ∧ u.mhaltgrp.getLsbD group = true ∧ u.parked = false
        then { u.stopClock s.clock with halted := true, debugStep := none } else u) := by
  have haway : ((s.haltLinks.filter fun k => k.die = die && k.group = group).filter fun k => k.device ≠ s.device) = [] :=
    List.filter_eq_nil_iff.mpr fun k hmem => by simp [hk k (List.mem_of_mem_filter hmem)]
  have hrun : exec (.haltGroupFire die group) s = .next { s.haltMembers (die :: s.linkedDies die group) group with firing := s.firing.filter fun g => g ≠ (die, group) } := by
    refine (if_pos (by simpa using h)).trans ?_
    rw [haway]
    rfl
  refine ⟨_, hrun, (haltMembers_tileAt hu (die :: s.linkedDies die group) group).trans (congrArg some ?_), rfl⟩
  refine if_congr ?_ rfl rfl
  simp only [List.contains_eq_mem, List.mem_cons, mem_linkedDies hk, Bool.and_eq_true, decide_eq_true_eq, Bool.not_eq_true', and_assoc]

/-! ### The debug port (R434) -/

theorem startClock_index (u : Tile) (now : Nat) : (u.startClock now).index = u.index := by
  unfold Tile.startClock
  split <;> rfl

section
variable {s : State} {n : Nat} {u : Tile} (hu : s.tileAt n = some u) (hd : s.debugServes u = true)
include hu hd

theorem debugHalt_makes (hp : u.parked = false) (hh : u.halted = false) : s.MakesTile (.debugHalt n) n { u.stopClock s.clock with halted := true, debugStep := none } := by
  have hrun : exec (.debugHalt n) s = .next ((s.putTile { u.stopClock s.clock with halted := true, debugStep := none }).fire (n / 512) (u.mhaltgrp.extractLsb' 16 16)) := by
    show execDebugHalt n s = _
    unfold execDebugHalt
    rw [hu]
    exact if_neg (by simp [hd, hp, hh])
  have hindex : ({ u.stopClock s.clock with halted := true, debugStep := none } : Tile).index = n := by
    rw [← tileAt_index hu, Tile.stopClock]
    split <;> rfl
  exact ⟨_, hrun, tileAt_putTile hu hindex, putTile_mem s _⟩

theorem debugResume_makes (hp : u.parked = false) (hh : u.halted = true) : s.MakesTile (.debugResume n) n ({ u with halted := false, debugStep := none }.startClock s.clock) := by
  have hrun : exec (.debugResume n) s = .next (s.putTile ({ u with halted := false, debugStep := none }.startClock s.clock)) := by
    show execDebugResume n s = _
    unfold execDebugResume
    rw [hu]
    exact if_neg (by simp [hd, hp, hh])
  exact ⟨_, hrun, tileAt_putTile hu ((startClock_index _ _).trans (by rw [← tileAt_index hu])), putTile_mem s _⟩

theorem debugStep_eq (hp : u.parked = false) (hh : u.halted = true) (whole : Bool) :
    s.debugStep n whole = s.putTile { { u with halted := false }.startClock s.clock with debugStep := some whole } := by
  unfold State.debugStep
  rw [hu]
  exact if_neg (by simp [hd, hp, hh])

theorem debugSteps_make (hp : u.parked = false) (hh : u.halted = true) :
    s.MakesTile (.debugStepInstruction n) n { { u with halted := false }.startClock s.clock with debugStep := some true } ∧
      s.MakesTile (.debugStepCycle n) n { { u with halted := false }.startClock s.clock with debugStep := some false } := by
  have hindex (whole : Bool) : ({ { u with halted := false }.startClock s.clock with debugStep := some whole } : Tile).index = n :=
    (startClock_index _ _).trans (by rw [← tileAt_index hu])
  exact ⟨⟨_, congrArg Host.Outcome.next (debugStep_eq hu hd hp hh true), tileAt_putTile hu (hindex true), putTile_mem s _⟩,
    ⟨_, congrArg Host.Outcome.next (debugStep_eq hu hd hp hh false), tileAt_putTile hu (hindex false), putTile_mem s _⟩⟩

/-- An item that stands inside its tile is read into the Station. -/
theorem debugRead_reads {item : ScanItem} (ho : scanOutside item = none) {w : Word} (hw : s.scanRead u item = some w) :
    exec (.debugRead n item) s = .next { s with station := w :: s.station } := by
  show execDebugRead n item s = _
  unfold execDebugRead
  rw [hu, ho]
  dsimp only
  rw [if_neg (by simp [hd]), hw]

theorem debugWrite_writes {item : ScanItem} (ho : scanOutside item = none) (v : Word) : exec (.debugWrite n item v) s = .next (s.scanWrite u v item) := by
  show execDebugWrite n item v s = _
  unfold execDebugWrite
  rw [hu, ho]
  exact if_pos hd

theorem debugWrite_puts {item : ScanItem} (ho : scanOutside item = none) (v : Word) {u' : Tile} (hw : s.scanWrite u v item = s.putTile u') (hi : u'.index = u.index) :
    s.MakesTile (.debugWrite n item v) n u' := by
  refine ⟨_, (debugWrite_writes hu hd ho v).trans (congrArg _ hw), tileAt_putTile hu (hi.trans (tileAt_index hu)), putTile_mem s _⟩

end

theorem scanOutside_tmem {off : Nat} (h : off + 8 ≤ 0xC0000) : scanOutside (.tmem off) = none := if_neg (Nat.not_lt.mpr h)

/-- A tile that the debug port does not serve is neither read nor written. -/
theorem debug_closed {s : State} {n : Nat} {u : Tile} (hu : s.tileAt n = some u) (hd : s.debugServes u = false) {item : ScanItem} (ho : scanOutside item = none) (v : Word) :
    exec (.debugRead n item) s = .next s ∧ exec (.debugWrite n item v) s = .next s := by
  constructor
  · show execDebugRead n item s = _
    unfold execDebugRead
    rw [hu, ho]
    exact if_pos (by simp [hd])
  · show execDebugWrite n item v s = _
    unfold execDebugWrite
    rw [hu, ho]
    exact if_neg (by simp [hd])

end Sys2Proof.Machine
end

section
/-! The events of one tile: the settlement. -/

namespace Sys2Proof.Machine

open Sys2Proof

/-- Lichen's answers to the services it has (R262). -/
theorem services_serve {s : State} (h : s.Quiet) :
    (s.service = some 0 → ∃ t : State, exec .svcInterfaceVersion s = .next t ∧ s.Served t 0 (some 0x00010000)) ∧
    (s.service = some 1 → ∃ t : State, exec .svcCycleCount s = .next t ∧ s.Served t 0 (some (s.mcycle s.tile))) ∧
    (s.service = some 2 → ∃ t w, exec .svcFreshRandom s = .next t ∧ s.Served t 0 (some w)) ∧
    (s.service = some 3 → ∃ t : State, exec .svcUserRecord s = .next t ∧ s.Served t 0 none ∧
      ∃ item, t.trust.pending = s.trust.pending ++ [item] ∧ item.domain = s.tile.mdomain ∧ item.payload.take 4 = [10, 11, 12, 13].map fun r => (s.tile.rx r).toNat) := by
  refine ⟨fun hn => ?_, fun hn => ?_, svcFreshRandom_serves h, fun hn => ?_⟩
  · obtain ⟨t, hrun, hserved, -⟩ := serve_answers h hn 0 (some 0x00010000)
    exact ⟨t, hrun, hserved⟩
  · obtain ⟨t, hrun, hserved, -⟩ := serve_answers h hn 0 (some (s.mcycle s.tile))
    exact ⟨t, hrun, hserved⟩
  · obtain ⟨t, hrun, hserved, hpending⟩ := svcUserRecord_outside h hn
    exact ⟨t, hrun, hserved, s.userRecord, hpending, rfl, rfl⟩

/-- What the debug port reads and writes of a tile that it serves (R434). -/
theorem debug_scans {s : State} {n : Nat} {u : Tile} (hu : s.tileAt n = some u) (hd : s.debugServes u = true) (v : Word) :
    (∀ l r, exec (.debugRead n (.x l r)) s = .next { s with station := u.rxBank l r :: s.station }) ∧ (exec (.debugRead n .pc) s = .next { s with station := u.pc :: s.station }) ∧
    (∀ off, off + 8 ≤ 0xC0000 → exec (.debugRead n (.tmem off)) s =
      .next { s with station := BitVec.ofNat 64 (leNat (s.mem.readN (tmemKey u.index off) 8)) :: s.station }) ∧
    (∀ l r, s.MakesTile (.debugWrite n (.x l r) v) n (u.setXBank l r v)) ∧ (s.MakesTile (.debugWrite n .pc v) n { u with pc := v &&& ~~~ 3 }) ∧
    (∀ off, off + 8 ≤ 0xC0000 → ∃ t : State, exec (.debugWrite n (.tmem off) v) s = .next t ∧ ∀ i < 8, t.mem.read (tmemKey u.index off + i) = v.extractLsb' (8 * i) 8) := by
  have hbank (l : Level) (r : Reg) : (u.setXBank l r v).index = u.index := by
    unfold Tile.setXBank
    split <;> rfl
  exact ⟨fun l r => debugRead_reads hu hd rfl rfl, debugRead_reads hu hd rfl rfl, fun off ho => debugRead_reads hu hd (scanOutside_tmem ho) rfl,
    fun l r => debugWrite_puts hu hd rfl v rfl (hbank l r), debugWrite_puts hu hd rfl v rfl rfl,
    fun off ho => ⟨_, debugWrite_writes hu hd (scanOutside_tmem ho) v, fun i hi => mem_read_writeN_word s.mem _ v hi⟩⟩

/-- Settles O51: each event is followed through the tile, the launch or the network that it changes. -/
theorem tileEventResults : Obligations.TileEventResults := by
  unfold Obligations.TileEventResults
  intro s v n u hu
  refine ⟨fun h => ?quiet, svcUserRecord_inRegion, mdomainWrite_writes s v, minjectWrite_malformed s, fun unc off r => minjectWrite_cap s, ?faultlog, ?activation, ?limit,
    ?faultwait, fun k cause r hb hj hl hs hu hm hg hf hr => rollback_reopens hb hr hj hl hs hu hm hg hf, faultLogResend_makes hu,
    fun i hi hc hcls ha => faultLogAck_acknowledges hu hi hc hcls ha, fun code hc _ hhold hp hg hf => fatalFault_stops hu hc hhold hp hg hf,
    fatalRecordCollect_collects hu, fun die group hk => ⟨haltGroupFire_halts hu hk, haltGroupFire_idle⟩, fun hd hp => ?debug, fun hd => debug_scans hu hd v,
    fun hd item ho => debug_closed hu hd ho v⟩
  case quiet =>
    obtain ⟨h0, h1, h2, h3⟩ := services_serve h
    exact ⟨h0, h1, h2, h3, fun hn => ⟨svcErrorInjection_refuses h hn, svcErrorInjection_rejects h hn, svcErrorInjection_accepts h hn, fun j ha hj => svcErrorInjection_direct h hn ha hj⟩,
      fun w => loopCsrWrite_writes h w v, fun csr => csrRegisterWrite_writes h csr v⟩
  case faultlog =>
    exact ⟨fun hr => ⟨csrStep_reserved hr _ s, csrStep_reserved hr _ s⟩, mfaultlogSelect_reads s, fun hr => mfaultlogRelease_releases s hr rfl⟩
  case activation =>
    exact fun l q hb hd hq hg ho => ⟨handlerActivation_activates hb hd hq hg ho, handlerActivation_traps hb hd hq hg ho⟩
  case limit =>
    intro w value info hw hr hl hready hc ht
    refine ⟨waitLimitExpired_traps hw hr hl hready hc ht, waitLimitExpired_waits hw, fun r hk => ?_⟩
    have hreport : s.waitReport w.kind = some (word (6 + r.val * 256), 0) := by rw [hk]; rfl
    rw [hr] at hreport
    obtain ⟨rfl, rfl⟩ := Prod.mk.inj (Option.some.inj hreport)
    rw [Nat.mul_comm]
    exact ⟨rfl, rfl⟩
  case faultwait =>
    exact fun off since ho hover => ⟨faultWaitExpired_traps ho hover, fun ht => (faultWaitExpired_run ho hover).trans (by rw [ht]; rfl)⟩
  case debug =>
    exact ⟨debugHalt_makes hu hd hp, debugResume_makes hu hd hp, fun hh => (debugSteps_make hu hd hp hh).1, fun hh => (debugSteps_make hu hd hp hh).2⟩

end Sys2Proof.Machine
end
